-- ==== Sys2Proof/Word.lean ====
section
/-! DEFINITION. Word: the machine's word types and their plainest arithmetic (R3, R4, R37). -/

namespace Sys2Proof

/-- A 32-bit word: a register, a literal, an instruction (R37). -/
abbrev Word := BitVec 32

/-- A byte of memory (R3). -/
abbrev Byte := BitVec 8

/-- A mask register: one bit per lane of a team (R39). -/
abbrev Mask := BitVec 1024

end Sys2Proof
end

