-- ==== Sys2Proof/Config.lean ====
section
/-! DEFINITION. Config: the free values of the machine, each an opaque constant with no body (assumption log 2, 5 to 7), and the fixed sizes of R1. -/

namespace Sys2Proof.Config

/-- Which of the due events moves next, and every other choice the spec leaves to the device: cache hit or refill, the tracer's next tile. Applied to State.tick (log 2). -/
opaque pick : Nat → Nat

/-- The cycles a core's clock gains at a pick (R8, R40): free (log 13). -/
opaque cycles : Nat → Nat

/-- A candidate for a new fault id (R326): free, made unique and not 0 by the machine (log 5). -/
opaque faultId : Nat → Nat

/-- The offset, in units in the last place or in steps of 2^-24, of an elementary function's result inside its bound (R120), for function code f and operand bits a (log 6). -/
opaque elementary : Nat → BitVec 32 → Nat

/-- Bytes of ciphertext, tags, nonces, digests and signatures (R331, R363, R374, R384): free bytes, byte i of event n (log 7). -/
opaque cipher : Nat → Nat → BitVec 8

/-- What a byte b, written under one key, reads as under another (R384): unrelated bytes (log 7). -/
opaque foreign : Nat → Nat → BitVec 8 → BitVec 8

/-- Whether an ML-DSA-87 signature, a KMAC256 or GCM tag, or a KEM decapsulation over the given bytes verifies (R387, R389, R399): free (log 7). -/
opaque verifies : Nat → List (BitVec 8) → Bool

/-- Byte i of the KMAC256 of a message under the key of a number (R388): a function that the spec names and does not define (log 7). -/
opaque mac : Nat → List (BitVec 8) → Nat → BitVec 8

/-- The version that a firmware image carries (R399): its place in the image is not stated (log 7). -/
opaque version : List (BitVec 8) → Nat

/-- The plaintext a key blob decrypts to (R386): free bytes (log 7). -/
opaque decrypt : List (BitVec 8) → Nat → BitVec 8

/-- Byte n of the SHA3-512 digest of a message (R374, R385): a function that the spec names and does not define (log 7). -/
opaque digest : List (BitVec 8) → Nat → BitVec 8

/-- Byte n of an ML-DSA-87 signature of a message under the device's attestation key (R374, log 7). -/
opaque sign : List (BitVec 8) → Nat → BitVec 8

/-- The device's public attestation key (R374, log 7). -/
opaque deviceKey : List (BitVec 8)

/-- The extra length of a sealed blob over its header (R372): free below its bound (log 7). -/
opaque sealLen : Nat → Nat

/-- A byte whose value the spec does not state: what stands in a spill save area (R162) or a reading of the platform's sensors (R398) (log 7). -/
opaque freeByte : Nat → Nat → BitVec 8

/-- How many quarters beyond its lowest a partition of another package spans (R318): this device is not told (log 93). -/
opaque memberSpan : Nat → Nat → Nat

/-- Compute dies of a package (R1). -/
def dies : Nat := 8
/-- Cores of a die, in a 6 x 8 mesh (R1). -/
def coresPerDie : Nat := 48
/-- Team slots of a core (R62). -/
def teamSlots : Nat := 32
/-- Vector register units of a core, of 1 KiB each (R60). -/
def regUnits : Nat := 1024
/-- Translations of a core's TLB (R348). -/
def tlbEntries : Nat := 1024
/-- Rows of a core's accumulator (R1). -/
def accRows : Nat := 1024
/-- The largest count of a done flag (R45). -/
def flagMax : Nat := 1023
/-- Entries of a private FIFO (R237). -/
def fifoDepth : Nat := 64
/-- Records of an engine command queue (R238). -/
def engineDepth : Nat := 64
/-- Requests of a core's pleat inboxes (R299). -/
def inboxSlots : Nat := 4096
/-- Launches a die holds that are waiting or not fully placed (R157). -/
def launchSlots : Nat := 4096
/-- Core cycles after which a team that is not ready may be spilled (R162). -/
def spillCycles : Nat := 50000
/-- Core cycles without a team after which a die is idle (R392). -/
def idleCycles : Nat := 100000
/-- Core cycles without a loop after which a matrix unit sleeps (R393). -/
def sleepCycles : Nat := 10000

end Sys2Proof.Config
end

