-- ==== Sys2Proof/Syntax.lean ====
section
/-! DEFINITION. Syntax: operand selectors (R39, R40), the messages other agents send, and Instr, the one inductive of the machine's indivisible steps: one constructor per row of the opcode table.
The encoded instructions carry only the fields their entry uses (R13: an unused field is ignored); rows without an encoding carry what names the unit that moves, or what the outside world supplies. -/

namespace Sys2Proof

/-- The specials of R40, selectors 0xF0 to 0xF9. -/
inductive Special where
  | zero | ones | lid | gid | tid | cid | nlanes | nteams | vdieid | coreclk
  deriving DecidableEq, Repr

/-- An operand selector (R39). `reserved` holds a selector of 0xE8-0xEF or 0xFA-0xFF, which raises ILLEGAL_OPERAND where it is used. -/
inductive Sel where
  | v (n : BitVec 7)
  | s (n : BitVec 6)
  | k (n : BitVec 4)
  | q (n : BitVec 4)
  | m (n : BitVec 3)
  | sp (x : Special)
  | reserved (b : BitVec 8)
  deriving DecidableEq, Repr

/-- The work a unit asks another device of the job for (R265, R303, R313, R315, R316). Each lane gives its number and its virtual address. `add` is an addition that returns nothing; `atom` is any other read-modify-write at one address, by the numbers of its function (AtomFn.code) and type (R48). -/
inductive FabBody where
  | load (size : Nat) (lanes : List (Nat × Nat))
  | store (lanes : List (Nat × Nat × List (BitVec 8)))
  | add (float : Bool) (lanes : List (Nat × Nat × List (BitVec 8)))
  | atom (fn ty : Nat) (lanes : List (Nat × Nat × List (BitVec 8)))
  | pleat (handle : BitVec 32) (args : List (Nat × List (BitVec 32)))
  deriving DecidableEq, Repr

/-- A unit arriving from another device: the issuing package, partition, context and job number, the member addressed here, and the unit's number at the issuer. -/
structure FabUnit where
  pkg : Nat
  spart : Nat
  sctx : Nat
  dev : Nat
  part : Nat
  ctx : Nat
  uid : Nat
  body : FabBody
  deriving DecidableEq, Repr

/-- A job-wide request of PATINV, PATCF (two phases, R314), FSDRAIN or FSCONF (R323). -/
inductive DrainBody where
  | patInv (h : BitVec 32)
  | patCheck (a b : BitVec 32)
  | patCopy (a b : BitVec 32)
  | patEnd (a : BitVec 32)
  | fsDrain (va size : Nat)
  | fsConf (va size : Nat)
  deriving DecidableEq, Repr

/-- A job-wide request arriving from another device: the issuing package, partition, context and job number, the member addressed here, and the two numbers that its answer names. -/
structure DrainMsg where
  pkg : Nat
  spart : Nat
  sctx : Nat
  dev : Nat
  part : Nat
  ctx : Nat
  uid : Nat
  k : Nat
  body : DrainBody
  deriving DecidableEq, Repr

/-- A register of a team that a debugger names (R334): a scalar register, a lane's vector register, a word of a mask register, the pc, MODE, or the status word. -/
inductive DbgReg where
  | s (n : BitVec 6)
  | v (lane n : Nat)
  | m (n word : Nat)
  | pc | mode | status
  deriving DecidableEq, Repr

/-- The SPDM messages the device takes over DOE (R383): IDE key programming and the TDISP moves of a partition function. -/
inductive SpdmReq where
  | ideKey (key : BitVec 256)
  | lock | start | stop | error
  deriving DecidableEq, Repr

/-- Where a soft error arises (R396, R397): a DRAM granule; a register of a team, which stands in its core's register file, or in the lining while the team is flipped away (R363); a cluster's scratch; a core's accumulator row; a line of a core's cache of a path, numbered as the bits of PFENCE number it; a granule in its home L2; a partition's part of the key store. -/
inductive ErrSite where
  | dram (granule : Nat)
  | vreg (team lane reg : Nat)
  | sreg (team n : Nat)
  | mreg (team n : Nat)
  | qreg (team n : Nat)
  | scratch (cluster key : Nat)
  | acc (core row : Nat)
  | l1 (core path key : Nat)
  | l2 (granule : Nat)
  | keyStore (part : Nat)
  deriving DecidableEq, Repr

/-- The indivisible steps of the part: the instructions of R51, the reserved opcodes (R52) and the other steps of the table. -/
inductive Instr where
  /-- NOP, R85. -/
  | nop
  /-- BR, R87. -/
  | br (b : Sel)
  /-- BRZ, R87. -/
  | brz (a : Sel) (b : Sel)
  /-- BRNZ, R87. -/
  | brnz (a : Sel) (b : Sel)
  /-- BRMZ, R87. -/
  | brmz (a : Sel) (b : Sel)
  /-- BRMNZ, R87. -/
  | brmnz (a : Sel) (b : Sel)
  /-- JMP, R88. -/
  | jmp (b : Sel)
  /-- CALL, R88. -/
  | call (d : Sel) (b : Sel)
  /-- YIELD, R86. -/
  | yield
  /-- EXIT, R89. -/
  | exit
  /-- SETMODE, R90. -/
  | setmode (b : Sel)
  /-- GETMODE, R90. -/
  | getmode (d : Sel)
  /-- MMOV, R91. -/
  | mmov (d : Sel) (a : Sel)
  /-- MAND, R91. -/
  | mand (d : Sel) (a : Sel) (b : Sel)
  /-- MOR, R91. -/
  | mor (d : Sel) (a : Sel) (b : Sel)
  /-- MXOR, R91. -/
  | mxor (d : Sel) (a : Sel) (b : Sel)
  /-- MANDN, R91. -/
  | mandn (d : Sel) (a : Sel) (b : Sel)
  /-- MNOT, R91. -/
  | mnot (d : Sel) (a : Sel)
  /-- MCNT, R92. -/
  | mcnt (d : Sel) (a : Sel)
  /-- MFIRST, R92. -/
  | mfirst (d : Sel) (a : Sel)
  /-- MSUMW, R92. -/
  | msumw (d : Sel) (a : Sel)
  /-- MGETW, R92. -/
  | mgetw (d : Sel) (a : Sel) (b : Sel)
  /-- MSETW, R93. -/
  | msetw (d : Sel) (a : Sel) (b : Sel)
  /-- MFROMV, R94. -/
  | mfromv (d : Sel) (a : Sel)
  /-- VCMPEQ, R95. -/
  | vcmpeq (d : Sel) (a : Sel) (b : Sel)
  /-- VCMPNE, R95. -/
  | vcmpne (d : Sel) (a : Sel) (b : Sel)
  /-- VCMPLT, R95. -/
  | vcmplt (d : Sel) (a : Sel) (b : Sel)
  /-- VCMPLE, R95. -/
  | vcmple (d : Sel) (a : Sel) (b : Sel)
  /-- VCLASS, R97. -/
  | vclass (d : Sel) (a : Sel) (b : BitVec 8)
  /-- WAITD, R98. -/
  | waitd (b : Sel)
  /-- ILLEGAL_OPCODE, R52. -/
  | illegalOpcode (w : BitVec 32)
  /-- SMOV, R99. -/
  | smov (d : Sel) (a : Sel)
  /-- SADD, R100. -/
  | sadd (d : Sel) (a : Sel) (b : Sel)
  /-- SSUB, R100. -/
  | ssub (d : Sel) (a : Sel) (b : Sel)
  /-- SMUL, R100. -/
  | smul (d : Sel) (a : Sel) (b : Sel)
  /-- SMULH, R100. -/
  | smulh (d : Sel) (a : Sel) (b : Sel)
  /-- SMULHN, R100. -/
  | smulhn (d : Sel) (a : Sel) (b : Sel)
  /-- SAND, R100. -/
  | sand (d : Sel) (a : Sel) (b : Sel)
  /-- SOR, R100. -/
  | sor (d : Sel) (a : Sel) (b : Sel)
  /-- SXOR, R100. -/
  | sxor (d : Sel) (a : Sel) (b : Sel)
  /-- SSHL, R101. -/
  | sshl (d : Sel) (a : Sel) (b : Sel)
  /-- SSHR, R101. -/
  | sshr (d : Sel) (a : Sel) (b : Sel)
  /-- SSRA, R101. -/
  | ssra (d : Sel) (a : Sel) (b : Sel)
  /-- SMIN, R100. -/
  | smin (d : Sel) (a : Sel) (b : Sel)
  /-- SMAX, R100. -/
  | smax (d : Sel) (a : Sel) (b : Sel)
  /-- SMINN, R100. -/
  | sminn (d : Sel) (a : Sel) (b : Sel)
  /-- SMAXN, R100. -/
  | smaxn (d : Sel) (a : Sel) (b : Sel)
  /-- SCMPEQ, R100. -/
  | scmpeq (d : Sel) (a : Sel) (b : Sel)
  /-- SCMPLT, R100. -/
  | scmplt (d : Sel) (a : Sel) (b : Sel)
  /-- SCMPLTN, R100. -/
  | scmpltn (d : Sel) (a : Sel) (b : Sel)
  /-- SCLZ, R99. -/
  | sclz (d : Sel) (a : Sel)
  /-- SPOPC, R99. -/
  | spopc (d : Sel) (a : Sel)
  /-- SLD, R105. -/
  | sld (d : Sel) (a : Sel) (b : Sel)
  /-- SLD2, R105. -/
  | sld2 (d : Sel) (a : Sel) (b : Sel)
  /-- SST, R105. -/
  | sst (d : Sel) (a : Sel) (b : Sel)
  /-- SST2, R105. -/
  | sst2 (d : Sel) (a : Sel) (b : Sel)
  /-- SFADD, R103. -/
  | sfadd (d : Sel) (a : Sel) (b : Sel)
  /-- SFMUL, R103. -/
  | sfmul (d : Sel) (a : Sel) (b : Sel)
  /-- SFMA, R103. -/
  | sfma (d : Sel) (a : Sel) (b : Sel)
  /-- SCVT, R104. -/
  | scvt (d : Sel) (a : Sel) (b : BitVec 8)
  /-- SDIVN, R102. -/
  | sdivn (d : Sel) (a : Sel) (b : Sel)
  /-- SDIV, R102. -/
  | sdiv (d : Sel) (a : Sel) (b : Sel)
  /-- SREM, R102. -/
  | srem (d : Sel) (a : Sel) (b : Sel)
  /-- VMOV, R113. -/
  | vmov (d : Sel) (a : Sel)
  /-- VADD, R113. -/
  | vadd (d : Sel) (a : Sel) (b : Sel)
  /-- VSUB, R113. -/
  | vsub (d : Sel) (a : Sel) (b : Sel)
  /-- VMUL, R113. -/
  | vmul (d : Sel) (a : Sel) (b : Sel)
  /-- VMULH, R113. -/
  | vmulh (d : Sel) (a : Sel) (b : Sel)
  /-- VFMA, R113. -/
  | vfma (d : Sel) (a : Sel) (b : Sel)
  /-- VFNMA, R113. -/
  | vfnma (d : Sel) (a : Sel) (b : Sel)
  /-- VMAD, R113. -/
  | vmad (d : Sel) (a : Sel) (b : Sel)
  /-- VMIN, R113. -/
  | vmin (d : Sel) (a : Sel) (b : Sel)
  /-- VMAX, R113. -/
  | vmax (d : Sel) (a : Sel) (b : Sel)
  /-- VABS, R113. -/
  | vabs (d : Sel) (a : Sel)
  /-- VNEG, R113. -/
  | vneg (d : Sel) (a : Sel)
  /-- VAND, R115. -/
  | vand (d : Sel) (a : Sel) (b : Sel)
  /-- VOR, R115. -/
  | vor (d : Sel) (a : Sel) (b : Sel)
  /-- VXOR, R115. -/
  | vxor (d : Sel) (a : Sel) (b : Sel)
  /-- VNOT, R115. -/
  | vnot (d : Sel) (a : Sel)
  /-- VSHL, R116. -/
  | vshl (d : Sel) (a : Sel) (b : Sel)
  /-- VSHR, R116. -/
  | vshr (d : Sel) (a : Sel) (b : Sel)
  /-- VSRA, R116. -/
  | vsra (d : Sel) (a : Sel) (b : Sel)
  /-- VROT, R116. -/
  | vrot (d : Sel) (a : Sel) (b : Sel)
  /-- VPOPC, R116. -/
  | vpopc (d : Sel) (a : Sel)
  /-- VCLZ, R116. -/
  | vclz (d : Sel) (a : Sel)
  /-- VBREV, R116. -/
  | vbrev (d : Sel) (a : Sel)
  /-- VSEL, R117. -/
  | vsel (d : Sel) (a : Sel) (b : Sel)
  /-- VBCAST, R118. -/
  | vbcast (d : Sel) (a : Sel) (b : Sel)
  /-- VCVT, R119. -/
  | vcvt (d : Sel) (a : Sel) (b : BitVec 8)
  /-- VRCP, R122. -/
  | vrcp (d : Sel) (a : Sel)
  /-- VRSQ, R122. -/
  | vrsq (d : Sel) (a : Sel)
  /-- VSQRT, R120. -/
  | vsqrt (d : Sel) (a : Sel)
  /-- VEXP2, R120. -/
  | vexp2 (d : Sel) (a : Sel)
  /-- VLOG2, R120. -/
  | vlog2 (d : Sel) (a : Sel)
  /-- VSIN, R120. -/
  | vsin (d : Sel) (a : Sel)
  /-- VCOS, R120. -/
  | vcos (d : Sel) (a : Sel)
  /-- VTANH, R120. -/
  | vtanh (d : Sel) (a : Sel)
  /-- VRND, R123. -/
  | vrnd (d : Sel) (a : Sel)
  /-- VFRC, R123. -/
  | vfrc (d : Sel) (a : Sel)
  /-- VLDEXP, R123. -/
  | vldexp (d : Sel) (a : Sel) (b : Sel)
  /-- VCPSGN, R123. -/
  | vcpsgn (d : Sel) (a : Sel) (b : Sel)
  /-- VDOT4, R124. -/
  | vdot4 (d : Sel) (a : Sel) (b : Sel)
  /-- VDOT2, R124. -/
  | vdot2 (d : Sel) (a : Sel) (b : Sel)
  /-- VSHUF, R125. -/
  | vshuf (d : Sel) (a : Sel) (b : BitVec 8)
  /-- VPERM, R126. -/
  | vperm (d : Sel) (a : Sel) (b : Sel)
  /-- VREDADD, R127. -/
  | vredadd (d : Sel) (a : Sel)
  /-- VREDMIN, R127. -/
  | vredmin (d : Sel) (a : Sel)
  /-- VREDMAX, R127. -/
  | vredmax (d : Sel) (a : Sel)
  /-- VSCAN, R128. -/
  | vscan (d : Sel) (a : Sel) (b : BitVec 8)
  /-- VSCANT, R128. -/
  | vscant (d : Sel) (a : Sel) (b : BitVec 8)
  /-- VEXTR, R129. -/
  | vextr (d : Sel) (a : Sel) (b : Sel)
  /-- VINS, R129. -/
  | vins (d : Sel) (a : Sel) (b : Sel)
  /-- VPACK, R130. -/
  | vpack (d : Sel) (a : Sel) (b : Sel)
  /-- VUNPK, R130. -/
  | vunpk (d : Sel) (a : Sel) (b : Sel)
  /-- VABSD, R113. -/
  | vabsd (d : Sel) (a : Sel) (b : Sel)
  /-- VMOVP, R131. -/
  | vmovp (d : Sel) (a : Sel)
  /-- VMSK, R131. -/
  | vmsk (d : Sel) (a : Sel)
  /-- VLD1, R134. -/
  | vld1 (d : Sel) (a : Sel) (b : Sel)
  /-- VLD2, R134. -/
  | vld2 (d : Sel) (a : Sel) (b : Sel)
  /-- VLD4, R134. -/
  | vld4 (d : Sel) (a : Sel) (b : Sel)
  /-- VLD8, R134. -/
  | vld8 (d : Sel) (a : Sel) (b : Sel)
  /-- VST1, R134. -/
  | vst1 (d : Sel) (a : Sel) (b : Sel)
  /-- VST2, R134. -/
  | vst2 (d : Sel) (a : Sel) (b : Sel)
  /-- VST4, R134. -/
  | vst4 (d : Sel) (a : Sel) (b : Sel)
  /-- VST8, R134. -/
  | vst8 (d : Sel) (a : Sel) (b : Sel)
  /-- PLD1, R248. -/
  | pld1 (d : Sel) (a : Sel) (b : Sel)
  /-- PLD2, R248. -/
  | pld2 (d : Sel) (a : Sel) (b : Sel)
  /-- PLD4, R248. -/
  | pld4 (d : Sel) (a : Sel) (b : Sel)
  /-- PST1, R248. -/
  | pst1 (d : Sel) (a : Sel) (b : Sel)
  /-- PST2, R248. -/
  | pst2 (d : Sel) (a : Sel) (b : Sel)
  /-- PST4, R248. -/
  | pst4 (d : Sel) (a : Sel) (b : Sel)
  /-- CLD, R253. -/
  | cld (d : Sel) (a : Sel) (b : Sel)
  /-- SMPL, R255. -/
  | smpl (d : Sel) (a : Sel) (b : Sel)
  /-- TLLD, R256. -/
  | tlld (d : Sel) (a : Sel) (b : Sel)
  /-- PFENCE, R257. -/
  | pfence (d : BitVec 8)
  /-- CPY, R218. -/
  | cpy (d : Sel) (a : Sel) (b : Sel)
  /-- CPYT, R251. -/
  | cpyt (d : Sel) (a : Sel) (b : Sel)
  /-- CPYO, R218. -/
  | cpyo (d : Sel) (a : Sel) (b : Sel)
  /-- PRES, R249. -/
  | pres (a : Sel) (b : Sel)
  /-- PINV, R249. -/
  | pinv (a : Sel) (b : Sel)
  /-- PREF, R258. -/
  | pref (a : Sel) (b : Sel)
  /-- CFLUSH, R258. -/
  | cflush (a : Sel) (b : Sel)
  /-- CINV, R258. -/
  | cinv (a : Sel) (b : Sel)
  /-- QBIND, R239. -/
  | qbind (d : Sel) (a : Sel) (b : BitVec 8)
  /-- QTRY, R240. -/
  | qtry (d : Sel) (a : Sel)
  /-- QFENCE, R247. -/
  | qfence (a : Sel)
  /-- TKINIT, R220. -/
  | tkinit (a : Sel) (b : Sel)
  /-- TKARR, R220. -/
  | tkarr (a : Sel)
  /-- TKWAIT, R220. -/
  | tkwait (a : Sel) (b : Sel)
  /-- TKAW, R220. -/
  | tkaw (a : Sel)
  /-- TKEXP, R220. -/
  | tkexp (a : Sel) (b : Sel)
  /-- FENCE, R283. -/
  | fence
  /-- RDAND, R272. -/
  | rdand (a : Sel) (b : Sel)
  /-- RDOR, R272. -/
  | rdor (a : Sel) (b : Sel)
  /-- RDXOR, R272. -/
  | rdxor (a : Sel) (b : Sel)
  /-- DFADD, R273. -/
  | dfadd (d : Sel) (a : Sel) (b : Sel)
  /-- DMIN, R273. -/
  | dmin (d : Sel) (a : Sel) (b : Sel)
  /-- DMAX, R273. -/
  | dmax (d : Sel) (a : Sel) (b : Sel)
  /-- DXCHG, R273. -/
  | dxchg (d : Sel) (a : Sel) (b : Sel)
  /-- CHUNK, R158. -/
  | chunk (d : Sel) (a : Sel)
  /-- AADD, R270. -/
  | aadd (d : Sel) (a : Sel) (b : Sel)
  /-- AFADD, R270. -/
  | afadd (d : Sel) (a : Sel) (b : Sel)
  /-- AMIN, R270. -/
  | amin (d : Sel) (a : Sel) (b : Sel)
  /-- AMAX, R270. -/
  | amax (d : Sel) (a : Sel) (b : Sel)
  /-- AAND, R270. -/
  | aand (d : Sel) (a : Sel) (b : Sel)
  /-- AOR, R270. -/
  | aor (d : Sel) (a : Sel) (b : Sel)
  /-- AXOR, R270. -/
  | axor (d : Sel) (a : Sel) (b : Sel)
  /-- AXCHG, R270. -/
  | axchg (d : Sel) (a : Sel) (b : Sel)
  /-- ACAS, R271. -/
  | acas (d : Sel) (a : Sel) (b : Sel)
  /-- ACAS2, R271. -/
  | acas2 (d : Sel) (a : Sel) (b : Sel)
  /-- ACAS4, R259. -/
  | acas4 (d : Sel) (a : Sel) (b : Sel)
  /-- RDADD, R272. -/
  | rdadd (a : Sel) (b : Sel)
  /-- RDFADD, R272. -/
  | rdfadd (a : Sel) (b : Sel)
  /-- RDMIN, R272. -/
  | rdmin (a : Sel) (b : Sel)
  /-- RDMAX, R272. -/
  | rdmax (a : Sel) (b : Sel)
  /-- DADD, R273. -/
  | dadd (d : Sel) (a : Sel) (b : Sel)
  /-- ENQ, R143. -/
  | enq (d : Sel) (a : Sel)
  /-- DEQ, R145. -/
  | deq (d : Sel) (a : Sel)
  /-- DEQTRY, R146. -/
  | deqtry (d : Sel) (a : Sel) (b : Sel)
  /-- KNOTINIT, R151. -/
  | knotinit (a : Sel) (b : Sel)
  /-- KNOTADD, R151. -/
  | knotadd (a : Sel) (b : Sel)
  /-- KNOTDEC, R151. -/
  | knotdec (a : Sel) (b : Sel)
  /-- KNOTBIND, R154. -/
  | knotbind (d : Sel) (a : Sel) (b : Sel)
  /-- LAUNCH, R156. -/
  | launch (a : Sel) (b : Sel)
  /-- RFSRC, R14. -/
  | rfsrc (d : Sel) (a : Sel)
  /-- TRACE, R211. -/
  | trace (d : Sel) (a : Sel)
  /-- TRSTOP, R212. -/
  | trstop (a : Sel)
  /-- QLEN, R148. -/
  | qlen (d : Sel) (a : Sel) (b : Sel)
  /-- MMA, R202. -/
  | mma (d : Sel) (a : Sel) (b : Sel)
  /-- MLOOP, R203. -/
  | mloop (d : Sel) (a : Sel)
  /-- MGRP, R204. -/
  | mgrp (d : Sel) (a : Sel) (b : Sel)
  /-- SWSEL, R199. -/
  | swsel (a : Sel)
  /-- ACWIN, R200. -/
  | acwin (d : Sel) (a : Sel)
  /-- ACZERO, R201. -/
  | aczero (a : Sel) (b : Sel)
  /-- ACRD, R205. -/
  | acrd (d : Sel) (a : Sel) (b : Sel)
  /-- ACRDX, R206. -/
  | acrdx (d : Sel) (a : Sel) (b : Sel)
  /-- ACWR, R207. -/
  | acwr (a : Sel) (b : Sel)
  /-- ACADD, R207. -/
  | acadd (a : Sel) (b : Sel)
  /-- QBLK, R208. -/
  | qblk (d : Sel) (a : Sel) (b : Sel)
  /-- DQBLK, R209. -/
  | dqblk (d : Sel) (a : Sel) (b : Sel)
  /-- PATLD, R312. -/
  | patld (d : Sel) (a : Sel) (b : Sel)
  /-- PATST, R312. -/
  | patst (d : Sel) (a : Sel) (b : Sel)
  /-- PATADDR, R312. -/
  | pataddr (d : Sel) (a : Sel) (b : Sel)
  /-- PATINV, R295. -/
  | patinv (a : Sel)
  /-- PATCF, R314. -/
  | patcf (a : Sel) (b : Sel)
  /-- PLEAT, R303. -/
  | pleat (d : Sel) (a : Sel) (b : Sel)
  /-- PLARG, R304. -/
  | plarg (d : Sel)
  /-- PLREPLY, R304. -/
  | plreply (a : Sel)
  /-- PLDONE, R305. -/
  | pldone
  /-- PEERLD, R315. -/
  | peerld (d : Sel) (a : Sel) (b : Sel)
  /-- PEERST, R315. -/
  | peerst (d : Sel) (a : Sel) (b : Sel)
  /-- PEERADD, R316. -/
  | peeradd (d : Sel) (a : Sel) (b : Sel)
  /-- VDIE, R325. -/
  | vdie (d : Sel)
  /-- HOPS, R325. -/
  | hops (d : Sel) (a : Sel) (b : Sel)
  /-- FSDRAIN, R323. -/
  | fsdrain (a : Sel) (b : Sel)
  /-- FSCONF, R323. -/
  | fsconf (a : Sel) (b : Sel)
  /-- TRAP, R366. -/
  | trap (b : BitVec 8)
  /-- BRK, R366. -/
  | brk (b : BitVec 8)
  /-- SRD, R367. -/
  | srd (d : Sel) (n : BitVec 16)
  /-- SWR, R367. -/
  | swr (n : BitVec 16) (b : Sel)
  /-- INVPG, R349. -/
  | invpg (d : Sel) (a : Sel) (b : Sel)
  /-- INVCF, R350. -/
  | invcf
  /-- PLACE, R330. -/
  | place (a : Sel) (b : Sel)
  /-- PREEMPT, R330. -/
  | preempt (a : Sel)
  /-- SEAL, R330. -/
  | seal (d : Sel) (a : Sel) (b : Sel)
  /-- UNSEAL, R330. -/
  | unseal (d : Sel) (a : Sel)
  /-- AUDRD, R368. -/
  | audrd (d : Sel) (a : Sel) (b : Sel)
  /-- FLTACK, R332. -/
  | fltack (a : Sel) (b : BitVec 8)
  /-- RESUME, R371. -/
  | resume (a : Sel)
  /-- DISCARD, R373. -/
  | discard (d : Sel) (a : Sel) (b : Sel)
  /-- ATTEST, R374. -/
  | attest (d : Sel) (a : Sel) (b : Sel)
  /-- CLAUSE_FETCH, R42. -/
  | clauseFetch (t : Nat)
  /-- CLAUSE_START, R42. -/
  | clauseStart (t : Nat)
  /-- REFILL_WAKE, R17. -/
  | refillWake (t : Nat)
  /-- RECORD_DELIVERY, R145. -/
  | recordDelivery (o : Nat)
  /-- DEQ_RESUME, R145. -/
  | deqResume (t : Nat)
  /-- ISSUE_PICK, R160. -/
  | issuePick (core : Nat) (slot : Nat)
  /-- OPERATION_COMPLETE, R45. -/
  | operationComplete (o : Nat)
  /-- LOAD_RETURN, R134. -/
  | loadReturn (o : Nat) (k : Nat)
  /-- STORE_PERFORM, R136. -/
  | storePerform (w : Nat)
  /-- POSTED_DRAIN, R284. -/
  | postedDrain (e : Nat)
  /-- ATOMIC_PERFORM, R265. -/
  | atomicPerform (o : Nat) (k : Nat)
  /-- DIRECTED_DELIVERY, R274. -/
  | directedDelivery (o : Nat)
  /-- ENQ_PUBLISH, R143. -/
  | enqPublish (o : Nat)
  /-- KNOT_OPERATION, R149. -/
  | knotOperation (o : Nat)
  /-- KNOT_FIRE_RETRY, R153. -/
  | knotFireRetry (part : Nat) (n : Nat)
  /-- CLUSTER_PLACE, R62. -/
  | clusterPlace (g : Nat) (vd : Nat) (origin : Nat)
  /-- TEAM_SPILL, R162. -/
  | teamSpill (t : Nat)
  /-- TEAM_RESTORE, R162. -/
  | teamRestore (t : Nat)
  /-- COPY_LINE_LAND, R218. -/
  | copyLineLand (o : Nat) (k : Nat)
  /-- COPY_COMPLETE, R218. -/
  | copyComplete (o : Nat)
  /-- PRESENCE_WAKE, R217. -/
  | presenceWake (t : Nat)
  /-- TACK_WAKE, R252. -/
  | tackWake (t : Nat)
  /-- FIFO_POP_WAKE, R238. -/
  | fifoPopWake (t : Nat)
  /-- ENGINE_RECORD_ENTRY, R242. -/
  | engineRecordEntry (t : Nat) (q : BitVec 4)
  /-- ENGINE_COPY_IN, R243. -/
  | engineCopyIn (o : Nat)
  /-- ENGINE_COPY_OUT, R243. -/
  | engineCopyOut (o : Nat)
  /-- ENGINE_GATHER, R244. -/
  | engineGather (e : Nat)
  /-- ENGINE_REDUCE, R245. -/
  | engineReduce (e : Nat)
  /-- ENGINE_CONVERT, R245. -/
  | engineConvert (e : Nat)
  /-- ENGINE_COMPLETION, R242. -/
  | engineCompletion (e : Nat)
  /-- ENGINE_RECORD_FAULT, R246. -/
  | engineRecordFault (e : Nat)
  /-- MATRIX_STEP, R197. -/
  | matrixStep (o : Nat) (g : Nat)
  /-- TRACER_PUSH, R211. -/
  | tracerPush (o : Nat)
  /-- PLEAT_INBOX_ACCEPT, R299. -/
  | pleatInboxAccept (o : Nat)
  /-- WAVE_START, R293. -/
  | waveStart (x : Nat)
  /-- PLEAT_REPLY, R293. -/
  | pleatReply (k : Nat)
  /-- PLEAT_RESEND, R308. -/
  | pleatResend (k : Nat)
  /-- UNIT_SEND, R321. -/
  | unitSend (o : Nat)
  /-- BUCKET_REFILL, R321. -/
  | bucketRefill (part : Nat) (ctx : Nat) (die : Nat)
  /-- REMOTE_ACCESS, R317. -/
  | remoteAccess (u : FabUnit)
  /-- PLANE_FAIL, R318. -/
  | planeFail (plane : Nat)
  /-- FAULT_PART_ENQUEUE, R326. -/
  | faultPartEnqueue (part : Nat) (ctx : Nat) (oper : Bool)
  /-- LINING_FLIP, R363. -/
  | liningFlip (core : Nat) (part : Nat) (ctx : Nat)
  /-- LINING_DRAIN, R363. -/
  | liningDrain (core : Nat) (part : Nat) (ctx : Nat)
  /-- HTAB_SYNC, R235. -/
  | htabSync (part : Nat) (ctx : Nat) (slot : Nat)
  /-- QUEUE_DESCRIPTOR_WRITE, R141. -/
  | queueDescriptorWrite (part : Nat) (off : Nat) (v : BitVec 32) (trusted : Bool)
  /-- REGISTER_WRITE, R354. -/
  | registerWrite (fn : Nat) (off : Nat) (v : BitVec 32) (trusted : Bool)
  /-- PART_SHAPE_WRITE, R376. -/
  | partShapeWrite (v : BitVec 32)
  /-- MERGE, R378. -/
  | merge (pair : Bool)
  /-- SPLIT, R378. -/
  | split (pair : Bool)
  /-- CONTEXT_CREATE, R403. -/
  | contextCreate (part : Nat) (ctx : Nat) (auth : BitVec 2)
  /-- CONTEXT_REMOVE, R403. -/
  | contextRemove (part : Nat) (ctx : Nat)
  /-- KEY_IMPORT, R387. -/
  | keyImport (part : Nat) (ctx : Nat) (trusted : Bool) (blob : List (BitVec 8))
  /-- RING_DOORBELL, R389. -/
  | ringDoorbell (part : Nat) (ctx : Nat) (tail : BitVec 16) (entries : List (List (BitVec 8)))
  /-- RING_LAUNCH, R389. -/
  | ringLaunch (part : Nat) (ctx : Nat)
  /-- RING_ENQ, R389. -/
  | ringEnq (part : Nat) (ctx : Nat)
  /-- RING_KNOTDEC, R389. -/
  | ringKnotdec (part : Nat) (ctx : Nat)
  /-- RING_SWR, R389. -/
  | ringSwr (part : Nat) (ctx : Nat)
  /-- DEBUG_STOP, R391. -/
  | debugStop (part : Nat) (ctx : Nat) (mask : BitVec 8) (trusted : Bool)
  /-- HOST_MEMORY_ACCESS, R384. -/
  | hostMemoryAccess (part : Nat) (ma : Nat) (data : Option (List (BitVec 8))) (n : Nat)
  /-- FUNCTION_LEVEL_RESET, R390. -/
  | functionLevelReset (fn : Nat)
  /-- LINK_TRAINING, R401. -/
  | linkTraining (pkg : BitVec 9)
  /-- CORE_ENABLE_BATCH, R392. -/
  | coreEnableBatch (die : Nat)
  /-- DIE_IDLE, R392. -/
  | dieIdle (die : Nat)
  /-- MATRIX_SLEEP, R393. -/
  | matrixSleep (core : Nat)
  /-- MATRIX_WAKE, R393. -/
  | matrixWake (die : Nat)
  /-- CLOCK_THROTTLE, R394. -/
  | clockThrottle (die : Nat)
  /-- CLOCK_RAISE, R394. -/
  | clockRaise (die : Nat)
  /-- THERMAL_TRIP, R395. -/
  | thermalTrip
  /-- PATROL_SCRUB, R396. -/
  | patrolScrub (granule : Nat)
  /-- BOOT_VERIFY, R399. -/
  | bootVerify
  /-- MG_REC, R400. -/
  | mgRec (v : BitVec 32) (last : Bool)
  /-- REGISTER_READ, R354. -/
  | registerRead (fn : Nat) (off : Nat) (trusted : Bool)
  /-- SPDM_REQUEST, R383. -/
  | spdmRequest (part : Nat) (req : SpdmReq)
  /-- HOST_SNOOP, R383. -/
  | hostSnoop (ma : Nat) (write : Bool)
  /-- SOFT_ERROR, R397. -/
  | softError (site : ErrSite) (correctable : Bool)
  /-- REMOTE_DRAIN_REQUEST, R323. -/
  | remoteDrainRequest (r : DrainMsg)
  deriving DecidableEq, Repr

end Sys2Proof
end

