-- ==== Sys2Proof/Machine/State.lean ====
section
/-! DEFINITION. State: everything the spec gives the machine, as plain data, and the machine right after reset.
Records that come and go (teams, operations, queues in use) stand in lists of pairs by number, sorted, each number once. -/

namespace Sys2Proof.Machine

open Sys2Proof

/-! ## Names -/

/-- The authorities of R326. -/
inductive Auth where
  | operator | owner | auditor
  deriving DecidableEq, Repr

/-- The causes of R355. -/
inductive Cause where
  | illegalOpcode | illegalOperand | illegalHeader | rights | align | s1NotMapped | s1Perm | s2NotResident | s2Perm
  | discarded | ptNodeRemote | roWrite | memUncorr | scratchBounds | accWindow | groupBounds | staleHandle
  | swatchInvalid | patternCoord | pleatAborted | pleatContext | peerUnreachable | fabricPerm | queueHandle
  | knotUnderflow | trap | brk
  deriving DecidableEq, Repr

/-- The element types of R48. -/
inductive Ty where
  | i8 | i16 | i32 | i64 | n8 | n16 | n32 | n64 | f16 | bf16 | f32 | e4m3 | e5m2 | q4x | b32 | s8e
  deriving DecidableEq, Repr

/-- The rounding modes of R47. -/
inductive Rnd where
  | rne | rz | ru | rd | rna
  deriving DecidableEq, Repr

/-- The four paths of R231. -/
inductive Path where
  | loadStore | const | sampler | tile
  deriving DecidableEq, Repr

/-- What a translation is for (R345). -/
inductive Kind where
  | read | write | exec | none
  deriving DecidableEq, Repr

/-- The kinds of handle-table entries (R234). -/
inductive HKind where
  | queue | knot | swatch | pattern | pleat | tracer | sampler | tile
  deriving DecidableEq, Repr

/-! ## Accesses -/

/-- Where an access is performed: memory by key, a discarded page's zeros (R353), another device (R345), or a word of cluster scratch of a cluster core (R215). -/
inductive Place where
  | mem (key : Nat)
  | zeros
  | remote (dev : Nat)
  | scratch (cluster key : Nat)
  deriving DecidableEq, Repr

/-- A translation that an access holds: its place, the partition-physical address, the pages of the stage-1 nodes its walk read (R349), and the size code of the stage-2 leaf it reached (R328). -/
structure Tr where
  place : Place
  pa : Nat
  nodes : List Nat
  leaf : Nat := 0
  deriving DecidableEq, Repr

/-- One lane's access of an instruction: its captured address and data (R137), its translation, and whether it has been performed; which of a load's registers have their words (R67), and whether one read serves every lane (R253). -/
structure Acc where
  lane : Nat
  va : Nat
  size : Nat
  align : Nat
  reg : Nat
  data : List Byte
  tr : Tr
  done : Bool
  aux : Nat
  got : Nat := 0
  tied : Bool := false
  deriving DecidableEq, Repr

/-- A lane that faulted: its cause, its virtual address, the page that the operator part names (R328), and the cause that another device met where the lane's own is FABRIC_PERM (R317). -/
structure LaneFault where
  lane : Nat
  cause : Cause
  va : Nat
  page : Nat
  tier : Nat
  size : Nat
  dest : Option Cause := none
  deriving DecidableEq, Repr

/-- A combined translation of a core's TLB, or, where `lane` names a team and lane, of that lane's thimble (R348): `r`, `w`, `x` are the combined rights, `s1r`, `s1w`, `s1x` those of stage 1, which tell whose refusal a refused right is, and `leaf` is the size code of the stage-2 leaf. `marked` lists the drains that wait to remove it (R349). -/
structure Xlat where
  part : Nat
  ctx : Nat
  core : Nat
  lane : Option (Nat × Nat)
  va : Nat
  size : Nat
  place : Place
  pa : Nat
  nodes : List Nat
  r : Bool
  w : Bool
  x : Bool
  s1r : Bool
  s1w : Bool
  s1x : Bool
  leaf : Nat
  rcache : Bool
  disc : Bool
  marked : List Nat
  deriving DecidableEq, Repr

/-- A non-leaf entry of either stage in a die's walker cache (R348): the key of the entry in memory, its value, and the range it covers. -/
structure WalkEnt where
  part : Nat
  ctx : Nat
  die : Nat
  stage : Nat
  key : Nat
  value : Nat
  base : Nat
  size : Nat
  marked : List Nat
  deriving DecidableEq, Repr

/-- A drain that an INVPG or DISCARD started and no INVCF has confirmed (R349). -/
structure Drain where
  team : Nat
  part : Nat
  ctx : Nat
  stage : Nat
  base : Nat
  size : Nat
  deriving DecidableEq, Repr

/-- A 128-byte line in a cache of a core (an L1 or a fused L1, or the constant, sampler or tile-layout cache, R227 to R232); `core` is the core that holds it, of a fused L1 its slice (R229), `fill` the stamp of its fill, and `bad` the granules that hold an uncorrectable error (R397). -/
structure CacheLine where
  dom : Nat
  path : Path
  core : Nat
  key : Nat
  bytes : List Byte
  fill : Nat
  bad : List Nat := []
  deriving DecidableEq, Repr

/-- A clause as fetched (R41, R42). -/
structure Clause where
  header : Word
  instrs : List Word
  lits : List Word
  deriving DecidableEq, Repr

/-- A clause in a core's instruction-fetch cache, with the lines in memory that it was fetched from. -/
structure IClause where
  core : Nat
  part : Nat
  ctx : Nat
  va : Nat
  keys : List Nat
  clause : Clause
  deriving DecidableEq, Repr

/-- A die's copy of a handle-table entry (R235). -/
structure HCopy where
  part : Nat
  ctx : Nat
  die : Nat
  slot : Nat
  words : List Word
  deriving DecidableEq, Repr

/-- A posted store entry of a team (R284): not yet drained. `tr` is none after INVPG dropped its translation; `held` is the cause that holds it; `mig` says that its walk holds on s2.mig (R347). -/
structure Posted where
  team : Nat
  op : Nat
  lane : Nat
  va : Nat
  data : List Byte
  tr : Option Tr
  held : Option LaneFault
  sent : Bool
  mig : Bool
  acc : Option Nat := none
  stalled : Bool := false
  deriving DecidableEq, Repr

/-- A write on its way to its home L2 (R228), in the order in which writes leave their L1: its addresses, the stamp of its issue, the L1 it updates, the release it is, and the operation that waits for it. -/
structure StoreReq where
  team : Option Nat
  dom : Nat
  part : Nat
  ctx : Nat
  key : Nat
  va : Nat
  data : List Byte
  pa : Nat
  nodes : List Nat
  seq : Nat
  rel : Option Nat
  op : Option (Nat × Nat)
  deriving DecidableEq, Repr

/-! ## Faults of teams (states of the machine, R355 to R360) -/

/-- What a replay re-executes (R332): nothing more, the whole instruction, the captured accesses of an operation, a posted entry, a knot's firing, a clause fetch, or a matrix, queue-record or engine command's continuation. -/
inductive Redo where
  | none
  | whole
  | accs (op : Nat) (lanes : List Acc)
  | push (q : Nat) (words : List (Nat × Word))
  | posted (entry : Nat)
  | firing (knot : Nat)
  | fetch
  | op (o : Nat)
  | engine (q : Nat)
  | ring
  deriving DecidableEq, Repr

/-- An unacknowledged fault (R326, R332, R357): what its parts carry, who must acknowledge it, who has. -/
structure TrapRec where
  part : Nat
  ctx : Nat
  team : Option Nat
  pc : Nat
  scalar : Bool
  posted : Bool
  code : Nat
  obj : Nat
  cause : Cause
  unfinished : Mask
  faults : List LaneFault
  actOwn : Bool
  actOp : Bool
  ackOwn : Bool
  ackOp : Bool
  decided : Bool
  redo : Redo
  deriving DecidableEq, Repr

/-- A block of 32-byte records that waits for room in a fault queue (R326): eight words each, and a ninth for the physical die that the enqueue starts from. -/
abbrev FaultBlock := List (List Word)

/-- Why a team holds at issue (R161): what it waits for. -/
inductive Hold where
  /-- WAITD: the named flags, and with `all` the unflagged operations stamped before `before` (R98). -/
  | waitd (flags : Nat) (all : Bool) (before : Nat)
  /-- A done flag at 1,023 (R45). -/
  | flagFull (n : Nat)
  /-- A pop from an empty queue register (R238). -/
  | fifoEmpty (q : Nat)
  /-- A push to a full queue register (R238). -/
  | fifoFull (q : Nat)
  /-- An operation that must complete before the team issues on. -/
  | opDone (o : Nat)
  /-- Every operation of the team of the kinds named by the reads/all flag, stamped before the number (R89, R283). -/
  | opsDone (all : Bool) (before : Nat)
  /-- The lanes of an operation that faulted: the team parks when the rest is performed (R358). -/
  | faultAfter (o : Nat)
  /-- EXIT: writes of registers of the lanes (R89). -/
  | regWrites (lanes : Mask)
  /-- A queue without room in reach (R143), or without a record (R145). -/
  | queueRoom (queue : Nat)
  | queueRecord (queue : Nat)
  /-- No room for a launch at the die (R157). -/
  | launchRoom
  /-- A tracer walk into a queue register, or a whole record in its port (R239, R211, R212). -/
  | walkEnd (q : Nat)
  /-- Whole records in the ports that QFENCE names (R247). -/
  | portsIn (mask : Nat)
  /-- No contiguous accumulator rows (R200). -/
  | accRows (rows : Nat)
  /-- Rows of lane groups that a loop of the team has not retired (R191): group, first row, count. -/
  | rows (need : List (Nat × Nat × Nat))
  /-- The team or core holds as many loops as it can (R192). -/
  | loopRoom
  /-- A matrix unit that is asleep, with the stamp of the request to wake it (R393). -/
  | unitAsleep (asked : Nat)
  /-- A walk held on s2.mig, or on a drain of another team (R347): ready when released. -/
  | walkMig
  | walkDrain
  /-- A tack wait (R220): the word's cluster scratch key and the awaited phase. -/
  | tack (key : Nat) (phase : Nat)
  /-- A tack wait that a change of the word has released (R252). -/
  | tackDone
  /-- A scratch line that is absent (R217). -/
  | absent (key : Nat)
  /-- Lanes of a scratch access that wait at an absent line: the operation (R217). -/
  | serve (o : Nat)
  /-- htab.sync: copies of a slot to drop on every die (R235). -/
  | sync (slot : Nat)
  /-- Units of an operation that are not sent yet (R313, R321). -/
  | units (o : Nat)
  /-- A record on a page of another device that is read at issue (R345): ready when its reply is here. -/
  | remoteRead (dev va n : Nat)
  /-- A posted entry that is performed on another device (R284): ready when it has gone or is held. -/
  | remoteEntry (e : Nat)
  /-- Requests of a PLEAT that no inbox has accepted (R299). -/
  | inboxRoom (o : Nat)
  /-- A pattern entry that is draining, by its slot (R295). -/
  | patDrain (slot : Nat)
  /-- A page whose FSDRAIN is not acknowledged (R323). -/
  | pageDrain (va : Nat)
  /-- A posted entry that an access or fence before it keeps back (R67, R281, R283). -/
  | entry (e : Nat)
  /-- A read at issue that accesses of the team before it keep back (R67, R197): the stamp, the bytes in memory, their address and count. -/
  | behind (before key va n : Nat)
  /-- An earlier acquire that has not completed, or a release fence before a write (R281, R283): the operation. -/
  | order (o : Nat)
  /-- INVCF and release holds: write-throughs, accesses stamped before the number (R350). -/
  | drained (before : Nat)
  /-- A walk held on one of these drains (R347, R349): it tries again when one of them has ended. -/
  | drainGone (ds : List Nat)
  /-- DISCARD: the team's drains are to be confirmed (R373). -/
  | confirm
  /-- SEAL: no operation of the context in flight (R330). -/
  | quiet (ctx : Nat)
  /-- UNSEAL: every team placed (R330). -/
  | placing (ctx : Nat)
  deriving DecidableEq, Repr

/-! ## Operations in flight -/

/-- The read-modify-write functions of R263 and R270 to R273. -/
inductive AtomFn where
  | add | fadd | min | max | and | or | xor | xchg | cas | cas2 | cas4
  deriving DecidableEq, Repr

/-- A lane group of a matrix loop (R166, R198, R202, R203): the steps done, whether a fault stops it, the fragments of an MMA, and the last words loaded into each buffer. -/
structure LoopGrp where
  g : Nat
  pos : Nat
  stopped : Bool
  frags : List Word
  bufs : List (Nat × List Word)
  deriving DecidableEq, Repr

/-- A matrix loop as the sequencer copied it at issue (R193, R198): MMA, MLOOP or MGRP by number, the swatch's words, mode.flush, the vector base, the loop record, the first row, the row offsets, the stride, the scale step of an MMA, its lane groups, and the sticky bits gathered. -/
structure Loop where
  fn : Nat
  sw : List Word
  flush : Bool
  vbase : Nat
  record : List Word
  row : Nat
  offs : List Nat
  stride : Nat
  step0 : Nat
  groups : List LoopGrp
  st : Nat
  deriving DecidableEq, Repr

/-- The work of an operation in flight. -/
inductive OpKind where
  /-- A matrix loop (R191 to R198). -/
  | loop (l : Loop)
  /-- A load (R105, R134, R253): path, whether the destination is scalar, the width to extend from and whether by the sign. -/
  | load (path : Path) (scalar : Bool) (bits : Nat) (sign : Bool)
  /-- A store whose entries are posted or on their way (R136). -/
  | store
  /-- A scratch load or store (R248). -/
  | pload (bits : Nat) (sign : Bool)
  | pstore
  /-- A release FENCE (R283) and a PFENCE with its path set (R257). -/
  | fence
  | pfence (paths : Nat)
  /-- A copy between memory and scratch (R218): into scratch or out of it, through the tile path or straight from home, and its tack. -/
  | copy (inn tile : Bool) (tack : Option Nat)
  /-- A copy record of the copy queue (R243): its words and how many of its lines have moved. -/
  | recCopy (ws : List Word) (pos : Nat)
  /-- A record of a base-die engine's command queue (R242): the queue's number, the virtual die of its stack, the staging team's cluster, its words, how far it has come, and whether a fault stops it (R246). -/
  | engine (q vdie cluster : Nat) (ws : List Word) (pos : Nat) (stopped : Bool)
  /-- A join entry of QFENCE in the queues it names (R247). -/
  | join (qs : List Nat)
  /-- PRES: the lines whose bits it sets (R249). -/
  | pres (lines : List Nat)
  /-- A sampled load (R255): the record's words, flush, and each lane's coordinates. -/
  | sample (rec : List Word) (flush : Bool) (reg : Nat) (coords : List (Nat × Word × Word))
  /-- CFLUSH and CINV (R258). -/
  | flush (icache : Bool)
  /-- An atomic, reduction or directed form (R263): its function, type, destination register, and whether old values go to recipients. -/
  | atomic (fn : AtomFn) (ty : Ty) (dst : Option Nat) (directed returning : Bool)
  /-- CHUNK (R158): the first of the two registers. -/
  | chunk (reg : Nat)
  /-- A dequeue (R145, R146) or a refill (R17): the queue, the first register, the lanes that have still to claim, whether it refills. Its accesses are the records claimed. -/
  | deq (queue reg : Nat) (todo : List Nat) (refill : Bool)
  /-- An enqueue (R143): its accesses are the slots claimed. -/
  | enq (queue : Nat)
  /-- KNOTINIT, KNOTADD, KNOTDEC: 0, 1, 2 (R151), on a knot, with its handle. -/
  | knot (fn key vdie obj : Nat)
  /-- KNOTBIND (R154): the record, and the queue or none. -/
  | knotbind (key record : Nat) (queue : Option Nat)
  /-- A grid's completion (R73): its knot and the virtual die that a firing starts from. -/
  | gridDone (key vdie obj : Nat)
  /-- LAUNCH (R156): its accesses are the lanes whose launches could not be created. -/
  | launch
  /-- A tracer walk (R211): the queue register, the box, what of it has been pushed, and whether TRSTOP ends it. -/
  | trace (q : Nat) (n0 n1 n2 : Nat) (pushed : List Nat) (stopped : Bool)
  /-- INVCF: its release and its drains (R350). -/
  | invcf
  /-- A PLEAT (R293, R303): the first reply register, and its requests that are on their way. -/
  | pleat (reg : Nat) (sent : List Nat)
  /-- PATINV, PATCF, FSDRAIN, FSCONF: 0 to 3 (R295, R314, R323): the handles or the page, and the phase of a PATCF. -/
  | job (fn a b phase : Nat)
  /-- PATADDR whose lanes faulted (R312). -/
  | pataddr
  /-- The acknowledgement of another device's PATINV, by the package and its numbers there (R295). -/
  | jobAck (pkg uid k : Nat)
  /-- An operation whose effect was whole at issue and only its flag is to clear. -/
  | done
  deriving DecidableEq, Repr

/-- A unit not sent yet (R313, R321): the device it goes to, its cost in tokens, the accesses it carries, and whether it has been counted as stalled. -/
structure FabUnit where
  dev : Nat
  cost : Nat
  idx : List Nat
  stalled : Bool
  deriving DecidableEq, Repr

/-- An operation in flight (R45, R67): who issued it, the done flag it counts on, its order, its lanes' accesses, the lanes that faulted, whether a walk of its agent holds on s2.mig (R347), and the slot of the pattern entry that it goes through (R295). -/
structure Op where
  team : Option Nat
  part : Nat
  ctx : Nat
  core : Nat
  dom : Nat
  pc : Nat
  flag : Option Nat
  mask : Mask
  acq : Option Nat
  rel : Option Nat
  kind : OpKind
  accs : List Acc
  units : List FabUnit
  failed : List LaneFault
  refail : List Acc
  mig : Bool
  pat : Option Nat
  deriving DecidableEq, Repr

/-! ## Teams -/

/-- A lane group's accumulator window (R190): the rows from `base`, or, where no run of free rows was long enough, the core rows that `split` lists. -/
structure AccWin where
  base : Nat
  rows : Nat
  split : List Nat := []
  deriving DecidableEq, Repr

/-- What a Q register is bound to (R237, R239). -/
inductive QBind where
  | unbound
  | fifo
  | copy
  | engine (die kind n : Nat)
  deriving DecidableEq, Repr

/-- A queue register: its binding, the entries of a private FIFO, the words staged of an engine record, and the stamp at which the last of them was (R237, R241, R242). -/
structure QPort where
  bind : QBind
  fifo : List Word
  staged : List Word
  since : Nat := 0
  deriving DecidableEq, Repr

/-- Where a team stands in the steps of R42. -/
inductive Stage where
  | reach | waiting | refill | run
  deriving DecidableEq, Repr

/-- A pleat wave (R293, R301, R304): its object's record address, handle and words, each lane's argument words and recorded reply, and its requests. -/
structure WaveSt where
  object : Nat
  handle : Word
  record : List Word
  args : List (List Word)
  replies : List (Option (List Word))
  reqs : List Nat
  deriving DecidableEq, Repr

/-- A trap that waits for its team's next issue. -/
structure PendTrap where
  pc : Nat
  scalar : Bool
  faults : List LaneFault
  mask : Mask
  redo : Redo
  deriving DecidableEq, Repr

/-- Where a team is: on its core, in its save area (R162), in lining copies (R363), in the lining save area (R363), or in a blob (R330). -/
inductive TeamPlace where
  | placed | spilled | lining | slot | sealed
  deriving DecidableEq, Repr

/-- A team (R59) or a pleat wave (R301). What its instruction has done so far stands with it: the entries popped (R83), the words still to push and those that were bad (R238, R241), the next of its passes where passes pop and push in turn (R63), the records claimed; `stopAt` is where a breakpoint has stopped it and the instruction there has not issued (R35). `rowsAway` says that the accumulator rows of a spilled team stand in lining copies, or, where true, in the slot (R363). -/
structure Team where
  part : Nat
  ctx : Nat
  core : Nat
  slot : Nat
  cluster : Nat
  ccore : Nat
  tid : Nat
  cid : Nat
  nteams : Nat
  nlanes : Nat
  nregs : Nat
  role : Nat
  vdie : Nat
  place : TeamPlace
  pc : Word
  base : Word
  stage : Stage
  clause : Clause
  mode : Word
  sregs : Vector Word 64
  masks : Vector Mask 8
  live : Mask
  flags : Vector Nat 12
  vregs : List (Nat × Word)
  spoilt : List Nat
  acwin : Vector AccWin 32
  rowsAway : Option Bool := none
  qregs : Vector QPort 16
  refill : Option (Nat × Nat)
  status : Word
  abPc : Word
  abSum : Word
  abMask : Vector Word 32
  swatch : Option Nat
  popped : List Word
  pushing : Option (Nat × List (Nat × Word))
  pushBad : List (Nat × Word)
  pass : Nat
  claimed : List (Nat × Nat × Nat)
  hold : Option Hold
  trap : Option Nat
  pend : List PendTrap
  redo : Redo
  halted : Bool
  debug : Bool
  stopAt : Option Word
  age : Nat
  passed : Nat
  idle : Nat
  acq : Nat
  wave : Option WaveSt
  deriving DecidableEq, Repr

/-! ## Contexts, partitions, keys -/

/-- A memory or sealing key, by identity (R384, R331): none (memory without encryption, or never written), the n-th random key of the device, or an imported key's bytes. -/
inductive Key where
  | none
  | random (n : Nat)
  | imported (bytes : List Byte)
  deriving DecidableEq, Repr

/-- What key.state reads (R386): 0, 1, 2 while an import runs, 3 and 4. -/
inductive KeyState where
  | random | imported | busy | badMeasure | badFormat
  deriving DecidableEq, Repr

/-- An injection bucket's registers towards all dies, and its tokens per die (R320, R321). -/
structure Bucket where
  share : Nat
  expert : Bool
  rate : Nat
  depth : Nat
  stalls : Nat
  tokens : Nat
  deriving DecidableEq, Repr

/-- A context's owner ring (R388, R389): its registers, whether a fault stops it, whether its command's walk holds on s2.mig (R347), what the driver said with its doorbells that the entries from ring.head on hold, the command that it has accepted and not performed, the queue, sub-ring and slot that its ENQ has claimed, and whether the firing of its KNOTDEC still waits for a claim (R153): true while it does, false once it waits no more. -/
structure Ring where
  base : Nat
  log : Nat
  tail : Nat
  head : Nat
  expect : Nat
  stopped : Bool
  mig : Bool
  buffer : List (List Byte)
  cmd : Option (List Byte)
  claim : Option (Nat × Nat × Nat)
  fires : Option Bool
  deriving DecidableEq, Repr

/-- One context of a partition (R403). `blob` is the count, length and virtual dies of the seal that holds its state (R331). `ownOpen` is the queue that a block of its fault records has entered in part (R326), and `ownMig` says that the walk of the next record holds on s2.mig (R347). `importing` is the blob of an import that runs (R387). -/
structure Ctx where
  en : Bool
  auth : Auth
  err : Bool
  s2en : Bool
  dbg : Bool
  s2root : Nat
  rten : Bool
  rtbase : Nat
  fabDev : Nat
  fabNdev : Nat
  fabNvd : Nat
  vdmap : List Nat
  sched : Nat
  s1root : Nat
  htabBase : Nat
  htabSlots : Nat
  fqOwn : Word
  spillBase : Nat
  keyAddr : Nat
  keyState : KeyState
  key : Key
  ringKey : Key
  ring : Ring
  buckets : List (Nat × Bucket)
  sealed : Bool
  blob : Option (Nat × Nat × Nat)
  seq : Nat
  preempted : Bool
  ownParts : List FaultBlock
  ownOpen : Option Nat
  ownMig : Bool
  importing : Option (List Byte)
  deriving DecidableEq, Repr

/-- A partition's interface state (R383). -/
inductive Tdisp where
  | unlocked | locked | run | error
  deriving DecidableEq, Repr

/-- A partition, named by its lowest quarter (R376). `opMig` is the operator's context whose walk for the next operator part holds on s2.mig (R347), and `hdm` the first address and the size of the window of LPDDR6 that the function's HDM-DB decoder exposes (R383). -/
structure Part where
  fqOp : Word
  linEn : Bool
  linBase : Nat
  counts : List (Nat × Nat)
  opParts : List FaultBlock
  opMig : Option Nat
  sealKey : Key
  tdisp : Tdisp
  hdm : Option (Nat × Nat)
  deriving DecidableEq, Repr

/-! ## Queues and knots -/

/-- A sub-ring of a queue (R139): the counters of claims, and the slots published. -/
structure SubRing where
  head : Nat
  tail : Nat
  published : List Nat
  deriving DecidableEq, Repr

/-- A hardware work queue (R138, R140): the fields of its descriptor, and its sub-rings. -/
structure Queue where
  base : Nat
  depth : Nat
  radius : Nat
  prio : Nat
  en : Bool
  rings : List (Nat × SubRing)
  deriving DecidableEq, Repr

/-- What waits for the claim of a firing (R151, R153): a lane of a team's operation, or the owner's ring. -/
inductive FireOp where
  | lane (op lane : Nat)
  | ring
  deriving DecidableEq, Repr

/-- What a fault of a firing is recorded against (R152, R153, R389): a team's instruction and lane, or the owner's ring. -/
inductive Firer where
  | lane (team pc lane : Nat)
  | ring
  deriving DecidableEq, Repr

/-- A firing of a knot that has not finished (R152, R153): the binding it started with, the virtual die its enqueue starts from, what waits for its claim, what a fault of it is recorded against, the record as it was read, the slot claimed, and whether a fault holds it. -/
structure Firing where
  record : Nat
  queue : Nat
  vdie : Nat
  part : Nat
  ctx : Nat
  obj : Nat
  op : Option FireOp
  who : Option Firer
  data : Option (List Byte)
  claim : Option (Nat × Nat)
  held : Bool
  mig : Bool
  deriving DecidableEq, Repr

/-- A knot (R149). Waiting launches are the grids that name it. -/
structure Knot where
  count : Nat
  record : Nat
  queue : Option Nat
  firing : List Firing
  deriving DecidableEq, Repr

/-! ## Launches and clusters -/

/-- The role of a launch's teams (R71, R155). -/
structure Role where
  entry : Nat
  lanes : Nat
  vregs : Nat
  kind : Nat
  count : Nat
  deriving DecidableEq, Repr

/-- A launch that has been created (R75, R155, R157): `die` is the physical die that it counts for, `vdie` the virtual die that its completion walks from (R150), `ring` says that a command of the owner's ring created it, and `ahead` lists the launches that the same firing of its start knot released before it. -/
structure Grid where
  part : Nat
  ctx : Nat
  roles : List Role
  hasRoles : Bool
  scratch : Nat
  carve : Nat
  fuse : Bool
  shape : Nat
  scope : Nat
  size : Nat
  start : Option Nat
  done : Option Nat
  doneObj : Nat
  waiting : Bool
  next : Nat
  running : Nat
  die : Nat
  vdie : Nat
  ring : Bool
  ahead : List Nat
  deriving DecidableEq, Repr

/-- A cluster that is placed (R69, R224): its grid, rectangle, scratch words by core and offset, absent lines (R217), granules with an uncorrectable error (R397), and the cluster cores whose range stands in lining copies (false) or in the slot or a blob (true) (R330, R363). -/
structure Cluster where
  grid : Nat
  part : Nat
  ctx : Nat
  cid : Nat
  die : Nat
  row : Nat
  col : Nat
  h : Nat
  w : Nat
  share : Nat
  fuse : Bool
  cells : List (Nat × Byte)
  absent : List Nat
  spoiled : List Nat
  away : List (Nat × Bool)
  deriving DecidableEq, Repr

/-- A core (R62, R222, R392, R393). -/
structure CoreSt where
  carve : Nat
  clk : Nat
  enabled : Bool
  asleep : Bool
  lastLoop : Nat
  lastTeam : Nat
  deriving DecidableEq, Repr

/-- Where a pleat request stands: in its inbox, in a wave, answered, aborted, answered with its requester not placed, or answered to another device that has not acknowledged it (R293, R307, R308). -/
inductive ReqStage where
  | inbox | wave | replied | aborted | stayed | sent
  deriving DecidableEq, Repr

/-- A pleat request at its home (R293, R299): its object, its arguments, its home core, who sent it (an operation and lane here, or another package's unit), and its reply. -/
structure PleatReq where
  part : Nat
  ctx : Nat
  object : Nat
  handle : Word
  record : List Word
  args : List Word
  core : Nat
  pkg : Option Nat
  op : Nat
  lane : Nat
  stage : ReqStage
  reply : List Word
  aborted : Bool := false
  deriving DecidableEq, Repr

/-- The home of a pleat object as its placement fixed it (R298): the partition-physical address of its state, and the core; no address where the state has no home on the device. `mig` says that its walk holds on s2.mig (R347). -/
structure PleatHome where
  part : Nat
  ctx : Nat
  object : Nat
  pa : Option Nat
  core : Nat
  mig : Bool := false
  deriving DecidableEq, Repr

/-- A breakpoint of a context (R35): on the instruction at an address, or on the `.clause` line of the clause there. -/
structure Break where
  part : Nat
  ctx : Nat
  addr : Word
  clause : Bool
  deriving DecidableEq, Repr

/-! ## The device -/

/-- The registers of the package (R375 to R378, R398 to R401). -/
structure Dev where
  shape : Nat
  partErr : Bool
  mrgPair : Bool
  mrgSplit : Bool
  mrgState : Nat
  mrgWhy : Nat
  ilv : List (Nat × Nat)
  harvDie : Nat
  harvValid : Bool
  pkgId : Nat
  pkgValid : Bool
  fw : Nat
  trip : Bool
  tmax : Nat
  power : Nat
  fwver : Nat
  recovery : List Byte
  minver : Nat
  image : List Byte
  next : List Byte
  clock : List (Nat × Nat)
  attests : Nat
  seals : Nat
  keys : Nat
  planes : List Nat
  ideKeys : List (Nat × BitVec 256)
  deriving DecidableEq, Repr

/-- What the device sends to the world outside: data of host reads, messages to other devices. -/
inductive Output where
  | hostData (bytes : List Byte)
  | hostReg (v : Word)
  /-- A unit or request towards another device of the job, and the number its answers name (R265, R315 to R317, R321). -/
  | unit (dev op : Nat) (body : FabBody)
  /-- A job-wide request of PATINV, PATCF, FSDRAIN or FSCONF towards another device, and the two numbers its answer names (R295, R314, R323). -/
  | job (dev op k : Nat) (body : DrainBody)
  /-- The answer to a unit or request of another package: bytes, or a cause (R293, R317, R323). -/
  | reply (pkg uid lane : Nat) (bytes : List Byte) (cause : Option Cause)
  /-- A pleat request of another package has entered its inbox here (R299). -/
  | taken (pkg uid lane : Nat)
  /-- The reply of a wave to a request of another package, with the request's own number here, which its acknowledgement names (R305, R308). -/
  | pleatReply (pkg uid lane req : Nat) (bytes : List Byte) (cause : Option Cause)
  /-- What a debugger reads of a team's registers (R334, R391). -/
  | debugWord (v : Word)
  deriving DecidableEq, Repr

/-- A write, or a request passed on, that an agent of this device has sent to another device and that no answer has ended (R288, R317): the number its answers name, its bytes, and the translation it goes under. -/
structure AgentOut where
  dev : Nat
  tag : Nat
  va : Nat
  data : List Byte
  part : Nat
  ctx : Nat
  tr : Tr
  deriving DecidableEq, Repr

/-- A reply of another device to a unit of an operation's access (R315 to R317): bytes, or the cause met there; that a pleat request was accepted (R299); or a wave's reply, with the package and request number that its acknowledgement names (R308). -/
structure FabRep where
  op : Nat
  lane : Nat
  data : List Byte
  cause : Option Cause
  taken : Bool := false
  src : Option (Nat × Nat) := none
  deriving DecidableEq, Repr

/-- The steps of the table that no word encodes, as the machine names them when they are due or when the outside sends them. (A compiled Lean value of a type of more than 244 constructors cannot be built; Event.run carries each to the meaning of its Instr.) -/
inductive Event where
  /-- CLAUSE_FETCH, R42. -/
  | clauseFetch (t : Nat)
  /-- CLAUSE_START, R42. -/
  | clauseStart (t : Nat)
  /-- REFILL_WAKE, R17. -/
  | refillWake (t : Nat)
  /-- RECORD_DELIVERY, R145. -/
  | recordDelivery (o : Nat)
  /-- DEQ_RESUME, R145. -/
  | deqResume (t : Nat)
  /-- ISSUE_PICK, R160. -/
  | issuePick (core : Nat) (slot : Nat)
  /-- OPERATION_COMPLETE, R45. -/
  | operationComplete (o : Nat)
  /-- LOAD_RETURN, R134. -/
  | loadReturn (o : Nat) (k : Nat)
  /-- STORE_PERFORM, R136. -/
  | storePerform (w : Nat)
  /-- POSTED_DRAIN, R284. -/
  | postedDrain (e : Nat)
  /-- ATOMIC_PERFORM, R265. -/
  | atomicPerform (o : Nat) (k : Nat)
  /-- DIRECTED_DELIVERY, R274. -/
  | directedDelivery (o : Nat)
  /-- ENQ_PUBLISH, R143. -/
  | enqPublish (o : Nat)
  /-- KNOT_OPERATION, R149. -/
  | knotOperation (o : Nat)
  /-- KNOT_FIRE_RETRY, R153. -/
  | knotFireRetry (part : Nat) (n : Nat)
  /-- CLUSTER_PLACE, R62. -/
  | clusterPlace (g : Nat) (vd : Nat) (origin : Nat)
  /-- TEAM_SPILL, R162. -/
  | teamSpill (t : Nat)
  /-- TEAM_RESTORE, R162. -/
  | teamRestore (t : Nat)
  /-- COPY_LINE_LAND, R218. -/
  | copyLineLand (o : Nat) (k : Nat)
  /-- COPY_COMPLETE, R218. -/
  | copyComplete (o : Nat)
  /-- PRESENCE_WAKE, R217. -/
  | presenceWake (t : Nat)
  /-- TACK_WAKE, R252. -/
  | tackWake (t : Nat)
  /-- FIFO_POP_WAKE, R238. -/
  | fifoPopWake (t : Nat)
  /-- ENGINE_RECORD_ENTRY, R242. -/
  | engineRecordEntry (t : Nat) (q : BitVec 4)
  /-- ENGINE_COPY_IN, R243. -/
  | engineCopyIn (o : Nat)
  /-- ENGINE_COPY_OUT, R243. -/
  | engineCopyOut (o : Nat)
  /-- ENGINE_GATHER, R244. -/
  | engineGather (e : Nat)
  /-- ENGINE_REDUCE, R245. -/
  | engineReduce (e : Nat)
  /-- ENGINE_CONVERT, R245. -/
  | engineConvert (e : Nat)
  /-- ENGINE_COMPLETION, R242. -/
  | engineCompletion (e : Nat)
  /-- ENGINE_RECORD_FAULT, R246. -/
  | engineRecordFault (e : Nat)
  /-- MATRIX_STEP, R197. -/
  | matrixStep (o : Nat) (g : Nat)
  /-- TRACER_PUSH, R211. -/
  | tracerPush (o : Nat)
  /-- PLEAT_INBOX_ACCEPT, R299. -/
  | pleatInboxAccept (o : Nat)
  /-- WAVE_START, R293. -/
  | waveStart (x : Nat)
  /-- PLEAT_REPLY, R293. -/
  | pleatReply (k : Nat)
  /-- PLEAT_RESEND, R308. -/
  | pleatResend (k : Nat)
  /-- UNIT_SEND, R321. -/
  | unitSend (o : Nat)
  /-- BUCKET_REFILL, R321. -/
  | bucketRefill (part : Nat) (ctx : Nat) (die : Nat)
  /-- REMOTE_ACCESS, R317. -/
  | remoteAccess (u : Sys2Proof.FabUnit)
  /-- PLANE_FAIL, R318. -/
  | planeFail (plane : Nat)
  /-- FAULT_PART_ENQUEUE, R326. -/
  | faultPartEnqueue (part : Nat) (ctx : Nat) (oper : Bool)
  /-- LINING_FLIP, R363. -/
  | liningFlip (core : Nat) (part : Nat) (ctx : Nat)
  /-- LINING_DRAIN, R363. -/
  | liningDrain (core : Nat) (part : Nat) (ctx : Nat)
  /-- HTAB_SYNC, R235. -/
  | htabSync (part : Nat) (ctx : Nat) (slot : Nat)
  /-- QUEUE_DESCRIPTOR_WRITE, R141. -/
  | queueDescriptorWrite (part : Nat) (off : Nat) (v : BitVec 32) (trusted : Bool)
  /-- REGISTER_WRITE, R354. -/
  | registerWrite (fn : Nat) (off : Nat) (v : BitVec 32) (trusted : Bool)
  /-- PART_SHAPE_WRITE, R376. -/
  | partShapeWrite (v : BitVec 32)
  /-- MERGE, R378. -/
  | merge (pair : Bool)
  /-- SPLIT, R378. -/
  | split (pair : Bool)
  /-- CONTEXT_CREATE, R403. -/
  | contextCreate (part : Nat) (ctx : Nat) (auth : BitVec 2)
  /-- CONTEXT_REMOVE, R403. -/
  | contextRemove (part : Nat) (ctx : Nat)
  /-- KEY_IMPORT, R387. -/
  | keyImport (part : Nat) (ctx : Nat) (trusted : Bool) (blob : List (BitVec 8))
  /-- RING_DOORBELL, R389. -/
  | ringDoorbell (part : Nat) (ctx : Nat) (tail : BitVec 16) (entries : List (List (BitVec 8)))
  /-- RING_LAUNCH, R389. -/
  | ringLaunch (part : Nat) (ctx : Nat)
  /-- RING_ENQ, R389. -/
  | ringEnq (part : Nat) (ctx : Nat)
  /-- RING_KNOTDEC, R389. -/
  | ringKnotdec (part : Nat) (ctx : Nat)
  /-- RING_SWR, R389. -/
  | ringSwr (part : Nat) (ctx : Nat)
  /-- DEBUG_STOP, R391. -/
  | debugStop (part : Nat) (ctx : Nat) (mask : BitVec 8) (trusted : Bool)
  /-- HOST_MEMORY_ACCESS, R384. -/
  | hostMemoryAccess (part : Nat) (ma : Nat) (data : Option (List (BitVec 8))) (n : Nat)
  /-- FUNCTION_LEVEL_RESET, R390. -/
  | functionLevelReset (fn : Nat)
  /-- LINK_TRAINING, R401. -/
  | linkTraining (pkg : BitVec 9)
  /-- CORE_ENABLE_BATCH, R392. -/
  | coreEnableBatch (die : Nat)
  /-- DIE_IDLE, R392. -/
  | dieIdle (die : Nat)
  /-- MATRIX_SLEEP, R393. -/
  | matrixSleep (core : Nat)
  /-- MATRIX_WAKE, R393. -/
  | matrixWake (die : Nat)
  /-- CLOCK_THROTTLE, R394. -/
  | clockThrottle (die : Nat)
  /-- CLOCK_RAISE, R394. -/
  | clockRaise (die : Nat)
  /-- THERMAL_TRIP, R395. -/
  | thermalTrip
  /-- PATROL_SCRUB, R396. -/
  | patrolScrub (granule : Nat)
  /-- BOOT_VERIFY, R399. -/
  | bootVerify
  /-- MG_REC, R400. -/
  | mgRec (v : BitVec 32) (last : Bool)
  /-- REGISTER_READ, R354. -/
  | registerRead (fn : Nat) (off : Nat) (trusted : Bool)
  /-- SPDM_REQUEST, R383. -/
  | spdmRequest (part : Nat) (req : SpdmReq)
  /-- HOST_SNOOP, R383. -/
  | hostSnoop (ma : Nat) (write : Bool)
  /-- SOFT_ERROR, R397. -/
  | softError (site : ErrSite) (correctable : Bool)
  /-- REMOTE_DRAIN_REQUEST, R323. -/
  | remoteDrainRequest (r : DrainMsg)
  /-- A debugger sets or takes away a breakpoint of a context (R35). -/
  | debugBreak (part ctx : Nat) (addr : BitVec 32) (clause on trusted : Bool)
  /-- A debugger stops one team between instructions (R366). -/
  | debugHold (team : Nat) (trusted : Bool)
  /-- A debugger reads a register of a team (R334, R391). -/
  | debugRead (team : Nat) (reg : DbgReg) (trusted : Bool)
  /-- A key import that runs comes to its end (R387). -/
  | keyImported (part ctx : Nat)
  /-- The operator sets the window of a partition function's HDM-DB decoder, or takes it away (R383). -/
  | hdmWindow (part : Nat) (window : Option (Nat × Nat))
  /-- The power goes and comes again: a cold reset (R395, R399). -/
  | coldReset
  deriving DecidableEq, Repr

/-- The machine. `agentOut` holds what the device's own agents have sent to other devices and no answer has ended (R288, R317). `revoking` lists partition, context, virtual page and its size, and the device of the job that holds the page, none where it is this one (R323). `migHeld` holds what other devices asked for and whose walks hold on s2.mig (R347). -/
structure State where
  dev : Dev
  parts : List (Nat × Part)
  ctxs : List (Nat × Ctx)
  cores : List (Nat × CoreSt)
  queues : List (Nat × Queue)
  knots : List (Nat × Knot)
  grids : List (Nat × Grid)
  clusters : List (Nat × Cluster)
  teams : List (Nat × Team)
  ops : List (Nat × Op)
  posted : List (Nat × Posted)
  stores : List (Nat × StoreReq)
  traps : List (Nat × TrapRec)
  mem : List Host.Cell
  bad : List Nat
  soft : List Nat
  tags : List (Nat × Key)
  lines : List CacheLine
  icache : List IClause
  tlb : List Xlat
  walks : List WalkEnt
  drains : List (Nat × Drain)
  revoking : List (Nat × Nat × Nat × Nat × Option Nat)
  patDraining : List (Nat × Nat × Nat)
  pleats : List (Nat × PleatReq)
  hcopies : List HCopy
  acc : List (Nat × Word)
  tick : Nat
  stamp : Nat
  cur : Option Nat
  inputs : List Event
  outputs : List Output
  fabIn : List FabRep
  agentOut : List AgentOut
  pleatHomes : List PleatHome
  breaks : List Break
  migHeld : List (Event × Bool)
  deriving DecidableEq, Repr

/-- A stop of the machine as a whole. -/
inductive Fault where
  /-- Raised by the step after a thermal trip (R395) when nothing from outside is left to take: the supplies are down until the next cold reset, and only the management port still answers (R398). Safe: the hardware does nothing there. -/
  | poweredOff
  deriving DecidableEq, Repr

/-- Why a step has no meaning. -/
inductive Refusal where
  /-- Raised by an arm of exec whose instruction has no meaning yet. Safe. -/
  | notModelled (mnemonic : String)
  /-- Raised by an encoded instruction where no team has been picked: an instruction issues for a team (R66). Safe. -/
  | noTeam
  deriving DecidableEq, Repr

/-- The registers of the package at reset (R375 to R378, R398 to R401): full shape, interleave 4 in every quarter, no harvested die (log 15), no number from link training yet, an image of version 0 stored (log 16). -/
def Dev.reset : Dev :=
  { shape := 0, partErr := false, mrgPair := false, mrgSplit := false, mrgState := 0, mrgWhy := 0, ilv := [], harvDie := 0, harvValid := false,
    pkgId := 0, pkgValid := false, fw := 0, trip := false, tmax := 0, power := 0, fwver := 0, recovery := [], minver := 0, image := [], next := [],
    clock := [], attests := 0, seals := 0, keys := 0, planes := [], ideKeys := [] }

/-- The machine right after reset: nothing placed, nothing in flight, no context created, memory with nothing listed. -/
def State.reset : State :=
  { dev := Dev.reset, parts := [], ctxs := [], cores := [], queues := [], knots := [], grids := [], clusters := [], teams := [], ops := [],
    posted := [], stores := [], traps := [], mem := [], bad := [], soft := [], tags := [], lines := [], icache := [], tlb := [], walks := [],
    drains := [], revoking := [], patDraining := [], pleats := [], hcopies := [], acc := [], tick := 0, stamp := 0, cur := none, inputs := [], outputs := [], fabIn := [],
    agentOut := [], pleatHomes := [], breaks := [], migHeld := [] }

end Sys2Proof.Machine
end

