-- ==== Sys2Proof/Machine/Store.lean ====
section
/-! DEFINITION. Store: sparse data by key as sorted lists of pairs, and memory in its one canonical form. A write keeps the list sorted; memory lists no byte equal to what an unlisted address reads as (0, log 1). -/

namespace Sys2Proof.Machine

/-- The value at key a, or d where the list names none. -/
def cellGet {β : Type} (d : β) : List (Nat × β) → Nat → β
  | [], _ => d
  | (k, v) :: m, a => if k = a then v else cellGet d m a

/-- The list with v at key a. -/
def cellPut {β : Type} : List (Nat × β) → Nat → β → List (Nat × β)
  | [], a, v => [(a, v)]
  | (k, w) :: m, a, v =>
    if a < k then (a, v) :: (k, w) :: m
    else if a = k then (a, v) :: m
    else (k, w) :: cellPut m a v

/-- The list without key a. -/
def cellDel {β : Type} : List (Nat × β) → Nat → List (Nat × β)
  | [], _ => []
  | (k, w) :: m, a => if k = a then cellDel m a else (k, w) :: cellDel m a

/-- Memory: bytes by key (tier times 2^52 plus machine address). -/
abbrev Memory := List Host.Cell

/-- What an unlisted address reads as (DESIGN CHOICE, log 1). -/
def unlistedByte : Byte := 0

/-- One byte of memory. -/
def memRead (m : Memory) (a : Nat) : Byte := cellGet unlistedByte m a

/-- Memory with one byte written. -/
def memWrite (m : Memory) (a : Nat) (b : Byte) : Memory :=
  if b = unlistedByte then cellDel m a else cellPut m a b

/-- Every address of the list lies above a. -/
def memAbove (a : Nat) : Memory → Bool
  | [] => true
  | (k, b) :: m => decide (a < k) && decide (b ≠ unlistedByte) && memAbove k m

/-- The canonical form: addresses strictly rise and no byte listed is the unlisted one. -/
def memWf : Memory → Bool
  | [] => true
  | (k, b) :: m => decide (b ≠ unlistedByte) && memAbove k m

/-- n bytes from address a, lowest address first. -/
def memReadN (m : Memory) (a : Nat) : Nat → List Byte
  | 0 => []
  | n + 1 => memRead m a :: memReadN m (a + 1) n

/-- Memory with a run of bytes written from address a. -/
def memWriteN (m : Memory) (a : Nat) : List Byte → Memory
  | [] => m
  | b :: bs => memWriteN (memWrite m a b) (a + 1) bs

/-- The number a run of bytes holds, least significant byte first (R3). -/
def bytesNat : List Byte → Nat
  | [] => 0
  | b :: bs => b.toNat + 256 * bytesNat bs

/-- The low n bytes of a number, least significant first (R3). -/
def natBytes (x : Nat) : Nat → List Byte
  | 0 => []
  | n + 1 => BitVec.ofNat 8 x :: natBytes (x / 256) n

/-- The word a run of four bytes holds. -/
def bytesWord (bs : List Byte) : Word := BitVec.ofNat 32 (bytesNat (bs.take 4))

/-- The words a run of bytes holds. -/
def bytesWords : Nat → List Byte → List Word
  | 0, _ => []
  | n + 1, bs => bytesWord bs :: bytesWords n (bs.drop 4)

/-- The bytes of a run of words. -/
def wordsBytes : List Word → List Byte
  | [] => []
  | w :: ws => natBytes w.toNat 4 ++ wordsBytes ws

/-- A bit range of a word, high to low, both ends included (R4). -/
def bits (w : Word) (hi lo : Nat) : Nat := (w.toNat >>> lo) % 2 ^ (hi - lo + 1)

/-- One bit of a word. -/
def bit (w : Word) (i : Nat) : Bool := w.toNat.testBit i

/-- Bit i to n-1 of a mask as a list of lane numbers, ascending. -/
def lanesBelow (m : Mask) (n : Nat) : List Nat := (List.range n).filter fun i => m.toNat.testBit i

/-- Rounded-up quotient. -/
def ceilDiv (a b : Nat) : Nat := (a + b - 1) / b

/-- The mask of the lanes named. -/
def maskOf (ls : List Nat) : Mask := ls.foldl (fun m l => m ||| (1#1024 <<< l)) 0#1024

/-- Word w (32 lanes) of a mask. -/
def maskWord (m : Mask) (w : Nat) : Word := BitVec.ofNat 32 (m.toNat >>> (32 * w))

/-- The summary word: bit g is set exactly when word g is not zero (R64). -/
def maskSummary (m : Mask) : Word :=
  (List.range 32).foldl (fun acc g => if maskWord m g = 0 then acc else acc ||| (1#32 <<< g)) 0

/-- The mask with word w replaced. -/
def maskSetWord (m : Mask) (w : Nat) (x : Word) : Mask :=
  let hole : Mask := BitVec.ofNat 1024 (0xFFFFFFFF <<< (32 * w))
  (m &&& ~~~hole) ||| BitVec.ofNat 1024 (x.toNat <<< (32 * w))

/-- The lanes 0 to n-1. -/
def lanesMask (n : Nat) : Mask := BitVec.ofNat 1024 (2 ^ n - 1)

/-- Number of set bits among bits 0 to n-1. -/
def popCount (x n : Nat) : Nat := (List.range n).foldl (fun c i => if x.testBit i then c + 1 else c) 0

/-- Number of leading zeros of a number of width n. -/
def leadingZeros (x n : Nat) : Nat :=
  (List.range n).foldl (fun c i => if x.testBit i then n - 1 - i else c) n

/-- The number's n bits in reverse order. -/
def bitReverse (x n : Nat) : Nat :=
  (List.range n).foldl (fun c i => if x.testBit i then c + 2 ^ (n - 1 - i) else c) 0

/-- A number of width n read as two's complement. -/
def signedOf (n x : Nat) : Int := if x % 2 ^ n < 2 ^ (n - 1) then (x % 2 ^ n : Int) else (x % 2 ^ n : Int) - 2 ^ n

/-- The low n bits of an integer. -/
def lowBits (n : Nat) (x : Int) : Nat := (x % (2 ^ n : Int)).toNat

/-- Sign extension of a 32-bit value to 64 bits. -/
def sext64 (w : Word) : Nat := lowBits 64 (signedOf 32 w.toNat)

end Sys2Proof.Machine
end

