-- ==== Sys2Proof/Machine/Ops.lean ====
section
/-! DEFINITION. Ops: the named operations over State: records by number, registers, MODE, the effective mask, program order, and TAKING A TRAP (R326 to R328, R355 to R358), one operation for every cause. -/

namespace Sys2Proof.Machine

open Sys2Proof

/-! ## Records by number -/

/-- The record of a number, where the list holds one. -/
def recFind {β : Type} : List (Nat × β) → Nat → Option β
  | [], _ => none
  | (k, v) :: m, a => if k = a then some v else recFind m a

/-- The numbers of a list of records. -/
def recKeys {β : Type} (m : List (Nat × β)) : List Nat := m.map (·.1)

/-- The team of a number. -/
def State.team (s : State) (i : Nat) : Option Team := recFind s.teams i
/-- The state with a team's record replaced. -/
def State.setTeam (s : State) (i : Nat) (t : Team) : State := { s with teams := cellPut s.teams i t }
/-- The state without the team. -/
def State.dropTeam (s : State) (i : Nat) : State := { s with teams := cellDel s.teams i }
/-- The state with a team changed by a function, where it exists. -/
def State.modTeam (s : State) (i : Nat) (f : Team → Team) : State :=
  match s.team i with
  | none => s
  | some t => s.setTeam i (f t)

/-- The operation of a number. -/
def State.op (s : State) (o : Nat) : Option Op := recFind s.ops o
/-- The state with an operation's record replaced. -/
def State.setOp (s : State) (o : Nat) (x : Op) : State := { s with ops := cellPut s.ops o x }
/-- The state without the operation. -/
def State.dropOp (s : State) (o : Nat) : State := { s with ops := cellDel s.ops o }

/-- A context that no one has created (R403). -/
def Ctx.none : Ctx :=
  { en := false, auth := .owner, err := false, s2en := false, dbg := false, s2root := 0, rten := false, rtbase := 0,
    fabDev := 0, fabNdev := 0, fabNvd := 0, vdmap := [], sched := 2, s1root := 0, htabBase := 0, htabSlots := 0,
    fqOwn := 0, spillBase := 0, keyAddr := 0, keyState := .random, key := .none, ringKey := .none,
    ring := { base := 0, log := 0, tail := 0, head := 0, expect := 0, stopped := false, mig := false, buffer := [], cmd := .none,
              claim := .none, fires := .none },
    buckets := [], sealed := false, blob := .none, seq := 0, preempted := false, ownParts := [], ownOpen := .none, ownMig := false,
    importing := .none }

/-- A partition at its creation. -/
def Part.fresh : Part :=
  { fqOp := 0, linEn := false, linBase := 0, counts := [], opParts := [], opMig := .none, sealKey := .none, tdisp := .unlocked,
    hdm := .none }

/-- The number under which a context of a partition is kept. -/
def ctxKey (p c : Nat) : Nat := p * 64 + c

/-- A context's record. -/
def State.ctx (s : State) (p c : Nat) : Ctx := cellGet Ctx.none s.ctxs (ctxKey p c)
/-- The state with a context's record replaced. -/
def State.setCtx (s : State) (p c : Nat) (x : Ctx) : State := { s with ctxs := cellPut s.ctxs (ctxKey p c) x }
/-- A partition's record. -/
def State.part (s : State) (p : Nat) : Part := cellGet Part.fresh s.parts p
/-- The state with a partition's record replaced. -/
def State.setPart (s : State) (p : Nat) (x : Part) : State := { s with parts := cellPut s.parts p x }

/-- A core as reset leaves it (R222, R392; log 12 to 14). -/
def CoreSt.fresh : CoreSt := { carve := 0, clk := 0, enabled := false, asleep := false, lastLoop := 0, lastTeam := 0 }
/-- A core's record. -/
def State.core (s : State) (n : Nat) : CoreSt := cellGet CoreSt.fresh s.cores n
/-- The state with a core's record replaced. -/
def State.setCore (s : State) (n : Nat) (x : CoreSt) : State := { s with cores := cellPut s.cores n x }

/-- The next stamp: issue order of operations and ages. -/
def State.bump (s : State) : State := { s with stamp := s.stamp + 1 }

/-- The next free choice among n things (log 2), and the state with the counter read past it. -/
def State.choose (s : State) (n : Nat) : Nat × State :=
  (if n ≤ 1 then 0 else Config.pick s.tick % n, { s with tick := s.tick + 1 })

/-! ## Codes -/

/-- The code of a cause (R355). -/
def Cause.code : Cause → Nat
  | .illegalOpcode => 0x01 | .illegalOperand => 0x02 | .illegalHeader => 0x03 | .rights => 0x04
  | .align => 0x10 | .s1NotMapped => 0x11 | .s1Perm => 0x12 | .s2NotResident => 0x13 | .s2Perm => 0x14
  | .discarded => 0x15 | .ptNodeRemote => 0x16 | .roWrite => 0x17 | .memUncorr => 0x18 | .scratchBounds => 0x19
  | .accWindow => 0x20 | .groupBounds => 0x21 | .staleHandle => 0x22 | .swatchInvalid => 0x23 | .patternCoord => 0x24
  | .pleatAborted => 0x28 | .pleatContext => 0x29 | .peerUnreachable => 0x30 | .fabricPerm => 0x31
  | .queueHandle => 0x38 | .knotUnderflow => 0x39 | .trap => 0x40 | .brk => 0x41

/-- A cause that the operator acts on (R332). -/
def Cause.stage2 : Cause → Bool
  | .s2NotResident => true
  | .s2Perm => true
  | _ => false

/-- The owner acts on every cause but the stage-2 ones (R332, R355). -/
def Cause.ownerActs (c : Cause) : Bool := !c.stage2

/-- The operator acts on the stage-2 causes and on MEM_UNCORR (R332, R355). -/
def Cause.operatorActs (c : Cause) : Bool := c.stage2 || c == .memUncorr

/-- The code of an element type (R48). -/
def Ty.code : Ty → Nat
  | .i8 => 0 | .i16 => 1 | .i32 => 2 | .i64 => 3 | .n8 => 4 | .n16 => 5 | .n32 => 6 | .n64 => 7
  | .f16 => 8 | .bf16 => 9 | .f32 => 10 | .e4m3 => 11 | .e5m2 => 12 | .q4x => 13 | .b32 => 14 | .s8e => 15

/-- The element type of a code of R48; reserved codes give none. -/
def tyOf : Nat → Option Ty
  | 0 => some .i8 | 1 => some .i16 | 2 => some .i32 | 3 => some .i64 | 4 => some .n8 | 5 => some .n16
  | 6 => some .n32 | 7 => some .n64 | 8 => some .f16 | 9 => some .bf16 | 10 => some .f32 | 11 => some .e4m3
  | 12 => some .e5m2 | 13 => some .q4x | 14 => some .b32 | 15 => some .s8e | _ => none

/-- The rounding mode of a code of R47; MODE never holds a reserved one (R48). -/
def rndOf : Nat → Rnd
  | 0 => .rne | 1 => .rz | 2 => .ru | 3 => .rd | _ => .rna

/-! ## MODE (R47) -/

/-- mode.ginv. -/
def Team.ginv (t : Team) : Bool := bit t.mode 31
/-- mode.guard. -/
def Team.guard (t : Team) : Nat := bits t.mode 30 28
/-- mode.type; MODE holds no reserved code (R48). -/
def Team.ty (t : Team) : Ty := (tyOf (bits t.mode 27 23)).getD .i8
/-- mode.round. -/
def Team.rnd (t : Team) : Rnd := rndOf (bits t.mode 22 20)
/-- mode.flush. -/
def Team.flush (t : Team) : Bool := bit t.mode 19
/-- mode.sat. -/
def Team.sat (t : Team) : Bool := bit t.mode 18
/-- mode.order. -/
def Team.order (t : Team) : Nat := bits t.mode 17 16
/-- mode.scope. -/
def Team.scope (t : Team) : Nat := bits t.mode 15 13
/-- The order has an acquire half (R47): its scope. -/
def Team.acqScope (t : Team) : Option Nat := if t.order = 1 ∨ t.order = 3 then some t.scope else none
/-- The order has a release half (R47): its scope. -/
def Team.relScope (t : Team) : Option Nat := if t.order = 2 ∨ t.order = 3 then some t.scope else none

/-- A value SETMODE accepts (R48). -/
def modeOk (v : Word) : Bool :=
  decide (bits v 12 0 = 0) && decide (bits v 27 23 < 16) && decide (bits v 22 20 < 5) && decide (bits v 15 13 < 6)

/-! ## Registers -/

/-- The bits of the lanes that exist (R57). -/
def Team.lanes (t : Team) : Mask := lanesMask t.nlanes
/-- Groups of the team (R57). -/
def Team.groups (t : Team) : Nat := ceilDiv t.nlanes 32

/-- Where an uncorrectable error in a lane's vector register, a scalar register, a mask register or a queue register is noted (R397). -/
def vkey (lane r : Nat) : Nat := lane * 128 + r
/-- The note of a scalar register. -/
def skey (n : Nat) : Nat := 2 ^ 17 + n
/-- The note of a mask register. -/
def mkey (n : Nat) : Nat := 2 ^ 17 + 64 + n
/-- The note of a queue register. -/
def qkey (n : Nat) : Nat := 2 ^ 17 + 72 + n
/-- The team with an error noted no more: its register has been written (R397). -/
def Team.mend (t : Team) (k : Nat) : Team := { t with spoilt := t.spoilt.filter (· != k) }

/-- A scalar register. -/
def Team.s (t : Team) (n : BitVec 6) : Word := t.sregs[n.toNat]
/-- The team with a scalar register written; an error in it ends (R397). -/
def Team.setS (t : Team) (n : BitVec 6) (w : Word) : Team := { t with sregs := t.sregs.set n.toNat w n.isLt, spoilt := t.spoilt.filter (· != skey n.toNat) }
/-- A mask register. -/
def Team.m (t : Team) (n : BitVec 3) : Mask := t.masks[n.toNat]
/-- The team with a mask register written: lanes that do not exist stay clear, and M0 is filtered by the live set (R15, R81). -/
def Team.setM (t : Team) (n : BitVec 3) (x : Mask) : Team :=
  let y := x &&& t.lanes
  { t with masks := t.masks.set n.toNat (if n = 0 then y &&& t.live else y) n.isLt, spoilt := t.spoilt.filter (· != mkey n.toNat) }

/-- A lane's vector register. -/
def Team.v (t : Team) (lane r : Nat) : Word := cellGet 0 t.vregs (vkey lane r)
/-- The team with a lane's vector register written; an error in it ends (R397). -/
def Team.setV (t : Team) (lane r : Nat) (w : Word) : Team :=
  { t with vregs := cellPut t.vregs (vkey lane r) w, spoilt := t.spoilt.filter (· != vkey lane r) }
/-- A run of registers of a lane written. -/
def Team.setVs (t : Team) (lane r : Nat) : List Word → Team
  | [] => t
  | w :: ws => (t.setV lane r w).setVs lane (r + 1) ws
/-- A run of registers of a lane. -/
def Team.vs (t : Team) (lane r : Nat) : Nat → List Word
  | 0 => []
  | n + 1 => t.v lane r :: t.vs lane (r + 1) n

/-- A pair of scalar registers, low word first (R3). -/
def Team.pair (t : Team) (n : BitVec 6) : Nat := (t.s n).toNat + 2 ^ 32 * (t.s (n + 1)).toNat

/-- The guard's lanes (R49). -/
def Team.guardMask (t : Team) : Mask :=
  if t.guard = 0 then lanesMask 1024
  else
    let g := t.m (BitVec.ofNat 3 t.guard)
    if t.ginv then ~~~g else g

/-- The effective mask M0 AND G (R49). -/
def Team.eff (t : Team) : Mask := t.m 0 &&& t.guardMask

/-- The lanes of the effective mask, in pass order (R63): ascending groups, ascending lanes. -/
def Team.active (t : Team) : List Nat := lanesBelow t.eff t.nlanes

/-- A literal of the clause (R39). -/
def Team.lit (t : Team) (n : BitVec 4) : Option Word := t.clause.lits[n.toNat]?

/-- The authority the team issues under (R326). -/
def State.auth (s : State) (t : Team) : Auth := (s.ctx t.part t.ctx).auth

/-- No clause. -/
def Clause.empty : Clause := { header := 0, instrs := [], lits := [] }

/-- A queue register at placement (R237). -/
def QPort.unbound : QPort := { bind := .unbound, fifo := [], staged := [] }

/-- A team as placement leaves it (R61): every register zero, M0 and the live set one bit for each lane, the flags clear, the pc at the entry. -/
def Team.fresh (p c core slot cluster ccore tid cid nteams nlanes nregs role vdie : Nat) (entry : Word) (stamp : Nat) : Team :=
  { part := p, ctx := c, core := core, slot := slot, cluster := cluster, ccore := ccore, tid := tid, cid := cid, nteams := nteams,
    nlanes := nlanes, nregs := nregs, role := role, vdie := vdie, place := .placed, pc := entry, base := entry, stage := .reach,
    clause := Clause.empty, mode := 0, sregs := Vector.replicate 64 0, masks := (Vector.replicate 8 0).set 0 (lanesMask nlanes),
    live := lanesMask nlanes, flags := Vector.replicate 12 0, vregs := [], spoilt := [], acwin := Vector.replicate 32 { base := 0, rows := 0 },
    qregs := Vector.replicate 16 QPort.unbound, refill := none, status := 0, abPc := 0, abSum := 0, abMask := Vector.replicate 32 0,
    swatch := none, popped := [], pushing := none, pushBad := [], pass := 0, claimed := [], hold := none, trap := none, pend := [], redo := .none,
    halted := false, debug := false, stopAt := none, age := stamp, passed := 0, idle := 0, acq := stamp, wave := none }

/-! ## Program order (R22, R42, R59) -/

/-- Instruction words of a header (R41). -/
def headerCount (h : Word) : Nat := bits h 11 7 + 1
/-- Literal words of a header (R41). -/
def headerLits (h : Word) : Nat := bits h 6 3

/-- The index of the instruction at pc in its clause. -/
def Team.idx (t : Team) : Nat := (t.pc.toNat - t.base.toNat) / 4 - 1

/-- The instruction at pc is the last of its clause. -/
def Team.isLast (t : Team) : Bool := decide (t.idx + 1 = t.clause.instrs.length)

/-- The fall-through clause: the word after the last literal (R22). DESIGN CHOICE: past a last word at 0xFFFFFFFC it is address 0 (log 97). -/
def Team.fall (t : Team) : Word := t.base + BitVec.ofNat 32 (4 * (1 + t.clause.instrs.length + t.clause.lits.length))

/-- The team at a clause it has still to reach (R42). -/
def Team.goto (t : Team) (a : Word) : Team := { t with pc := a, base := a, stage := .reach }

/-- The team past the instruction that has issued: the next word, or the fall-through clause. -/
def Team.next (t : Team) : Team := if t.isLast then t.goto t.fall else { t with pc := t.pc + 4 }

/-- The team past its instruction with nothing left of it: no popped values, no claims, no replay. -/
def Team.finish (t : Team) : Team := { t with popped := [], pass := 0, claimed := [], redo := .none, stopAt := none }

/-! ## Counters of the auditor (R368) -/

/-- The greatest value of a counter. -/
def countMax : Nat := 2 ^ 64 - 1

/-- One added to counter n of a context, saturating (R368). -/
def State.count (s : State) (p c n : Nat) : State :=
  let x := s.part p
  let k := n * 64 + c
  let v := cellGet 0 x.counts k
  s.setPart p { x with counts := cellPut x.counts k (if v < countMax then v + 1 else v) }

/-! ## Taking a trap -/

/-- The greatest number of a list. -/
def listMax : List Nat → Nat
  | [] => 0
  | a :: as => max a (listMax as)

/-- The least number above 0 that is not in a list. -/
def leastFree (ks : List Nat) : Nat := (((List.range (ks.length + 1)).map (· + 1)).find? fun n => !ks.contains n).getD (listMax ks + 1)

/-- A fault id that no unacknowledged fault holds, never 0 (R326, R355; log 5). -/
def State.freshId (s : State) : Nat :=
  let c := Config.faultId s.stamp % 2 ^ 32
  if c = 0 ∨ c ∈ recKeys s.traps then leastFree (recKeys s.traps) else c

/-- The lowest lane first. -/
def lowestFault : List LaneFault → Option LaneFault
  | [] => none
  | f :: fs =>
    match lowestFault fs with
    | none => some f
    | some g => if f.lane ≤ g.lane then some f else some g

/-- The cause that the owner's records list for a lane: what another device met, where that is it (R317, R357; log 92). -/
def LaneFault.listed (f : LaneFault) : Cause := f.dest.getD f.cause

/-- The pairs (group, cause code) of the faulting lanes, ascending (R317, R357), each once. -/
def faultPairs (fs : List LaneFault) : List (Nat × Nat) :=
  ((List.range 32).map fun g =>
    ((List.range 256).filter fun c => fs.any fun f => f.lane / 32 == g && f.listed.code == c).map fun c => (g, c)).flatten

/-- A continuation record (R357), its mask of lanes that are unfinished. -/
def contRecord (id : Nat) (un : Mask) (fs : List LaneFault) (g c : Nat) : List Word :=
  let mine := fs.filter fun f => f.lane / 32 == g && f.listed.code == c
  let va := match lowestFault mine with
    | some f => f.va
    | none => 0
  let m := mine.foldl (fun x f => x ||| (1#32 <<< (f.lane % 32))) 0
  [BitVec.ofNat 32 (c * 2 ^ 8 + g * 2 ^ 16), BitVec.ofNat 32 id, m &&& maskWord un g, 0, BitVec.ofNat 32 va, BitVec.ofNat 32 (va / 2 ^ 32), 0, 0]

/-- What a trap reports: everything the parts of R327 and R328 carry but the id. -/
structure TrapInfo where
  part : Nat
  ctx : Nat
  team : Option Nat
  wave : Bool
  pc : Nat
  scalar : Bool
  posted : Bool
  code : Nat
  obj : Nat
  vdie : Nat
  cause : Cause
  unfinished : Mask
  faults : List LaneFault
  redo : Redo
  deriving DecidableEq, Repr

/-- The causes of a trap: those of its lanes, or the one of the failed check. -/
def TrapInfo.causes (x : TrapInfo) : List Cause := if x.faults.isEmpty then [x.cause] else x.faults.map (·.cause)

/-- The primary lane's fault (R358). -/
def TrapInfo.primary (x : TrapInfo) : Option LaneFault := lowestFault x.faults

/-- The primary cause. -/
def TrapInfo.mainCause (x : TrapInfo) : Cause :=
  match x.primary with
  | some f => f.cause
  | none => x.cause

/-- The lane the owner part names: the primary lane, else the lowest lane of the unfinished mask. -/
def TrapInfo.lane (x : TrapInfo) : Nat :=
  match x.primary with
  | some f => f.lane
  | none => ((lanesBelow x.unfinished 1024).head?).getD 0

/-- The continuation records of R357: none for a failed check; of a scalar record or a posted entry, that of the cause which another device met (R317; log 92). -/
def TrapInfo.continuations (x : TrapInfo) (id : Nat) : List (List Word) :=
  let fs := if x.scalar || x.posted then x.faults.filter (·.dest.isSome) else x.faults
  ((faultPairs fs).filter fun p => !(p.1 == x.lane / 32 && p.2 == x.mainCause.code)).map fun p => contRecord id x.unfinished fs p.1 p.2

/-- The primary owner part (R327); a wave's lane count (R306) has no field in it (log 90). -/
def TrapInfo.ownerPart (x : TrapInfo) (id : Nat) (actOwn : Bool) : List Word :=
  let va := match x.primary with
    | some f => f.va
    | none => 0
  let more := !(x.continuations id).isEmpty
  let g := x.lane / 32
  let w0 := x.mainCause.code + (if x.scalar then 2 ^ 8 else 0) + (if x.wave then 2 ^ 9 else 0) + (if more then 2 ^ 10 else 0)
    + (if actOwn then 0 else 2 ^ 11) + (if x.posted then 2 ^ 12 else 0) + g * 2 ^ 16
  [BitVec.ofNat 32 w0, BitVec.ofNat 32 id, BitVec.ofNat 32 x.pc, BitVec.ofNat 32 x.obj, BitVec.ofNat 32 va,
   BitVec.ofNat 32 (va / 2 ^ 32), maskWord x.unfinished g,
   BitVec.ofNat 32 (x.lane % 2 ^ 10 + x.vdie % 2 ^ 3 * 2 ^ 16 + x.code % 2 ^ 8 * 2 ^ 24)]

/-- The lane whose cause the operator part carries (R357): the lowest with a stage-2 cause, else the lowest with MEM_UNCORR, else the primary lane. -/
def TrapInfo.operatorLane (x : TrapInfo) : Option LaneFault :=
  match lowestFault (x.faults.filter (·.cause.stage2)) with
  | some f => some f
  | none =>
    match lowestFault (x.faults.filter (·.cause == .memUncorr)) with
    | some f => some f
    | none => x.primary

/-- The operator part (R328). -/
def TrapInfo.operatorPart (x : TrapInfo) (id : Nat) (act : Bool) : List Word :=
  let f := x.operatorLane
  let cause := match f with
    | some f => f.cause
    | none => x.cause
  let page := match f with
    | some f => if act then f.page - f.page % 4096 else 0
    | none => 0
  let tier := match f with
    | some f => f.tier
    | none => 3
  let size := match f with
    | some f => if page = 0 then 0 else f.size
    | none => 0
  [BitVec.ofNat 32 (cause.code + (if act then 2 ^ 8 else 0) + tier * 2 ^ 9 + x.ctx * 2 ^ 16), BitVec.ofNat 32 id,
   BitVec.ofNat 32 page, BitVec.ofNat 32 (page / 2 ^ 32), BitVec.ofNat 32 size, 0, 0, 0]

/-- An operator part that no one acknowledges (R328, R373): the size of the page only where a page is named. -/
def noticeRecord (c : Cause) (tier ctx page size : Nat) : List Word :=
  let p := page - page % 4096
  [BitVec.ofNat 32 (c.code + 2 ^ 8 + tier * 2 ^ 9 + ctx * 2 ^ 16), 0, BitVec.ofNat 32 p, BitVec.ofNat 32 (p / 2 ^ 32),
   BitVec.ofNat 32 (if p = 0 then 0 else size), 0, 0, 0]

/-- The owner acknowledges the trap (R356): never in a context that issues as operator or auditor. -/
def TrapInfo.actOwn (x : TrapInfo) (a : Auth) : Bool := a == .owner && x.causes.any (·.ownerActs)

/-- The operator acknowledges the trap (R356): every cause of a context that issues as operator or auditor. -/
def TrapInfo.actOp (x : TrapInfo) (a : Auth) : Bool := a != .owner || x.causes.any (·.operatorActs)

/-- A block of records waits for room in the owner's fault queue (R326), each with the physical die it starts from. -/
def State.tellOwner (s : State) (p c die : Nat) (b : FaultBlock) : State :=
  let x := s.ctx p c
  s.setCtx p c { x with ownParts := x.ownParts ++ [b.map (· ++ [BitVec.ofNat 32 die])] }

/-- A record waits for room in the operator's fault queue (R326), with the physical die it starts from. -/
def State.tellOperator (s : State) (p die : Nat) (r : List Word) : State :=
  let x := s.part p
  s.setPart p { x with opParts := x.opParts ++ [[r ++ [BitVec.ofNat 32 die]]] }

/-- One fault counted once under each cause its lanes carry, and an uncorrectable error that it has met (R368). -/
def State.countCauses (s : State) (p c : Nat) (codes : List Nat) : State :=
  ((List.range 261).filter (codes.contains ·)).foldl (fun s n => s.count p c n) s

/-- A hold that came after its instruction had issued: a fault meanwhile does not end it. -/
def Hold.survives : Hold → Bool
  | .tack .. => true
  | .tackDone => true
  | .opDone _ => true
  | .sync _ => true
  | _ => false

/-- The hold that stays with a team that parks. -/
def keptHold (h : Option Hold) : Option Hold :=
  match h with
  | some x => if x.survives then some x else none
  | none => none

/-- The physical die that a fault's records start from: its team's core's, else the one bound to its virtual die (R326). -/
def State.faultDie (s : State) (x : TrapInfo) : Nat :=
  match x.team.bind s.team with
  | some t => t.core / Config.coresPerDie
  | none => ((s.ctx x.part x.ctx).vdmap[x.vdie]?).getD 0

/-- TAKING A TRAP. The fault gets an id; its owner records, as one block, and its operator part go to wait for their queues (R326, R357); the auditor counts it under each of its causes (R368); the fault stays until its acting authorities acknowledge it (R332); and the team, where there is one, parks on it (R137, R358). -/
def State.takeTrap (s : State) (x : TrapInfo) : State :=
  let id := s.freshId
  let a := (s.ctx x.part x.ctx).auth
  let rec1 : TrapRec :=
    { part := x.part, ctx := x.ctx, team := x.team, pc := x.pc, scalar := x.scalar, posted := x.posted, code := x.code, obj := x.obj,
      cause := x.mainCause, unfinished := x.unfinished, faults := x.faults, actOwn := x.actOwn a, actOp := x.actOp a,
      ackOwn := false, ackOp := false, decided := false, redo := x.redo }
  let s1 := { s with traps := cellPut s.traps id rec1, stamp := s.stamp + 1 }
  let die := s.faultDie x
  let s2 := s1.tellOwner x.part x.ctx die (x.ownerPart id (x.actOwn a) :: x.continuations id)
  let s3 := s2.tellOperator x.part die (x.operatorPart id (x.actOp a))
  let s4 := s3.countCauses x.part x.ctx (x.causes.map (·.code) ++ if x.causes.contains .memUncorr then [0x104] else [])
  match x.team with
  | none => s4
  | some i => s4.modTeam i fun t => { t with trap := some id, hold := keptHold t.hold }

/-- A notice to the owner: an owner part with id 0, which needs and takes no acknowledgement (R354, R153, R366, R389). -/
def State.noticeOwner (s : State) (p c : Nat) (cause : Cause) (obj va code vdie pc : Nat) : State :=
  s.tellOwner p c (((s.ctx p c).vdmap[vdie]?).getD 0) [[BitVec.ofNat 32 cause.code, 0, BitVec.ofNat 32 pc, BitVec.ofNat 32 obj, BitVec.ofNat 32 va,
    BitVec.ofNat 32 (va / 2 ^ 32), 0, BitVec.ofNat 32 (vdie % 2 ^ 3 * 2 ^ 16 + code % 2 ^ 8 * 2 ^ 24)]]

/-- The fault of the whole instruction of a team (R358): a failed check of R55. Once-executed instructions leave the unfinished mask empty; vector ones name the effective mask. -/
def checkInfo (i : Nat) (t : Team) (scalar : Bool) (c : Cause) (code : Nat) (redo : Redo) : TrapInfo :=
  { part := t.part, ctx := t.ctx, team := some i, wave := t.wave.isSome, pc := t.pc.toNat, scalar := scalar, posted := false, code := code,
    obj := match t.wave with
      | some w => w.handle.toNat
      | none => 0,
    vdie := t.vdie, cause := c, unfinished := if scalar then 0 else t.eff, faults := [], redo := redo }

/-- The notice of a debug stop at BRK (R366): a full owner part with id 0, from the die of the team's core. -/
def State.breakNotice (s : State) (i : Nat) (t : Team) (code : Nat) : State :=
  s.tellOwner t.part t.ctx (t.core / Config.coresPerDie) [(checkInfo i t true .brk code .none).ownerPart 0 true]

/-- The fault of some lanes of an instruction, or of a scalar access (R106, R137, R358). -/
def lanesInfo (i : Nat) (t : Team) (pc : Nat) (scalar : Bool) (fs : List LaneFault) (redo : Redo) : TrapInfo :=
  { checkInfo i t scalar .align 0 redo with
    pc := pc, faults := fs, unfinished := if scalar then 0 else maskOf (fs.map (·.lane)) }

/-- The fault of a posted entry, raised at the instruction that needs it drained (R284). -/
def postedInfo (i : Nat) (t : Team) (entry : Nat) (f : LaneFault) : TrapInfo :=
  { checkInfo i t true f.cause 0 (.posted entry) with posted := true, faults := [f], unfinished := 0 }

end Sys2Proof.Machine
end

