-- ==== Sys2Proof/Machine/Flags.lean ====
section
/-! DEFINITION. Flags: the sticky bits of the status word (R183), how they are set and cleared (R184), and the done-flag counts (R45). -/

namespace Sys2Proof.Machine

open Sys2Proof

/-! ## Status bits (R183) -/

/-- st.inv. -/
def stInv : Nat := 1
/-- st.div0. -/
def stDiv0 : Nat := 2
/-- st.ovf. -/
def stOvf : Nat := 4
/-- st.unf. -/
def stUnf : Nat := 8
/-- st.inx. -/
def stInx : Nat := 16
/-- st.sat. -/
def stSat : Nat := 32
/-- st.fmt. -/
def stFmt : Nat := 64
/-- st.odrop. -/
def stOdrop : Nat := 128

/-! ## Setting and clearing -/

/-- The status word after the bits x come: they stick (R183). -/
def Team.addStatus (t : Team) (x : Nat) : Team := { t with status := t.status ||| BitVec.ofNat 32 (x % 256) }

/-- The status word after a write of v: ones clear, W1C; the reserved bits stay zero (R183, R367). -/
def Team.clearStatus (t : Team) (v : Word) : Team := { t with status := t.status &&& ~~~v }

/-! ## Done flags (R45) -/

/-- The done flag of a class in the team's clause: none where the set field is 15 (R41, R45). -/
def Team.setFlag (t : Team) (classB : Bool) : Option Nat :=
  let n := if classB then bits t.clause.header 15 12 else bits t.clause.header 19 16
  if n < 12 then some n else none

/-- The count of a done flag. -/
def Team.flag (t : Team) (n : Nat) : Nat := (t.flags[n]?).getD 0

/-- The team with a done flag's count changed. -/
def Team.withFlag (t : Team) (n : Nat) (f : Nat → Nat) : Team := { t with flags := t.flags.setIfInBounds n (f (t.flag n)) }

/-- One added to the flag of a class, for the whole instruction (R45). -/
def Team.raiseFlag (t : Team) (fl : Option Nat) : Team :=
  match fl with
  | none => t
  | some n => t.withFlag n (· + 1)

/-- One taken from a flag's count when its operation has completed (R45). -/
def Team.lowerFlag (t : Team) (fl : Option Nat) : Team :=
  match fl with
  | none => t
  | some n => t.withFlag n (· - 1)

/-- The flag is at its limit: a further count would pass 1,023 (R45). -/
def Team.flagFull (t : Team) (fl : Option Nat) : Bool :=
  match fl with
  | none => false
  | some n => decide (Config.flagMax ≤ t.flag n)

end Sys2Proof.Machine
end

