-- ==== Sys2Proof/Machine/Num.lean ====
section
/-! DEFINITION. Num: the floating formats (R171, R172), exact dyadic values, the one rounding (R178 to R181), conversions (R104), and the integer arithmetic of an element type (R111). Every result comes with the sticky bits it sets (R183). -/

namespace Sys2Proof.Machine

open Sys2Proof

/-! ## Formats -/

/-- A floating format (R171): its widths, bias, greatest finite code, and whether it has infinities and signalling NaNs. -/
structure Fmt where
  width : Nat
  mbits : Nat
  bias : Nat
  maxCode : Nat
  hasInf : Bool
  flushes : Bool
  nan : Nat
  deriving DecidableEq, Repr

/-- F32. -/
def fmtF32 : Fmt := { width := 32, mbits := 23, bias := 127, maxCode := 0x7F7FFFFF, hasInf := true, flushes := true, nan := 0x7FC00000 }
/-- F16. -/
def fmtF16 : Fmt := { width := 16, mbits := 10, bias := 15, maxCode := 0x7BFF, hasInf := true, flushes := true, nan := 0x7E00 }
/-- BF16. -/
def fmtBF16 : Fmt := { width := 16, mbits := 7, bias := 127, maxCode := 0x7F7F, hasInf := true, flushes := true, nan := 0x7FC0 }
/-- E4M3: no infinity; one NaN code. -/
def fmtE4M3 : Fmt := { width := 8, mbits := 3, bias := 7, maxCode := 0x7E, hasInf := false, flushes := false, nan := 0x7F }
/-- E5M2. -/
def fmtE5M2 : Fmt := { width := 8, mbits := 2, bias := 15, maxCode := 0x7B, hasInf := true, flushes := false, nan := 0x7E }

/-- The format of a floating type. -/
def fmtOf : Ty → Option Fmt
  | .f32 => some fmtF32
  | .f16 => some fmtF16
  | .bf16 => some fmtBF16
  | .e4m3 => some fmtE4M3
  | .e5m2 => some fmtE5M2
  | _ => none

/-- A floating value: NaN (signalling or not), an infinity, or (-1)^neg times m times 2^e. -/
inductive Val where
  | nan (signalling : Bool)
  | inf (neg : Bool)
  | fin (neg : Bool) (m : Nat) (e : Int)
  deriving DecidableEq, Repr

/-- The sign bit of a code. -/
def Fmt.neg (f : Fmt) (x : Nat) : Bool := x.testBit (f.width - 1)

/-- The code without its sign. -/
def Fmt.mag (f : Fmt) (x : Nat) : Nat := x % 2 ^ (f.width - 1)

/-- The code of a sign and magnitude. -/
def Fmt.signed (f : Fmt) (neg : Bool) (mag : Nat) : Nat := if neg then mag + 2 ^ (f.width - 1) else mag

/-- The value of a code (R172). -/
def Fmt.val (f : Fmt) (x : Nat) : Val :=
  let neg := f.neg x
  let mag := f.mag x
  if mag > f.maxCode then
    if f.hasInf ∧ mag = f.maxCode + 1 then .inf neg
    else .nan (f.flushes && !mag.testBit (f.mbits - 1))
  else
    let ex := mag / 2 ^ f.mbits
    let fr := mag % 2 ^ f.mbits
    if ex = 0 then .fin neg fr (1 - (f.bias : Int) - (f.mbits : Int))
    else .fin neg (2 ^ f.mbits + fr) ((ex : Int) - (f.bias : Int) - (f.mbits : Int))

/-- A subnormal code. -/
def Fmt.subnormal (f : Fmt) (x : Nat) : Bool := decide (f.mag x ≠ 0) && decide (f.mag x < 2 ^ f.mbits)

/-- A code with the flush of inputs (R181): a subnormal reads as a zero of its sign. -/
def Fmt.flushIn (f : Fmt) (flush : Bool) (x : Nat) : Nat :=
  if flush && f.flushes && f.subnormal x then f.signed (f.neg x) 0 else x % 2 ^ f.width

/-- The value of a code after the flush of inputs. -/
def Fmt.input (f : Fmt) (flush : Bool) (x : Nat) : Val := f.val (f.flushIn flush x)

/-! ## Rounding -/

/-- The magnitude rounds up from its truncation: `odd` the last bit kept, `rem` what is cut off of 2^sh (R178). -/
def roundsUp (rm : Rnd) (neg odd : Bool) (rem sh : Nat) : Bool :=
  match rm with
  | .rne => decide (2 * rem > 2 ^ sh) || (decide (2 * rem = 2 ^ sh) && odd)
  | .rz => false
  | .ru => !neg && decide (rem ≠ 0)
  | .rd => neg && decide (rem ≠ 0)
  | .rna => decide (2 * rem ≥ 2 ^ sh)

/-- m times 2^e rounded to a multiple of 2^q: the multiple, and whether it is exact. -/
def roundAt (rm : Rnd) (neg : Bool) (m : Nat) (e q : Int) : Nat × Bool :=
  if q ≤ e then (m * 2 ^ (e - q).toNat, true)
  else
    let sh := (q - e).toNat
    let t := m / 2 ^ sh
    let r := m % 2 ^ sh
    (if roundsUp rm neg (t % 2 == 1) r sh then t + 1 else t, r == 0)

/-- What an overflow delivers as a magnitude (R179), with saturation of a narrowing (R104), and its bits. -/
def Fmt.overflow (f : Fmt) (rm : Rnd) (sat neg : Bool) : Nat × Nat :=
  let toInf := match rm with
    | .rne => true
    | .rna => true
    | .rz => false
    | .ru => !neg
    | .rd => neg
  if !toInf then (f.signed neg f.maxCode, stOvf + stInx)
  else if sat then (f.signed neg f.maxCode, stOvf + stInx + stSat)
  else if f.hasInf then (f.signed neg (f.maxCode + 1), stOvf + stInx)
  else (f.nan, stOvf + stInx)

/-- The one rounding of an exact result (R178 to R181): its code and the bits it sets. -/
def Fmt.round (f : Fmt) (rm : Rnd) (flush sat : Bool) (neg : Bool) (m : Nat) (e : Int) : Nat × Nat :=
  if m = 0 then (f.signed neg 0, 0)
  else
    let top : Int := (m.log2 : Int) + e
    let emin : Int := 1 - (f.bias : Int)
    let (n, exact) := roundAt rm neg m e (top - f.mbits)
    let top' : Int := if n = 2 ^ (f.mbits + 1) then top + 1 else top
    if top' < emin then
      let (n2, exact2) := roundAt rm neg m e (emin - f.mbits)
      let bits := if exact2 then 0 else stUnf + stInx
      if flush && f.flushes && decide (n2 ≠ 0) && decide (n2 < 2 ^ f.mbits) then (f.signed neg 0, stUnf + stInx)
      else (f.signed neg n2, bits)
    else
      let fr := if n = 2 ^ (f.mbits + 1) then 0 else n - 2 ^ f.mbits
      let code := (top' + f.bias).toNat * 2 ^ f.mbits + fr
      if code > f.maxCode then f.overflow rm sat neg
      else (f.signed neg code, if exact then 0 else stInx)

/-- A result that is not exact, whatever its last rounding was: a tiny one underflows as well (R180). -/
def Fmt.inexact (f : Fmt) (r : Nat × Nat) : Nat × Nat := (r.1, r.2 ||| if f.mag r.1 < 2 ^ f.mbits then stUnf + stInx else stInx)

/-! ## Exact sums and products -/

/-- A signed dyadic number: m times 2^e. -/
structure Dy where
  m : Int
  e : Int
  deriving DecidableEq, Repr

/-- The exact sum. -/
def Dy.add (x y : Dy) : Dy :=
  let e := min x.e y.e
  { m := x.m * 2 ^ (x.e - e).toNat + y.m * 2 ^ (y.e - e).toNat, e := e }

/-- The exact product. -/
def Dy.mul (x y : Dy) : Dy := { m := x.m * y.m, e := x.e + y.e }

/-- The signed mantissa of a finite value. -/
def signedM (neg : Bool) (m : Nat) : Int := if neg then -(m : Int) else m

/-- A dyadic number rounded; an exact zero takes the sign given. -/
def Fmt.roundDy (f : Fmt) (rm : Rnd) (flush sat zeroNeg : Bool) (x : Dy) : Nat × Nat :=
  if x.m = 0 then (f.signed zeroNeg 0, 0) else f.round rm flush sat (decide (x.m < 0)) x.m.natAbs x.e

/-- A signalling NaN among the operands sets st.inv (R183). -/
def anySignalling (vs : List Val) : Bool := vs.any fun v => v == .nan true
/-- A NaN among the operands. -/
def anyNan (vs : List Val) : Bool := vs.any fun v => match v with
  | .nan _ => true
  | _ => false

/-- The canonical NaN, with st.inv where an operation made it or a signalling operand met it. -/
def Fmt.nanOut (f : Fmt) (inv : Bool) : Nat × Nat := (f.nan, if inv then stInv else 0)

/-- A sum of two values, the second perhaps exact and outside the format (a product), rounded once. -/
def Fmt.addVals (f : Fmt) (rm : Rnd) (flush : Bool) (x y : Val) : Nat × Nat :=
  match x, y with
  | .nan a, .nan b => f.nanOut (a || b)
  | .nan a, _ => f.nanOut a
  | _, .nan b => f.nanOut b
  | .inf a, .inf b => if a = b then (f.signed a (f.maxCode + 1), 0) else f.nanOut true
  | .inf a, _ => (f.signed a (f.maxCode + 1), 0)
  | _, .inf b => (f.signed b (f.maxCode + 1), 0)
  | .fin a m e, .fin b n k =>
    let zero := if m = 0 ∧ n = 0 ∧ a = b then a else rm == .rd
    f.roundDy rm flush false zero (Dy.add { m := signedM a m, e := e } { m := signedM b n, e := k })

/-- The exact product of two values; infinity times zero is a NaN made here (st.inv). -/
def mulVals (x y : Val) : Val × Bool :=
  match x, y with
  | .nan a, .nan b => (.nan false, a || b)
  | .nan a, _ => (.nan false, a)
  | _, .nan b => (.nan false, b)
  | .inf a, .inf b => (.inf (a != b), false)
  | .inf a, .fin b n _ => if n = 0 then (.nan false, true) else (.inf (a != b), false)
  | .fin a m _, .inf b => if m = 0 then (.nan false, true) else (.inf (a != b), false)
  | .fin a m e, .fin b n k => (.fin (a != b) (m * n) (e + k), false)

/-- A value rounded into a format. -/
def Fmt.roundVal (f : Fmt) (rm : Rnd) (flush sat : Bool) (x : Val) : Nat × Nat :=
  match x with
  | .nan _ => (f.nan, 0)
  | .inf a => (f.signed a (f.maxCode + 1), 0)
  | .fin a m e => f.round rm flush sat a m e

/-- A + B, rounded once. -/
def Fmt.add (f : Fmt) (rm : Rnd) (flush : Bool) (x y : Nat) : Nat × Nat := f.addVals rm flush (f.input flush x) (f.input flush y)

/-- The code with its sign changed. -/
def Fmt.negate (f : Fmt) (x : Nat) : Nat := f.signed (!f.neg x) (f.mag x)

/-- A - B, rounded once. -/
def Fmt.sub (f : Fmt) (rm : Rnd) (flush : Bool) (x y : Nat) : Nat × Nat :=
  f.addVals rm flush (f.input flush x) (match f.input flush y with
    | .nan a => .nan a
    | .inf a => .inf (!a)
    | .fin a m e => .fin (!a) m e)

/-- A times B, rounded once. -/
def Fmt.mul (f : Fmt) (rm : Rnd) (flush : Bool) (x y : Nat) : Nat × Nat :=
  let (p, inv) := mulVals (f.input flush x) (f.input flush y)
  let (c, b) := f.roundVal rm flush false p
  (c, b ||| if inv then stInv else 0)

/-- A times B plus C with a single rounding (R18); `neg` negates the product. DESIGN CHOICE: SFMA, too, sets st.inv for a product of 0 and infinity whatever C holds (log 114). -/
def Fmt.fma (f : Fmt) (rm : Rnd) (flush neg : Bool) (x y z : Nat) : Nat × Nat :=
  let (p, inv) := mulVals (f.input flush x) (f.input flush y)
  let p := match p with
    | .fin a m e => if neg then .fin (!a) m e else .fin a m e
    | .inf a => if neg then .inf (!a) else .inf a
    | v => v
  let (c, b) := f.addVals rm flush p (f.input flush z)
  (c, b ||| if inv then stInv else 0)

/-! ## Comparison -/

/-- The order of two finite values. -/
def Dy.lt (x y : Dy) : Bool := decide ((Dy.add x { m := -y.m, e := y.e }).m < 0)

/-- A number below another, NaN apart: zeros are equal (R96). -/
def Val.lt (x y : Val) : Bool :=
  match x, y with
  | .nan _, _ => false
  | _, .nan _ => false
  | .inf a, .inf b => a && !b
  | .inf a, _ => a
  | _, .inf b => !b
  | .fin a m e, .fin b n k => Dy.lt { m := signedM a m, e := e } { m := signedM b n, e := k }

/-- Two numbers are equal, NaN apart. -/
def Val.eq (x y : Val) : Bool := !anyNan [x, y] && !x.lt y && !y.lt x

/-! ## Integers of a type (R108, R111) -/

/-- The width of a type's element. -/
def Ty.width : Ty → Nat
  | .i8 | .n8 | .e4m3 | .e5m2 | .s8e => 8
  | .i16 | .n16 | .f16 | .bf16 => 16
  | .i64 | .n64 => 64
  | .q4x => 4
  | _ => 32

/-- A signed integer type. -/
def Ty.signed : Ty → Bool
  | .i8 | .i16 | .i32 | .i64 => true
  | _ => false

/-- An integer type. -/
def Ty.isInt : Ty → Bool
  | .i8 | .i16 | .i32 | .i64 | .n8 | .n16 | .n32 | .n64 => true
  | _ => false

/-- A floating type of arithmetic. -/
def Ty.isFloat : Ty → Bool
  | .f16 | .bf16 | .f32 => true
  | _ => false

/-- A type of 64 bits. -/
def Ty.wide : Ty → Bool
  | .i64 | .n64 => true
  | _ => false

/-- The integer that the low bits of an element hold. -/
def Ty.int (y : Ty) (x : Nat) : Int := if y.signed then signedOf y.width x else ((x % 2 ^ y.width : Nat) : Int)

/-- The least integer of a type. -/
def Ty.lo (y : Ty) : Int := if y.signed then -2 ^ (y.width - 1) else 0
/-- The greatest integer of a type. -/
def Ty.hi (y : Ty) : Int := if y.signed then 2 ^ (y.width - 1) - 1 else 2 ^ y.width - 1

/-- An integer clamped into a type. -/
def Ty.clamp (y : Ty) (x : Int) : Int := if x < y.lo then y.lo else if y.hi < x then y.hi else x

/-- The bits of an element result: sign-extended for I8 and I16 (R104, R108), else zero-extended; 64 bits for the wide types. -/
def Ty.extend (y : Ty) (x : Int) : Nat :=
  let v := lowBits y.width x
  if y.wide then v
  else if y.signed then lowBits 32 (signedOf y.width v) else v

/-- An integer result stored (R111, R182): with sat it clamps and sets st.sat, without it wraps. -/
def Ty.store (y : Ty) (sat : Bool) (x : Int) : Nat × Nat :=
  if sat then (y.extend (y.clamp x), if y.clamp x = x then 0 else stSat) else (y.extend x, 0)

/-! ## Conversions (R104) -/

/-- A finite value rounded to an integer. -/
def roundInt (rm : Rnd) (neg : Bool) (m : Nat) (e : Int) : Int × Bool :=
  let (n, exact) := roundAt rm neg m e 0
  (signedM neg n, exact)

/-- A float converted to an integer type: clamped out of range, with st.inv; NaN gives 0 (R104). -/
def floatToInt (f : Fmt) (y : Ty) (rm : Rnd) (flush : Bool) (x : Nat) : Nat × Nat :=
  match f.input flush x with
  | .nan _ => (0, stInv)
  | .inf a => (y.extend (if a then y.lo else y.hi), stInv)
  | .fin a m e =>
    let (n, exact) := roundInt rm a m e
    if y.clamp n = n then (y.extend n, if exact then 0 else stInx) else (y.extend (y.clamp n), stInv)

/-- A float converted to a float format (R104). -/
def floatToFloat (f g : Fmt) (rm : Rnd) (flush sat : Bool) (x : Nat) : Nat × Nat :=
  match f.input flush x with
  | .nan sg => (g.nan, if sg then stInv else 0)
  | .inf a =>
    if g.hasInf then (g.signed a (g.maxCode + 1), 0)
    else if sat then (g.signed a g.maxCode, stSat)
    else (g.nan, stInv)
  | .fin a m e => g.round rm flush sat a m e

/-- A conversion between two types (R104): the result's bits, extended, and the sticky bits it sets. DESIGN CHOICE: between equal types mode.flush does not act (log 101). -/
def convert (src dst : Ty) (rm : Rnd) (flush sat : Bool) (x : Nat) : Nat × Nat :=
  if src = dst then (if src.isInt then dst.extend (src.int x) else x % 2 ^ src.width, 0)
  else
    match fmtOf src, fmtOf dst with
    | none, none => dst.store sat (src.int x)
    | none, some g => let n := src.int x; g.round rm flush sat (decide (n < 0)) n.natAbs 0
    | some f, none => floatToInt f dst rm flush x
    | some f, some g => floatToFloat f g rm flush sat x

end Sys2Proof.Machine
end

