-- ==== Sys2Proof/Machine/Translate.lean ====
section
/-! DEFINITION. Translate: partitions' resources (R375, R376, R402), the two-stage walk (R339 to R347), the TLB, thimbles and walker caches (R348), and the drains that hold translations (R349). -/

namespace Sys2Proof.Machine

open Sys2Proof

/-! ## What a partition owns -/

/-- The quarters of partition p under part.shape (R375, R376); none where p is no partition. -/
def shapeQuarters (shape p : Nat) : List Nat :=
  match shape, p with
  | 0, 0 => [0, 1, 2, 3]
  | 1, 0 => [0, 1] | 1, 2 => [2, 3]
  | 2, 0 => [0] | 2, 1 => [1] | 2, 2 => [2] | 2, 3 => [3]
  | 3, 0 => [0, 1] | 3, 2 => [2] | 3, 3 => [3]
  | 4, 0 => [0] | 4, 1 => [1] | 4, 2 => [2, 3]
  | _, _ => []

/-- The quarters of a partition. -/
def State.quarters (s : State) (p : Nat) : List Nat := shapeQuarters s.dev.shape p

/-- A merge or split handshake of the partition's quarters runs (R378). -/
def State.merging (s : State) (p : Nat) : Bool :=
  decide (1 ≤ s.dev.mrgState) && decide (s.dev.mrgState ≤ 3) && decide (p / 2 = if s.dev.mrgPair then 1 else 0)

/-- A die that works (R375). -/
def State.dieWorks (s : State) (d : Nat) : Bool := !(s.dev.harvValid && s.dev.harvDie == d)

/-- The compute dies of a partition, ascending (R375). -/
def State.partDies (s : State) (p : Nat) : List Nat :=
  (List.range Config.dies).filter fun d => (s.quarters p).contains (d / 2) && s.dieWorks d

/-- A machine page is backed and owned by the partition (R342, R402). The CXL tiers follow the decoders outside the device (R383) and count as backed. -/
def State.backed (s : State) (p tier ma : Nat) : Bool :=
  if tier = 0 then
    decide (ma / 2 ^ 36 < 8) && decide (ma % 2 ^ 36 < 48 * 2 ^ 30) && (s.partDies p).contains (ma / 2 ^ 36)
  else if tier = 1 then decide (ma / 2 ^ 38 < 4) && (s.quarters p).contains (ma / 2 ^ 38)
  else true

/-- The key of a machine address of a tier in State.mem. -/
def memKey (tier ma : Nat) : Nat := tier * 2 ^ 52 + ma
/-- The tier of a key. -/
def keyTier (k : Nat) : Nat := k / 2 ^ 52
/-- The machine address of a key. -/
def keyMa (k : Nat) : Nat := k % 2 ^ 52

/-- The home die of a machine line (R230, R377, R402), for the partition's interleave. -/
def State.home (s : State) (p key : Nat) : Nat :=
  if keyTier key = 0 then keyMa key / 2 ^ 36
  else
    let ds := s.partDies p
    let g := 4096 * 2 ^ (cellGet 4 s.dev.ilv p)
    (ds[(keyMa key / g) % ds.length]?).getD 0

/-- The physical die a core stands on. -/
def coreDie (n : Nat) : Nat := n / Config.coresPerDie

/-- A granule of 32 bytes holds an uncorrectable error (R397). -/
def State.granuleBad (s : State) (key : Nat) : Bool := s.bad.contains (key / 32)
/-- Some granule of a run of bytes holds an uncorrectable error. -/
def State.rangeBad (s : State) (key n : Nat) : Bool :=
  (List.range (ceilDiv (key % 32 + n) 32)).any fun i => s.granuleBad (key + 32 * i)

/-! ## Keys of memory (R384) -/

/-- A number for a key, to apply a free value to. -/
def keyNat : Key → Nat
  | .none => 0
  | .random n => 2 * n + 1
  | .imported bs => 2 * bytesNat bs + 2

/-- A byte at its home, read under a key: HBM is in clear; elsewhere a byte written under another key reads as unrelated bytes. -/
def State.homeByte (s : State) (k : Key) (a : Nat) : Byte :=
  let b := memRead s.mem a
  if keyTier a = 0 then b
  else
    let w := cellGet Key.none s.tags a
    if w = .none ∨ w = k then b else Config.foreign (keyNat w * 2 ^ 64 + keyNat k) a b

/-- A run of bytes at home under a key. -/
def State.homeBytes (s : State) (k : Key) (a n : Nat) : List Byte := (List.range n).map fun i => s.homeByte k (a + i)

/-- The key under which a context's accesses leave the device. -/
def State.ctxMemKey (s : State) (p c : Nat) : Key := (s.ctx p c).key

/-! ## Table entries -/

/-- A number of 8 bytes in memory, at its home, read under a key (R339, R384). -/
def State.read64 (s : State) (k : Key) (key : Nat) : Nat := bytesNat (s.homeBytes k key 8)

/-- A bit of a table entry. -/
def ebit (e i : Nat) : Bool := e.testBit i
/-- The page field [51:12] of an entry. -/
def epage (e : Nat) : Nat := e % 2 ^ 52 - e % 2 ^ 12

/-- The size of a leaf at a level (R339), or of a 64 KiB leaf. -/
def leafSize (lvl : Nat) (c64 : Bool) : Nat :=
  if lvl = 1 then (if c64 then 2 ^ 16 else 2 ^ 12) else if lvl = 2 then 2 ^ 21 else 2 ^ 30
/-- The size code of a page size (R328, R349). -/
def sizeCode (n : Nat) : Nat := if n = 2 ^ 12 then 0 else if n = 2 ^ 16 then 1 else if n = 2 ^ 21 then 2 else 3
/-- The page size of a size code (R349, R373). -/
def codeSize (c : Nat) : Nat := if c = 0 then 2 ^ 12 else if c = 1 then 2 ^ 16 else if c = 2 then 2 ^ 21 else 2 ^ 30
/-- The size code of a leaf at the level where a walk stopped (R328). -/
def stopCode (lvl : Nat) : Nat := if lvl = 1 then 0 else if lvl = 2 then 2 else 3

/-- The index of a level in an address (R339). -/
def levelIndex (a lvl : Nat) : Nat := a / 2 ^ (12 + 9 * (lvl - 1)) % 512

/-- The 16 entries of a c64 group are identical (R342). DESIGN CHOICE: in all 64 bits, those that R340 and R341 call reserved or ignored among them (log 109). -/
def State.c64Same (s : State) (k : Key) (key e : Nat) : Bool :=
  (List.range 16).all fun i => s.read64 k (key - key % 128 + 8 * i) == e

/-- A leaf or table entry at a level is malformed (R342), given its table and c64 bits. -/
def State.malformed (s : State) (k : Key) (key e lvl : Nat) (table c64 : Bool) : Bool :=
  (table && lvl == 1) || (!table && decide (4 ≤ lvl)) || (!table && lvl == 1 && c64 && !s.c64Same k key e)

/-- The tier that an operator part names (R328): both codes of CXL memory are 2, and 3 is none. -/
def opTier (t : Nat) : Nat := if t = 3 then 2 else t

/-- What a walk gives. -/
inductive Walked (α : Type) where
  | ok (a : α)
  | fault (c : Cause) (page tier size : Nat)
  /-- Held on s2.mig (R350). -/
  | mig
  /-- Held on a drain (R349). -/
  | drain
  deriving DecidableEq, Repr

/-- A stage-2 leaf reached: the key of the address, its tier, the leaf's size and rights. -/
structure S2 where
  key : Nat
  tier : Nat
  size : Nat
  r : Bool
  w : Bool
  x : Bool
  deriving DecidableEq, Repr

/-- Another team's unconfirmed drain covers the address (R349). -/
def State.draining (s : State) (p c stage : Nat) (team : Option Nat) (a : Nat) : Bool :=
  s.drains.any fun d => d.2.part == p && d.2.ctx == c && d.2.stage == stage && some d.2.team != team
    && decide (d.2.base ≤ a) && decide (a < d.2.base + d.2.size)

/-- A table entry as the walker of a die reads it: from memory, or, where its walker cache differs, by a free choice from there (R348). A walk of either stage is an access of its context, under that context's key (R384, log 110). -/
def State.entry (s : State) (p c die stage key : Nat) : Nat × State :=
  let now := s.read64 (s.ctxMemKey p c) key
  match s.walks.find? fun w => w.part == p && w.ctx == c && w.die == die && w.stage == stage && w.key == key && w.marked.isEmpty with
  | none => (now, s)
  | some w =>
    if w.value = now then (w.value, s)
    else
      let (n, s1) := s.choose 2
      (if n = 0 then now else w.value, s1)

/-- A non-leaf entry enters the die's walker cache. -/
def State.cacheEntry (s : State) (p c die stage key e base size : Nat) : State :=
  { s with walks := { part := p, ctx := c, die := die, stage := stage, key := key, value := e, base := base, size := size, marked := [] }
      :: s.walks.filter fun w => !(w.part == p && w.ctx == c && w.die == die && w.stage == stage && w.key == key) }

/-- Levels lvl to 1 of a stage-2 walk from the table page at `table` (R345). Rights are left to the caller. -/
def State.walk2 (s : State) (p c die pa table : Nat) : Nat → Walked S2 × State
  | 0 => (.fault .s2NotResident pa 3 0, s)
  | lvl + 1 =>
    let key := table + 8 * (if lvl = 4 then levelIndex pa 5 % 16 else levelIndex pa (lvl + 1))
    if s.granuleBad key then (.fault .memUncorr 0 3 0, s)
    else
      let (e, s1) := s.entry p c die 2 key
      let tbl := ebit e 5
      if !ebit e 0 || s1.malformed (s1.ctxMemKey p c) key e (lvl + 1) tbl (ebit e 6) then (.fault .s2NotResident pa 3 (stopCode (lvl + 1)), s1)
      else if tbl then
        let span := 2 ^ (12 + 9 * lvl)
        walk2 (s1.cacheEntry p c die 2 key e (pa - pa % span) span) p c die pa (memKey (e / 8 % 4) (epage e)) lvl
      else
        let size := leafSize (lvl + 1) (ebit e 6)
        let page := epage e - epage e % size
        if !s1.backed p (e / 8 % 4) page then (.fault .s2NotResident pa 3 (stopCode (lvl + 1)), s1)
        else if ebit e 8 then (.mig, s1)
        else (.ok { key := memKey (e / 8 % 4) (page + pa % size), tier := e / 8 % 4, size := size,
                    r := ebit e 1, w := ebit e 2, x := ebit e 7 }, s1)

/-- The right a kind needs (R345). -/
def rightOf (k : Kind) (r w x : Bool) : Bool :=
  match k with
  | .read => r
  | .write => w
  | .exec => x
  | .none => true

/-- Stage2 of R345 for a team's or an agent's walk. -/
def State.stage2 (s : State) (p c die : Nat) (team : Option Nat) (pa : Nat) (k : Kind) : Walked S2 × State :=
  if s.draining p c 2 team pa then (.drain, s)
  else if !(s.ctx p c).s2en then (.fault .s2NotResident pa 3 3, s)
  else
    match s.walk2 p c die pa (memKey 0 (s.ctx p c).s2root) 5 with
    | (.ok x, s1) => if rightOf k x.r x.w x.x then (.ok x, s1) else (.fault .s2Perm pa (opTier x.tier) (sizeCode x.size), s1)
    | r => r

/-- A stage-1 leaf reached: the entry, its key in memory, its size, and the pages of the nodes read. -/
structure S1 where
  e : Nat
  key : Nat
  size : Nat
  nodes : List Nat
  deriving DecidableEq, Repr

/-- Levels lvl to 1 of a stage-1 walk from the table page at partition-physical address `table` (R345). -/
def State.walk1 (s : State) (p c die : Nat) (team : Option Nat) (va table : Nat) (nodes : List Nat) : Nat → Walked S1 × State
  | 0 => (.fault .s1NotMapped 0 3 0, s)
  | lvl + 1 =>
    let pa := table + 8 * levelIndex va (lvl + 1)
    match s.stage2 p c die team pa .read with
    | (.ok x, s1) =>
      if s1.granuleBad x.key then (.fault .memUncorr pa (opTier x.tier) (sizeCode x.size), s1)
      else
        let (e, s2) := s1.entry p c die 1 x.key
        let tbl := ebit e 1
        if !ebit e 0 || s2.malformed (s2.ctxMemKey p c) x.key e (lvl + 1) tbl (ebit e 5) then (.fault .s1NotMapped 0 3 0, s2)
        else if tbl then
          if ebit e 8 then (.fault .ptNodeRemote 0 3 0, s2)
          else
            let span := 2 ^ (12 + 9 * lvl)
            walk1 (s2.cacheEntry p c die 1 x.key e (va - va % span) span) p c die team va (epage e) (table :: nodes) lvl
        else (.ok { e := e, key := x.key, size := leafSize (lvl + 1) (ebit e 5), nodes := table :: nodes }, s2)
    | (.fault f pg tier sz, s1) => (.fault f pg tier sz, s1)
    | (.mig, s1) => (.mig, s1)
    | (.drain, s1) => (.drain, s1)

/-- Bits [63:57] of an address all equal bit 56 (R132). -/
def canonical (va : Nat) : Bool := va / 2 ^ 56 % 256 == 0 || va / 2 ^ 56 % 256 == 255

/-- A combined translation covers an address and is not waiting to be removed (R348, R349). -/
def Xlat.covers (x : Xlat) (p c core : Nat) (lane : Option (Nat × Nat)) (va : Nat) : Bool :=
  x.part == p && x.ctx == c && x.core == core && (x.lane == none || x.lane == lane) && x.marked.isEmpty
    && decide (x.va ≤ va) && decide (va < x.va + x.size)

/-- Some address that a cached combination rests on is being drained by another team (R349). -/
def State.xlatDraining (s : State) (p c : Nat) (team : Option Nat) (pa : Nat) (nodes : List Nat) : Bool :=
  s.draining p c 2 team pa || nodes.any fun n => s.drains.any fun d =>
    d.2.part == p && d.2.ctx == c && d.2.stage == 2 && some d.2.team != team && decide (d.2.base < n + 4096) && decide (n < d.2.base + d.2.size)

/-- An entry leaves a core's TLB that is full, by a free choice (R348). -/
def State.evictXlat (s : State) (core : Nat) : State :=
  let es := s.tlb.filter fun y => y.core == core && y.lane == none
  if es.length < Config.tlbEntries then s
  else
    let (i, s1) := s.choose es.length
    match es[i]? with
    | some x => { s1 with tlb := s1.tlb.filter (· != x) }
    | none => s1

/-- A combined translation enters the core's TLB, of 1,024 entries, and the lane's thimble (R133, R348). -/
def State.cacheXlat (s : State) (x : Xlat) (lane : Option (Nat × Nat)) : State :=
  let keep := s.tlb.filter fun y => !(y.part == x.part && y.ctx == x.ctx && y.core == x.core && y.lane == none && y.va == x.va && y.marked.isEmpty)
  let s1 := { s with tlb := keep }.evictXlat x.core
  let rest := match lane with
    | none => s1.tlb
    | some l => { x with lane := some l } :: s1.tlb.filter fun y => y.lane != some l
  { s1 with tlb := ({ x with lane := none } :: rest) }

/-- The translation of an access that a cached combination allows: a discarded page reads zeros (R353). -/
def xlatPlace (x : Xlat) (va : Nat) : Place :=
  if x.disc then .zeros
  else match x.place with
    | .mem k => .mem (k + (va - x.va))
    | pl => pl

/-- What a combined translation gives an access (R345, R348): the checks of the walk in their order, on what was combined. -/
def Xlat.gives (x : Xlat) (va : Nat) (k : Kind) : Walked Tr :=
  let pa := x.pa + (va - x.va)
  let tier := match x.place with
    | .mem key => opTier (keyTier key)
    | _ => 3
  let hit : Walked Tr := .ok { place := xlatPlace x va, pa := pa, nodes := x.nodes, leaf := x.leaf }
  match x.place with
  | .remote _ => hit
  | _ =>
    if k = .write ∧ x.rcache then .fault .roWrite 0 3 0
    else if x.disc then if k = .write then .fault .discarded 0 3 0 else hit
    else if !rightOf k x.s1r x.s1w x.s1x then .fault .s1Perm 0 3 0
    else if !rightOf k x.r x.w x.x then .fault .s2Perm pa tier x.leaf
    else hit

/-- A virtual address lies in a page of a device of the job, this one for none, that FSDRAIN has made revoking (R322, R323). -/
def State.revokesOf (s : State) (p c a : Nat) (dev : Option Nat) : Bool :=
  s.revoking.any fun r => r.1 == p && r.2.1 == c && r.2.2.2.2 == dev && decide (r.2.2.1 ≤ a) && decide (a < r.2.2.1 + r.2.2.2.1)

/-- A virtual address lies in a page of this device that FSDRAIN has made revoking (R322, R323). -/
def State.revokes (s : State) (p c a : Nat) : Bool := s.revokesOf p c a none

/-- The walk of R345 from the root, which caches its combination where it neither faulted nor held (R348). `core` is none for an agent that is no team. -/
def State.walk (s : State) (p c : Nat) (core : Option Nat) (die : Nat) (team lane : Option Nat) (va : Nat) (k : Kind) : Walked Tr × State :=
  let a := va % 2 ^ 57
  match s.walk1 p c die team a (s.ctx p c).s1root [] 5 with
  | (.fault f pg tier sz, s1) => (.fault f pg tier sz, s1)
  | (.mig, s1) => (.mig, s1)
  | (.drain, s1) => (.drain, s1)
  | (.ok l, s1) =>
    let page := epage l.e - epage l.e % l.size
    let pa := page + a % l.size
    let keep (x : Xlat) (s : State) : State :=
      match core with
      | none => s
      | some n => s.cacheXlat { x with core := n } (match team, lane with
          | some t, some i => some (t, i)
          | _, _ => none)
    let xl (place : Place) (size pbase leaf : Nat) (r w x : Bool) : Xlat :=
      { part := p, ctx := c, core := 0, lane := none, va := a - a % size, size := size, place := place, pa := pbase, nodes := l.nodes,
        r := r, w := w, x := x, s1r := ebit l.e 2, s1w := ebit l.e 3, s1x := ebit l.e 4, leaf := leaf, rcache := ebit l.e 6, disc := ebit l.e 7, marked := [] }
    if ebit l.e 8 then
      let dev := l.e / 2 ^ 52 % 2 ^ 9
      (.ok { place := .remote dev, pa := pa, nodes := l.nodes }, keep (xl (.remote dev) l.size page 0 true true false) s1)
    else if k = .write ∧ (ebit l.e 6 ∨ s.revokes p c a) then (.fault .roWrite 0 3 0, s1)
    else if ebit l.e 7 then
      match s1.stage2 p c die team pa .none with
      | (.fault .s2NotResident _ _ _, s2) => (.fault .s1NotMapped 0 3 0, s2)
      | (.fault f pg tier sz, s2) => (.fault f pg tier sz, s2)
      | (.mig, s2) => (.mig, s2)
      | (.drain, s2) => (.drain, s2)
      | (.ok x, s2) =>
        if k = .write then (.fault .discarded 0 3 0, s2)
        else
          let size := min l.size x.size
          (.ok { place := .zeros, pa := pa, nodes := l.nodes, leaf := sizeCode x.size },
            keep (xl .zeros size (pa - pa % size) (sizeCode x.size) true false true) s2)
    else if !rightOf k (ebit l.e 2) (ebit l.e 3) (ebit l.e 4) then (.fault .s1Perm 0 3 0, s1)
    else
      match s1.stage2 p c die team pa k with
      | (.fault f pg tier sz, s2) => (.fault f pg tier sz, s2)
      | (.mig, s2) => (.mig, s2)
      | (.drain, s2) => (.drain, s2)
      | (.ok x, s2) =>
        let size := min l.size x.size
        (.ok { place := .mem x.key, pa := pa, nodes := l.nodes, leaf := sizeCode x.size },
          keep (xl (.mem (x.key - pa % size)) size (pa - pa % size) (sizeCode x.size) (ebit l.e 2 && x.r) (ebit l.e 3 && x.w) (ebit l.e 4 && x.x)) s2)

/-! ## Other devices of the job (R310, R318, R401) -/

/-- The package, partition and context that a context's route table binds device n of its job to (R401). -/
def State.route (s : State) (p c n : Nat) : Option (Nat × Nat × Nat) :=
  let x := s.ctx p c
  if !x.rten || decide (x.fabNdev < n) || n == x.fabDev then none
  else
    let w := bytesWord (memReadN s.mem (memKey 0 (x.rtbase + 4 * n)) 4)
    if bit w 31 then some (bits w 8 0, bits w 11 10, bits w 21 16) else none

/-- A partition of another package, numbered by its lowest quarter, owns the ports of a quarter (R318, R401): how far a partition reaches there is that package's shape, which this device is not told, and free (log 93). -/
def memberOwns (pkg part q : Nat) : Bool := q == part || decide (part < q ∧ q - part ≤ Config.memberSpan pkg part)

/-- Some port of the partition leads to a plane that a partition of another package owns too and that has not failed (R318). -/
def State.planesUp (s : State) (p pkg part : Nat) : Bool :=
  (s.quarters p).any fun q => memberOwns pkg part q && (List.range 9).any fun k => !s.dev.planes.contains (9 * q + k)

/-- A device number is of the context's job, and its route is valid unless it is this device's own (R310, R315). -/
def State.named (s : State) (p c n : Nat) : Bool := decide (n ≤ (s.ctx p c).fabNdev) && (n == (s.ctx p c).fabDev || (s.route p c n).isSome)

/-- A device of the job can be reached: it is this one, or the route table binds it and a plane that both own leads there. -/
def State.reaches (s : State) (p c n : Nat) : Bool :=
  n == (s.ctx p c).fabDev || match s.route p c n with
    | some (pkg, part, _) => s.planesUp p pkg part
    | none => false

/-- One translation up to the device it leads to (R345): the form of the address, the drains of other teams, then a cached combination by a free choice, or a walk. -/
def State.lookup (s : State) (p c : Nat) (core : Option Nat) (die : Nat) (team lane : Option Nat) (va : Nat) (k : Kind) : Walked Tr × State :=
  if !canonical va then (.fault .s1NotMapped 0 3 0, s)
  else if s.draining p c 1 team (va % 2 ^ 57) then (.drain, s)
  else
    match core with
    | none => s.walk p c core die team lane va k
    | some n =>
      let who := match team, lane with
        | some t, some i => some (t, i)
        | _, _ => none
      let hits := if k = Kind.write ∧ s.revokes p c (va % 2 ^ 57) then [] else s.tlb.filter fun x => x.covers p c n who (va % 2 ^ 57)
      match hits with
      | [] => s.walk p c core die team lane va k
      | hs =>
        let (i, s1) := s.choose (hs.length + 1)
        match hs[i]? with
        | none => s1.walk p c core die team lane va k
        | some x =>
          let pa := x.pa + (va % 2 ^ 57 - x.va)
          if s1.xlatDraining p c team pa x.nodes then (.drain, s1)
          else (x.gives (va % 2 ^ 57) k, s1)

/-- One translation (R345): an access that a leaf leads to another device faults, as a peer lane's does, where the job binds no such device or no plane leads there (log 96). DESIGN CHOICE: a leaf that names the device's own number as a remote one faults likewise (log 121). -/
def State.translate (s : State) (p c : Nat) (core : Option Nat) (die : Nat) (team lane : Option Nat) (va : Nat) (k : Kind) : Walked Tr × State :=
  match s.lookup p c core die team lane va k with
  | (.ok tr, s1) => match tr.place with
    | .remote d => (if k = .none ∨ (d ≠ (s1.ctx p c).fabDev ∧ s1.reaches p c d) then .ok tr else .fault .peerUnreachable 0 3 0, s1)
    | _ => (.ok tr, s1)
  | r => r

/-- The fault of a lane from a walk's result. -/
def laneFault (lane va : Nat) (c : Cause) (page tier size : Nat) : LaneFault :=
  { lane := lane, cause := c, va := va, page := page, tier := tier, size := size }

/-- A lane fault with no page (ALIGN and the causes raised before translation). -/
def plainFault (lane va : Nat) (c : Cause) : LaneFault := laneFault lane va c 0 3 0

/-- The cause that a lane's issuer sees of what another device met (R317). -/
def fabCause (c : Cause) : Cause := if c = .memUncorr then .memUncorr else .fabricPerm

/-- A lane fault of what another device met: its own cause is listed beside FABRIC_PERM (R317). -/
def farFault (lane va : Nat) (c : Cause) : LaneFault :=
  { plainFault lane va (fabCause c) with dest := if c = .memUncorr ∨ c = .fabricPerm then none else some c }

end Sys2Proof.Machine
end

