-- ==== Sys2Proof/Machine/Mem.lean ====
section
/-! DEFINITION. Mem: memory at its home L2 (R230, R276, R384, R397), the caches of the four paths (R227 to R232), write-throughs, and the posted entries of a team (R284). -/

namespace Sys2Proof.Machine

open Sys2Proof

/-! ## Writes at home (R384) -/

/-- The state with a run of bytes written at home under a key. A write that covers a bad granule whole leaves it good (R397). -/
def State.homeWrite (s : State) (k : Key) (a : Nat) (bs : List Byte) : State :=
  let covered (g : Nat) : Bool := decide (a ≤ 32 * g) && decide (32 * g + 32 ≤ a + bs.length)
  { s with
    mem := memWriteN s.mem a bs
    bad := if s.bad.isEmpty then [] else s.bad.filter fun g => !covered g
    tags := if keyTier a = 0 then s.tags else (List.range bs.length).foldl (fun m i => cellPut m (a + i) k) s.tags }

/-- A write of part of a bad granule is a read-modify-write that meets the error (R358, R397). -/
def State.writeMeetsBad (s : State) (a n : Nat) : Bool :=
  (List.range (ceilDiv (a % 32 + n) 32)).any fun i =>
    let g := a / 32 + i
    s.bad.contains g && !(decide (a ≤ 32 * g) && decide (32 * g + 32 ≤ a + n))

/-! ## L1 domains and lines -/

/-- The L1 a team uses: its core's, or its fused cluster's (R227, R229). -/
def State.dom (s : State) (t : Team) : Nat :=
  match recFind s.clusters t.cluster with
  | some x => if x.fuse ∧ 1 < x.h * x.w then 1000 + t.cluster else t.core
  | none => t.core

/-- The cores of a rectangle on a die, in cluster core order (R69). -/
def rectCores (die row col h w : Nat) : List Nat :=
  ((List.range h).map fun y => (List.range w).map fun x => die * Config.coresPerDie + (row + y) * 8 + col + x).flatten

/-- The cores of a cluster. -/
def Cluster.cores (c : Cluster) : List Nat := rectCores c.die c.row c.col c.h c.w

/-- The core that holds a line of a domain (R229): its own, or, where the domain is a fused cluster's, the slice that the line's partition-physical address names. -/
def State.lineCore (s : State) (dom pa : Nat) : Nat :=
  if dom < 1000 then dom
  else
    match recFind s.clusters (dom - 1000) with
    | some c => (c.cores[((pa / 2 ^ 7 % 32) ^^^ (pa / 2 ^ 12 % 32) ^^^ (pa / 2 ^ 17 % 32)) % (c.h * c.w)]?).getD 0
    | none => 0

/-- Lines that a path's cache holds in a core (R222, R231): an L1 of 512 less 64 KiB for each share of the carve-out, 32 KiB of constants, 64 KiB of texels or of tiles. -/
def State.lineCap (s : State) (path : Path) (core : Nat) : Nat :=
  match path with
  | .loadStore => 4096 - 512 * (s.core core).carve
  | .const => 256
  | .sampler => 512
  | .tile => 512

/-- A line leaves a core's cache that is full, by a free choice (R231). -/
def State.evict (s : State) (path : Path) (core : Nat) : State :=
  let ls := s.lines.filter fun x => x.core == core && x.path == path
  if ls.length < s.lineCap path core then s
  else
    let (i, s1) := s.choose ls.length
    match ls[i]? with
    | some x => { s1 with lines := s1.lines.filter (· != x) }
    | none => s1

/-- Two runs of bytes overlap. -/
def overlaps (a n b m : Nat) : Bool := decide (a < b + m) && decide (b < a + n)

/-- Bytes laid over a run that starts at address a. -/
def layOver (a : Nat) (under : List Byte) (b : Nat) (top : List Byte) : List Byte :=
  (List.range under.length).map fun i =>
    if b ≤ a + i ∧ a + i < b + top.length then (top[a + i - b]?).getD 0 else (under[i]?).getD 0

/-- Bytes of an address as the L1 of a domain has them, under its plain write-throughs on their way (R228, R276). -/
def State.underPlain (s : State) (dom a : Nat) (bs : List Byte) : List Byte :=
  s.stores.foldl (fun bs x => if x.2.dom = dom ∧ x.2.rel = none ∧ overlaps a bs.length x.2.key x.2.data.length then layOver a bs x.2.key x.2.data else bs) bs

/-- The bytes of a run as an L1 domain sees them: home, and its own plain write-throughs on their way, oldest first (R228, R278). -/
def State.domBytes (s : State) (k : Key) (dom a n : Nat) : List Byte := s.underPlain dom a (s.homeBytes k a n)

/-- A store updates its L1's copies of the lines it touches (R228). -/
def State.updateL1 (s : State) (dom a : Nat) (bs : List Byte) : State :=
  { s with lines := s.lines.map fun x =>
      if x.dom = dom ∧ x.path = .loadStore ∧ overlaps x.key 128 a bs.length then { x with bytes := layOver x.key x.bytes a bs, bad := x.bad.filter fun g => !(decide (a ≤ 32 * g) && decide (32 * g + 32 ≤ a + bs.length)) } else x }

/-- The lines of a domain and path that touch a run are dropped (R228). -/
def State.dropLines (s : State) (dom : Nat) (path : Path) (a n : Nat) : State :=
  { s with lines := s.lines.filter fun x => !(x.dom == dom && x.path == path && overlaps x.key 128 a n) }

/-- A read of a run finds a copy of its path's cache that holds an uncorrectable error there (R397): by a free choice it is met, or it is let go and the read goes home. -/
def State.meetsCopy (s : State) (dom : Nat) (path : Path) (since a n : Nat) : Bool × State :=
  match s.lines.find? fun x => x.dom == dom && x.path == path && x.key == a - a % 128 && decide (since ≤ x.fill)
      && x.bad.any fun g => overlaps (32 * g) 32 a n with
  | none => (false, s)
  | some x =>
    let (i, s1) := s.choose 2
    if i = 0 then (true, s1) else (false, { s1 with lines := s1.lines.filter (· != x) })

/-- A run of bytes inside one line, of a partition-physical address, as a path of a domain reads it: from a copy filled at or after `since` by a free choice, or from home, which, unless its page is revoking (R323), fills a copy and may evict another (R227, R231, R232). -/
def State.pathRead (s : State) (k : Key) (keep : Bool) (dom : Nat) (path : Path) (since a pa n : Nat) : List Byte × State :=
  let line := a - a % 128
  let fromHome (s : State) : List Byte × State :=
    let bs := if path = .loadStore then s.domBytes k dom line 128 else s.homeBytes k line 128
    let core := s.lineCore dom pa
    let s1 := (s.dropLines dom path line 128).evict path core
    if !keep then ((bs.drop (a - line)).take n, s.dropLines dom path line 128)
    else ((bs.drop (a - line)).take n, { s1 with lines := { dom := dom, path := path, core := core, key := line, bytes := bs, fill := s.stamp } :: s1.lines })
  match s.lines.find? fun x => x.dom == dom && x.path == path && x.key == line && decide (since ≤ x.fill) with
  | none => fromHome s
  | some x =>
    let (i, s1) := s.choose 2
    if i = 0 then ((x.bytes.drop (a - line)).take n, s1) else fromHome s1

/-! ## Same-address and release order (R67, R276, R280, R281, R283) -/

/-- An access touches a place and run of bytes. -/
def Acc.touches (a : Acc) (key n : Nat) : Bool :=
  match a.tr.place with
  | .mem k => overlaps k a.size key n
  | _ => false

/-- An operation acquires and has not completed: later accesses of its team wait for it (R281). -/
def Op.acquiring (o : Op) : Bool := o.acq.isSome && o.acq != some 0

/-- Kinds whose accesses are ordered elsewhere: stores by their entries and write-throughs, copies out by their command queue (R67, R250). -/
def OpKind.ordersElsewhere : OpKind → Bool
  | .store => true
  | .copy inn _ _ => !inn
  | _ => false

/-- An earlier operation of the team that acquires is not complete: a later access waits (R281). -/
def State.acquires (s : State) (team : Option Nat) (n : Nat) : Bool :=
  team.isSome && s.ops.any fun o => o.2.team == team && decide (o.1 < n) && o.2.acquiring

/-- An earlier operation of the team keeps an access of stamp n from performing: it overlaps the bytes and is not performed, or it acquires and has not completed (R67, R281). -/
def State.blocked (s : State) (team : Option Nat) (n key len : Nat) : Bool :=
  s.acquires team n
  || (team.isSome && s.ops.any fun o => o.2.team == team && decide (o.1 < n) && !o.2.kind.ordersElsewhere
      && o.2.accs.any fun a => !a.done && a.touches key len)
  || (team.isSome && s.stores.any fun w => w.2.team == team && decide (w.2.seq < n) && overlaps w.2.key w.2.data.length key len && w.2.rel.isSome)

/-- A release FENCE of the team stamped before n is not complete: later writes wait (R283). -/
def State.fenced (s : State) (team : Option Nat) (n : Nat) : Bool :=
  team.isSome && s.ops.any fun o => o.2.team == team && decide (o.1 < n) && o.2.kind == .fence

/-- The operation that an access of a team which issues now waits for: an acquire that is not complete, or, for a write, a release FENCE (R281, R283). -/
def State.orderedBehind (s : State) (i : Nat) (write : Bool) : Option Nat :=
  (s.ops.find? fun o => o.2.team == some i && (o.2.acquiring || (write && o.2.kind == .fence))).map (·.1)

/-! ## Posted entries (R284) -/

/-- A team's posted entries, oldest first. -/
def State.postedOf (s : State) (i : Nat) : List (Nat × Posted) := s.posted.filter fun e => e.2.team == i

/-- The newest posted bytes of a team over a run of virtual addresses, laid over what memory gives (R136, R284): entries up to a stamp. -/
def State.forward (s : State) (i va : Nat) (before : Nat) (bs : List Byte) : List Byte :=
  (s.postedOf i).foldl (fun acc e => if e.1 < before then layOver va acc e.2.va e.2.data else acc) bs

/-- A team has a posted entry over a run of virtual addresses. -/
def State.postedOver (s : State) (i va n : Nat) : Bool := (s.postedOf i).any fun e => overlaps va n e.2.va e.2.data.length

/-- A read of the team from another device is on its way, issued after an entry over bytes of it: the entry stays until the read has returned, which is laid under it (R136, R284). -/
def State.readAway (s : State) (n : Nat) (e : Posted) : Bool :=
  (s.ops.any fun o => o.2.team == some e.team && decide (n < o.1) && !o.2.kind.ordersElsewhere && o.2.accs.zipIdx.any fun a =>
      !a.1.done && !(o.2.units.any fun u => u.idx.contains a.2) && overlaps a.1.va a.1.size e.va e.data.length && match a.1.tr.place with
        | .remote _ => true
        | _ => false)
  || match (s.team e.team).bind (·.hold) with
    | some (.remoteRead _ va m) => overlaps va m e.va e.data.length
    | _ => false

/-- What draining a posted entry gives: it has gone on its way, a cause holds it, or its translation holds. -/
inductive DrainRes where
  | ok (s : State)
  | held (f : LaneFault) (s : State)
  | wait (h : Hold) (s : State)
  deriving DecidableEq, Repr

/-- The translation a posted entry drains under: the one it holds, or a new one (R284); in a page that FSDRAIN has made revoking, a new one (R323). -/
def State.postedTr (s : State) (t : Team) (i : Nat) (e : Posted) : Walked Tr × State :=
  match e.tr, s.revokes t.part t.ctx (e.va % 2 ^ 57) with
  | some tr, false => (.ok tr, s)
  | _, _ => s.translate t.part t.ctx (some t.core) (coreDie t.core) (some i) (some e.lane) e.va .write

/-- The other half of a posted 32-byte store to one granule (R135): the two halves cover the granule whole (R397). -/
def State.otherHalf (s : State) (n : Nat) (e : Posted) : Option (Nat × Posted) :=
  s.posted.find? fun m => m.1 != n && m.2.team == e.team && m.2.op == e.op && m.2.lane == e.lane && m.2.held.isNone
    && e.data.length == 16 && m.2.data.length == 16 && e.va / 32 == m.2.va / 32 && e.va % 16 == 0 && m.2.va == (if e.va % 32 = 0 then e.va + 16 else e.va - 16)

/-- A posted entry that meets an uncorrectable error with the store's other half still posted: the two drain as one write of the granule (R397). -/
def State.wholeGranule (s : State) (n key : Nat) (e : Posted) : State × Posted :=
  if s.writeMeetsBad key e.data.length then
    match s.otherHalf n e with
    | some m =>
      if e.va % 32 = 0 then ({ s with posted := cellDel s.posted m.1 }, { e with data := e.data ++ m.2.data })
      else ({ s with posted := cellDel s.posted m.1 }, { e with va := m.2.va, data := m.2.data ++ e.data })
    | none => (s, e)
  else (s, e)

/-- A write of the team on its way home, or a posted store of it whose halves drain as one, covers a granule whole: an access of the team that comes after it finds the granule good (R67, R397). -/
def State.mending (s : State) (team g : Nat) : Bool :=
  let covers (k n : Nat) : Bool := decide (k ≤ 32 * g) && decide (32 * g + 32 ≤ k + n)
  (s.stores.any fun w => w.2.team == some team && covers w.2.key w.2.data.length)
  || (s.postedOf team).any fun e => e.2.held.isNone && match e.2.tr.map Tr.place with
    | some (.mem k) => covers k e.2.data.length || (k / 32 == g && (s.otherHalf e.1 e.2).isSome)
    | _ => false

/-- An access of a team meets an uncorrectable error (R358, R397): a read of a bad granule, or a write of part of one, that nothing of the team on its way makes good first. -/
def State.meetsBad (s : State) (team : Nat) (write : Bool) (a n : Nat) : Bool :=
  (List.range (ceilDiv (a % 32 + n) 32)).any fun i =>
    let g := a / 32 + i
    s.bad.contains g && !(write && decide (a ≤ 32 * g) && decide (32 * g + 32 ≤ a + n)) && !s.mending team g

/-- Two posted entries have a byte in common: by virtual address, or in memory (R67). -/
def Posted.meets (a b : Posted) : Bool :=
  overlaps a.va a.data.length b.va b.data.length || match a.tr.map Tr.place, b.tr.map Tr.place with
    | some (.mem j), some (.mem k) => overlaps j a.data.length k b.data.length
    | _, _ => false

/-- An access of an operation has been performed. -/
def Op.markDone (x : Op) (k : Nat) : Op :=
  { x with accs := x.accs.modify k fun a => { a with done := true } }

/-- An access of an operation has come home: it is performed. -/
def State.landed (s : State) (op : Option (Nat × Nat)) : State :=
  match op with
  | none => s
  | some (o, k) =>
    match s.op o with
    | none => s
    | some y => s.setOp o (y.markDone k)

/-- The access that a posted entry performs, for an instruction that completes once its bytes are home (R294). -/
def Posted.lands (e : Posted) : Option (Nat × Nat) := e.acc.map fun k => (e.op, k)

/-- One posted entry drains (R284): to the L1's copy and on its way home, or it is held with its cause and writes none of its bytes; one that is held stays so until its fault is acknowledged. An entry that an access or fence before it keeps back waits (R67, R281, R283), and so does one on another device for its unit and the reply. -/
def State.drainEntry (s : State) (n : Nat) (e : Posted) : DrainRes :=
  match s.team e.team, e.held with
  | none, _ => .ok { s with posted := cellDel s.posted n }
  | some _, some f => .held f s
  | some t, none =>
    if e.mig then .wait .walkMig s
    else
    match s.postedTr t e.team e with
    | (.mig, s1) => .wait .walkMig s1
    | (.drain, s1) => .wait .walkDrain s1
    | (.fault c pg tier sz, s1) =>
      let f := laneFault e.lane e.va c pg tier sz
      .held f { s1 with posted := cellPut s1.posted n { e with held := some f } }
    | (.ok tr, s0) =>
      match tr.place with
      | .mem k0 =>
        let (s1, w) := s0.wholeGranule n k0 e
        let key := k0 - (e.va - w.va)
        if s0.fenced (some e.team) n ∨ s0.blocked (some e.team) n k0 e.data.length ∨ s0.readAway n e then
          .wait (.entry n) { s0 with posted := cellPut s0.posted n { e with tr := some tr } }
        else if s1.meetsBad e.team true key w.data.length then
          let f := laneFault e.lane e.va .memUncorr tr.pa (opTier (keyTier key)) tr.leaf
          .held f { s1 with posted := cellPut s1.posted n { e with tr := some tr, held := some f } }
        else
          let dom := s1.dom t
          let s2 := s1.updateL1 dom key w.data
          .ok { s2.bump with
            posted := cellDel s2.posted n
            stores := cellPut s2.stores s2.stamp
              { team := some e.team, dom := dom, part := t.part, ctx := t.ctx, key := key, va := w.va, data := w.data,
                pa := tr.pa - (e.va - w.va), nodes := tr.nodes, seq := n, rel := none, op := e.lands } }
      | .remote d =>
        if !e.sent && !s0.reaches t.part t.ctx d then
          let f := plainFault e.lane e.va .peerUnreachable
          .held f { s0 with posted := cellPut s0.posted n { e with held := some f } }
        else .wait (.remoteEntry n) { s0 with posted := cellPut s0.posted n { e with tr := some tr, held := none } }
      | _ => .ok ({ s0 with posted := cellDel s0.posted n }.landed e.lands)

/-- What an instruction that needs entries drained meets (R284): nothing more, a fault of the first entry that cannot drain, or a hold. -/
inductive Drained where
  | ok (s : State)
  | fault (entry : Nat) (f : LaneFault) (s : State)
  | wait (h : Hold) (s : State)
  deriving DecidableEq, Repr

/-- The entries of a list drain in issue order; the first that cannot stops it (R284). -/
def State.drainList (s : State) : List (Nat × Posted) → Drained
  | [] => .ok s
  | (n, e) :: es =>
    match s.drainEntry n e with
    | .ok s1 => s1.drainList es
    | .held f s1 => .fault n f s1
    | .wait h s1 => .wait h s1

/-- Every posted entry of a team drains. -/
def State.drainAll (s : State) (i : Nat) : Drained := s.drainList (s.postedOf i)

/-- A team's posted entries that some runs of bytes need drained, oldest first: those over the runs, and before each the older ones that meet it (R67, R285). -/
def State.drainNeeds (s : State) (i : Nat) (runs : List (Nat × Nat)) : List (Nat × Posted) :=
  (s.postedOf i).foldr (fun e es =>
    if (runs.any fun r => overlaps r.1 r.2 e.2.va e.2.data.length) || es.any fun x => e.2.meets x.2 then e :: es else es) []

/-- The posted entries of a team over a run of bytes drain: an access at home needs them (R284). -/
def State.drainOver (s : State) (i : Nat) (runs : List (Nat × Nat)) : Drained := s.drainList (s.drainNeeds i runs)

/-- Entries drain but for those that a cause holds: an instruction that raises no held fault needs no more (R284). -/
def State.drainFree (s : State) : List (Nat × Posted) → Drained
  | [] => .ok s
  | (n, e) :: es =>
    match s.drainEntry n e with
    | .ok s1 => s1.drainFree es
    | .held _ s1 => s1.drainFree es
    | .wait h s1 => .wait h s1

/-- The posted entries of a team over some runs drain, for an instruction that raises no held fault (R284). -/
def State.clearOver (s : State) (i : Nat) (runs : List (Nat × Nat)) : Drained := s.drainFree (s.drainNeeds i runs)

/-! ## What a release covers (R279, R280) -/

/-- An old value waits for its recipient's line, which is absent (R273, R217): its access to memory is performed. -/
def State.awaitsLine (s : State) (ls : List Nat) (cl : Nat) (a : Acc) : Bool :=
  match a.tr.place with
  | .scratch k key => k == cl && ls.contains (key - key % 128) && match recFind s.clusters k with
    | some c => c.absent.contains (key - key % 128)
    | none => false
  | _ => false

/-- Kinds whose writes their team observes when their flag clears, not before (R279). -/
def OpKind.commands : OpKind → Bool
  | .copy .. => true
  | .recCopy .. => true
  | .engine .. => true
  | _ => false

/-- Row groups of a loop that are not empty (R166). -/
def Loop.busyGroups (l : Loop) : List Nat := (List.range (l.offs.length - 1)).filter fun k => decide ((l.offs[k]?).getD 0 < (l.offs[k + 1]?).getD 0)
/-- Steps of each row group of a loop. -/
def Loop.steps (l : Loop) : Nat := if l.fn = 0 then 1 else ((l.record[4]?).getD 0).toNat
/-- Steps of a lane group of a loop in all. -/
def Loop.total (l : Loop) : Nat := l.busyGroups.length * l.steps

/-- Reads of a loop that are still to be performed (R283, R286). -/
def OpKind.loopReads : OpKind → Bool
  | .loop l => l.groups.any fun g => !g.stopped && decide (g.pos < l.total)
  | _ => false

/-- Every observer within a scope of a team uses the team's own L1 (R275, R287): those of its core do; those of its cluster where it is fused or of one core; from DIE scope on, engines observe too, which use none. -/
def State.sharesL1 (s : State) (t : Team) (scope : Nat) : Bool :=
  decide (scope ≤ 1) || (scope == 2 && (t.wave.isSome || match recFind s.clusters t.cluster with
    | some c => c.fuse || c.h * c.w == 1
    | none => true))

/-- Every write-through of an L1, and every earlier one of a team, has reached home. -/
def State.storesHome (s : State) (team : Option Nat) (dom n : Nat) : Bool :=
  !(s.stores.any fun w => (w.2.dom == dom && decide (w.1 < n)) || (w.2.team == team && decide (w.2.seq < n)))

/-- A team's entries have left it, and its operations have performed their accesses, but for some (R279, R286): a release comes after them. -/
def State.ownDone (s : State) (skip : OpKind → Acc → Bool) (team : Option Nat) (n : Nat) : Bool :=
  !(team.isSome && s.posted.any fun e => some e.2.team == team && decide (e.1 < n))
  && !(team.isSome && s.ops.any fun o => o.2.team == team && decide (o.1 < n) && o.2.kind != .fence && !o.2.kind.commands
        && (o.2.kind.loopReads || o.2.accs.any fun a => !a.done && !skip o.2.kind a))

/-- Everything that a release of a team stamped n covers is home (R279, R280, R286): what its L1 has sent, and what the team itself has issued. -/
def State.covered (s : State) (team : Option Nat) (dom n : Nat) : Bool := s.storesHome team dom n && s.ownDone (fun _ _ => false) team n

/-- What an operation's accesses need of translation. -/
inductive Access where
  | read | write | scratch | look | directed | chunk | direct
  deriving DecidableEq, Repr

/-- The access of an operation's kind. -/
def OpKind.access : OpKind → Access
  | .load .. => .read
  | .store => .write
  | .pload .. => .scratch
  | .pstore => .scratch
  | .sample .. => .read
  | .flush _ => .look
  | .atomic _ _ _ dir _ => if dir then .directed else .write
  | .chunk _ => .chunk
  | _ => .direct

/-- The access writes memory. -/
def Access.writes : Access → Bool
  | .write => true
  | .directed => true
  | .chunk => true
  | _ => false

/-- A write on another device, which a release below FABRIC scope does not cover (R275). -/
def farWrite (k : OpKind) (a : Acc) : Bool := k.access.writes && match a.tr.place with
  | .remote _ => true
  | _ => false

/-- What a release at a scope covers is visible within the scope (R275, R280): in the L1 where all its observers share that, else at home, and on other devices for FABRIC scope. -/
def State.coveredAt (s : State) (scope : Nat) (team : Option Nat) (dom n : Nat) : Bool :=
  let own := s.ownDone (fun k a => decide (scope < 5) && farWrite k a) team n
  match team.bind s.team with
  | some t => own && (s.sharesL1 t scope || s.storesHome team dom n)
  | none => own && s.storesHome team dom n

/-- A write of an operation waits (R276, R281, R283): for what its release covers, an earlier acquire, or a release FENCE. -/
def State.writeHeld (s : State) (o : Nat) (x : Op) : Bool :=
  s.acquires x.team o || s.fenced x.team o || match x.rel with
    | some sc => !s.coveredAt sc x.team x.dom o
    | none => false

/-- The stamp from which a team's reads use copies once it has acquired at a scope (R281, R287): those that the L1's own observers share stay, as far as no team of that L1 has left them behind. -/
def State.acquireAt (s : State) (t : Team) (scope : Nat) : Nat :=
  if s.sharesL1 t scope then s.teams.foldl (fun n e => if e.2.place == .placed && s.dom e.2 == s.dom t then max n e.2.acq else n) t.acq
  else s.stamp + 1

/-- A team acquires at a scope (R281). -/
def State.acquire (s : State) (i scope : Nat) : State := (s.modTeam i fun t => { t with acq := s.acquireAt t scope }).bump

/-- A team leaves its L1: copies that it had left behind are used by no other team of that L1 that synchronises with it (R281, R287). -/
def State.leaveL1 (s : State) (t : Team) : State :=
  { s with lines := s.lines.filter fun x => !(x.dom == s.dom t && x.path == .loadStore && decide (x.fill < t.acq)) }

/-- Every placed team of a context leaves its L1. -/
def State.leaveCtx (s : State) (p c : Nat) : State :=
  (s.teams.filter fun e => e.2.part == p && e.2.ctx == c && e.2.place == .placed).foldl (fun s e => s.leaveL1 e.2) s

end Sys2Proof.Machine
end

