-- ==== Sys2Proof/Machine/Operands.lean ====
section
/-! DEFINITION. Operands: the operand sets of R39, R80 and R107, what each selector reads and writes, the pops and pushes of queue registers (R83, R237, R238), and ISSUE: the one way an instruction of a team is carried out, from its checks to its trap, hold or completion (R55, R66, R137, R161). -/

namespace Sys2Proof.Machine

open Sys2Proof

/-! ## Which selectors a field takes -/

/-- A literal slot below the header's count (R39). -/
def Team.litOk (t : Team) (n : BitVec 4) : Bool := decide (n.toNat < t.clause.lits.length)

/-- A scalar source (R80). -/
def Team.scalarSrc (t : Team) : Sel → Bool
  | .s _ => true
  | .k n => t.litOk n
  | .q _ => true
  | .sp _ => true
  | _ => false

/-- A scalar destination (R80). -/
def scalarDst : Sel → Bool
  | .s _ => true
  | .q _ => true
  | .sp .zero => true
  | _ => false

/-- A mask source (R80). -/
def maskSrc : Sel → Bool
  | .m _ => true
  | .sp .zero => true
  | .sp .ones => true
  | _ => false

/-- A mask destination (R80). -/
def maskDst : Sel → Bool
  | .m _ => true
  | .sp .zero => true
  | _ => false

/-- A block of n V registers from r lies below the team's count (R39). -/
def Team.vOk (t : Team) (r : BitVec 7) (n : Nat) : Bool := decide (r.toNat + n ≤ t.nregs)

/-- A vector source: a V register, or a scalar source that every lane reads (R107). -/
def Team.vectorSrc (t : Team) : Sel → Bool
  | .v r => t.vOk r 1
  | a => t.scalarSrc a

/-- A vector destination: a V register, a queue register, or ZERO (R107). -/
def Team.vectorDst (t : Team) : Sel → Bool
  | .v r => t.vOk r 1
  | .q _ => true
  | .sp .zero => true
  | _ => false

/-- An even S register that names a pair (R80). -/
def pairOk : Sel → Bool
  | .s n => n.toNat % 2 == 0
  | _ => false

/-- An S register. -/
def isS : Sel → Bool
  | .s _ => true
  | _ => false

/-- A queue register. -/
def isQ : Sel → Bool
  | .q _ => true
  | _ => false

/-- A V register. -/
def isV : Sel → Bool
  | .v _ => true
  | _ => false

/-- A selector whose value can differ between lanes. -/
def isVec : Sel → Bool
  | .v _ => true
  | .sp .lid => true
  | .q _ => true
  | _ => false

/-- Check 6 for a queue register that is popped: unbound gives QUEUE_HANDLE, an engine port ILLEGAL_OPERAND (R237). -/
def Team.popCheck (t : Team) : Sel → Option Cause
  | .q n =>
    match (t.qregs[n.toNat]).bind with
    | .unbound => some .queueHandle
    | .fifo => none
    | _ => some .illegalOperand
  | _ => none

/-- Check 6 for a queue register that is pushed (R237). -/
def Team.pushCheck (t : Team) : Sel → Option Cause
  | .q n => if (t.qregs[n.toNat]).bind = .unbound then some .queueHandle else none
  | _ => none

/-- The first cause of a list of checks, in the order of R55: an unbound queue register (check 6) comes after every field and type (checks 4 and 5). -/
def firstCause : List (Option Cause) → Option Cause
  | [] => none
  | none :: cs => firstCause cs
  | some .queueHandle :: cs => some ((firstCause cs).getD .queueHandle)
  | some c :: _ => some c

/-- A check that must hold. -/
def need (b : Bool) (c : Cause) : Option Cause := if b then none else some c

/-! ## Reading -/

/-- A special (R40) as a lane reads it; scalar instructions read lane 0 and group 0 (R58). -/
def State.special (s : State) (t : Team) (x : Special) (lane : Nat) : Word :=
  match x with
  | .zero => 0
  | .ones => 0xFFFFFFFF
  | .lid => BitVec.ofNat 32 lane
  | .gid => BitVec.ofNat 32 (lane / 32)
  | .tid => BitVec.ofNat 32 t.tid
  | .cid => BitVec.ofNat 32 t.cid
  | .nlanes => BitVec.ofNat 32 t.nlanes
  | .nteams => BitVec.ofNat 32 t.nteams
  | .vdieid => BitVec.ofNat 32 t.vdie
  | .coreclk => BitVec.ofNat 32 (s.core t.core).clk

/-- A source as a lane reads it; `q` is the value popped for a queue register. -/
def State.src (s : State) (t : Team) (a : Sel) (lane : Nat) (q : Word) : Word :=
  match a with
  | .v r => t.v lane r.toNat
  | .s n => t.s n
  | .k n => (t.lit n).getD 0
  | .q _ => q
  | .sp x => s.special t x lane
  | _ => 0

/-- A scalar source (R80). -/
def State.scalar (s : State) (t : Team) (a : Sel) (q : Word) : Word := s.src t a 0 q

/-- A mask source (R80). -/
def Team.mask (t : Team) : Sel → Mask
  | .m n => t.m n
  | .sp .ones => t.lanes
  | _ => 0

/-- The team with a mask destination written. -/
def Team.putMask (t : Team) (d : Sel) (x : Mask) : Team :=
  match d with
  | .m n => t.setM n x
  | _ => t

/-! ## Pops -/

/-- One pop that an instruction makes: the register, the field it feeds (0 for A, 1 for B, 2 for D), and the lane. -/
structure Pop where
  q : BitVec 4
  field : Nat
  lane : Nat
  deriving DecidableEq, Repr

/-- The pops of an instruction that executes once: A, then B, then D (R38, R83). -/
def popsOnce (ss : List (Nat × Sel)) : List Pop :=
  ss.filterMap fun f =>
    match f.2 with
    | .q n => some { q := n, field := f.1, lane := 0 }
    | _ => none

/-- The pops of a vector instruction, for lanes in pass order: for each lane A, then B, then D (R38, R63, R114, R238). -/
def popsLanes (lanes : List Nat) (ss : List (Nat × Sel)) : List Pop :=
  if ss.any (isQ ·.2) then
    (lanes.map fun l => ss.filterMap fun f =>
      match f.2 with
      | .q n => some { q := n, field := f.1, lane := l }
      | _ => none).flatten
  else []

/-- The pops go on until every one has a value or a FIFO is empty; the values stay with the instruction (R83, R238). -/
def Team.popAll (t : Team) : List Pop → Except (BitVec 4) Unit × Team
  | [] => (.ok (), t)
  | p :: ps =>
    match (t.qregs[p.q.toNat]).fifo with
    | [] => (.error p.q, t)
    | w :: ws =>
      let port := t.qregs[p.q.toNat]
      ({ t with qregs := t.qregs.set p.q.toNat { port with fifo := ws } p.q.isLt, popped := t.popped ++ [w] }).popAll ps

/-- The value popped for a field and lane. -/
def poppedFor (pops : List Pop) (vals : List Word) (field lane : Nat) : Word :=
  match pops, vals with
  | p :: ps, w :: ws => if p.field = field ∧ p.lane = lane then w else poppedFor ps ws field lane
  | _, _ => 0

/-! ## Pushes -/

/-- Length in words of a record of a port (R242), for its command code; 0 where the port kind does not define the code. -/
def recordLength (bind : QBind) (op : Nat) : Nat :=
  match bind with
  | .copy => if op = 1 ∨ op = 2 then 9 else 0
  | .engine _ kind _ => if op = 1 then (if kind = 0 then 12 else if kind = 1 then 22 else 11) else 0
  | _ => 0

/-- Word 0 of a record passes the core's check (R241). -/
def word0Ok (bind : QBind) (w : Word) : Bool :=
  let n := recordLength bind (bits w 7 0)
  decide (n ≠ 0) && decide (bits w 12 8 = n) && decide (bits w 14 13 < 3) && decide (bits w 17 15 < 6)

/-- The length of the record being staged. -/
def stagedLength (staged : List Word) : Nat :=
  match staged with
  | [] => 0
  | w :: _ => bits w 12 8

/-- A port holds a partly staged record. -/
def QPort.partial' (p : QPort) : Bool := !p.staged.isEmpty && decide (p.staged.length ≠ stagedLength p.staged)

/-- A port holds a record that is staged whole and has still to enter its queue. -/
def QPort.whole (p : QPort) : Bool := !p.staged.isEmpty && decide (p.staged.length = stagedLength p.staged)

/-- The key of a scratch word in its cluster: the cluster core index times 2^20 plus the offset (R215). -/
def scratchKey (va : Nat) : Nat := va % 2 ^ 24

/-- A scratch address is good for a cluster (R215, R224): reserved bits clear, the core in the shape, the run inside the share. -/
def scratchOk (c : Cluster) (va n : Nat) : Bool :=
  decide (va < 2 ^ 24) && decide (va / 2 ^ 20 < c.h * c.w) && decide (va % 2 ^ 20 + n ≤ c.share)

/-- The scratch lines that a copy record names in its cluster (R243), of the rows and row bytes that its table allows. -/
def recordLines (c : Cluster) (ws : List Word) : List Nat :=
  let w (i : Nat) := ((ws[i]?).getD 0).toNat
  ((List.range (min (w 6) 4096)).map fun j =>
    (List.range (min (w 5 / 128) 512)).filterMap fun l =>
      let sa := w 2 + j * w 8 + 128 * l
      if scratchOk c sa 128 then some (scratchKey sa) else none).flatten

/-- An operation of a team that issues now, before its accesses. -/
def opOf (i : Nat) (t : Team) (s : State) (flag : Option Nat) (kind : OpKind) : Op :=
  { team := some i, part := t.part, ctx := t.ctx, core := t.core, dom := s.dom t, pc := t.pc.toNat, flag := flag, mask := t.eff,
    acq := none, rel := none, kind := kind, accs := [], units := [], failed := [], refail := [], mig := false, pat := none }

/-- A copy-in record that is staged whole clears the presence bits of its destination lines, as CPY does at issue (R243). -/
def State.stagedWhole (s : State) (t : Team) (bind : QBind) (ws : List Word) : State :=
  match bind, recFind s.clusters t.cluster with
  | .copy, some c =>
    if bits ((ws[0]?).getD 0) 7 0 = 1 ∧ ((ws[2]?).getD 0).toNat % 128 = 0 ∧ ((ws[8]?).getD 0).toNat % 128 = 0 then
      { s with clusters := cellPut s.clusters t.cluster { c with absent := (recordLines c ws).filter (!c.absent.contains ·) ++ c.absent } }
    else s
  | _, _ => s

/-- What one push gives. -/
inductive Push where
  | ok (s : State)
  /-- No room (R238). -/
  | full
  /-- Word 0 of a record is bad: the word is not staged (R241). -/
  | bad
  /-- A posted entry that the record's last word needs drained cannot drain (R284). -/
  | fault (entry : Nat) (f : LaneFault) (s : State)
  | wait (h : Hold) (s : State)

/-- One word pushed into a team's queue register (R237, R238, R241). The last word of a copy record puts it into the team's copy queue (R243); that of another engine's record leaves it staged whole until it enters its queue (R242). -/
def State.push1 (s : State) (i : Nat) (q : BitVec 4) (w : Word) : Push :=
  match s.team i with
  | none => .full
  | some t =>
    let port := t.qregs[q.toNat]
    let put (s : State) (p : QPort) : State := s.modTeam i fun t => { t with qregs := t.qregs.set q.toNat p q.isLt }
    match port.bind with
    | .unbound => .full
    | .fifo => if port.fifo.length < Config.fifoDepth then .ok (put s { port with fifo := port.fifo ++ [w] }) else .full
    | _ =>
      if port.staged.isEmpty then (if word0Ok port.bind w then .ok (put s { port with staged := [w] }) else .bad)
      else if port.staged.length = stagedLength port.staged then .full
      else if port.staged.length + 1 = stagedLength port.staged then
        match s.drainAll i with
        | .fault e f s1 => .fault e f s1
        | .wait h s1 => .wait h s1
        | .ok s1 =>
          let ws := port.staged ++ [w]
          let s2 := s1.stagedWhole t port.bind ws
          match port.bind with
          | .copy => .ok (put (s2.bump.setOp s2.stamp { opOf i t s2 none (.recCopy ws 0) with mask := 0 }) { port with staged := [] })
          | _ => .ok (put s2.bump { port with staged := ws, since := s2.stamp })
      else .ok (put s { port with staged := port.staged ++ [w] })

/-- What the pushes of an instruction come to. -/
inductive Pushed where
  | done (s : State)
  | stuck (h : Hold) (s : State)
  | fault (entry : Nat) (f : LaneFault) (s : State)

/-- The words still to push, in lane order, as far as they go; words that stay and lanes that fault are kept with the team (R238, R241). -/
def State.pushAll (s : State) (i : Nat) (q : BitVec 4) : List (Nat × Word) → Pushed
  | [] => .done (s.modTeam i fun t => { t with pushing := none })
  | (l, w) :: ws =>
    match s.push1 i q w with
    | .ok s1 => s1.pushAll i q ws
    | .bad => (s.modTeam i fun t => { t with pushBad := t.pushBad ++ [(l, w)] }).pushAll i q ws
    | .full => .stuck (.fifoFull q.toNat) (s.modTeam i fun t => { t with pushing := some (q.toNat, (l, w) :: ws) })
    | .fault e f s1 => .fault e f (s1.modTeam i fun t => { t with pushing := some (q.toNat, (l, w) :: ws) })
    | .wait h s1 => .stuck h (s1.modTeam i fun t => { t with pushing := some (q.toNat, (l, w) :: ws) })

/-! ## Issue -/

/-- What the effect of an instruction comes to. -/
inductive Res where
  /-- It has issued: the team goes on to the next word. -/
  | ok (s : State)
  /-- It has issued: the team goes on at a clause. -/
  | jump (s : State) (a : Word)
  /-- It has issued and pushes these words (lane, word) into a queue register. -/
  | push (s : State) (q : BitVec 4) (ws : List (Nat × Word))
  /-- The state as it is, with no more done for the team. -/
  | stay (s : State)
  /-- A check of R55 failed; the instruction executes once, or for lanes. -/
  | check (c : Cause) (once : Bool) (s : State)
  /-- The team holds and tries again. -/
  | hold (h : Hold) (s : State)
  /-- The team parks before the instruction has any effect of its own. -/
  | trap (x : TrapInfo) (s : State)

/-- A check after another: it comes where the other answers `.ok`. -/
def Res.andThen (r : Res) (k : State → Res) : Res :=
  match r with
  | .ok s => k s
  | r => r

/-- The lane under which a scalar destination's word is pushed: none of a team's. -/
def noLane : Nat := 1024

/-- The team past an instruction that pushed words: one with passes still to make issues again (R63); it parks on the words that faulted (R241), which are all that is left of it, else it goes on. -/
def State.pushEnd (s : State) (i : Nat) (q : BitVec 4) : State :=
  match s.team i with
  | none => s
  | some t =>
    if t.pass ≠ 0 then s
    else
    match t.pushBad with
    | [] => s.setTeam i t.finish.next
    | bad =>
      let s1 := s.setTeam i { t with pushBad := [] }
      s1.takeTrap (lanesInfo i t t.pc.toNat (bad.any (·.1 == noLane)) (bad.map fun b => plainFault (b.1 % noLane) 0 .illegalOperand) (.push q.toNat bad))

/-- A hold as it stands with the team: a walk held on drains keeps which drains of other teams it met (R347, R349). -/
def State.holdAs (s : State) (i : Nat) (t : Team) (h : Hold) : Hold :=
  match h with
  | .walkDrain => .drainGone (recKeys (s.drains.filter fun d => d.2.part == t.part && d.2.ctx == t.ctx && d.2.team != i))
  | h => h

/-- The pushes of an instruction carried as far as they go. -/
def State.pushGo (s : State) (i : Nat) (q : BitVec 4) (ws : List (Nat × Word)) : State :=
  match s.pushAll i q ws with
  | .done s1 => s1.pushEnd i q
  | .stuck h s1 => s1.modTeam i fun t => { t with hold := some (s1.holdAs i t h) }
  | .fault e f s1 =>
    match s1.team i with
    | none => s1
    | some t => s1.takeTrap (postedInfo i t e f)

/-- What became of an instruction, carried into the state. -/
def settle (i : Nat) (t : Team) : Res → State
  | .ok s1 => s1.modTeam i fun t => t.finish.next
  | .jump s1 a => s1.modTeam i fun t => t.finish.goto a
  | .push s1 q ws => s1.pushGo i q ws
  | .stay s1 => s1
  | .check c once s1 =>
    (if c = .rights then s1.count t.part t.ctx 0x100 else s1).takeTrap (checkInfo i t once c 0 .whole)
  | .hold h s1 => s1.modTeam i fun t => { t with hold := some (s1.holdAs i t h) }
  | .trap x s1 => s1.takeTrap x

/-- An access captured at a fault translates again (R137, R332). -/
def State.redoAcc (s : State) (i : Nat) (t : Team) (k : Kind) (a : Acc) : Walked Acc × State :=
  match s.translate t.part t.ctx (some t.core) (coreDie t.core) (some i) (some a.lane) a.va k with
  | (.ok tr, s1) => (.ok { a with tr := tr }, s1)
  | (.fault c pg tier sz, s1) => (.fault c pg tier sz, s1)
  | (.mig, s1) => (.mig, s1)
  | (.drain, s1) => (.drain, s1)

/-- An instruction of the picked team. What a team has left of an earlier instruction (a trap that waited for its next issue, a replay, words still to push) is done by ISSUE_PICK, before the team is picked for a new one. -/
def issue (s : State) (body : Nat → Team → State → Res) : Host.Outcome State Fault Refusal :=
  match s.cur with
  | none => .refused .noTeam
  | some i =>
    match s.team i with
    | none => .refused .noTeam
    | some t => .next (settle i t (body i t { s with cur := none }))

/-- The pops of an instruction, then its effect with the values popped (R83). -/
def withPops (i : Nat) (t : Team) (s : State) (pops : List Pop) (k : Team → (Nat → Nat → Word) → State → Res) : Res :=
  match pops with
  | [] => k t (fun _ _ => 0) s
  | _ =>
    match t.popAll (pops.drop t.popped.length) with
    | (.error q, t1) => .hold (.fifoEmpty q.toNat) (s.setTeam i t1)
    | (.ok _, t1) => k t1 (poppedFor pops t1.popped) (s.setTeam i t1)

/-- What an instruction comes to that has popped words, where `pre` is what its checks that need no popped value come to: a stop by one of these leaves the words where they were (R55, R83). -/
def Res.unpopped (r : Res) (i : Nat) (t : Team) (pops : List Pop) (pre : Res) : Res :=
  let back (s : State) : State :=
    match pops, pre with
    | [], _ => s
    | _, .ok _ => s
    | _, _ => s.setTeam i t
  match r with
  | .check c single s1 => .check c single (back s1)
  | .trap x s1 => .trap x (back s1)
  | r => r

/-- The same for an instruction whose checks of handles and records need not all wait for a popped value: `pre` makes those that need none, and answers `.ok` where they hold. They come before the pops (R55, R83): an instruction that fails one neither holds on an empty FIFO nor pops. -/
def withPopsAfter (i : Nat) (t : Team) (s : State) (pops : List Pop) (pre : Nat → Team → State → Res) (k : Team → (Nat → Nat → Word) → State → Res) : Res :=
  match pops with
  | [] => k t (fun _ _ => 0) s
  | _ =>
    match t.popAll (pops.drop t.popped.length) with
    | (.error q, t1) =>
      match pre i t s with
      | .ok s1 => .hold (.fifoEmpty q.toNat) (s1.setTeam i t1)
      | r => r
    | (.ok _, t1) => (k t1 (poppedFor pops t1.popped) (s.setTeam i t1)).unpopped i t pops (pre i t s)

/-- An instruction that executes once: its checks, its pops, its effect (R55, R63, R83). -/
def once (s : State) (checks : Team → State → List (Option Cause)) (ss : List (Nat × Sel))
    (eff : Nat → Team → (Nat → Word) → State → Res) : Host.Outcome State Fault Refusal :=
  issue s fun i t s1 =>
    match firstCause (checks t s1 ++ ss.map fun f => t.popCheck f.2) with
    | some c => .check c true s1
    | none => withPops i t s1 (popsOnce ss) fun t1 q s2 => eff i t1 (fun f => q f 0) s2

/-- An instruction that executes once and takes handles or records: `pre` checks those that stand in no queue register. -/
def onceAfter (s : State) (checks : Team → State → List (Option Cause)) (ss : List (Nat × Sel)) (pre : Nat → Team → State → Res)
    (eff : Nat → Team → (Nat → Word) → State → Res) : Host.Outcome State Fault Refusal :=
  issue s fun i t s1 =>
    match firstCause (checks t s1 ++ ss.map fun f => t.popCheck f.2) with
    | some c => .check c true s1
    | none => withPopsAfter i t s1 (popsOnce ss) pre fun t1 q s2 => eff i t1 (fun f => q f 0) s2

/-- A vector instruction over the lanes given: its checks; nothing more where no lane takes part (R65); its pops; its effect. -/
def sweepOn (s : State) (checks : Team → State → List (Option Cause)) (ss : List Sel) (lanes : Team → List Nat) (pops : Team → List Pop)
    (eff : Nat → Team → (Nat → Nat → Word) → State → Res) : Host.Outcome State Fault Refusal :=
  issue s fun i t s1 =>
    match firstCause (checks t s1 ++ ss.map fun a => t.popCheck a) with
    | some c => .check c false s1
    | none => if (lanes t).isEmpty then .ok s1 else withPops i t s1 (pops t) (eff i)

/-- The same for a vector instruction some of whose own checks need no popped value: `pre` makes those. They come before the pops (R55, R83). -/
def sweepPre (s : State) (checks : Team → State → List (Option Cause)) (ss : List Sel) (pops : Team → List Pop)
    (pre : Nat → Team → State → Res) (eff : Nat → Team → (Nat → Nat → Word) → State → Res) : Host.Outcome State Fault Refusal :=
  issue s fun i t s1 =>
    match firstCause (checks t s1 ++ ss.map fun a => t.popCheck a) with
    | some c => .check c false s1
    | none => if t.active.isEmpty then .ok s1 else withPopsAfter i t s1 (pops t) pre (eff i)

/-- A vector instruction over the effective mask whose sources are vector sources (R63, R107). -/
def sweep (s : State) (checks : Team → State → List (Option Cause)) (ss : List (Nat × Sel))
    (eff : Nat → Team → (Nat → Nat → Word) → State → Res) : Host.Outcome State Fault Refusal :=
  sweepOn s checks (ss.map (·.2)) (fun t => t.active) (fun t => popsLanes t.active ss) eff

/-- The passes of an instruction whose D is queue register n and that pops: each pass pops its lanes' entries and pushes their results before the next one pops (R38, R63, R66). A pass that finds no entry or no room holds the team; the passes made stay made (R238). -/
def passesTo (i : Nat) (n : BitVec 4) (lanes : List Nat) (ss : List (Nat × Sel)) (eff : Nat → Team → List Nat → (Nat → Nat → Word) → State → Res) :
    List Nat → Team → State → Res
  | [], t, s => .push (s.setTeam i { t with pass := 0 }) n []
  | g :: gs, t, s =>
    let ls := lanes.filter (· / 32 == g)
    let pops := popsLanes ls ss
    match t.popAll (pops.drop t.popped.length) with
    | (.error q, t1) => .hold (.fifoEmpty q.toNat) (s.setTeam i { t1 with pass := g })
    | (.ok _, t1) =>
      match eff i t1 ls (poppedFor pops t1.popped) (s.setTeam i t1) with
      | .push s1 m ws =>
        match (s1.modTeam i fun u => { u with popped := [], pass := g + 1 }).pushAll i m ws with
        | .stuck h s2 => .hold h s2
        | .done s2 =>
          match s2.team i with
          | some t2 => passesTo i n lanes ss eff gs t2 s2
          | none => .stay s2
        | .fault e f s2 =>
          match s2.team i with
          | some t2 => .trap (postedInfo i t2 e f) s2
          | none => .stay s2
      | r => r

/-- Every entry that an instruction pops is there, and its D has room for its n results: its passes then come to what popping all and pushing all does. -/
def Team.atOnce (t : Team) (d : BitVec 4) (pops : List Pop) (n : Nat) : Bool :=
  pops.isEmpty || (t.pass == 0 && match t.popAll (pops.drop t.popped.length) with
    | (.ok _, u) => (u.qregs[d.toNat]).bind == .fifo && decide ((u.qregs[d.toNat]).fifo.length + n ≤ Config.fifoDepth)
    | _ => false)

/-- A vector instruction each of whose lanes reads only its own sources: its passes go one after the other (R63). `eff` answers for the lanes of one pass, or of all of them. -/
def sweepTo (s : State) (checks : Team → State → List (Option Cause)) (lanes : Team → List Nat) (d : Sel) (ss : List (Nat × Sel))
    (eff : Nat → Team → List Nat → (Nat → Nat → Word) → State → Res) : Host.Outcome State Fault Refusal :=
  match d with
  | .q n =>
    issue s fun i t s1 =>
      match firstCause (checks t s1 ++ (ss.map (·.2)).map fun a => t.popCheck a) with
      | some c => .check c false s1
      | none =>
        let ls := lanes t
        if ls.isEmpty then .ok s1
        else if t.atOnce n (popsLanes ls ss) ls.length then
          withPops i t s1 (popsLanes ls ss) fun t1 q s2 => eff i t1 (lanes t1) q s2
        else passesTo i n ls ss eff ((List.range 32).filter fun g => decide (t.pass ≤ g) && ls.any (· / 32 == g)) t s1
  | _ => sweepOn s checks (ss.map (·.2)) lanes (fun t => popsLanes (lanes t) ss) fun i t q s1 => eff i t (lanes t) q s1

/-- A vector instruction that takes a handle or a record (R65): its checks hold for an empty mask too, but for what stands in a queue register; `pre` makes the checks that need no popped value, and `eff` sees whether lanes take part. -/
def sweepHandle (s : State) (checks : Team → State → List (Option Cause)) (h : Sel) (ss : List Sel) (pops : Team → List Pop)
    (eff : Nat → Team → (Nat → Nat → Word) → State → Res) (pre : Nat → Team → State → Res := fun _ _ s => .ok s) : Host.Outcome State Fault Refusal :=
  issue s fun i t s1 =>
    match firstCause (checks t s1 ++ ss.map fun a => t.popCheck a) with
    | some c => .check c false s1
    | none =>
      if t.active.isEmpty then (if isQ h || !(pops t).isEmpty then pre i t s1 else eff i t (fun _ _ => 0) s1)
      else withPopsAfter i t s1 (pops t) pre (eff i)

/-- The rest of an instruction whose checks have passed: nothing where no lane takes part (R65). -/
def ifActive (i : Nat) (t : Team) (s : State) (k : State → Res) : Res := if t.active.isEmpty then .ok (s.setTeam i t) else k s

/-- A scalar destination written (R80): a register, one entry pushed, or nothing. -/
def putScalar (i : Nat) (t : Team) (s : State) (d : Sel) (w : Word) : Res :=
  match d with
  | .s n => .ok (s.setTeam i (t.setS n w))
  | .q n => .push (s.setTeam i t) n [(noLane, w)]
  | _ => .ok (s.setTeam i t)

/-- A vector destination written (R107): a register of each lane, one entry for each lane, or nothing. -/
def putLanes (i : Nat) (t : Team) (s : State) (d : Sel) (ws : List (Nat × Word)) : Res :=
  match d with
  | .v r => .ok (s.setTeam i (ws.foldl (fun t x => t.setV x.1 r.toNat x.2) t))
  | .q n => .push (s.setTeam i t) n ws
  | _ => .ok (s.setTeam i t)

end Sys2Proof.Machine
end

