-- ==== Sys2Proof/Machine/Accesses.lean ====
section
/-! DEFINITION. Accesses: how an instruction's lanes start their accesses (R55, R106, R132 to R137), how an operation in flight is counted, parks on its faulting lanes and completes (R45, R67, R184, R358), and how an access is performed. -/

namespace Sys2Proof.Machine

open Sys2Proof

/-- Instructions that execute once: their faults are scalar records (R106, R358). -/
def OpKind.once : OpKind → Bool
  | .copy .. => true
  | .trace .. => true
  | .job .. => true
  | _ => false

/-- The address of a lane (R132): S63:S62 plus A plus B, modulo 2^64. -/
def Team.vecAddr (t : Team) (a b : Word) : Nat := (t.pair 62 + a.toNat + b.toNat) % 2 ^ 64

/-- The address of a scalar access (R105): the pair plus B sign-extended, modulo 2^64. -/
def Team.scalarAddr (t : Team) (n : BitVec 6) (b : Word) : Nat := (t.pair n + sext64 b) % 2 ^ 64

/-- No place yet. -/
def noTr : Tr := { place := .zeros, pa := 0, nodes := [] }

/-- A lane's access before it starts. -/
def Acc.new (lane va size align reg : Nat) (data : List Byte) : Acc :=
  { lane := lane, va := va, size := size, align := align, reg := reg, data := data, tr := noTr, done := false, aux := 0 }

/-- What the start of one access gives: it is under way, it faults, or its walk holds. -/
inductive Start where
  | ok (a : Acc)
  | fault (f : LaneFault)
  | hold (h : Hold)
  deriving DecidableEq, Repr

/-- The start of a memory access (R134, R137, R345): ALIGN before translation, then the walk's cause, then an uncorrectable error met by a read or by a partial write. -/
def State.startMem (s : State) (i : Nat) (t : Team) (k : Kind) (a : Acc) : Start × State :=
  if a.va % a.align ≠ 0 then (.fault (plainFault a.lane a.va .align), s)
  else
    match s.translate t.part t.ctx (some t.core) (coreDie t.core) (some i) (some a.lane) a.va k with
    | (.mig, s1) => (.hold .walkMig, s1)
    | (.drain, s1) => (.hold .walkDrain, s1)
    | (.fault c pg tier sz, s1) => (.fault (laneFault a.lane a.va c pg tier sz), s1)
    | (.ok tr, s1) =>
      match tr.place with
      | .mem key =>
        if k ≠ .none ∧ s1.meetsBad i (k == .write) key a.size then
          (.fault (laneFault a.lane a.va .memUncorr tr.pa (opTier (keyTier key)) tr.leaf), s1)
        else (.ok { a with tr := tr }, s1)
      | _ => (.ok { a with tr := tr }, s1)

/-- The start of a scratch access (R215): ALIGN, then SCRATCH_BOUNDS. -/
def State.startScratch (s : State) (t : Team) (a : Acc) : Start :=
  if a.va % a.align ≠ 0 then .fault (plainFault a.lane a.va .align)
  else
    match recFind s.clusters t.cluster with
    | none => .fault (plainFault a.lane a.va .scratchBounds)
    | some c =>
      if scratchOk c a.va a.size && c.spoiled.contains (scratchKey a.va / 32) then .fault (plainFault a.lane a.va .memUncorr)
      else if scratchOk c a.va a.size then .ok { a with tr := { place := .scratch t.cluster (scratchKey a.va), pa := 0, nodes := [] } }
      else .fault (plainFault a.lane a.va .scratchBounds)

/-- The device of an access on another device. -/
def Acc.remoteDev (a : Acc) : Option Nat :=
  match a.tr.place with
  | .remote d => some d
  | _ => none

/-- The start of an access that may name its device (R310, R312, R315): `aux` is 1 for one that does. On another device it is translated there (R317); a lane of this device whose leaf leads to another is translated here again at its replay. -/
def State.startNamed (s : State) (i : Nat) (t : Team) (k : Kind) (a : Acc) : Start × State :=
  match a.aux, a.remoteDev with
  | 1, some d =>
    if !s.reaches t.part t.ctx d then (.fault (plainFault a.lane a.va .peerUnreachable), s)
    else if a.va % a.align ≠ 0 then (.fault (plainFault a.lane a.va .align), s)
    else (.ok a, s)
  | 1, none =>
    if !s.named t.part t.ctx (s.ctx t.part t.ctx).fabDev then (.fault (plainFault a.lane a.va .peerUnreachable), s)
    else match s.startMem i t k a with
      | (.ok b, s1) => (.ok (if b.remoteDev.isSome then { b with aux := 0 } else b), s1)
      | r => r
  | _, _ => s.startMem i t k a

/-- The number under which an instruction-fetch cache holds a line of text that stands in no memory of this device: of another device's page, or of a discarded one. -/
def textKey (pl : Place) (va : Nat) : Option Nat :=
  match pl with
  | .remote d => some (2 ^ 60 + d * 2 ^ 64 + (va - va % 128))
  | .zeros => some (2 ^ 59 + (va - va % 128) % 2 ^ 57)
  | _ => none

/-- The start of one access of a kind of operation. A directed form checks its recipient first (R273), whose uncorrectable error is met when its old value is to be written. -/
def State.startAcc (s : State) (i : Nat) (t : Team) (x : Access) (a : Acc) : Start × State :=
  match x with
  | .read => s.startNamed i t .read a
  | .write => s.startNamed i t .write a
  | .scratch => (s.startScratch t a, s)
  | .look => s.startMem i t .none a
  | .directed =>
    match s.startScratch t { a with va := a.reg, size := 8, align := 8 } with
    | .fault f =>
      if f.cause = .memUncorr then
        match s.startMem i t .write a with
        | (.ok _, s1) => (.fault { f with va := a.reg }, s1)
        | r => r
      else (.fault { f with va := a.reg }, s)
    | _ => s.startMem i t .write a
  | .chunk =>
    match s.startMem i t .write a with
    | (.ok b, s1) => (if b.remoteDev.isSome then .fault (plainFault b.lane b.va .peerUnreachable) else .ok b, s1)
    | r => r
  | .direct => (.ok a, s)

/-- What the start of all of an instruction's accesses gives: those under way, those that fault with what was captured, or a hold of the whole instruction (R347). -/
inductive Started where
  | ok (good : List Acc) (bad : List (LaneFault × Acc)) (s : State)
  | hold (h : Hold) (s : State)
  deriving DecidableEq, Repr

/-- The accesses of an instruction start, in pass order (R63). -/
def State.startAll (s : State) (i : Nat) (t : Team) (x : Access) : List Acc → Started
  | [] => .ok [] [] s
  | a :: as =>
    match s.startAcc i t x a with
    | (.hold h, s1) => .hold h s1
    | (.ok b, s1) =>
      match s1.startAll i t x as with
      | .ok g f s2 => .ok (b :: g) f s2
      | .hold h s2 => .hold h s2
    | (.fault f, s1) =>
      match s1.startAll i t x as with
      | .ok g fs s2 => .ok g ((f, a) :: fs) s2
      | .hold h s2 => .hold h s2

/-! ## Operations -/

/-- The accesses that are not done and go to a device from a group, by index. -/
def remoteIdx (accs : List Acc) (d g : Nat) : List Nat :=
  (List.range accs.length).filter fun k => match accs[k]? with
    | some a => !a.done && a.remoteDev == some d && a.lane / 32 == g
    | none => false

/-- The cost of a unit (R321): its distinct 64-byte segments, twice for stores. -/
def unitCost (accs : List Acc) (idx : List Nat) (store : Bool) : Nat :=
  let segs := (idx.filterMap fun k => accs[k]?.map fun a => a.va / 64).foldl (fun l x => if l.contains x then l else x :: l) []
  segs.length * (if store then 2 else 1)

/-- The accesses of a pattern operation on its own device, by index. -/
def localIdx (accs : List Acc) : List Nat :=
  (List.range accs.length).filter fun k => match accs[k]? with
    | some a => !a.done && a.remoteDev.isNone
    | none => false

/-- The units of an operation's remote accesses (R313, R321): devices ascending, passes ascending. The lanes of the device's own replay stand among them where a replay to a lower device goes before it. -/
def unitsOf (store : Bool) (own : Option Nat) (accs : List Acc) : List FabUnit :=
  if accs.any fun a => !a.done && a.remoteDev.isSome then
    ((List.range 512).map fun d =>
      if own = some d then
        (if !(localIdx accs).isEmpty && (accs.any fun a => !a.done && match a.remoteDev with
            | some n => decide (n < d)
            | none => false) then [{ dev := d, cost := 0, idx := localIdx accs, stalled := false }] else [])
      else if accs.any fun a => a.remoteDev == some d then
        (List.range 32).filterMap fun g =>
          let idx := remoteIdx accs d g
          if idx.isEmpty then none else some { dev := d, cost := unitCost accs idx store, idx := idx, stalled := false }
      else []).flatten
  else []

/-- An access waits in a unit that is not sent. -/
def Op.unsent (x : Op) (k : Nat) : Bool := x.units.any fun u => u.idx.contains k

/-- The number under which another device answers a record read of a team. -/
def remoteTag (i va : Nat) : Nat := (i + 1) * 2 ^ 64 + va
/-- The number under which another device answers a read of an agent of this device. -/
def agentTag (va : Nat) : Nat := 2 ^ 128 + va
/-- The number under which another device answers a write of an agent of this device. -/
def writeTag (va : Nat) : Nat := 2 ^ 129 + va

/-- A read of n bytes of another device goes out under a number, once until the outside has taken it. -/
def State.ask (s : State) (dev op k va n : Nat) : State :=
  let u := Output.unit dev op (.load n [(k, va)])
  if s.outputs.contains u then s else { s with outputs := s.outputs ++ [u] }

/-- The answers to the record and text reads of a team are used up. -/
def State.dropReplies (s : State) (i : Nat) : State := { s with fabIn := s.fabIn.filter fun r => r.op / 2 ^ 64 != i + 1 }

/-- The answers to an agent's reads are used up. -/
def State.forget (s : State) : State := { s with fabIn := s.fabIn.filter fun r => r.op / 2 ^ 128 != 1 }

/-- An agent's walk for an operation holds: on s2.mig until an INVCF of the operator releases it (R347, R350); for bytes of another device, which are asked for; otherwise it tries again. -/
def State.holdOp (s : State) (o : Nat) (h : Hold) : State :=
  match h with
  | .walkMig => match s.op o with
    | some x => s.setOp o { x with mig := true }
    | none => s
  | .remoteRead dev va n => s.ask dev (agentTag va) 0 va n
  | _ => s

/-- What a replay of an operation's faulting lanes re-executes: its accesses, or the lane groups of a loop and the push of a walk that stopped (R197, R211). -/
def Op.redo (x : Op) (o : Nat) : Redo :=
  match x.kind with
  | .loop _ => .op o
  | .trace .. => .op o
  | .job .. => .op o
  | _ => .accs o x.refail

/-- An operation of an instruction that executes once (R106, R358): its kind's, or one that no lane is named for. -/
def Op.single (x : Op) : Bool := x.kind.once || x.mask == 0

/-- The lanes of an operation that faulted are reported: the team parks on them (R137, R358) if it holds for this operation, else at its next issue. -/
def State.parkOp (s : State) (o : Nat) (x : Op) : State :=
  match x.failed with
  | [] => s
  | fs =>
    let s1 := s.setOp o { x with failed := [] }
    match x.team with
    | none => s1
    | some i =>
      match s1.team i with
      | none => s1
      | some t =>
        if t.hold = some (.faultAfter o) then s1.takeTrap (lanesInfo i t x.pc x.single fs (x.redo o))
        else s1.setTeam i { t with pend := t.pend ++ [{ pc := x.pc, scalar := x.single, faults := fs, mask := 0, redo := x.redo o }] }

/-- Kinds whose remote accesses travel in units (R321): lanes of instructions, not copies. -/
def OpKind.units : OpKind → Bool
  | .copy .. => false
  | .flush _ => false
  | .pleat .. => false
  | .job .. => false
  | .enq .. => false
  | .deq .. => false
  | .knot .. => false
  | _ => true

/-- An operation enters the machine at issue, counted on its flag; where lanes faulted the team holds until the rest is performed, or parks at once (R45, R137, R358). -/
def State.enterOp (s : State) (i : Nat) (t : Team) (x : Op) (bad : List (LaneFault × Acc)) : State :=
  let o := s.stamp
  let own := if x.accs.any (·.aux == 1) then some (s.ctx x.part x.ctx).fabDev else none
  let us := if x.kind.units then unitsOf (x.kind == .store) own x.accs else []
  let y : Op := { x with failed := bad.map (·.1), refail := bad.map (·.2), units := us }
  let t1 := t.raiseFlag x.flag
  let t2 := if !us.isEmpty then { t1 with hold := some (.units o) } else if bad.isEmpty then t1 else { t1 with hold := some (.faultAfter o) }
  let s1 := (s.bump.setTeam i t2).setOp o y
  if bad.isEmpty ∨ x.accs.any (!·.done) then s1 else s1.parkOp o y

/-- An instruction that starts an operation (R45): it holds while its flag is full; then its accesses start; then the operation is in flight. `x` completes the operation's record from the accesses that started. -/
def startOp (i : Nat) (t : Team) (s : State) (classB : Bool) (kind : OpKind) (accs : List Acc) (fill : Op → Op) : Res :=
  let fl := t.setFlag classB
  if t.flagFull fl then .hold (.flagFull (fl.getD 0)) (s.setTeam i t)
  else
    match (s.setTeam i t).startAll i t kind.access accs with
    | .hold h s1 => .hold h s1
    | .ok good bad s1 => .ok (s1.enterOp i t (fill { opOf i t s1 fl kind with accs := good }) bad)

/-- Every access of the operation has been performed. -/
def Op.allDone (x : Op) : Bool := x.accs.all (·.done)

/-- The operation can complete: everything is performed, and no captured lane waits for its replay (R45, R358). -/
def Op.completes (x : Op) : Bool := x.allDone && (!x.failed.isEmpty || x.refail.isEmpty)

/-- An operation that is over: its flag drops; an acquire makes later reads leave older copies (R45, R281); the operation goes. -/
def State.endOp (s : State) (o : Nat) (x : Op) : State :=
  let s1 := s.dropOp o
  match x.team with
  | none => s1
  | some i =>
    let s2 := s1.modTeam i fun t =>
      let t1 := t.lowerFlag x.flag
      if x.acquiring then { t1 with acq := s.acquireAt t (x.acq.getD 0) } else t1
    if x.acquiring then s2.bump else s2

/-- The kinds whose remote replies carry data that a step of their own delivers. -/
def OpKind.returns : OpKind → Bool
  | .load .. => true
  | .sample .. => true
  | .atomic _ _ _ dir ret => dir || ret
  | .pleat .. => true
  | .copy .. => true
  | _ => false

/-- The reply of another device to access k of an operation, and the state with it taken. -/
def State.takeReply (s : State) (o k : Nat) : Option FabRep × State :=
  (s.fabIn.find? fun r => r.op == o && r.lane == k, { s with fabIn := s.fabIn.filter fun r => !(r.op == o && r.lane == k) })

/-- A fault of what another device met, as an operation's kind sees it (R314, R317): a handle that is stale there makes PATCF fault as one that is stale here. -/
def OpKind.farFault (k : OpKind) (lane va : Nat) (c : Cause) : LaneFault :=
  match k with
  | .job .. => if c = .staleHandle then plainFault lane va c else Machine.farFault lane va c
  | _ => Machine.farFault lane va c

/-- Accesses in lane order, with one more: a replay goes in pass order (R63, R269). -/
def insertLane (a : Acc) : List Acc → List Acc
  | [] => [a]
  | b :: bs => if a.lane < b.lane then a :: b :: bs else b :: insertLane a bs

/-- A lane of an operation faults after issue: it joins the operation's faulting lanes with what was captured. -/
def Op.failLane (x : Op) (k : Nat) (a : Acc) (c : Cause) : Op :=
  let y := x.markDone k
  let f := match a.tr.place with
    | .mem key => laneFault a.lane a.va c a.tr.pa (opTier (keyTier key)) a.tr.leaf
    | .remote _ => x.kind.farFault a.lane a.va c
    | _ => plainFault a.lane a.va c
  { y with failed := y.failed ++ [f], refail := insertLane a y.refail }

/-- Lanes of an operation that fault after issue. -/
def Op.failAll (x : Op) (c : Cause) : List Nat → Op
  | [] => x
  | k :: ks =>
    match x.accs[k]? with
    | none => x.failAll c ks
    | some a => (x.failLane k a c).failAll c ks

/-- The replies of other devices to an operation's accesses from index k on are taken (R317). -/
def State.absorb (s : State) (o : Nat) (x : Op) (k : Nat) : List Acc → State × Op
  | [] => (s, x)
  | a :: as =>
    if !a.done && a.remoteDev.isSome && !x.unsent k then
      match s.takeReply o k with
      | (some r, s1) =>
        match r.cause with
        | some c => s1.absorb o (x.failLane k a c) (k + 1) as
        | none => s1.absorb o (x.markDone k) (k + 1) as
      | (none, _) => s.absorb o x (k + 1) as
    else s.absorb o x (k + 1) as

/-- The operation with what other devices have answered. -/
def State.answered (s : State) (o : Nat) (x : Op) : State × Op :=
  if x.kind.returns then (s, x)
  else
    let (s1, y) := s.absorb o x 0 x.accs
    (s1.setOp o y, y)

/-! ## Registers loaded -/

/-- The words a load delivers from its bytes: one element extended, or a run of words (R105, R108, R134). -/
def loadWords (bits : Nat) (sign : Bool) (bs : List Byte) : List Word :=
  if bits < 32 then
    let x := bytesNat bs % 2 ^ bits
    [BitVec.ofNat 32 (if sign then lowBits 32 (signedOf bits x) else x)]
  else bytesWords (bs.length / 4) bs

/-- Words delivered to scalar registers from number r. -/
def Team.setSs (t : Team) (r : Nat) : List Word → Team
  | [] => t
  | w :: ws => (t.setS (BitVec.ofNat 6 r) w).setSs (r + 1) ws

/-- Some of the words of a scalar load delivered to a team's registers, by their bits in a number (R67). -/
def State.deliverSome (s : State) (x : Op) (a : Acc) (ws : List Word) (which : Nat) : State :=
  match x.team with
  | none => s
  | some i => s.modTeam i fun t => (ws.zipIdx.filter fun w => which.testBit w.2).foldl (fun t w => t.setSs (a.reg + w.2) [w.1]) t

/-- The words of a load delivered to a team's registers. -/
def State.deliver (s : State) (x : Op) (a : Acc) (scalar : Bool) (ws : List Word) : State :=
  match x.team with
  | none => s
  | some i => s.modTeam i fun t => if scalar then t.setSs a.reg ws else t.setVs a.lane a.reg ws

end Sys2Proof.Machine
end

