-- ==== Sys2Proof/Machine/LoadStore.lean ====
section
/-! DEFINITION. LoadStore: the load-store path: SLD to SST2 (R105, R106), VLD1 to VST8 (R132 to R137), and the steps that perform them: LOAD_RETURN, POSTED_DRAIN, STORE_PERFORM (R228, R278, R280, R284). -/

namespace Sys2Proof.Machine

open Sys2Proof

/-! ## Stores -/

/-- Two accesses of one instruction go to the same bytes: of memory or scratch, whatever their virtual addresses, or at one address elsewhere. -/
def Acc.samePlace (a b : Acc) : Bool :=
  a.tr.place == b.tr.place && match a.tr.place with
    | .mem _ => true
    | .scratch .. => true
    | _ => a.va == b.va

/-- Of several lanes that write one place, only the last in pass order writes it (R136). -/
def lastWriters : List Acc → List Acc
  | [] => []
  | a :: as => if as.any a.samePlace then lastWriters as else a :: lastWriters as

/-- The pieces of a store that are single-copy atomic (R135): a run above 16 bytes goes in halves of 16. -/
def storePieces (va : Nat) (bs : List Byte) : List (Nat × List Byte) :=
  if bs.length ≤ 16 then [(va, bs)] else [(va, bs.take 16), (va + 16, bs.drop 16)]

/-- A translation a few bytes on. -/
def Tr.shift (tr : Tr) (n : Nat) : Tr :=
  match tr.place with
  | .mem k => { tr with place := .mem (k + n), pa := tr.pa + n }
  | _ => { tr with pa := tr.pa + n }

/-- One store waits as posted entries of the team (R284). Where `acc` names an access of the operation, that is performed when its bytes are home (R294). -/
def State.post1 (s : State) (i o : Nat) (a : Acc) (acc : Option Nat) : State :=
  let put (s : State) (p : Nat × List Byte) : State :=
    let e : Posted :=
      { team := i, op := o, lane := a.lane, va := p.1, data := p.2, tr := some (a.tr.shift (p.1 - a.va)), held := none, sent := false, mig := false,
        acc := acc }
    { s.bump with posted := cellPut s.posted s.stamp e }
  (storePieces a.va a.data).foldl put s

/-- Plain stores wait as posted entries of the team, oldest first (R284). -/
def State.postAll (s : State) (i o : Nat) : List Acc → State
  | [] => s
  | a :: as => (s.post1 i o a none).postAll i o as

/-- Release stores go on their way themselves, each waiting at home for what it covers (R278, R280). -/
def State.sendAll (s : State) (i : Nat) (t : Team) (o sc : Nat) : Nat → List Acc → State
  | _, [] => s
  | k, a :: as =>
    match a.tr.place with
    | .mem key =>
      let w : StoreReq :=
        { team := some i, dom := s.dom t, part := t.part, ctx := t.ctx, key := key, va := a.va, data := a.data, pa := a.tr.pa,
          nodes := a.tr.nodes, seq := o, rel := some sc, op := some (o, k) }
      ({ s.bump with stores := cellPut s.stores s.stamp w }).sendAll i t o sc (k + 1) as
    | _ => s.sendAll i t o sc (k + 1) as

/-- A store's scope of release, where it is one: a release at TEAM scope orders nothing beyond program order (R283, R284). -/
def Team.releases (t : Team) : Option Nat := if t.relScope = some 0 then none else t.relScope

/-- The accesses of a store that issue: posted, or on their way as a release (R135, R284). A scalar store executes once: no lane is named for it (R106). -/
def storeAccs (i : Nat) (t : Team) (s : State) (single : Bool) (accs : List Acc) : Res :=
  let fl := t.setFlag true
  if t.flagFull fl then .hold (.flagFull (fl.getD 0)) (s.setTeam i t)
  else
    let go (s : State) : Res :=
      match s.startAll i t .write accs with
      | .hold h s1 => .hold h s1
      | .ok good bad s1 =>
        let ws := lastWriters good
        let o := s1.stamp
        let x := { opOf i t s1 fl .store with mask := if single then 0 else t.eff }
        match t.releases with
        | none =>
          let s2 := s1.enterOp i t { x with accs := ws.filter (·.remoteDev.isSome) } bad
          .ok (s2.postAll i o (ws.filter (·.remoteDev.isNone)))
        | some sc =>
          let s2 := s1.enterOp i t { x with accs := ws, rel := some sc } bad
          .ok (s2.sendAll i t o sc 0 ws)
    match t.releases with
    | none => go (s.setTeam i t)
    | some _ =>
      match (s.setTeam i t).drainAll i with
      | .fault e f s1 => .trap (postedInfo i t e f) s1
      | .wait h s1 => .hold h s1
      | .ok s1 => go s1

/-! ## Scalar accesses (R105, R106) -/

/-- A scalar access faults as a scalar record; the replay executes the instruction whole (R106). -/
def scalarFault (i : Nat) (t : Team) (s : State) (f : LaneFault) : Res := .trap (lanesInfo i t t.pc.toNat true [f] .whole) (s.setTeam i t)

/-- SLD and SLD2 (R105). DESIGN CHOICE: D of SLD may be an odd register (log 107), since the corner case of R106 names an odd D of SLD too and the operand table asks only for an S register. -/
def scalarLoad (s : State) (d a b : Sel) (size : Nat) : Host.Outcome State Fault Refusal :=
  once s (fun t _ => [need ((if size = 8 then pairOk d else isS d) && pairOk a && t.scalarSrc b) .illegalOperand]) [(1, b)] fun i t q s1 =>
    match d, a with
    | .s r, .s n =>
      let fl := t.setFlag false
      if t.flagFull fl then .hold (.flagFull (fl.getD 0)) (s1.setTeam i t)
      else
        match (s1.setTeam i t).startMem i t .read (Acc.new 0 (t.scalarAddr n (s1.scalar t b (q 1))) size size r.toNat []) with
        | (.hold h, s2) => .hold h s2
        | (.fault f, s2) => scalarFault i t s2 f
        | (.ok x, s2) => .ok (s2.enterOp i t { opOf i t s2 fl (.load .loadStore true 32 false) with accs := [x], acq := t.acqScope, mask := 0 } [])
    | _, _ => .check .illegalOperand true s1

/-- SLD (R105). -/
def execSld (d a b : Sel) (s : State) : Host.Outcome State Fault Refusal := scalarLoad s d a b 4
/-- SLD2 (R105). -/
def execSld2 (d a b : Sel) (s : State) : Host.Outcome State Fault Refusal := scalarLoad s d a b 8

/-- SST and SST2 (R105): D of SST may be ZERO. -/
def scalarStore (s : State) (d a b : Sel) (size : Nat) : Host.Outcome State Fault Refusal :=
  once s (fun t _ => [need ((if size = 8 then pairOk d else isS d || d == .sp .zero) && pairOk a && t.scalarSrc b) .illegalOperand]) [(1, b)]
    fun i t q s1 =>
    match a with
    | .s n =>
      let v := match d with
        | .s r => if size = 8 then t.pair r else (t.s r).toNat
        | _ => 0
      let acc := Acc.new 0 (t.scalarAddr n (s1.scalar t b (q 1))) size size 0 (natBytes v size)
      match (s1.setTeam i t).startMem i t .write acc with
      | (.fault f, s2) => scalarFault i t s2 f
      | (.hold h, s2) => .hold h s2
      | (.ok _, _) => storeAccs i t s1 true [acc]
    | _ => .check .illegalOperand true s1

/-- SST (R105). -/
def execSst (d a b : Sel) (s : State) : Host.Outcome State Fault Refusal := scalarStore s d a b 4
/-- SST2 (R105). -/
def execSst2 (d a b : Sel) (s : State) : Host.Outcome State Fault Refusal := scalarStore s d a b 8

/-! ## Vector accesses (R134) -/

/-- The types VLD1 and VST1 take (R134). -/
def Ty.loads : Ty → Bool
  | .i8 | .i16 | .i32 | .n8 | .n16 | .n32 | .f16 | .bf16 | .f32 | .e4m3 | .e5m2 | .b32 | .s8e => true
  | _ => false

/-- The pops of an instruction with a vector source A and a scalar source B, popped once. -/
def popsVS (t : Team) (a b : Sel) : List Pop := popsLanes t.active [(0, a)] ++ popsOnce [(1, b)]

/-- A vector load (R134): `n` registers of 4 bytes, or one element of mode.type where n is 0. -/
def vecLoad (s : State) (d a b : Sel) (n : Nat) : Host.Outcome State Fault Refusal :=
  sweepOn s (fun t _ => [need ((match d with | .v r => t.vOk r (max n 1) | _ => false) && t.vectorSrc a && t.scalarSrc b) .illegalOperand,
      need (n != 0 || t.ty.loads) .illegalOperand]) [a, b] (fun t => t.active) (fun t => popsVS t a b) fun i t q s1 =>
    match d with
    | .v r =>
      let size := if n = 0 then t.ty.width / 8 else 4 * n
      let bits := if n = 0 then t.ty.width else 32
      let base := s1.scalar t b (q 1 0)
      startOp i t s1 false (.load .loadStore false bits (n == 0 && t.ty.signed))
        (t.active.map fun l => Acc.new l (t.vecAddr (s1.src t a l (q 0 l)) base) size size r.toNat [])
        fun x => { x with acq := t.acqScope }
    | _ => .check .illegalOperand false s1

/-- VLD1 (R134). -/
def execVld1 (d a b : Sel) (s : State) : Host.Outcome State Fault Refusal := vecLoad s d a b 0
/-- VLD2 (R134). -/
def execVld2 (d a b : Sel) (s : State) : Host.Outcome State Fault Refusal := vecLoad s d a b 2
/-- VLD4 (R134). -/
def execVld4 (d a b : Sel) (s : State) : Host.Outcome State Fault Refusal := vecLoad s d a b 4
/-- VLD8 (R134). -/
def execVld8 (d a b : Sel) (s : State) : Host.Outcome State Fault Refusal := vecLoad s d a b 8

/-- A vector store (R134): D of VST1 may also be an S register, a K slot or ZERO. -/
def vecStore (s : State) (d a b : Sel) (n : Nat) : Host.Outcome State Fault Refusal :=
  sweepOn s (fun t _ => [need ((match d with
        | .v r => t.vOk r (max n 1)
        | .s _ => n == 0
        | .k m => n == 0 && t.litOk m
        | .sp .zero => n == 0
        | _ => false) && t.vectorSrc a && t.scalarSrc b) .illegalOperand,
      need (n != 0 || t.ty.loads) .illegalOperand]) [a, b] (fun t => t.active) (fun t => popsVS t a b) fun i t q s1 =>
    let size := if n = 0 then t.ty.width / 8 else 4 * n
    let base := s1.scalar t b (q 1 0)
    let data (l : Nat) : List Byte := match d with
      | .v r => if n = 0 then natBytes (t.v l r.toNat).toNat size else wordsBytes (t.vs l r.toNat n)
      | _ => natBytes (s1.src t d l 0).toNat size
    storeAccs i t s1 false (t.active.map fun l => Acc.new l (t.vecAddr (s1.src t a l (q 0 l)) base) size size 0 (data l))

/-- VST1 (R134). -/
def execVst1 (d a b : Sel) (s : State) : Host.Outcome State Fault Refusal := vecStore s d a b 0
/-- VST2 (R134). -/
def execVst2 (d a b : Sel) (s : State) : Host.Outcome State Fault Refusal := vecStore s d a b 2
/-- VST4 (R134). -/
def execVst4 (d a b : Sel) (s : State) : Host.Outcome State Fault Refusal := vecStore s d a b 4
/-- VST8 (R134). -/
def execVst8 (d a b : Sel) (s : State) : Host.Outcome State Fault Refusal := vecStore s d a b 8

/-! ## The steps that perform them -/

/-- Bytes read for a team under what it has posted before, whatever its own address leads to by now (R136, R284). -/
def State.underPosted (s : State) (x : Op) (a : Acc) (o : Nat) (path : Path) (bs : List Byte) : List Byte :=
  match x.team with
  | none => bs
  | some i => if path = .loadStore then s.forward i a.va o bs else bs

/-- A read of memory meets an uncorrectable error where it is performed (R397). -/
def State.readSpoilt (s : State) (a : Acc) : Bool :=
  match a.tr.place with
  | .mem key => s.rangeBad key a.size
  | _ => false

/-- The stamp from which a copy of a path may serve an operation: for the load-store path that of its team's last acquire (R281). -/
def State.since (s : State) (x : Op) (path : Path) : Nat :=
  match x.team.bind s.team with
  | some t => if path = .loadStore then t.acq else 0
  | none => 0

/-- The domain whose copies serve an operation's reads by a path. -/
def Op.pathDom (x : Op) (path : Path) : Nat := if path = .loadStore then x.dom else x.core

/-- A read of an operation meets an uncorrectable error, at home or in a copy. -/
def State.readMeets (s : State) (x : Op) (a : Acc) (path : Path) : Bool × State :=
  match a.tr.place with
  | .mem key => if s.readSpoilt a then (true, s) else s.meetsCopy (x.pathDom path) path (s.since x path) key a.size
  | _ => (false, s)

/-- The bytes a memory read of an operation gives its team: through its path's caches, under what the team has posted before it (R67, R136, R227, R231, R284). -/
def State.readFor (s : State) (o : Nat) (x : Op) (a : Acc) (path : Path) : List Byte × State :=
  match a.tr.place with
  | .mem key =>
    let (bs, s1) := s.pathRead (s.ctxMemKey x.part x.ctx) (!s.revokes x.part x.ctx (a.va % 2 ^ 57)) (x.pathDom path) path (s.since x path) key a.tr.pa a.size
    (s1.underPosted x a o path bs, s1)
  | _ => (s.underPosted x a o path (List.replicate a.size 0), s)

/-- An earlier PFENCE of the team that names a path is not complete: reads of that path wait (R232). -/
def State.pfenced (s : State) (team : Option Nat) (o : Nat) (path : Path) : Bool :=
  let bitOf := match path with
    | .loadStore => 0
    | .const => 1
    | .sampler => 2
    | .tile => 3
  team.isSome && s.ops.any fun x => x.2.team == team && decide (x.1 < o) && match x.2.kind with
    | .pfence ps => ps.testBit bitOf
    | _ => false

/-- The path of an operation's reads. -/
def OpKind.path : OpKind → Path
  | .load p _ _ _ => p
  | .sample .. => .sampler
  | _ => .loadStore

/-- An earlier entry that the team posted through another virtual address waits to drain over a run of bytes: a later access there comes after it (R67, R136). One that a cause holds writes nothing. -/
def State.aliasPosted (s : State) (team : Option Nat) (o key va n : Nat) : Bool :=
  team.isSome && s.posted.any fun e => some e.2.team == team && decide (e.1 < o) && e.2.held.isNone
    && !(overlaps e.2.va e.2.data.length va n) && match e.2.tr.map Tr.place with
      | some (.mem k) => overlaps k e.2.data.length key n
      | _ => false

/-- A load access can be performed: it is not done, it is here, and nothing of its team before it is in the way (R67, R281). -/
def State.loadReady (s : State) (o : Nat) (x : Op) (k : Nat) (a : Acc) : Bool :=
  !a.done && !x.unsent k && !s.pfenced x.team o x.kind.path && match a.tr.place with
    | .mem key => !s.blocked x.team o key a.size && !(x.kind.path == .loadStore && s.aliasPosted x.team o key a.va a.size)
    | .zeros => !s.acquires x.team o
    | .remote _ => s.fabIn.any fun r => r.op == o && r.lane == k
    | .scratch .. => false

/-- A posted entry can drain on its own: no cause holds it, and nothing of its team before it is in the way (R67, R283, R284). A halted team's entries wait (R284). -/
def State.drainReady (s : State) (n : Nat) (e : Posted) : Bool :=
  e.held.isNone && !e.mig && !s.fenced (some e.team) n && !s.readAway n e
  && (match s.team e.team with
      | some t => !t.halted && t.place == .placed
      | none => true)
  && !(s.posted.any fun f => f.2.team == e.team && decide (f.1 < n) && f.2.meets e)
  && (match e.tr with
      | some tr => match tr.place with
        | .mem k => !s.blocked (some e.team) n k e.data.length
        | .remote _ => false
        | _ => true
      | none => true)

/-- The reply of another device to a posted entry that was sent there (R284): it has gone, or FABRIC_PERM holds it, whatever cause the device gives. -/
def State.postedReply (s : State) (e : Nat) (x : Posted) : State :=
  match s.takeReply e x.lane with
  | (none, _) => s
  | (some r, s1) =>
    match r.cause with
    | none => { s1 with posted := cellDel s1.posted e }.landed x.lands
    | some c =>
      let f := { plainFault x.lane x.va .fabricPerm with dest := if c = .fabricPerm then none else some c }
      { s1 with posted := cellPut s1.posted e { x with held := some f, sent := false } }

/-- POSTED_DRAIN (R284): a posted entry drains to the L1 and on its way home, or is held with its cause; one sent to another device takes its reply. -/
def execPostedDrain (e : Nat) (s : State) : Host.Outcome State Fault Refusal :=
  match recFind s.posted e with
  | none => .next s
  | some x =>
    if x.sent then .next (s.postedReply e x)
    else if s.drainReady e x then
      match s.drainEntry e x with
      | .ok s1 => .next s1
      | .held _ s1 => .next s1
      | .wait h s1 => .next { s1 with posted := match recFind s1.posted e with
          | some y => cellPut s1.posted e { y with mig := h == .walkMig }
          | none => s1.posted }
    else .next s

/-- A write-through can be performed at its home: earlier ones of its L1 over the same bytes are, and a release has everything it covers visible within its scope (R67, R276, R278, R280). A plain one had nothing in its way when it left its L1. -/
def State.storeReady (s : State) (w : Nat) (x : StoreReq) : Bool :=
  !(s.stores.any fun v => v.2.dom == x.dom && decide (v.1 < w) && overlaps v.2.key v.2.data.length x.key x.data.length)
  && !s.fenced x.team x.seq
  && (match x.rel with
      | some sc => !s.blocked x.team x.seq x.key x.data.length && s.coveredAt sc x.team x.dom x.seq
      | none => true)

/-- STORE_PERFORM (R136, R228, R276, R278): the write is performed at its home L2; a release then updates its L1's copy, under the plain writes that came to it since, and its operation goes on. -/
def execStorePerform (w : Nat) (s : State) : Host.Outcome State Fault Refusal :=
  match recFind s.stores w with
  | none => .next s
  | some x =>
    if s.storeReady w x then
      let s1 := { s with stores := cellDel s.stores w }.homeWrite (s.ctxMemKey x.part x.ctx) x.key x.data
      let s2 := if x.rel.isSome then s1.updateL1 x.dom x.key (s1.underPlain x.dom x.key x.data) else s1
      .next (s2.landed x.op)
    else .next s

end Sys2Proof.Machine
end

