-- ==== Sys2Proof/Machine/Scratch.lean ====
section
/-! DEFINITION. Scratch: cluster scratch, its presence bits and tacks: PLD1 to PST4, PRES, PINV, TKINIT to TKEXP, and the steps that wake their waiters (R214 to R220, R225, R248, R249, R252). -/

namespace Sys2Proof.Machine

open Sys2Proof

/-- The cluster of a number. -/
def State.cluster (s : State) (c : Nat) : Option Cluster := recFind s.clusters c
/-- The state with a cluster changed, where it exists. -/
def State.modCluster (s : State) (c : Nat) (f : Cluster → Cluster) : State :=
  match s.cluster c with
  | none => s
  | some x => { s with clusters := cellPut s.clusters c (f x) }

/-- Bytes of scratch from a key. -/
def Cluster.bytes (c : Cluster) (key n : Nat) : List Byte := (List.range n).map fun i => cellGet 0 c.cells (key + i)
/-- A cluster with bytes of scratch written. -/
def Cluster.put (c : Cluster) (key : Nat) (bs : List Byte) : Cluster :=
  { c with cells := ((List.range bs.length).zip bs).foldl (fun m x => cellPut m (key + x.1) x.2) c.cells }
/-- The line of a key. -/
def lineOf (key : Nat) : Nat := key - key % 128
/-- The line of a key is present (R217). -/
def Cluster.present (c : Cluster) (key : Nat) : Bool := !c.absent.contains (lineOf key)

/-- The phase bit of a tack word (R219). -/
def tackPhase (w : Word) : Nat := if bit w 31 then 1 else 0

/-- Scratch written in a cluster. Every waiter at a tack word it changes has its condition tested (R252). -/
def State.scratchWrite (s : State) (cl key : Nat) (bs : List Byte) : State :=
  let s1 := s.modCluster cl (·.put key bs)
  match s1.cluster cl with
  | none => s1
  | some c =>
    { s1 with teams := s1.teams.map fun e =>
        match e.2.hold with
        | some (.tack k ph) =>
          if e.2.cluster = cl ∧ overlaps k 4 key bs.length ∧ tackPhase (bytesWord (c.bytes k 4)) ≠ ph then
            (e.1, { e.2 with hold := some .tackDone })
          else e
        | _ => e }

/-- A word of scratch. -/
def State.scratchWord (s : State) (cl key : Nat) : Word :=
  match s.cluster cl with
  | none => 0
  | some c => bytesWord (c.bytes key 4)

/-! ## Scratch loads and stores -/

/-- A scratch access is served (R217): a load takes its bytes, a store writes its own. -/
def State.serve1 (s : State) (a : Acc) (store : Bool) : Option (State × Acc) :=
  match a.tr.place with
  | .scratch cl key =>
    match s.cluster cl with
    | none => none
    | some c =>
      if !c.present key then none
      else if store then some (s.scratchWrite cl key a.data, { a with done := true })
      else some (s, { a with data := c.bytes key a.size })
  | _ => some (s, a)

/-- An access that has been served: a store is done, a load holds its bytes. -/
def Acc.served (a : Acc) : Bool := a.done || !a.data.isEmpty

/-- Accesses served in pass order up to the first at an absent line (R217). DESIGN CHOICE: lanes after it wait with it, whatever their own lines are (log 117). -/
def State.serveList (s : State) (store : Bool) : List Acc → State × List Acc
  | [] => (s, [])
  | a :: as =>
    if (if store then a.done else a.served) then
      let (s1, l) := s.serveList store as
      (s1, a :: l)
    else
      match s.serve1 a store with
      | none => (s, a :: as)
      | some (s1, b) =>
        let (s2, l) := s1.serveList store as
        (s2, b :: l)

/-- Every access has been served. -/
def allServed (store : Bool) (as : List Acc) : Bool := as.all fun a => if store then a.done else a.served

/-- The stores of a kind. -/
def OpKind.isPstore : OpKind → Bool
  | .pstore => true
  | _ => false

/-- The lanes of a scratch operation that can be served are; the team holds for the rest (R161, R217), and parks on faulting lanes when all others are served. -/
def State.serveOp (s : State) (o i : Nat) : State :=
  match s.op o with
  | none => s
  | some x =>
    let st := x.kind.isPstore
    let (s1, as) := s.serveList st x.accs
    let y := { x with accs := as }
    let s2 := s1.setOp o y
    if !allServed st as then s2.modTeam i fun t => { t with hold := some (.serve o) }
    else if y.failed.isEmpty then s2.modTeam i fun t => { t with hold := none }
    else s2.modTeam i fun t => { t with hold := some (.faultAfter o) }

/-- A scratch load or store at issue (R215, R248): after an earlier acquire, and a store after an earlier release fence (R281, R283; log 94). -/
def scratchAccs (i : Nat) (t : Team) (s : State) (classB : Bool) (kind : OpKind) (accs : List Acc) : Res :=
  let o := s.stamp
  match s.orderedBehind i classB with
  | some b => .hold (.order b) (s.setTeam i t)
  | none =>
  match startOp i t s classB kind accs (fun x => { x with accs := if classB then lastWriters x.accs else x.accs }) with
  | .ok s1 => .ok (s1.serveOp o i)
  | r => r

/-- A lane's scratch address (R215): A plus B modulo 2^32. -/
def scratchAddr (a b : Word) : Nat := (a + b).toNat

/-- PLD1 to PLD4 (R248): `n` registers, or one element where n is 0. -/
def scratchLoad (s : State) (d a b : Sel) (n : Nat) : Host.Outcome State Fault Refusal :=
  sweepOn s (fun t _ => [need ((match d with | .v r => t.vOk r (max n 1) | _ => false) && t.vectorSrc a && t.scalarSrc b) .illegalOperand,
      need (n != 0 || t.ty.loads) .illegalOperand]) [a, b] (fun t => t.active) (fun t => popsVS t a b) fun i t q s1 =>
    match d with
    | .v r =>
      let size := if n = 0 then t.ty.width / 8 else 4 * n
      scratchAccs i t s1 false (.pload (if n = 0 then t.ty.width else 32) (n == 0 && t.ty.signed))
        (t.active.map fun l => Acc.new l (scratchAddr (s1.src t a l (q 0 l)) (s1.scalar t b (q 1 0))) size size r.toNat [])
    | _ => .check .illegalOperand false s1

/-- PLD1 (R248). -/
def execPld1 (d a b : Sel) (s : State) : Host.Outcome State Fault Refusal := scratchLoad s d a b 0
/-- PLD2 (R248). -/
def execPld2 (d a b : Sel) (s : State) : Host.Outcome State Fault Refusal := scratchLoad s d a b 2
/-- PLD4 (R248). -/
def execPld4 (d a b : Sel) (s : State) : Host.Outcome State Fault Refusal := scratchLoad s d a b 4

/-- PST1 to PST4 (R248). -/
def scratchStore (s : State) (d a b : Sel) (n : Nat) : Host.Outcome State Fault Refusal :=
  sweepOn s (fun t _ => [need ((match d with
        | .v r => t.vOk r (max n 1)
        | .s _ => n == 0
        | .k m => n == 0 && t.litOk m
        | .sp .zero => n == 0
        | _ => false) && t.vectorSrc a && t.scalarSrc b) .illegalOperand,
      need (n != 0 || t.ty.loads) .illegalOperand]) [a, b] (fun t => t.active) (fun t => popsVS t a b) fun i t q s1 =>
    let size := if n = 0 then t.ty.width / 8 else 4 * n
    let data (l : Nat) : List Byte := match d with
      | .v r => if n = 0 then natBytes (t.v l r.toNat).toNat size else wordsBytes (t.vs l r.toNat n)
      | _ => natBytes (s1.src t d l 0).toNat size
    scratchAccs i t s1 true .pstore
      (t.active.map fun l => Acc.new l (scratchAddr (s1.src t a l (q 0 l)) (s1.scalar t b (q 1 0))) size size 0 (data l))

/-- PST1 (R248). -/
def execPst1 (d a b : Sel) (s : State) : Host.Outcome State Fault Refusal := scratchStore s d a b 0
/-- PST2 (R248). -/
def execPst2 (d a b : Sel) (s : State) : Host.Outcome State Fault Refusal := scratchStore s d a b 2
/-- PST4 (R248). -/
def execPst4 (d a b : Sel) (s : State) : Host.Outcome State Fault Refusal := scratchStore s d a b 4

/-- PRESENCE_WAKE (R217): the lanes of a held scratch access that wait no more are served, or a team held at an absent line may try again. -/
def execPresenceWake (t : Nat) (s : State) : Host.Outcome State Fault Refusal :=
  match s.team t with
  | none => .next s
  | some x =>
    if x.halted || x.debug then .next s
    else
    match x.hold with
    | some (.serve o) =>
      match (s.serveOp o t).op o with
      | some y => .next (if allServed y.kind.isPstore y.accs ∧ !y.failed.isEmpty ∧ y.kind.isPstore then (s.serveOp o t).parkOp o y else s.serveOp o t)
      | none => .next (s.serveOp o t)
    | some (.absent key) =>
      match s.cluster x.cluster with
      | some c => .next (if c.present key then s.setTeam t { x with hold := none } else s)
      | none => .next s
    | _ => .next s

/-! ## Presence -/

/-- The lines of a run of scratch. -/
def linesOf (key n : Nat) : List Nat := (List.range (n / 128)).map fun j => key + 128 * j

/-- Lines cleared of their presence bits (R217). -/
def State.clearPresence (s : State) (cl : Nat) (ls : List Nat) : State :=
  s.modCluster cl fun c => { c with absent := ls.filter (!c.absent.contains ·) ++ c.absent }

/-- A line's presence bit set (R217). -/
def State.setPresence (s : State) (cl : Nat) (ls : List Nat) : State :=
  s.modCluster cl fun c => { c with absent := c.absent.filter fun l => !ls.contains l }

/-- The checks of a scratch range that an instruction names once (R218, R249): ALIGN, then SCRATCH_BOUNDS. DESIGN CHOICE: an empty range has no address out of bounds (log 116). -/
def State.rangeFault (s : State) (t : Team) (a n : Nat) : Option LaneFault :=
  if a % 128 ≠ 0 ∨ n % 128 ≠ 0 then some (plainFault 0 a .align)
  else
    match s.cluster t.cluster with
    | none => some (plainFault 0 a .scratchBounds)
    | some c => if n ≤ 65536 ∧ (n = 0 ∨ scratchOk c a n) then none else some (plainFault 0 a .scratchBounds)

/-- An operation of done class setB whose effect is whole at issue. -/
def doneOp (i : Nat) (t : Team) (s : State) (classB : Bool) (eff : State → State) : Res :=
  let fl := t.setFlag classB
  if t.flagFull fl then .hold (.flagFull (fl.getD 0)) (s.setTeam i t)
  else
    let s1 := eff (s.setTeam i t)
    .ok (s1.enterOp i t (opOf i t s1 fl .done) [])

/-- PINV (R249). -/
def execPinv (a b : Sel) (s : State) : Host.Outcome State Fault Refusal :=
  once s (fun t _ => [need (t.scalarSrc a && t.scalarSrc b) .illegalOperand]) [(0, a), (1, b)] fun i t q s1 =>
    let va := (s1.scalar t a (q 0)).toNat
    let n := (s1.scalar t b (q 1)).toNat
    match s1.rangeFault t va n with
    | some f => scalarFault i t s1 f
    | none =>
      match s1.orderedBehind i true with
      | some b => .hold (.order b) (s1.setTeam i t)
      | none => doneOp i t s1 true fun s => s.clearPresence t.cluster (linesOf (scratchKey va) n)

/-- PRES (R249): it releases at CLUSTER scope, so the posted entries drain first (R284); its bits come at its completion. -/
def execPres (a b : Sel) (s : State) : Host.Outcome State Fault Refusal :=
  once s (fun t _ => [need (t.scalarSrc a && t.scalarSrc b) .illegalOperand]) [(0, a), (1, b)] fun i t q s1 =>
    let va := (s1.scalar t a (q 0)).toNat
    let n := (s1.scalar t b (q 1)).toNat
    match s1.rangeFault t va n with
    | some f => scalarFault i t s1 f
    | none =>
      let fl := t.setFlag true
      if t.flagFull fl then .hold (.flagFull (fl.getD 0)) (s1.setTeam i t)
      else
        match (s1.setTeam i t).drainAll i with
        | .fault e f s2 => .trap (postedInfo i t e f) s2
        | .wait h s2 => .hold h s2
        | .ok s2 => .ok (s2.enterOp i t (opOf i t s2 fl (.pres (linesOf (scratchKey va) n))) [])

/-! ## Tacks (R219, R220, R252) -/

/-- A tack word of its three fields. -/
def tackWord (phase expect remain : Nat) : Word := BitVec.ofNat 32 (phase % 2 * 2 ^ 31 + expect % 2 ^ 15 * 2 ^ 16 + remain % 2 ^ 16)

/-- An arrival (R220): none where it is refused. -/
def tackArrive (w : Word) : Option Word :=
  let r := bits w 15 0
  if r = 0 then none
  else if r = 1 then some (tackWord (1 - tackPhase w) (bits w 30 16) (bits w 30 16))
  else some (tackWord (tackPhase w) (bits w 30 16) (r - 1))

/-- The checks of a tack address (R215, R252), then a hold at an absent line. -/
def State.tackCheck (s : State) (t : Team) (va : Nat) : Option LaneFault × Bool :=
  match s.startScratch t (Acc.new 0 va 4 4 0 []) with
  | .fault f => (some f, true)
  | _ =>
    match s.cluster t.cluster with
    | some c => (none, c.present (scratchKey va))
    | none => (none, true)

/-- A tack operation of a team (R252): checks, the hold at an absent line, the order after an earlier acquire or release fence (R281, R283), then its effect on the word. -/
def tackOp (s : State) (checks : Team → Bool) (ss : List (Nat × Sel)) (eff : Nat → Team → (Nat → Word) → Nat → State → Res) :
    Host.Outcome State Fault Refusal :=
  once s (fun t _ => [need (checks t) .illegalOperand]) ss fun i t q s1 =>
    let va := match ss.find? (·.1 == 0) with
      | some a => (s1.scalar t a.2 (q 0)).toNat
      | none => 0
    match s1.tackCheck t va with
    | (some f, _) => scalarFault i t s1 f
    | (none, false) => .hold (.absent (scratchKey va)) (s1.setTeam i t)
    | (none, true) =>
      match s1.orderedBehind i true with
      | some b => .hold (.order b) (s1.setTeam i t)
      | none => eff i t q (scratchKey va) s1

/-- TKINIT (R220). -/
def execTkinit (a b : Sel) (s : State) : Host.Outcome State Fault Refusal :=
  tackOp s (fun t => t.scalarSrc a && t.scalarSrc b) [(0, a), (1, b)] fun i t q key s1 =>
    let n := (s1.scalar t b (q 1)).toNat
    if 1 ≤ n ∧ n ≤ 32767 then .ok ((s1.setTeam i t).scratchWrite t.cluster key (natBytes (tackWord 0 n n).toNat 4))
    else .check .illegalOperand true s1

/-- TKEXP (R220). -/
def execTkexp (a b : Sel) (s : State) : Host.Outcome State Fault Refusal :=
  tackOp s (fun t => t.scalarSrc a && t.scalarSrc b) [(0, a), (1, b)] fun i t q key s1 =>
    let w := s1.scratchWord t.cluster key
    let n := bits w 15 0 + (s1.scalar t b (q 1)).toNat
    if n ≤ 65535 then .ok ((s1.setTeam i t).scratchWrite t.cluster key (natBytes (tackWord (tackPhase w) (bits w 30 16) n).toNat 4))
    else .check .illegalOperand true s1

/-- The arrival of TKARR and TKAW: after the team's earlier writes are visible at CLUSTER scope (R220, R284). -/
def tackArrival (i : Nat) (t : Team) (key : Nat) (s : State) (k : Nat → State → Res) : Res :=
  match (s.setTeam i t).drainAll i with
  | .fault e f s1 => .trap (postedInfo i t e f) s1
  | .wait h s1 => .hold h s1
  | .ok s1 =>
    if !s1.coveredAt 2 (some i) (s1.dom t) s1.stamp then .hold (.drained s1.stamp) s1
    else
      let w := s1.scratchWord t.cluster key
      match tackArrive w with
      | none => .check .illegalOperand true s1
      | some v => k (tackPhase w) (s1.scratchWrite t.cluster key (natBytes v.toNat 4))

/-- TKARR (R220). -/
def execTkarr (a : Sel) (s : State) : Host.Outcome State Fault Refusal :=
  tackOp s (fun t => t.scalarSrc a) [(0, a)] fun i t _ key s1 => tackArrival i t key s1 fun _ s2 => .ok s2

/-- A team that leaves a tack wait has acquired at CLUSTER scope (R220, R281). -/
def State.tackAcquire (s : State) (i : Nat) : State := s.acquire i 2

/-- TKWAIT (R220): hold while the phase is B[0]; released by a change of the word (R252). -/
def execTkwait (a b : Sel) (s : State) : Host.Outcome State Fault Refusal :=
  tackOp s (fun t => t.scalarSrc a && t.scalarSrc b) [(0, a), (1, b)] fun i t q key s1 =>
    let ph := bits (s1.scalar t b (q 1)) 0 0
    if tackPhase (s1.scratchWord t.cluster key) = ph then .ok (s1.setTeam i { t with hold := some (.tack key ph) })
    else .ok ((s1.setTeam i t).tackAcquire i)

/-- TKAW (R220): an arrival, then hold while the phase is the one at the arrival. -/
def execTkaw (a : Sel) (s : State) : Host.Outcome State Fault Refusal :=
  tackOp s (fun t => t.scalarSrc a) [(0, a)] fun i t _ key s1 => tackArrival i t key s1 fun ph s2 =>
    if tackPhase (s2.scratchWord t.cluster key) = ph then .ok (s2.modTeam i fun t => { t with hold := some (.tack key ph) })
    else .ok (s2.tackAcquire i)

/-- TACK_WAKE (R252): a team whose tack wait has ended is ready, having acquired at CLUSTER scope (R220). -/
def execTackWake (t : Nat) (s : State) : Host.Outcome State Fault Refusal :=
  match s.team t with
  | none => .next s
  | some x => if x.hold = some .tackDone ∧ !x.halted ∧ !x.debug then .next ((s.setTeam t { x with hold := none }).tackAcquire t) else .next s

end Sys2Proof.Machine
end

