-- ==== Sys2Proof/Machine/Handles.lean ====
section
/-! DEFINITION. Handles: records read at issue (R55 check 7), and handles resolved in the context's handle table (R233 to R235), by teams and by the device's own agents. -/

namespace Sys2Proof.Machine

open Sys2Proof

/-! ## Records read at issue -/

/-- What a read at issue gives: the bytes, a fault, or a hold. -/
inductive Got (α : Type) where
  | ok (a : α) (s : State)
  | fault (f : LaneFault) (s : State)
  | hold (h : Hold) (s : State)

/-- A record of n bytes read at issue for a team, under the owner's translation; the team's own earlier stores are seen (log 18). -/
def State.record (s : State) (i : Nat) (t : Team) (va n align : Nat) : Got (List Byte) :=
  match s.startMem i t .read (Acc.new 0 va n align 0 []) with
  | (.hold h, s1) => .hold h s1
  | (.fault f, s1) => .fault f s1
  | (.ok a, s1) =>
    match a.tr.place with
    | .mem key => .ok (s1.forward i va s1.stamp (s1.domBytes (s1.ctxMemKey t.part t.ctx) (s1.dom t) key n)) s1
    | .remote dev =>
      match s1.fabIn.find? fun r => r.op == remoteTag i va with
      | none => .hold (.remoteRead dev va n) s1
      | some r =>
        match r.cause with
        | none => .ok (s1.forward i va s1.stamp (r.data.take n)) s1
        | some c => .fault (farFault 0 va c) s1
    | _ => .ok (s1.forward i va s1.stamp (List.replicate n 0)) s1

/-- A record that spans pages, read in lines of 128 bytes. -/
def State.recordLines (s : State) (i : Nat) (t : Team) (va : Nat) : Nat → Got (List Byte)
  | 0 => .ok [] s
  | n + 1 =>
    match s.record i t va 128 1 with
    | .hold h s1 => .hold h s1
    | .fault f s1 => .fault f s1
    | .ok bs s1 =>
      match s1.recordLines i t (va + 128) n with
      | .ok cs s2 => .ok (bs ++ cs) s2
      | r => r

/-- A read by one of the device's own agents under a context's translation, at the homes of the lines (R230, R288). -/
def State.agentRead (s : State) (p c die va n : Nat) : Got (List Byte) :=
  match s.translate p c none die none none va .read with
  | (.mig, s1) => .hold .walkMig s1
  | (.drain, s1) => .hold .walkDrain s1
  | (.fault f pg tier sz, s1) => .fault (laneFault 0 va f pg tier sz) s1
  | (.ok tr, s1) =>
    match tr.place with
    | .mem key =>
      if s1.rangeBad key n then .fault (laneFault 0 va .memUncorr tr.pa (opTier (keyTier key)) tr.leaf) s1
      else .ok (s1.homeBytes (s1.ctxMemKey p c) key n) s1
    | .remote dev =>
      match s1.fabIn.find? fun r => r.op == agentTag va with
      | none => .hold (.remoteRead dev va n) s1
      | some r =>
        match r.cause with
        | none => .ok (r.data.take n) s1
        | some c => .fault (farFault 0 va c) s1
    | _ => .ok (List.replicate n 0) s1

/-- The bytes at a machine key that a write of n bytes by an agent goes to, or why it cannot. -/
def State.agentPlace (s : State) (p c die va n : Nat) : Got Tr :=
  match s.translate p c none die none none va .write with
  | (.mig, s1) => .hold .walkMig s1
  | (.drain, s1) => .hold .walkDrain s1
  | (.fault f pg tier sz, s1) => .fault (laneFault 0 va f pg tier sz) s1
  | (.ok tr, s1) =>
    match tr.place with
    | .mem key =>
      if s1.writeMeetsBad key n then .fault (laneFault 0 va .memUncorr tr.pa (opTier (keyTier key)) tr.leaf) s1 else .ok tr s1
    | _ => .ok tr s1

/-- Bytes that an agent writes on another device (R345): they are sent once, and written there when the answer is here (R288, R317). -/
def State.agentSend (s : State) (p c dev va : Nat) (tr : Tr) (bs : List Byte) : Got Unit :=
  let w : AgentOut := { dev := dev, tag := writeTag va, va := va, data := bs, part := p, ctx := c, tr := tr }
  match s.fabIn.find? fun r => r.op == w.tag with
  | some r => match r.cause with
    | none => .ok () s
    | some c => .fault (farFault 0 va c) { s with fabIn := s.fabIn.filter (·.op != w.tag), agentOut := s.agentOut.filter fun y => !(y.tag == w.tag && y.data == bs) }
  | none =>
    if s.agentOut.any fun y => y.dev == dev && y.tag == w.tag && y.data == bs then .hold .walkDrain s
    else .hold .walkDrain { s with outputs := s.outputs ++ [Output.unit dev w.tag (.store [(0, va, bs)])], agentOut := w :: s.agentOut }

/-- Pieces of a run of n bytes. -/
def piecesOf (va n : Nat) : List (Nat × Nat) := (List.range (ceilDiv (va % 128 + n) 128)).filterMap fun j =>
  let a := max va (va - va % 128 + 128 * j)
  let b := min (va + n) (va - va % 128 + 128 * (j + 1))
  if a < b then some (a, b - a) else none

/-- An L1 keeps no copy of bytes that a command of its team has written at home (R228, R276, R281). -/
def State.leaveLine (s : State) (dom : Option Nat) (key n : Nat) : State :=
  match dom with
  | some d => s.dropLines d .loadStore key n
  | none => s

/-- The pieces of a run written by an agent, in order; what is written before a fault stands (R246). `dom` is the L1 of the team whose command writes. -/
def State.agentPutGo (s : State) (p c die : Nat) (dom : Option Nat) (va : Nat) (bs : List Byte) : List (Nat × Nat) → Got Unit
  | [] => .ok () s
  | (a, n) :: ps =>
    match s.agentPlace p c die a n with
    | .hold h s1 => .hold h s1
    | .fault f s1 => .fault f s1
    | .ok tr s1 =>
      let part := (bs.drop (a - va)).take n
      match tr.place with
      | .mem key => ((s1.homeWrite (s1.ctxMemKey p c) key part).leaveLine dom key part.length).agentPutGo p c die dom va bs ps
      | .remote dev =>
        match s1.agentSend p c dev a tr part with
        | .ok _ s2 => s2.agentPutGo p c die dom va bs ps
        | r => r
      | _ => s1.agentPutGo p c die dom va bs ps

/-- What an agent sent of a run has been answered, piece by piece. -/
def State.sentDone (s : State) (va : Nat) (bs : List Byte) (ps : List (Nat × Nat)) : State :=
  { s with
    fabIn := s.fabIn.filter fun r => !(ps.any fun x => r.op == writeTag x.1)
    agentOut := s.agentOut.filter fun w => !(ps.any fun x => w.tag == writeTag x.1 && w.data == (bs.drop (x.1 - va)).take x.2) }

/-- A run of bytes written by an agent of the device, line by line: done when every byte has been written (R288). -/
def State.agentPut (s : State) (p c die : Nat) (dom : Option Nat) (va : Nat) (bs : List Byte) (ps : List (Nat × Nat)) : Got Unit :=
  match s.agentPutGo p c die dom va bs ps with
  | .ok _ s1 => .ok () (s1.sentDone va bs ps)
  | r => r

/-! ## Handle tables (R233 to R235) -/

/-- The code of a kind of entry (R234). -/
def HKind.code : HKind → Nat
  | .queue => 1 | .knot => 2 | .swatch => 3 | .pattern => 4 | .pleat => 5 | .tracer => 6 | .sampler => 7 | .tile => 8

/-- The slot of a handle. -/
def hSlot (h : Word) : Nat := bits h 31 12
/-- The generation of a handle. -/
def hGen (h : Word) : Nat := bits h 11 0

/-- The object of an entry, where its kind and generation match (R235): a queue or knot number, or the record's virtual address. -/
def entryObj (ws : List Word) (kind : HKind) (gen : Nat) : Option Nat :=
  let w (k : Nat) : Word := (ws[k]?).getD 0
  if bits (w 0) 15 12 = kind.code ∧ bits (w 0) 11 0 = gen then
    some (if kind = .queue ∨ kind = .knot then (w 1).toNat else (w 1).toNat + 2 ^ 32 * bits (w 2) 24 0)
  else none

/-- The entry of a slot as a die's copy holds it. -/
def State.hcopy (s : State) (p c die slot : Nat) : Option HCopy :=
  s.hcopies.find? fun x => x.part == p && x.ctx == c && x.die == die && x.slot == slot

/-- The state with a die's copy of an entry. -/
def State.keepHcopy (s : State) (p c die slot : Nat) (ws : List Word) : State :=
  { s with hcopies := { part := p, ctx := c, die := die, slot := slot, words := ws }
      :: s.hcopies.filter fun x => !(x.part == p && x.ctx == c && x.die == die && x.slot == slot) }

/-- A handle resolved on a die (R235): from the die's copy of the entry by a free choice, or from memory; none where it is stale. -/
def State.resolve (s : State) (p c die : Nat) (h : Word) (kind : HKind) (read : State → Nat → Got (List Byte)) : Got (Option Nat) :=
  let x := s.ctx p c
  let slot := hSlot h
  if slot = 0 ∨ x.htabSlots ≤ slot then .ok none s
  else
    let fresh (s : State) : Got (Option Nat) :=
      match read s (x.htabBase + 16 * slot) with
      | .ok bs s1 =>
        let ws := bytesWords 4 bs
        .ok (entryObj ws kind (hGen h)) (s1.keepHcopy p c die slot ws)
      | .fault f s1 => .fault f s1
      | .hold g s1 => .hold g s1
    match s.hcopy p c die slot with
    | none => fresh s
    | some y =>
      let (n, s1) := s.choose 2
      if n = 0 then fresh s1 else .ok (entryObj y.words kind (hGen h)) s1

/-- A team resolves a handle. -/
def State.handle (s : State) (i : Nat) (t : Team) (h : Word) (kind : HKind) : Got (Option Nat) :=
  s.resolve t.part t.ctx (coreDie t.core) h kind fun s va => s.record i t va 16 16

/-- An agent of a die resolves a handle of a context. -/
def State.agentHandle (s : State) (p c die : Nat) (h : Word) (kind : HKind) : Got (Option Nat) :=
  s.resolve p c die h kind fun s va => s.agentRead p c die va 16

/-! ## In an instruction -/

/-- A fault met by a check at issue (R55, R327): the instruction has no effect, and fo.va is 0; the operator part still names the page. -/
def issueFault (i : Nat) (t : Team) (single : Bool) (f : LaneFault) : TrapInfo :=
  let lane := if single then 0 else (t.active.head?).getD 0
  { checkInfo i t single f.cause 0 .whole with faults := [{ f with va := 0, lane := lane, dest := none }] }

/-- The rest of an instruction after a read at issue. -/
def Got.into {α : Type} (g : Got α) (i : Nat) (t : Team) (single : Bool) (k : α → State → Res) : Res :=
  match g with
  | .ok a s1 => k a s1
  | .fault f s1 => .trap (issueFault i t single f) (s1.setTeam i t)
  | .hold h s1 => .hold h (s1.setTeam i t)

/-- The rest of an instruction with a handle resolved: STALE_HANDLE where it is none (R235). -/
def withHandle (i : Nat) (t : Team) (s : State) (single : Bool) (h : Word) (kind : HKind) (k : Nat → State → Res) : Res :=
  (s.handle i t h kind).into i t single fun obj s1 =>
    match obj with
    | none => .check .staleHandle single (s1.setTeam i t)
    | some x => k x s1

/-- The rest of an instruction with a record read at issue, as words. -/
def withRecord (i : Nat) (t : Team) (s : State) (single : Bool) (va n align : Nat) (k : List Word → State → Res) : Res :=
  (s.record i t va n align).into i t single fun bs s1 => k (bytesWords (n / 4) bs) s1

end Sys2Proof.Machine
end

