-- ==== Sys2Proof/Machine/Copies.lean ====
section
/-! DEFINITION. Copies: the copy queue of a team: CPY, CPYT, CPYO (R218, R250, R251), the landing of their lines and their completion (R217, R220, R288). -/

namespace Sys2Proof.Machine

open Sys2Proof

/-- The number of a team's copy queue among the queues that QFENCE joins. -/
def copyQueue (i : Nat) : Nat := 2 * i + 1
/-- The number of an engine's command queue: physical die, kind (0 gather, 1 reduction, 2 conversion), queue. -/
def engineQueue (die kind n : Nat) : Nat := 2 * (die * 64 + kind * 16 + n)

/-- A line of a copy at its translation: one whose place has changed is asked for again, under a number of its own. -/
def Acc.replaced (a : Acc) (tr : Tr) : Acc :=
  if tr.place = a.tr.place ∨ a.got = 0 then { a with tr := tr } else { a with tr := tr, got := 0, aux := a.aux + 1 }

/-- The number under which another device answers for a line of a copy. -/
def Acc.ticket (a : Acc) : Nat := a.lane + 2 ^ 20 * a.aux

/-- The translations of the accesses of a command, one for each line, or the first cause (R218). -/
def State.lineTrs (s : State) (i : Nat) (t : Team) (k : Kind) : List Acc → Got (List Acc)
  | [] => .ok [] s
  | a :: as =>
    match s.translate t.part t.ctx (some t.core) (coreDie t.core) (some i) none a.va k with
    | (.mig, s1) => .hold .walkMig s1
    | (.drain, s1) => .hold .walkDrain s1
    | (.fault c pg tier sz, s1) => .fault (laneFault 0 a.va c pg tier sz) s1
    | (.ok tr, s1) =>
      match s1.lineTrs i t k as with
      | .ok bs s2 => .ok (a.replaced tr :: bs) s2
      | r => r

/-- The lines of a copy: memory from `va`, scratch from `key`. -/
def copyLines (va key n : Nat) : List Acc :=
  (List.range (n / 128)).map fun j => Acc.new j (va + 128 * j) 128 128 (key + 128 * j) []

/-- A tack address of ones names no tack. -/
def tackOf (w : Word) : Option Nat := if w = 0xFFFFFFFF then none else some w.toNat

/-- CPY, CPYO and CPYT from their addresses (R218): the checks at issue, then the command in the copy queue. -/
def copyStart (i : Nat) (t : Team) (s : State) (inn tile : Bool) (dst va n : Nat) (tk : Word) : Res :=
  let fl := t.setFlag true
  if dst % 128 ≠ 0 ∨ va % 128 ≠ 0 ∨ n % 128 ≠ 0 then scalarFault i t s (plainFault 0 0 .align)
  else
    match s.rangeFault t dst n with
    | some f => scalarFault i t s f
    | none =>
      if t.flagFull fl then .hold (.flagFull (fl.getD 0)) (s.setTeam i t)
      else
        match (s.setTeam i t).lineTrs i t (if inn then .read else .write) (copyLines va (scratchKey dst) n) with
        | .hold h s1 => .hold h s1
        | .fault f s1 => scalarFault i t s1 f
        | .ok as s1 =>
          match (match tackOf tk with
            | none => none
            | some a => (s1.tackCheck t a).1) with
          | some f => scalarFault i t s1 f
          | none =>
            match s1.drainAll i with
            | .fault e f s2 => .trap (postedInfo i t e f) s2
            | .wait h s2 => .hold h s2
            | .ok s2 =>
              let s3 := if inn then s2.clearPresence t.cluster (linesOf (scratchKey dst) n) else s2
              .ok (s3.enterOp i t { opOf i t s3 fl (.copy inn tile ((tackOf tk).map scratchKey)) with accs := as, mask := 0 } [])

/-- CPY and CPYO (R214, R218). -/
def copyOp (s : State) (d a b : Sel) (inn : Bool) : Host.Outcome State Fault Refusal :=
  once s (fun t _ => [need ((match d with | .s n => n.toNat ≤ 62 | _ => false) && t.scalarSrc a && t.scalarSrc b) .illegalOperand])
    [(0, a), (1, b)] fun i t q s1 =>
    match d with
    | .s n =>
      copyStart i t s1 inn false (t.s n).toNat ((t.pair 62 + (t.s (n + 1)).toNat) % 2 ^ 64) (s1.scalar t a (q 0)).toNat (s1.scalar t b (q 1))
    | _ => .check .illegalOperand true s1

/-- CPY (R218). -/
def execCpy (d a b : Sel) (s : State) : Host.Outcome State Fault Refusal := copyOp s d a b true
/-- CPYO (R218). -/
def execCpyo (d a b : Sel) (s : State) : Host.Outcome State Fault Refusal := copyOp s d a b false

/-- A tile layout (R256). -/
structure Tile where
  rows : Nat
  cols : Nat
  base : Nat
  swz : Bool
  deriving DecidableEq, Repr

/-- The layout of a record's words: none where a field leaves its range (log 19). -/
def tileOf (ws : List Word) : Option Tile :=
  let w (k : Nat) : Word := (ws[k]?).getD 0
  let y : Tile := { rows := bits (w 0) 15 0, cols := bits (w 0) 31 16, base := (w 1).toNat, swz := bit (w 2) 0 }
  if y.rows = 0 ∨ y.cols = 0 ∨ y.base % 4096 ≠ 0 then none else some y

/-- Tiles in a row of tiles. -/
def Tile.across (y : Tile) : Nat := ceilDiv y.cols 32
/-- The tiles of a layout. -/
def Tile.tiles (y : Tile) : Nat := ceilDiv y.rows 32 * y.across
/-- The offset of an element (R256). -/
def Tile.addr (y : Tile) (r c : Nat) : Nat :=
  y.base + (r / 32 * y.across + c / 32) * 4096 + r % 32 * 128 + 16 * ((c % 32 / 4) ^^^ (if y.swz then r % 8 else 0)) + 4 * (c % 4)

/-- The rest of an instruction with a tile layout (R251, R256). -/
def withTile (i : Nat) (t : Team) (s : State) (single : Bool) (h : Word) (k : Tile → State → Res) : Res :=
  withHandle i t s single h .tile fun va s1 => withRecord i t s1 single va 16 16 fun ws s2 =>
    match tileOf ws with
    | none => .check .illegalOperand single (s2.setTeam i t)
    | some y => k y s2

/-- The check of the tile handle that CPYT takes from a register (R55). -/
def preTile (d : Sel) (i : Nat) (t : Team) (s : State) : Res :=
  match d with
  | .s n => withTile i t s true (t.s (n + 1)) fun _ s1 => .ok s1
  | _ => .ok s

/-- CPYT (R251). -/
def execCpyt (d a b : Sel) (s : State) : Host.Outcome State Fault Refusal :=
  onceAfter s (fun t _ => [need ((match d with | .s n => n.toNat ≤ 61 | _ => false) && t.scalarSrc a && t.scalarSrc b) .illegalOperand])
    [(0, a), (1, b)] (preTile d) fun i t q s1 =>
    match d with
    | .s n => withTile i t s1 true (t.s (n + 1)) fun y s2 =>
      let first := (t.s (n + 2)).toNat
      let count := (s2.scalar t a (q 0)).toNat
      if y.tiles < first + count then .check .illegalOperand true (s2.setTeam i t)
      else if 16 < count then scalarFault i t s2 (plainFault 0 0 .scratchBounds)
      else copyStart i t s2 true true (t.s n).toNat ((t.pair 62 + y.base + first * 4096) % 2 ^ 64) (count * 4096) (s2.scalar t b (q 1))
    | _ => .check .illegalOperand true s1

/-! ## The steps of the copy queue -/

/-- Lines of a copy record (R243). -/
def recLines (ws : List Word) : Nat := ((ws[6]?).getD 0).toNat * (((ws[5]?).getD 0).toNat / 128)

/-- An entry of a team's copy queue still keeps later ones back: lines not moved, a record that a fault has stopped or that breaks its table and names no line, or a join not complete (R218, R246, R247, R250). -/
def Op.copyBusy (x : Op) (i : Nat) : Bool :=
  match x.kind with
  | .copy .. => x.team == some i && !(x.allDone && x.refail.isEmpty)
  | .recCopy ws pos => x.team == some i && (recLines ws == 0 || decide (pos < recLines ws) || !x.failed.isEmpty || x.rel.isSome)
  | .join qs => qs.contains (copyQueue i)
  | _ => false

/-- An entry of a team's copy queue (R247, R250). -/
def Op.inCopies (x : Op) (i : Nat) : Bool :=
  match x.kind with
  | .copy .. => x.team == some i
  | .recCopy .. => x.team == some i
  | .join qs => qs.contains (copyQueue i)
  | _ => false

/-- A copy command may complete: every entry before it in its queue has (R288). -/
def State.copyLast (s : State) (i o : Nat) : Bool := !(s.ops.any fun x => decide (x.1 < o) && x.2.inCopies i)

/-- Every write that a command's team issued before it has reached its home (R250). -/
def State.writesHome (s : State) (team : Option Nat) (o : Nat) : Bool :=
  !(s.stores.any fun w => w.2.team == team && decide (w.2.seq < o))
  && !(s.posted.any fun e => some e.2.team == team && decide (e.1 < o))
  && !(s.ops.any fun x => x.2.team == team && decide (x.1 < o) && x.2.kind.access.writes && !x.2.allDone)

/-- A copy command may move a line: the commands before it have, and its team's earlier writes are home (R218, R250). -/
def State.copyTurn (s : State) (i o : Nat) : Bool :=
  !(s.ops.any fun x => decide (x.1 < o) && x.2.copyBusy i) && s.writesHome (some i) o

/-- A copy meets a fault at line k (R218): the lines not moved wait for a replay, which asks for this one again, and the team parks at its next issue. -/
def State.copySpoiled (s : State) (o k : Nat) (x : Op) (f : LaneFault) : State :=
  let y := { x with accs := x.accs.modify k fun a => { a with got := 0 } }
  s.parkOp o { y with accs := y.accs.filter (·.done), failed := [f], refail := y.accs.filter (!·.done) }

/-- A line's bytes written to scratch, and its presence bit set (R217). -/
def State.landScratch (s : State) (cl key : Nat) (bs : List Byte) : State := (s.scratchWrite cl key bs).setPresence cl [lineOf key]

/-- A line's bytes written at home; the issuing core's L1 keeps no older copy (R228, R276). -/
def State.landHome (s : State) (x : Op) (key : Nat) (bs : List Byte) : State :=
  (s.homeWrite (s.ctxMemKey x.part x.ctx) key bs).dropLines x.dom .loadStore key bs.length

/-- A line of a copy goes to another device, once, or is asked for there (R218, R345): `got` says that it has. -/
def State.copyAway (s : State) (o k : Nat) (x : Op) (a : Acc) (dev : Nat) (body : FabBody) : State :=
  if a.got = 0 ∧ s.reaches x.part x.ctx dev then
    { s.setOp o { x with accs := x.accs.modify k fun a => { a with got := 1 } } with outputs := s.outputs ++ [Output.unit dev o body] }
  else s

/-- Line k of a copy into scratch (R218). -/
def State.landIn (s : State) (o k : Nat) (x : Op) (a : Acc) (cl : Nat) (tile : Bool) : State :=
  match a.tr.place with
  | .mem key =>
    let (met, s1) := if s.rangeBad key 128 then (true, s) else if tile then s.meetsCopy x.core .tile 0 key 128 else (false, s)
    if met then s1.copySpoiled o k x (laneFault 0 a.va .memUncorr a.tr.pa (opTier (keyTier key)) a.tr.leaf)
    else
      let (bs, s2) := if tile then s1.pathRead (s1.ctxMemKey x.part x.ctx) (!s1.revokes x.part x.ctx (a.va % 2 ^ 57)) x.core .tile 0 key a.tr.pa 128
        else (s1.homeBytes (s1.ctxMemKey x.part x.ctx) key 128, s1)
      (s2.setOp o (x.markDone k)).landScratch cl a.reg bs
  | .remote dev =>
    match s.takeReply o a.ticket with
    | (none, _) => s.copyAway o k x a dev (.load 128 [(a.ticket, a.va)])
    | (some r, s1) =>
      match r.cause with
      | some c => s1.copySpoiled o k x (farFault 0 a.va c)
      | none => (s1.setOp o (x.markDone k)).landScratch cl a.reg (r.data.take 128)
  | _ => (s.setOp o (x.markDone k)).landScratch cl a.reg (List.replicate 128 0)

/-- A copy out of scratch touches an absent line: its team is not ready until the line is present (R161, R217). -/
def State.copyHolds (s : State) (x : Op) (key : Nat) : State :=
  match x.team with
  | none => s
  | some i => s.modTeam i fun t => if t.hold.isNone && t.place == .placed then { t with hold := some (.absent key) } else t

/-- Line k of a copy out of scratch (R218): it holds at an absent line (R217). -/
def State.landOut (s : State) (o k : Nat) (x : Op) (a : Acc) (cl : Nat) : State :=
  match s.cluster cl with
  | none => s
  | some c =>
    if !c.present a.reg then s.copyHolds x a.reg
    else if (List.range 4).any fun j => c.spoiled.contains (a.reg / 32 + j) then s.copySpoiled o k x (plainFault 0 a.va .memUncorr)
    else
      match a.tr.place with
      | .mem key => (s.setOp o (x.markDone k)).landHome x key (c.bytes a.reg 128)
      | .remote dev =>
        match s.takeReply o a.ticket with
        | (none, _) => s.copyAway o k x a dev (.store [(a.ticket, a.va, c.bytes a.reg 128)])
        | (some r, s1) =>
          match r.cause with
          | some e => s1.copySpoiled o k x (farFault 0 a.va e)
          | none => s1.setOp o (x.markDone k)
      | _ => s.setOp o (x.markDone k)

/-- COPY_LINE_LAND (R217, R218): line k of a copy moves, in any order among the command's lines. -/
def execCopyLineLand (o k : Nat) (s : State) : Host.Outcome State Fault Refusal :=
  match s.op o with
  | none => .next s
  | some x =>
    match x.kind, x.team, x.accs[k]? with
    | .copy inn tile _, some i, some a =>
      match s.team i with
      | none => .next s
      | some t =>
        if a.done || !s.copyTurn i o || (inn && tile && s.pfenced (some i) o .tile) then .next s
        else if inn then .next (s.landIn o k x a t.cluster tile)
        else .next (s.landOut o k x a t.cluster)
    | _, _, _ => .next s

/-- An arrival at a tack by a copy or an engine command: a refused one is discarded (R220). -/
def State.arrive (s : State) (cl key : Nat) : State :=
  match tackArrive (s.scratchWord cl key) with
  | none => s
  | some v => s.scratchWrite cl key (natBytes v.toNat 4)

/-- A tack word can be reached by an arrival: its line is present, or there is no tack (R217). -/
def State.tackReachable (s : State) (cl : Nat) (tack : Option Nat) : Bool :=
  match tack, s.cluster cl with
  | some key, some c => c.present key
  | _, _ => true

/-- COPY_COMPLETE (R218, R220, R288): every line has moved; the arrival releases at CLUSTER scope; then the flag clears. -/
def execCopyComplete (o : Nat) (s : State) : Host.Outcome State Fault Refusal :=
  match s.op o with
  | none => .next s
  | some x =>
    match x.kind, x.team with
    | .copy _ _ tack, some i =>
      match s.team i with
      | none => .next s
      | some t =>
        if x.allDone && x.refail.isEmpty && s.copyLast i o && s.writesHome (some i) o && s.coveredAt 2 (some i) x.dom o && s.tackReachable t.cluster tack then
          match tack with
          | none => .next (s.endOp o x)
          | some key => .next ((s.arrive t.cluster key).endOp o x)
        else .next s
    | _, _ => .next s

end Sys2Proof.Machine
end

