-- ==== Sys2Proof/Machine/Elem.lean ====
section
/-! DEFINITION. Elem: the elementary functions of R120 to R122 in F32: VRCP and VRSQ by their recipe, VSQRT correctly rounded, and the others as the true value to about 2^-40, moved by a free amount that keeps the bound of R120 (log 6). -/

namespace Sys2Proof.Machine

open Sys2Proof

/-! ## Integer square root -/

/-- The greatest r below 2^n, above r0 by a multiple of 2^n's bits, with r times r at most x: bit by bit. -/
def isqrtFrom (x r0 : Nat) : Nat → Nat
  | 0 => r0
  | n + 1 =>
    let r := r0 + 2 ^ n
    isqrtFrom x (if r * r ≤ x then r else r0) n

/-- The integer square root. -/
def isqrt (x : Nat) : Nat := isqrtFrom x 0 (x.log2 / 2 + 1)

/-! ## Splitting an F32 (R122) -/

/-- A positive finite value m0 times 2^e0 as (e, m): m an F32 code in [1, 2), exact (R122 Split). -/
def splitF32 (m0 : Nat) (e0 : Int) : Int × Nat :=
  let l := m0.log2
  ((l : Int) + e0, 0x3F800000 + (m0 * 2 ^ (23 - l) - 2 ^ 23))

/-- An F32 code times a power of two, rounded once with RNE (R122 ScaleRNE). -/
def scaleRne (flush neg : Bool) (y : Nat) (k : Int) : Nat × Nat :=
  match fmtF32.val y with
  | .fin _ m e => fmtF32.round .rne flush false neg m (e + k)
  | _ => (y, 0)

/-- F32 FMA with RNE, no flush: the recipe's arithmetic. -/
def rFma (x y z : Nat) : Nat := (fmtF32.fma .rne false false x y z).1
/-- F32 multiply with RNE. -/
def rMul (x y : Nat) : Nat := (fmtF32.mul .rne false x y).1

/-- TR[i]: 256 / (257 + 2 i) to a multiple of 2^-12, ties to even (R122). -/
def tableTR (i : Nat) : Nat := (fmtF32.round .rne false false false (roundAt .rne false (2 ^ 20 * 2 ^ 20 / (257 + 2 * i)) (-20) 0).1 (-12)).1

/-- TS[p][i]: 16 / sqrt(2^p (257 + 2 i)) to a multiple of 2^-12 (R122); no tie arises. -/
def tableTS (p i : Nat) : Nat :=
  fmtF32.round .rne false false false ((isqrt (4 * 2 ^ 32 / (2 ^ p * (257 + 2 * i))) + 1) / 2) (-12) |>.1

/-- The table index of m (R122). -/
def tableIndex (m : Nat) : Nat := (m - 0x3F800000) / 2 ^ 16

/-- VRCP of a finite non-zero value (R122). -/
def rcpF32 (flush neg : Bool) (m0 : Nat) (e0 : Int) : Nat × Nat :=
  let (e, m) := splitF32 m0 e0
  let step (y : Nat) : Nat := rFma y (rFma (fmtF32.negate m) y 0x3F800000) y
  let r := scaleRne flush neg (step (step (tableTR (tableIndex m)))) (-e)
  if m = 0x3F800000 then r else fmtF32.inexact r

/-- VRSQ of a positive finite value (R122). -/
def rsqF32 (flush : Bool) (m0 : Nat) (e0 : Int) : Nat × Nat :=
  let (e, m) := splitF32 m0 e0
  let p := (e % 2).toNat
  let q := (e - p) / 2
  let mp := m + p * 2 ^ 23
  let step (y : Nat) : Nat :=
    let h := rMul mp y
    let t := rFma (fmtF32.negate h) y 0x3F800000
    rFma t (rMul 0x3F000000 y) y
  let r := scaleRne flush false (step (step (tableTS p (tableIndex m)))) (-q)
  if m = 0x3F800000 ∧ p = 0 then r else fmtF32.inexact r

/-- The square root of a positive value, rounded once in a format (R120): truncated with a sticky last bit, far below the last place. -/
def sqrtVal (f : Fmt) (rm : Rnd) (flush : Bool) (m : Nat) (e : Int) : Nat × Nat :=
  let odd := (e % 2).toNat
  let x := m * 2 ^ (80 + odd)
  let r := isqrt x
  let k := (e - odd) / 2 - 40
  if r * r = x then f.round rm flush false false r k
  else f.round rm flush false false (2 * r + 1) (k - 1)

/-! ## True values in fixed point, 80 fraction bits -/

/-- One in fixed point. -/
def fixOne : Nat := 2 ^ 80

/-- A product in fixed point. -/
def fixMul (x y : Nat) : Nat := x * y / fixOne

/-- 2 to a fraction: c is 2^(2^-k) for the bit at hand, f holds the remaining bits, the product grows (n bits). -/
def exp2Frac (c f acc : Nat) : Nat → Nat
  | 0 => acc
  | n + 1 =>
    let b := f * 2 / fixOne
    exp2Frac (isqrt (c * fixOne)) (f * 2 % fixOne) (if b = 1 then fixMul acc c else acc) n

/-- 2 to a fixed-point fraction. -/
def fixExp2 (f : Nat) : Nat := exp2Frac (isqrt (2 * fixOne * fixOne)) f fixOne 60

/-- The fraction bits of the base-2 logarithm of x in [1, 2): squaring gives one bit each (n bits). -/
def log2Bits (x acc : Nat) : Nat → Nat
  | 0 => acc
  | n + 1 =>
    let y := fixMul x x
    if y ≥ 2 * fixOne then log2Bits (y / 2) (2 * acc + 1) n else log2Bits y (2 * acc) n

/-- pi in fixed point. -/
def fixPi : Nat := 3797952473636338580787994

/-- The sine series of x in fixed point, terms from index k of alternating sign (n of them). -/
def sinSeries (x2 term k : Nat) (neg : Bool) (acc : Int) : Nat → Int
  | 0 => acc
  | n + 1 =>
    let t := fixMul term x2 / ((2 * k) * (2 * k + 1))
    sinSeries x2 t (k + 1) (!neg) (if neg then acc - t else acc + t) n

/-- sin(pi r) for r in [0, 1/2], in fixed point. -/
def fixSinPi (r : Nat) : Int :=
  let x := fixMul fixPi r
  sinSeries (fixMul x x) x 1 true x 16

/-- A signed dyadic number in fixed point with 80 fraction bits, truncated towards minus infinity. -/
def Dy.fix (x : Dy) : Int := if x.e + 80 ≥ 0 then x.m * 2 ^ (x.e + 80).toNat else x.m / 2 ^ (-(x.e + 80)).toNat

/-- A fixed-point number as a dyadic one. -/
def ofFix (x : Int) : Dy := { m := x, e := -80 }

/-- log2(e) in fixed point, times 2. -/
def fixTwoLog2e : Nat := 3488222569521302075275808

/-- The true value of VEXP2 of x, |x| below 2^10. -/
def trueExp2 (x : Dy) : Dy :=
  let f := x.fix
  let n := f / (fixOne : Int)
  { m := (fixExp2 (f % (fixOne : Int)).toNat : Int), e := n - 80 }

/-- The true value of VLOG2 of a positive value. -/
def trueLog2 (m : Nat) (e : Int) : Dy :=
  let l := m.log2
  let x := m * fixOne / 2 ^ l
  { m := ((l : Int) + e) * 2 ^ 60 + (log2Bits x 0 60 : Int), e := -60 }

/-- The true value of VSIN of x: sin(pi x). -/
def trueSin (x : Dy) : Dy :=
  let r := (x.fix % (2 * fixOne : Int)).toNat
  let half := fixOne / 2
  if r ≤ half then ofFix (fixSinPi r)
  else if r ≤ 2 * half then ofFix (fixSinPi (2 * half - r))
  else if r ≤ 3 * half then ofFix (-(fixSinPi (r - 2 * half)))
  else ofFix (-(fixSinPi (4 * half - r)))

/-- The true value of VTANH of a finite non-zero x, sign apart: small arguments by x - x^3/3 + 2 x^5/15, others by 1 - 2/(e^(2x) + 1). -/
def trueTanh (m : Nat) (e : Int) : Dy :=
  let x : Dy := { m := m, e := e }
  if (m.log2 : Int) + e < -10 then
    let x2 := Dy.mul x x
    let f := (x2.fix).toNat
    Dy.mul x (ofFix ((fixOne : Int) - (f / 3 : Nat) + (2 * fixMul f f / 15 : Nat)))
  else if (m.log2 : Int) + e ≥ 5 then { m := 2 ^ 80 - 1, e := -80 }
  else
    let y := fixMul x.fix.toNat fixTwoLog2e
    let ex := fixExp2 (y % fixOne) * 2 ^ (y / fixOne)
    ofFix ((fixOne : Int) - (2 * fixOne * fixOne / (ex + fixOne) : Nat))

/-! ## Results inside a bound -/

/-- The distance of two dyadic numbers is at most a bound. -/
def within (x y bound : Dy) : Bool :=
  let d := Dy.add x { m := -y.m, e := y.e }
  !Dy.lt bound { m := (d.m.natAbs : Int), e := d.e }

/-- The unit in the last place of F32 at a value. -/
def ulpF32 (x : Dy) : Dy :=
  if x.m = 0 then { m := 1, e := -149 }
  else { m := 1, e := max (-149) ((x.m.natAbs.log2 : Int) + x.e - 23) }

/-- The value of an F32 code as a dyadic number, where it is finite. -/
def dyOf (c : Nat) : Option Dy :=
  match fmtF32.val c with
  | .fin a m e => some { m := signedM a m, e := e }
  | _ => none

/-- The result of an approximated function: the true value moved by a free amount, kept where it stays inside the bound of R120, else rounded as it is. -/
def approx (code : Nat) (flush : Bool) (operand : Nat) (v bound : Dy) : Nat × Nat :=
  let base := fmtF32.roundDy .rne flush false false v
  let o := Config.elementary code (BitVec.ofNat 32 operand)
  let moved := Dy.add v (Dy.mul bound { m := (o % (2 ^ 21 + 1) : Int) - 2 ^ 20, e := -20 })
  let cand := fmtF32.roundDy .rne flush false false moved
  match dyOf cand.1 with
  | none => fmtF32.inexact base
  | some c => fmtF32.inexact (if within c v bound then cand else base)

/-- A dyadic number times a power of two. -/
def Dy.scale (x : Dy) (k : Int) : Dy := { x with e := x.e + k }

/-- The functions of R120. -/
inductive ElemFn where
  | rcp | rsq | sqrt | exp2 | log2 | sin | cos | tanh
  deriving DecidableEq, Repr

/-- An F32 special result with its bits. -/
def infF32 (neg : Bool) : Nat := fmtF32.signed neg 0x7F800000
/-- One. -/
def oneF32 (neg : Bool) : Nat := fmtF32.signed neg 0x3F800000

/-- A finite non-zero x is an integer: n times its sign. -/
def asInt (m : Nat) (e : Int) : Option Nat :=
  if e ≥ 0 then some (m * 2 ^ e.toNat)
  else if m % 2 ^ (-e).toNat = 0 then some (m / 2 ^ (-e).toNat) else none

/-- An elementary function in F32 (R120 to R122): the special inputs of R121 first. Only VSQRT reads the rounding mode. -/
def elemF32 (fn : ElemFn) (rm : Rnd) (flush : Bool) (x : Nat) : Nat × Nat :=
  let x := fmtF32.flushIn flush x
  match fmtF32.val x with
  | .nan sg => fmtF32.nanOut sg
  | .inf neg =>
    match fn with
    | .rcp => (fmtF32.signed neg 0, 0)
    | .rsq => if neg then fmtF32.nanOut true else (0, 0)
    | .sqrt => if neg then fmtF32.nanOut true else (infF32 false, 0)
    | .exp2 => if neg then (0, 0) else (infF32 false, 0)
    | .log2 => if neg then fmtF32.nanOut true else (infF32 false, 0)
    | .sin => fmtF32.nanOut true
    | .cos => fmtF32.nanOut true
    | .tanh => (oneF32 neg, 0)
  | .fin neg m e =>
    if m = 0 then
      match fn with
      | .rcp => (infF32 neg, stDiv0)
      | .rsq => (infF32 neg, stDiv0)
      | .sqrt => (fmtF32.signed neg 0, 0)
      | .exp2 => (oneF32 false, 0)
      | .log2 => (infF32 true, stDiv0)
      | .sin => (fmtF32.signed neg 0, 0)
      | .cos => (oneF32 false, 0)
      | .tanh => (fmtF32.signed neg 0, 0)
    else
      let v : Dy := { m := signedM neg m, e := e }
      match fn with
      | .rcp => rcpF32 flush neg m e
      | .rsq => if neg then fmtF32.nanOut true else rsqF32 flush m e
      | .sqrt => if neg then fmtF32.nanOut true else sqrtVal fmtF32 rm flush m e
      | .exp2 =>
        match asInt m e with
        | some n => fmtF32.round .rne flush false false 1 (if neg then -(n : Int) else n)
        | none =>
          if (m.log2 : Int) + e ≥ 9 then fmtF32.round .rne flush false false 3 (if neg then -400 else 400)
          else let r := trueExp2 v; approx 0 flush x r ((ulpF32 r).scale 1)
      | .log2 =>
        if neg then fmtF32.nanOut true
        else if m = 2 ^ m.log2 then
          let n := (m.log2 : Int) + e
          fmtF32.round .rne flush false (decide (n < 0)) n.natAbs 0
        else
          let r := trueLog2 m e
          let top := (m.log2 : Int) + e
          approx 1 flush x r (if top = 0 ∨ top = -1 then { m := 1, e := -22 } else (ulpF32 r).scale 1)
      | .sin =>
        match asInt m (e + 1) with
        | some n =>
          if n % 2 = 0 then (fmtF32.signed neg 0, 0)
          else (oneF32 (neg != decide (n % 4 = 3)), 0)
        | none => approx 2 flush x (trueSin v) { m := 1, e := -22 }
      | .cos =>
        match asInt m (e + 1) with
        | some n => if n % 2 = 1 then (0, 0) else (oneF32 (decide (n % 4 = 2)), 0)
        | none => approx 3 flush x (trueSin (Dy.add v { m := 1, e := -1 })) { m := 1, e := -22 }
      | .tanh =>
        let r := trueTanh m e
        let (c, b) := approx 4 flush (fmtF32.mag x) r ((ulpF32 r).scale 1)
        (fmtF32.signed neg (fmtF32.mag c), b)

/-- An elementary function in a type (R120): F16 and BF16 widen exactly to F32 and round the F32 result, unflushed, once, which is where mode.flush meets it (R181); VSQRT rounds once in every type. DESIGN CHOICE: the sticky bits of the F32 result count beside those of its rounding, st.unf among them (log 115). -/
def elemFn (fn : ElemFn) (y : Ty) (rm : Rnd) (flush : Bool) (x : Nat) : Nat × Nat :=
  match fmtOf y with
  | none => (0, 0)
  | some f =>
    if f = fmtF32 then elemF32 fn rm flush x
    else
      match fn, f.input flush x with
      | .sqrt, .fin false m e => if m = 0 then (0, 0) else sqrtVal f rm flush m e
      | _, _ =>
        let (w, b0) := floatToFloat f fmtF32 .rne false false (f.flushIn flush x)
        let (r, b1) := elemF32 fn rm false w
        let once := f.roundVal rm flush false (fmtF32.val r)
        let (c, b2) := if b1 &&& stInx = 0 then once else f.inexact once
        (c, b0 ||| b1 ||| b2)

end Sys2Proof.Machine
end

