-- ==== Sys2Proof/Machine/Vector.lean ====
section
/-! DEFINITION. Vector: lane arithmetic, bits, shifts, conversion and functions (R107 to R124), and scalar F32 arithmetic and SCVT (R103, R104). -/

namespace Sys2Proof.Machine

open Sys2Proof

/-! ## Elements (R108) -/

/-- A source that a 64-bit type can read: an even register or slot, or a special (R96, R108). -/
def Team.wideSrc (t : Team) : Sel → Bool
  | .v r => r.toNat % 2 == 0 && t.vOk r 2
  | .s n => n.toNat % 2 == 0
  | .k n => n.toNat % 2 == 0 && decide (n.toNat + 1 < t.clause.lits.length)
  | .sp _ => true
  | _ => false

/-- A source of an element of a type. -/
def Team.elemSrc (t : Team) (y : Ty) (a : Sel) : Bool := if y.wide then t.wideSrc a else t.vectorSrc a

/-- A destination of an element of a type (R108). -/
def Team.elemDst (t : Team) (y : Ty) (d : Sel) : Bool :=
  match d with
  | .v r => if y.wide then r.toNat % 2 == 0 && t.vOk r 2 else t.vOk r 1
  | .q _ => !y.wide
  | .sp .zero => true
  | _ => false

/-- A lane's element: 32 bits, or a pair under a 64-bit type, where ZERO and ONES are 64 bits wide and other specials zero-extended (R96). -/
def State.elem (s : State) (t : Team) (y : Ty) (a : Sel) (lane : Nat) (q : Word) : Nat :=
  if y.wide then
    match a with
    | .v r => (t.v lane r.toNat).toNat + 2 ^ 32 * (t.v lane (r.toNat + 1)).toNat
    | .s n => t.pair n
    | .k n => ((t.lit n).getD 0).toNat + 2 ^ 32 * ((t.lit (n + 1)).getD 0).toNat
    | .sp .ones => 2 ^ 64 - 1
    | .sp x => (s.special t x lane).toNat
    | _ => 0
  else (s.src t a lane q).toNat

/-- Elements written to a destination, one for each lane (R108). -/
def putElems (i : Nat) (t : Team) (s : State) (y : Ty) (d : Sel) (ws : List (Nat × Nat)) : Res :=
  match d with
  | .v r =>
    .ok (s.setTeam i (ws.foldl (fun t x =>
      if y.wide then t.setVs x.1 r.toNat [BitVec.ofNat 32 x.2, BitVec.ofNat 32 (x.2 / 2 ^ 32)]
      else t.setV x.1 r.toNat (BitVec.ofNat 32 x.2)) t))
  | .q n => .push (s.setTeam i t) n (ws.map fun x => (x.1, BitVec.ofNat 32 x.2))
  | _ => .ok (s.setTeam i t)

/-- The bits of several results together. -/
def orBits (xs : List (Nat × Nat × Nat)) : Nat := xs.foldl (fun a x => a ||| x.2.2) 0

/-- An instruction that computes one element per active lane from elements of the sources (R107 to R111). `ok` lists the types; `f` gives the result's bits and the sticky bits it sets. -/
def laneOp (s : State) (d : Sel) (ss : List (Nat × Sel)) (ok : Ty → Bool) (f : Team → Ty → (Nat → Nat) → Nat × Nat) :
    Host.Outcome State Fault Refusal :=
  sweepTo s (fun t _ => [need (t.elemDst t.ty d && ss.all (t.elemSrc t.ty ·.2)) .illegalOperand, need (ok t.ty) .illegalOperand, t.pushCheck d]) (·.active) d ss
    fun i t ls q s1 =>
      let el (l fld : Nat) : Nat := match ss.find? (·.1 == fld) with
        | some a => s1.elem t t.ty a.2 l (q fld l)
        | none => 0
      let rs := ls.map fun l => (l, f t t.ty (el l))
      putElems i (t.addStatus (orBits rs)) s1 t.ty d (rs.map fun r => (r.1, r.2.1))

/-- A V register that an instruction reads and writes. -/
def vReadWrite (d : Sel) : Bool := isV d

/-- An instruction that also reads D, which must be a V register (R113, R124). -/
def laneOpD (s : State) (d : Sel) (ss : List (Nat × Sel)) (ok : Ty → Bool) (f : Team → Ty → (Nat → Nat) → Nat × Nat) :
    Host.Outcome State Fault Refusal :=
  sweep s (fun t _ => [need (vReadWrite d && t.elemDst t.ty d && ss.all (t.elemSrc t.ty ·.2)) .illegalOperand, need (ok t.ty) .illegalOperand]) ss
    fun i t q s1 =>
      let el (l fld : Nat) : Nat := match ((2, d) :: ss).find? (·.1 == fld) with
        | some a => s1.elem t t.ty a.2 l (q fld l)
        | none => 0
      let rs := t.active.map fun l => (l, f t t.ty (el l))
      putElems i (t.addStatus (orBits rs)) s1 t.ty d (rs.map fun r => (r.1, r.2.1))

/-! ## Arithmetic on elements (R110, R111, R113, R114) -/

/-- Int or Flt of R113. -/
def Ty.arith (y : Ty) : Bool := y.isInt || y.isFloat
/-- I8 to I32 and N8 to N32. -/
def Ty.narrowInt (y : Ty) : Bool := y.isInt && !y.wide
/-- Signed integers or Flt. -/
def Ty.signedArith (y : Ty) : Bool := y.signed || y.isFloat

/-- A sum (R113). -/
def elAdd (y : Ty) (rm : Rnd) (flush sat : Bool) (a b : Nat) : Nat × Nat :=
  match fmtOf y with
  | some f => f.add rm flush a b
  | none => y.store sat (y.int a + y.int b)

/-- A difference. -/
def elSub (y : Ty) (rm : Rnd) (flush sat : Bool) (a b : Nat) : Nat × Nat :=
  match fmtOf y with
  | some f => f.sub rm flush a b
  | none => y.store sat (y.int a - y.int b)

/-- A product. -/
def elMul (y : Ty) (rm : Rnd) (flush sat : Bool) (a b : Nat) : Nat × Nat :=
  match fmtOf y with
  | some f => f.mul rm flush a b
  | none => y.store sat (y.int a * y.int b)

/-- A float minimum or maximum: minimumNumber and maximumNumber (R114). -/
def Fmt.minmax (f : Fmt) (flush max : Bool) (a b : Nat) : Nat × Nat :=
  let a := f.flushIn flush a
  let b := f.flushIn flush b
  let inv := if anySignalling [f.val a, f.val b] then stInv else 0
  match f.val a, f.val b with
  | .nan _, .nan _ => (f.nan, inv)
  | .nan _, _ => (b, inv)
  | _, .nan _ => (a, inv)
  | x, y =>
    let first := if x.lt y then true else if y.lt x then false else f.neg a
    (if first != max then a else b, 0)

/-- A minimum or maximum. -/
def elMinmax (y : Ty) (flush max : Bool) (a b : Nat) : Nat × Nat :=
  match fmtOf y with
  | some f => f.minmax flush max a b
  | none => (y.extend (if decide (y.int a ≤ y.int b) != max then y.int a else y.int b), 0)

/-- The absolute difference: the exact magnitude rounded once as a non-negative value (R113). -/
def elAbsd (y : Ty) (rm : Rnd) (flush sat : Bool) (a b : Nat) : Nat × Nat :=
  match fmtOf y with
  | some f =>
    match f.input flush a, f.input flush b with
    | .fin p m e, .fin q n k =>
      let d := Dy.add { m := signedM p m, e := e } { m := -signedM q n, e := k }
      f.round rm flush false false d.m.natAbs d.e
    | _, _ => let (c, bits) := f.sub rm flush a b; (if f.mag c > f.maxCode + 1 ∨ c = f.nan then c else f.mag c, bits)
  | none => y.store sat ((y.int a - y.int b).natAbs : Int)

/-- VMOV (R113). -/
def execVmov (d a : Sel) (s : State) : Host.Outcome State Fault Refusal :=
  laneOp s d [(0, a)] (fun _ => true) fun _ _ x => (x 0, 0)
/-- VADD (R113). -/
def execVadd (d a b : Sel) (s : State) : Host.Outcome State Fault Refusal :=
  laneOp s d [(0, a), (1, b)] Ty.arith fun t y x => elAdd y t.rnd t.flush t.sat (x 0) (x 1)
/-- VSUB (R113). -/
def execVsub (d a b : Sel) (s : State) : Host.Outcome State Fault Refusal :=
  laneOp s d [(0, a), (1, b)] Ty.arith fun t y x => elSub y t.rnd t.flush t.sat (x 0) (x 1)
/-- VMUL (R113). -/
def execVmul (d a b : Sel) (s : State) : Host.Outcome State Fault Refusal :=
  laneOp s d [(0, a), (1, b)] Ty.arith fun t y x => elMul y t.rnd t.flush t.sat (x 0) (x 1)
/-- VMULH (R113): the high half of the exact product; never saturates. -/
def execVmulh (d a b : Sel) (s : State) : Host.Outcome State Fault Refusal :=
  laneOp s d [(0, a), (1, b)] Ty.narrowInt fun _ y x => (y.extend (y.int (x 0) * y.int (x 1) / 2 ^ y.width), 0)
/-- VFMA (R18, R113). -/
def execVfma (d a b : Sel) (s : State) : Host.Outcome State Fault Refusal :=
  laneOpD s d [(0, a), (1, b)] Ty.isFloat fun t y x => match fmtOf y with
    | some f => f.fma t.rnd t.flush false (x 0) (x 1) (x 2)
    | none => (0, 0)
/-- VFNMA (R113): D minus the product. -/
def execVfnma (d a b : Sel) (s : State) : Host.Outcome State Fault Refusal :=
  laneOpD s d [(0, a), (1, b)] Ty.isFloat fun t y x => match fmtOf y with
    | some f => f.fma t.rnd t.flush true (x 0) (x 1) (x 2)
    | none => (0, 0)
/-- VMAD (R113). -/
def execVmad (d a b : Sel) (s : State) : Host.Outcome State Fault Refusal :=
  laneOpD s d [(0, a), (1, b)] Ty.narrowInt fun t y x => y.store t.sat (y.int (x 0) * y.int (x 1) + y.int (x 2))
/-- VMIN (R113, R114). -/
def execVmin (d a b : Sel) (s : State) : Host.Outcome State Fault Refusal :=
  laneOp s d [(0, a), (1, b)] Ty.arith fun t y x => elMinmax y t.flush false (x 0) (x 1)
/-- VMAX (R113, R114). -/
def execVmax (d a b : Sel) (s : State) : Host.Outcome State Fault Refusal :=
  laneOp s d [(0, a), (1, b)] Ty.arith fun t y x => elMinmax y t.flush true (x 0) (x 1)
/-- VABS (R113, R114): a float loses its sign bit only. -/
def execVabs (d a : Sel) (s : State) : Host.Outcome State Fault Refusal :=
  laneOp s d [(0, a)] Ty.signedArith fun t y x => match fmtOf y with
    | some f => (f.mag (x 0), 0)
    | none => y.store t.sat ((y.int (x 0)).natAbs : Int)
/-- VNEG (R113, R114): a float changes its sign bit only. -/
def execVneg (d a : Sel) (s : State) : Host.Outcome State Fault Refusal :=
  laneOp s d [(0, a)] Ty.signedArith fun t y x => match fmtOf y with
    | some f => (f.negate (x 0), 0)
    | none => y.store t.sat (-(y.int (x 0)))
/-- VABSD (R113). -/
def execVabsd (d a b : Sel) (s : State) : Host.Outcome State Fault Refusal :=
  laneOp s d [(0, a), (1, b)] Ty.arith fun t y x => elAbsd y t.rnd t.flush t.sat (x 0) (x 1)

/-! ## Bits (R115, R116) -/

/-- A bitwise instruction on all 32 bits, whatever the type (R115). -/
def bitOp (s : State) (d : Sel) (ss : List (Nat × Sel)) (f : (Nat → Word) → Word) : Host.Outcome State Fault Refusal :=
  sweepTo s (fun t _ => [need (t.vectorDst d && ss.all (t.vectorSrc ·.2)) .illegalOperand, t.pushCheck d]) (·.active) d ss fun i t ls q s1 =>
    let el (l fld : Nat) : Word := match ss.find? (·.1 == fld) with
      | some a => s1.src t a.2 l (q fld l)
      | none => 0
    putLanes i t s1 d (ls.map fun l => (l, f (el l)))

/-- VAND (R115). -/
def execVand (d a b : Sel) (s : State) : Host.Outcome State Fault Refusal := bitOp s d [(0, a), (1, b)] fun x => x 0 &&& x 1
/-- VOR (R115). -/
def execVor (d a b : Sel) (s : State) : Host.Outcome State Fault Refusal := bitOp s d [(0, a), (1, b)] fun x => x 0 ||| x 1
/-- VXOR (R115). -/
def execVxor (d a b : Sel) (s : State) : Host.Outcome State Fault Refusal := bitOp s d [(0, a), (1, b)] fun x => x 0 ^^^ x 1
/-- VNOT (R115). -/
def execVnot (d a : Sel) (s : State) : Host.Outcome State Fault Refusal := bitOp s d [(0, a)] fun x => ~~~x 0

/-- Types of R116. -/
def Ty.shifts (y : Ty) : Bool := y.isInt || y == .b32

/-- A shift or rotate: B is one 32-bit count a lane, under every type (R116). -/
def shiftOp (s : State) (d a b : Sel) (f : Ty → Nat → Nat → Int) : Host.Outcome State Fault Refusal :=
  sweepTo s (fun t _ => [need (t.elemDst t.ty d && t.elemSrc t.ty a && t.vectorSrc b) .illegalOperand, need t.ty.shifts .illegalOperand, t.pushCheck d])
    (·.active) d [(0, a), (1, b)] fun i t ls q s1 =>
      putElems i t s1 t.ty d (ls.map fun l =>
        (l, t.ty.extend (f t.ty (s1.elem t t.ty a l (q 0 l) % 2 ^ t.ty.width) (s1.src t b l (q 1 l)).toNat)))

/-- VSHL (R116). -/
def execVshl (d a b : Sel) (s : State) : Host.Outcome State Fault Refusal :=
  shiftOp s d a b fun y x c => if y.width ≤ c then 0 else (x <<< c : Nat)
/-- VSHR (R116). -/
def execVshr (d a b : Sel) (s : State) : Host.Outcome State Fault Refusal :=
  shiftOp s d a b fun y x c => if y.width ≤ c then 0 else (x >>> c : Nat)
/-- VSRA (R116). -/
def execVsra (d a b : Sel) (s : State) : Host.Outcome State Fault Refusal :=
  shiftOp s d a b fun y x c => signedOf y.width x / 2 ^ (min c y.width)
/-- VROT (R116). -/
def execVrot (d a b : Sel) (s : State) : Host.Outcome State Fault Refusal :=
  shiftOp s d a b fun y x c => ((x <<< (c % y.width)) ||| (x >>> (y.width - c % y.width)) : Nat)

/-- A count over the bits of an element (R116). -/
def countOp (s : State) (d a : Sel) (f : Nat → Nat → Nat) : Host.Outcome State Fault Refusal :=
  laneOp s d [(0, a)] Ty.shifts fun _ y x => (y.extend (f (x 0 % 2 ^ y.width) y.width : Nat), 0)

/-- VPOPC (R116). -/
def execVpopc (d a : Sel) (s : State) : Host.Outcome State Fault Refusal := countOp s d a popCount
/-- VCLZ (R116). -/
def execVclz (d a : Sel) (s : State) : Host.Outcome State Fault Refusal := countOp s d a leadingZeros
/-- VBREV (R116). -/
def execVbrev (d a : Sel) (s : State) : Host.Outcome State Fault Refusal := countOp s d a bitReverse

/-! ## Select, broadcast, convert (R117 to R119) -/

/-- VSEL (R117): the guard selects; M0 alone is swept. -/
def execVsel (d a b : Sel) (s : State) : Host.Outcome State Fault Refusal :=
  sweepTo s (fun t _ => [need (t.elemDst t.ty d && t.elemSrc t.ty a && t.elemSrc t.ty b) .illegalOperand, need (t.guard != 0) .illegalOperand,
      t.pushCheck d]) (fun t => lanesBelow (t.m 0) t.nlanes) d [(0, a), (1, b)]
    fun i t ls q s1 =>
      let g := t.guardMask.toNat
      putElems i t s1 t.ty d (ls.map fun l =>
        (l, if g.testBit l then s1.elem t t.ty a l (q 0 l) else s1.elem t t.ty b l (q 1 l)))

/-- VBCAST (R118): B is read once; a lane that does not exist gives 0. -/
def execVbcast (d a b : Sel) (s : State) : Host.Outcome State Fault Refusal :=
  sweepOn s (fun t _ => [need (t.vectorDst d && isV a && t.vectorSrc a && t.scalarSrc b) .illegalOperand, t.pushCheck d]) [b]
    (fun t => t.active) (fun _ => popsOnce [(1, b)]) fun i t q s1 =>
      let n := (s1.scalar t b (q 1 0)).toNat
      let v := if n < t.nlanes then s1.src t a n 0 else 0
      putLanes i t s1 d (t.active.map fun l => (l, v))

/-- The types R104 converts between. -/
def Ty.converts : Ty → Bool
  | .i8 | .i16 | .i32 | .n8 | .n16 | .n32 | .f16 | .bf16 | .f32 | .e4m3 | .e5m2 => true
  | _ => false

/-- A destination code of a conversion (R54, R104). -/
def convertCode (b : BitVec 8) : Option Ty :=
  match tyOf b.toNat with
  | some y => if y.converts then some y else none
  | none => none

/-- VCVT (R119). -/
def execVcvt (d a : Sel) (b : BitVec 8) (s : State) : Host.Outcome State Fault Refusal :=
  sweepTo s (fun t _ => [need (t.vectorDst d && t.vectorSrc a && (convertCode b).isSome) .illegalOperand, need t.ty.converts .illegalOperand,
      t.pushCheck d]) (·.active) d [(0, a)] fun i t ls q s1 =>
    let rs := ls.map fun l => (l, convert t.ty ((convertCode b).getD .i8) t.rnd t.flush t.sat (s1.src t a l (q 0 l)).toNat)
    putLanes i (t.addStatus (orBits rs)) s1 d (rs.map fun r => (r.1, BitVec.ofNat 32 r.2.1))

/-! ## Functions (R120 to R123) -/

/-- VRCP (R122). -/
def execVrcp (d a : Sel) (s : State) : Host.Outcome State Fault Refusal :=
  laneOp s d [(0, a)] Ty.isFloat fun t y x => elemFn .rcp y t.rnd t.flush (x 0)
/-- VRSQ (R122). -/
def execVrsq (d a : Sel) (s : State) : Host.Outcome State Fault Refusal :=
  laneOp s d [(0, a)] Ty.isFloat fun t y x => elemFn .rsq y t.rnd t.flush (x 0)
/-- VSQRT (R120). -/
def execVsqrt (d a : Sel) (s : State) : Host.Outcome State Fault Refusal :=
  laneOp s d [(0, a)] Ty.isFloat fun t y x => elemFn .sqrt y t.rnd t.flush (x 0)
/-- VEXP2 (R120). -/
def execVexp2 (d a : Sel) (s : State) : Host.Outcome State Fault Refusal :=
  laneOp s d [(0, a)] Ty.isFloat fun t y x => elemFn .exp2 y t.rnd t.flush (x 0)
/-- VLOG2 (R120). -/
def execVlog2 (d a : Sel) (s : State) : Host.Outcome State Fault Refusal :=
  laneOp s d [(0, a)] Ty.isFloat fun t y x => elemFn .log2 y t.rnd t.flush (x 0)
/-- VSIN (R120). -/
def execVsin (d a : Sel) (s : State) : Host.Outcome State Fault Refusal :=
  laneOp s d [(0, a)] Ty.isFloat fun t y x => elemFn .sin y t.rnd t.flush (x 0)
/-- VCOS (R120). -/
def execVcos (d a : Sel) (s : State) : Host.Outcome State Fault Refusal :=
  laneOp s d [(0, a)] Ty.isFloat fun t y x => elemFn .cos y t.rnd t.flush (x 0)
/-- VTANH (R120). -/
def execVtanh (d a : Sel) (s : State) : Host.Outcome State Fault Refusal :=
  laneOp s d [(0, a)] Ty.isFloat fun t y x => elemFn .tanh y t.rnd t.flush (x 0)

/-- A value rounded to an integral one (R123 VRND): inexact is not set. -/
def elRnd (f : Fmt) (rm : Rnd) (flush : Bool) (x : Nat) : Nat × Nat :=
  match f.input flush x with
  | .nan sg => f.nanOut sg
  | .inf a => (f.signed a (f.maxCode + 1), 0)
  | .fin a m e =>
    let (n, _) := roundAt rm a m e 0
    if 0 ≤ e then f.round rm false false a m e else f.round rm false false a n 0

/-- A minus its floor (R123 VFRC). -/
def elFrc (f : Fmt) (rm : Rnd) (flush : Bool) (x : Nat) : Nat × Nat :=
  match f.input flush x with
  | .nan sg => f.nanOut sg
  | .inf _ => f.nanOut true
  | .fin a m e =>
    if 0 ≤ e then (0, 0)
    else
      let k := (-e).toNat
      let fr := (signedM a m % (2 ^ k : Int)).toNat
      let (c, b) := f.round rm flush false false fr e
      let one := f.bias * 2 ^ f.mbits
      if c ≥ one then (one - 1, b ||| stInx) else (c, b)

/-- VRND (R123). -/
def execVrnd (d a : Sel) (s : State) : Host.Outcome State Fault Refusal :=
  laneOp s d [(0, a)] Ty.isFloat fun t y x => match fmtOf y with
    | some f => elRnd f t.rnd t.flush (x 0)
    | none => (0, 0)
/-- VFRC (R123). -/
def execVfrc (d a : Sel) (s : State) : Host.Outcome State Fault Refusal :=
  laneOp s d [(0, a)] Ty.isFloat fun t y x => match fmtOf y with
    | some f => elFrc f t.rnd t.flush (x 0)
    | none => (0, 0)

/-- VLDEXP (R123): B's 32 bits are a signed exponent; past the range of any format the result overflows or underflows alike. -/
def execVldexp (d a b : Sel) (s : State) : Host.Outcome State Fault Refusal :=
  laneOp s d [(0, a), (1, b)] Ty.isFloat fun t y x => match fmtOf y with
    | some f =>
      match f.input t.flush (x 0) with
      | .nan sg => f.nanOut sg
      | .inf neg => (f.signed neg (f.maxCode + 1), 0)
      | .fin neg m e => let n := signedOf 32 (x 1); f.round t.rnd t.flush false neg m (e + (if n > 1000 then 1000 else if n < -1000 then -1000 else n))
    | none => (0, 0)
/-- VCPSGN (R123). -/
def execVcpsgn (d a b : Sel) (s : State) : Host.Outcome State Fault Refusal :=
  laneOp s d [(0, a), (1, b)] Ty.isFloat fun _ y x => match fmtOf y with
    | some f => (f.signed (f.neg (x 1)) (f.mag (x 0)), 0)
    | none => (0, 0)

/-! ## Dot products (R124) -/

/-- Element k of width w of a packed word (R4). -/
def slice (x w k : Nat) : Nat := x / 2 ^ (w * k) % 2 ^ w

/-- The integer dot product with D, fitted as I32 or N32 (R124). -/
def intDot (y : Ty) (sat : Bool) (a b d : Nat) : Nat × Nat :=
  let r : Ty := if y.signed then .i32 else .n32
  let n := 32 / y.width
  r.store sat ((List.range n).foldl (fun acc k => acc + y.int (slice a y.width k) * y.int (slice b y.width k)) (r.int d))

/-- The exact F32 sum D + a0 b0 + a1 b1, rounded once (R124). -/
def floatDot2 (f : Fmt) (rm : Rnd) (flush : Bool) (a b d : Nat) : Nat × Nat :=
  let p0 := mulVals (f.input flush (slice a 16 0)) (f.input flush (slice b 16 0))
  let p1 := mulVals (f.input flush (slice a 16 1)) (f.input flush (slice b 16 1))
  let c := fmtF32.input flush d
  let inv := p0.2 || p1.2 || anySignalling [c]
  let vs := [c, p0.1, p1.1]
  let pos := vs.any (· == .inf false)
  let neg := vs.any (· == .inf true)
  if anyNan vs then fmtF32.nanOut inv
  else if pos && neg then fmtF32.nanOut true
  else if pos then (infF32 false, 0)
  else if neg then (infF32 true, 0)
  else
    let dy (v : Val) : Dy := match v with
      | .fin a m e => { m := signedM a m, e := e }
      | _ => { m := 0, e := 0 }
    let allNegZero := vs.all fun v => match v with
      | .fin a m _ => a && m == 0
      | _ => false
    let allZero := vs.all fun v => match v with
      | .fin _ m _ => m == 0
      | _ => false
    let allPosZero := vs.all fun v => match v with
      | .fin a m _ => !a && m == 0
      | _ => false
    let zero := allNegZero || (rm == .rd && !(allZero && allPosZero))
    fmtF32.roundDy rm flush false zero (vs.foldl (fun acc v => Dy.add acc (dy v)) { m := 0, e := 0 })

/-- VDOT4 (R124). -/
def execVdot4 (d a b : Sel) (s : State) : Host.Outcome State Fault Refusal :=
  laneOpD s d [(0, a), (1, b)] (fun y => y == .i8 || y == .n8) fun t y x => intDot y t.sat (x 0) (x 1) (x 2)
/-- VDOT2 (R124). -/
def execVdot2 (d a b : Sel) (s : State) : Host.Outcome State Fault Refusal :=
  laneOpD s d [(0, a), (1, b)] (fun y => y == .i16 || y == .n16 || y == .f16 || y == .bf16) fun t y x => match fmtOf y with
    | some f => floatDot2 f t.rnd t.flush (x 0) (x 1) (x 2)
    | none => intDot y t.sat (x 0) (x 1) (x 2)

/-! ## Scalar F32 and SCVT (R103, R104) -/

/-- A scalar F32 instruction (R103); D is also read where `dread`. -/
def scalarF (s : State) (d a b : Sel) (dread : Bool) (f : Rnd → Bool → Nat → Nat → Nat → Nat × Nat) : Host.Outcome State Fault Refusal :=
  once s (fun t _ => [need ((if dread then isS d else scalarDst d) && t.scalarSrc a && t.scalarSrc b) .illegalOperand, t.pushCheck d])
    [(0, a), (1, b)] fun i t q s1 =>
      let r := f t.rnd t.flush (s1.scalar t a (q 0)).toNat (s1.scalar t b (q 1)).toNat (if dread then (s1.scalar t d 0).toNat else 0)
      putScalar i (t.addStatus r.2) s1 d (BitVec.ofNat 32 r.1)

/-- SFADD (R103). -/
def execSfadd (d a b : Sel) (s : State) : Host.Outcome State Fault Refusal := scalarF s d a b false fun rm fl x y _ => fmtF32.add rm fl x y
/-- SFMUL (R103). -/
def execSfmul (d a b : Sel) (s : State) : Host.Outcome State Fault Refusal := scalarF s d a b false fun rm fl x y _ => fmtF32.mul rm fl x y
/-- SFMA (R103). -/
def execSfma (d a b : Sel) (s : State) : Host.Outcome State Fault Refusal := scalarF s d a b true fun rm fl x y z => fmtF32.fma rm fl false x y z

/-- SCVT (R104). -/
def execScvt (d a : Sel) (b : BitVec 8) (s : State) : Host.Outcome State Fault Refusal :=
  once s (fun t _ => [need (scalarDst d && t.scalarSrc a && (convertCode b).isSome) .illegalOperand, need t.ty.converts .illegalOperand,
      t.pushCheck d]) [(0, a)] fun i t q s1 =>
    let r := convert t.ty ((convertCode b).getD .i8) t.rnd t.flush t.sat (s1.scalar t a (q 0)).toNat
    putScalar i (t.addStatus r.2) s1 d (BitVec.ofNat 32 r.1)

end Sys2Proof.Machine
end

