-- ==== Sys2Proof/Machine/Paths.lean ====
section
/-! DEFINITION. Paths: the constant, sampler and tile-layout loads (R253 to R256), PFENCE (R232, R257), and PREF, CFLUSH, CINV (R258). -/

namespace Sys2Proof.Machine

open Sys2Proof

/-- A source that gives every lane one value: no vector register, no queue register popped lane by lane, no lane number (R80, R83, R107). -/
def oneSource : Sel → Bool
  | .s _ => true
  | .k _ => true
  | .sp p => p != .lid && p != .gid
  | _ => false

/-- CLD (R253): with a scalar A one read serves every lane. -/
def execCld (d a b : Sel) (s : State) : Host.Outcome State Fault Refusal :=
  sweepOn s (fun t _ => [need ((match d with | .v r => t.vOk r 1 | _ => false) && t.vectorSrc a && t.scalarSrc b) .illegalOperand])
    [a, b] (fun t => t.active) (fun t => popsVS t a b) fun i t q s1 =>
    match d with
    | .v r =>
      startOp i t s1 false (.load .const false 32 false)
        (t.active.map fun l => { Acc.new l (t.vecAddr (s1.src t a l (q 0 l)) (s1.scalar t b (q 1 0))) 4 4 r.toNat [] with tied := oneSource a }) id
    | _ => .check .illegalOperand false s1

/-! ## SMPL (R254, R255) -/

/-- A sampler record (R254). -/
structure Sampler where
  width : Nat
  height : Nat
  base : Nat
  pitch : Nat
  fmt : Ty
  bilinear : Bool
  wrap : Nat
  deriving DecidableEq, Repr

/-- The sampler of a record's words: none where it is invalid. -/
def samplerOf (ws : List Word) : Option Sampler :=
  let w (k : Nat) : Word := (ws[k]?).getD 0
  let f : Option Ty := match bits (w 3) 1 0 with
    | 0 => some .f32
    | 1 => some .bf16
    | 2 => some .f16
    | _ => none
  match f with
  | none => none
  | some y =>
    let x : Sampler := { width := bits (w 0) 15 0, height := bits (w 0) 31 16, base := (w 1).toNat, pitch := (w 2).toNat, fmt := y,
                         bilinear := bit (w 3) 2, wrap := bits (w 3) 4 3 }
    if x.width = 0 ∨ x.height = 0 ∨ x.pitch % (y.width / 8) ≠ 0 ∨ x.wrap = 3 then none else some x

/-- Floor of a dyadic number times 2^k. -/
def Dy.floorShift (x : Dy) (k : Int) : Int := if 0 ≤ x.e + k then x.m * 2 ^ (x.e + k).toNat else x.m / 2 ^ (-(x.e + k)).toNat

/-- A finite F32 code as a dyadic number, after the flush of inputs; none for NaN and infinities. -/
def finiteF32 (flush : Bool) (w : Word) : Option Dy :=
  match fmtF32.input flush w.toNat with
  | .fin n m e => some { m := signedM n m, e := e }
  | _ => none

/-- A coordinate taken to a texel's by the wrap mode (R255): none outside the border. -/
def Sampler.coord (x : Sampler) (n : Nat) (c : Int) : Option Nat :=
  if x.wrap = 0 then some (if c < 0 then 0 else if (n : Int) ≤ c then n - 1 else c.toNat)
  else if x.wrap = 1 then some (c % (n : Int)).toNat
  else if c < 0 ∨ (n : Int) ≤ c then none else some c.toNat

/-- The texels of non-zero weight for a coordinate pair (R255): column, row, weight of 65,536. -/
def Sampler.taps (x : Sampler) (u v : Dy) : List (Int × Int × Nat) :=
  if !x.bilinear then [(u.floorShift 0, v.floorShift 0, 65536)]
  else
    let half : Dy := { m := -1, e := -1 }
    let p := Dy.add u half
    let r := Dy.add v half
    let x0 := p.floorShift 0
    let y0 := r.floorShift 0
    let fx := (p.floorShift 8 - 256 * x0).toNat
    let fy := (r.floorShift 8 - 256 * y0).toNat
    [(x0, y0, (256 - fx) * (256 - fy)), (x0 + 1, y0, fx * (256 - fy)), (x0, y0 + 1, (256 - fx) * fy), (x0 + 1, y0 + 1, fx * fy)].filter
      (·.2.2 ≠ 0)

/-- The offset of a texel, none outside the border (R254, R255). -/
def Sampler.texel (x : Sampler) (c r : Int) : Option Nat :=
  match x.coord x.width c, x.coord x.height r with
  | some cx, some cy => some (x.base + cy * x.pitch + cx * (x.fmt.width / 8))
  | _, _ => none

/-- The accesses of a lane: one for each texel in the image, by its place among the taps. -/
def Sampler.accs (x : Sampler) (t : Team) (lane : Nat) (u v : Word) (flush : Bool) : List Acc :=
  match finiteF32 flush u, finiteF32 flush v with
  | some du, some dv =>
    let size := x.fmt.width / 8
    ((x.taps du dv).zipIdx).filterMap fun p =>
      (x.texel p.1.1 p.1.2.1).map fun off => Acc.new lane ((t.pair 62 + off) % 2 ^ 64) size size p.2 []
  | _, _ => []

/-- The terms of a lane's sum that are finite, added exactly. -/
def tapSum : List (Val × Nat) → Dy
  | [] => { m := 0, e := 0 }
  | (.fin n m e, w) :: l => Dy.add { m := signedM n m * w, e := e - 16 } (tapSum l)
  | _ :: l => tapSum l

/-- A lane's result (R255): its code and the sticky bits. `bytes` gives the bytes of tap j. -/
def Sampler.result (x : Sampler) (flush : Bool) (u v : Word) (bytes : Nat → List Byte) : Nat × Nat :=
  match finiteF32 flush u, finiteF32 flush v, fmtOf x.fmt with
  | some du, some dv, some f =>
    let terms : List (Val × Nat) := ((x.taps du dv).zipIdx).map fun p =>
      match x.texel p.1.1 p.1.2.1 with
      | none => (.fin false 0 0, p.1.2.2)
      | some _ => (f.input flush (bytesNat (bytes p.2)), p.1.2.2)
    let vals := terms.map (·.1)
    if anyNan vals then (fmtF32.nan, if anySignalling vals then stInv else 0)
    else if vals.contains (.inf true) && vals.contains (.inf false) then (fmtF32.nan, stInv)
    else if vals.contains (.inf true) then (fmtF32.signed true (fmtF32.maxCode + 1), 0)
    else if vals.contains (.inf false) then (fmtF32.signed false (fmtF32.maxCode + 1), 0)
    else
      let allNegZero := vals.all fun y => match y with
        | .fin n m _ => n && m == 0
        | _ => false
      fmtF32.roundDy .rne (flush && x.bilinear) false allNegZero (tapSum terms)
  | _, _, _ => (fmtF32.nan, stInv)

/-- SMPL (R254, R255): the record is read at issue; the texels follow through the sampler path. -/
def execSmpl (d a b : Sel) (s : State) : Host.Outcome State Fault Refusal :=
  sweepHandle s (fun t _ => [need ((match d, a with | .v r, .v n => t.vOk r 1 && t.vOk n 2 | _, _ => false) && t.scalarSrc b) .illegalOperand])
    b [b] (fun _ => popsOnce [(1, b)]) fun i t q s1 =>
    match d, a with
    | .v r, .v n =>
      withHandle i t s1 false (s1.scalar t b (q 1 0)) .sampler fun va s2 => withRecord i t s2 false va 16 16 fun ws s3 =>
        match samplerOf ws with
        | none => .check .illegalOperand false (s3.setTeam i t)
        | some x => ifActive i t s3 fun s3 =>
          let coords := t.active.map fun l => (l, t.v l n.toNat, t.v l (n.toNat + 1))
          startOp i t s3 false (.sample ws t.flush r.toNat coords)
            ((coords.map fun c => x.accs t c.1 c.2.1 c.2.2 t.flush).flatten) id
    | _, _ => .check .illegalOperand false s1

/-- The results of a sampled load whose texels are here, delivered to the lanes that no fault keeps back. -/
def State.deliverSample (s : State) (o : Nat) (x : Op) : State :=
  match x.kind, x.team with
  | .sample ws flush reg coords, some i =>
    match samplerOf ws with
    | none => s
    | some y =>
      let ready := coords.filter fun c => !(x.refail.any fun a => a.lane == c.1)
      let left := coords.filter fun c => x.refail.any fun a => a.lane == c.1
      let rs := ready.map fun c =>
        (c.1, y.result flush c.2.1 c.2.2 fun j => ((x.accs.find? fun a => a.lane == c.1 && a.reg == j).map (·.data)).getD [])
      let s1 := s.modTeam i fun t =>
        (rs.foldl (fun t r => t.setV r.1 reg (BitVec.ofNat 32 r.2.1)) t).addStatus (orBits rs)
      match s1.op o with
      | none => s1
      | some z => s1.setOp o { z with kind := .sample ws flush reg left }
  | _, _ => s

/-! ## TLLD (R256) -/

/-- TLLD (R256): a lane outside the layout receives 0 and makes no access. -/
def execTlld (d a b : Sel) (s : State) : Host.Outcome State Fault Refusal :=
  sweepHandle s (fun t _ => [need ((match d, a with | .v r, .v n => t.vOk r 1 && t.vOk n 2 | _, _ => false) && t.scalarSrc b) .illegalOperand])
    b [b] (fun _ => popsOnce [(1, b)]) fun i t q s1 =>
    match d, a with
    | .v r, .v n =>
      withTile i t s1 false (s1.scalar t b (q 1 0)) fun y s2 => ifActive i t s2 fun s2 =>
        let at' (l : Nat) : Nat × Nat := ((t.v l n.toNat).toNat, (t.v l (n.toNat + 1)).toNat)
        let inside (l : Nat) : Bool := decide ((at' l).1 < y.rows) && decide ((at' l).2 < y.cols)
        let accs := (t.active.filter inside).map fun l =>
          Acc.new l ((t.pair 62 + y.addr (at' l).1 (at' l).2) % 2 ^ 64) 4 4 r.toNat []
        match startOp i t s2 false (.load .tile false 32 false) accs id with
        | .ok s3 => .ok (s3.modTeam i fun t => (t.active.filter (!inside ·)).foldl (fun t l => t.setV l r.toNat 0) t)
        | res => res
    | _, _ => .check .illegalOperand false s1

/-! ## LOAD_RETURN -/

/-- The words of a scalar load arrive at its registers: one register at once; of SLD2's two, a free choice of them now and the others at the access's next return (R67, R106). -/
def State.arriveWords (s : State) (o k : Nat) (x : Op) (a : Acc) (ws : List Word) (bs : List Byte) : State :=
  if ws.length < 2 then (s.setOp o (x.markDone k)).deliver x a true ws
  else
    let full := 2 ^ ws.length - 1
    let (n, s1) := if a.data.isEmpty then s.choose (full + 1) else (full, s)
    let s2 := s1.deliverSome x a ws (n &&& (full ^^^ a.got))
    if n = full then s2.setOp o (x.markDone k)
    else s2.setOp o { x with accs := x.accs.modify k fun a => { a with got := n, data := bs } }

/-- A load of a path to registers. -/
def OpKind.isLoad : OpKind → Bool
  | .load .. => true
  | _ => false

/-- A read that LOAD_RETURN performs. -/
def OpKind.isRead : OpKind → Bool
  | .load .. => true
  | .sample .. => true
  | _ => false

/-- The accesses that a read of access k serves: its own, or those of every lane where one read does (R253). -/
def Op.servedWith (x : Op) (k : Nat) (a : Acc) : List Nat :=
  if a.tied then (List.range x.accs.length).filter fun j => match x.accs[j]? with
    | some b => !b.done && b.tied
    | none => false
  else [k]

/-- What a returning access does with its bytes: registers, a lane's whole block at once (R134), or the bytes kept for the result. -/
def State.returned (s : State) (o k : Nat) (x : Op) (a : Acc) (bs : List Byte) : State :=
  match x.kind with
  | .load _ true bits sign => s.arriveWords o k x a (loadWords bits sign bs) bs
  | .load _ false bits sign => (s.setOp o (x.markDone k)).deliver x a false (loadWords bits sign bs)
  | .sample .. => s.setOp o { x with accs := x.accs.modify k fun a => { a with done := true, data := bs } }
  | _ => s

/-- The bytes of a read go to each access that it serves. -/
def State.returnAll (s : State) (o : Nat) (bs : List Byte) : List Nat → State
  | [] => s
  | k :: ks =>
    match s.op o with
    | none => s
    | some x =>
      match x.accs[k]? with
      | none => s.returnAll o bs ks
      | some a => (s.returned o k x a bs).returnAll o bs ks

/-- LOAD_RETURN (R67, R134, R231, R248, R253 to R256): access k of a load delivers its bytes. -/
def execLoadReturn (o k : Nat) (s : State) : Host.Outcome State Fault Refusal :=
  match s.op o with
  | none => .next s
  | some x =>
    match x.accs[k]? with
    | none => .next s
    | some a =>
      match x.kind with
      | .pload bits sign =>
        if a.done || a.data.isEmpty then .next s
        else .next ((s.setOp o (x.markDone k)).deliver x a false (loadWords bits sign a.data))
      | _ =>
        if !a.done && !a.data.isEmpty && x.kind.isLoad then .next (s.returned o k x a a.data)
        else if x.kind.isRead && s.loadReady o x k a then
          match a.tr.place with
          | .remote _ =>
            match s.takeReply o k with
            | (none, _) => .next s
            | (some r, s1) =>
              match r.cause with
              | some c => .next (s1.setOp o (x.failAll c (x.servedWith k a)))
              | none => .next (s1.returnAll o (s1.underPosted x a o x.kind.path (r.data.take a.size)) (x.servedWith k a))
          | _ =>
            let (met, s1) := s.readMeets x a x.kind.path
            if met then .next (s1.setOp o (x.failAll .memUncorr (x.servedWith k a)))
            else
              let (bs, s2) := s1.readFor o x a x.kind.path
              .next (s2.returnAll o bs (x.servedWith k a))
        else .next s

/-! ## PFENCE (R232, R257) -/

/-- A path set (R54): at least two of bits [3:0], and no other. -/
def pathSetOk (d : BitVec 8) : Bool := decide (d.toNat < 16) && decide (2 ≤ popCount d.toNat 4)

/-- PFENCE (R257): with the load-store path it needs the posted entries drained; its effect on the caches comes at its completion. -/
def execPfence (d : BitVec 8) (s : State) : Host.Outcome State Fault Refusal :=
  once s (fun _ _ => [need (pathSetOk d) .illegalOperand]) [] fun i t _ s1 =>
    let fl := t.setFlag true
    if t.flagFull fl then .hold (.flagFull (fl.getD 0)) (s1.setTeam i t)
    else
      let go (s : State) : Res := .ok (s.enterOp i t { opOf i t s fl (.pfence d.toNat) with mask := 0 } [])
      if d.toNat.testBit 0 then
        match (s1.setTeam i t).drainAll i with
        | .fault e f s2 => .trap (postedInfo i t e f) s2
        | .wait h s2 => .hold h s2
        | .ok s2 => go s2
      else go (s1.setTeam i t)

/-- The named read-only caches of a core are empty (R232); the bits are those of R54. -/
def State.dropPaths (s : State) (core paths : Nat) : State :=
  { s with lines := s.lines.filter fun x => !(x.dom == core &&
      ((x.path == .const && paths.testBit 1) || (x.path == .sampler && paths.testBit 2) || (x.path == .tile && paths.testBit 3))) }

/-! ## PREF, CFLUSH, CINV (R258) -/

/-- The line-aligned accesses of the lanes of R258. -/
def lineAccs (t : Team) (s : State) (a b : Sel) (q : Nat → Nat → Word) : List Acc :=
  t.active.map fun l =>
    let va := t.vecAddr (s.src t a l (q 0 l)) (s.scalar t b (q 1 0))
    Acc.new l (va - va % 128) 128 1 0 []

/-- Lines brought into the team's L1, as far as they translate. -/
def State.prefetch (s : State) (i : Nat) (t : Team) : List Acc → State
  | [] => s
  | a :: as =>
    match s.translate t.part t.ctx (some t.core) (coreDie t.core) (some i) (some a.lane) a.va .read with
    | (.ok tr, s1) =>
      match tr.place with
      | .mem key =>
        if s1.rangeBad key 128 then s1.prefetch i t as
        else (s1.pathRead (s1.ctxMemKey t.part t.ctx) (!s1.revokes t.part t.ctx (a.va % 2 ^ 57)) (s1.dom t) .loadStore t.acq key tr.pa 128).2.prefetch i t as
      | _ => s1.prefetch i t as
    | (_, s1) => s1.prefetch i t as

/-- PREF (R258): it changes no result. -/
def execPref (a b : Sel) (s : State) : Host.Outcome State Fault Refusal :=
  sweepOn s (fun t _ => [need (t.vectorSrc a && t.scalarSrc b) .illegalOperand]) [a, b] (fun t => t.active) (fun t => popsVS t a b)
    fun i t q s1 => doneOp i t s1 true fun s2 => s2.prefetch i t (lineAccs t s1 a b q)

/-- CFLUSH and CINV (R258). -/
def flushOp (s : State) (a b : Sel) (icache : Bool) : Host.Outcome State Fault Refusal :=
  sweepOn s (fun t _ => [need (t.vectorSrc a && t.scalarSrc b) .illegalOperand]) [a, b] (fun t => t.active) (fun t => popsVS t a b)
    fun i t q s1 => startOp i t s1 true (.flush icache) (lineAccs t s1 a b q) id

/-- CFLUSH (R258). -/
def execCflush (a b : Sel) (s : State) : Host.Outcome State Fault Refusal := flushOp s a b false
/-- CINV (R258). -/
def execCinv (a b : Sel) (s : State) : Host.Outcome State Fault Refusal := flushOp s a b true

/-- Every earlier store of the operation's team to a line has reached its home (R258): of memory, by any address that leads there, or of another device's or a discarded page. -/
def State.lineHome (s : State) (o : Nat) (x : Op) (a : Acc) : Bool :=
  !(s.posted.any fun e => some e.2.team == x.team && decide (e.1 < o) && (overlaps e.2.va e.2.data.length a.va 128 || match e.2.tr.map Tr.place, a.tr.place with
      | some (.mem k), .mem key => overlaps k e.2.data.length key 128
      | _, _ => false))
  && match a.tr.place with
    | .mem key =>
      !(s.stores.any fun w => w.2.team == x.team && decide (w.2.seq < o) && overlaps w.2.key w.2.data.length key 128)
      && !(s.ops.any fun y => y.2.team == x.team && decide (y.1 < o) && y.2.kind.access.writes && y.2.accs.any fun b => !b.done && b.touches key 128)
    | pl => !(s.ops.any fun y => y.2.team == x.team && decide (y.1 < o) && y.2.kind.access.writes
        && y.2.accs.any fun b => !b.done && b.tr.place == pl && overlaps b.va b.size a.va 128)

/-- The lines of a CFLUSH or CINV can be dropped. -/
def State.flushReady (s : State) (o : Nat) (x : Op) : Bool := x.accs.all fun a => s.lineHome o x a

/-- The lines of a named line that the device may hold copies of (R258): the line in memory, the frame under a discarded page, or the text of a page that has none here. -/
def State.flushKeys (s : State) (x : Op) (a : Acc) : List Nat :=
  match a.tr.place with
  | .mem key => [key - key % 128]
  | pl =>
    let far := match textKey pl a.va with
      | some k => [k]
      | none => []
    match (s.stage2 x.part x.ctx (coreDie x.core) x.team a.tr.pa .none).1, pl with
    | .ok y, .zeros => (y.key - y.key % 128) :: far
    | _, _ => far

/-- The instruction-fetch caches of a context without the clauses of some lines. -/
def State.dropText (s : State) (p c : Nat) (ks : List Nat) : State :=
  { s with icache := s.icache.filter fun y => !(y.part == p && y.ctx == c && y.keys.any ks.contains) }

/-- The lines of a CFLUSH leave the team's L1; those of a CINV leave every instruction-fetch cache of the context. Of a line on a discarded or remote page, every copy that the device holds goes (R258). -/
def State.flushLines (s : State) (x : Op) (icache : Bool) : State :=
  x.accs.foldl (fun s a =>
    let ks := s.flushKeys x a
    match a.tr.place with
    | .mem _ => if icache then s.dropText x.part x.ctx ks else ks.foldl (fun s k => s.dropLines x.dom .loadStore k 128) s
    | _ => { s.dropText x.part x.ctx ks with lines := s.lines.filter fun y => !(ks.contains y.key) }) s

end Sys2Proof.Machine
end

