-- ==== Sys2Proof/Machine/Atomics.lean ====
section
/-! DEFINITION. Atomics: returning atomics, reductions and directed forms (R259, R263 to R274), CHUNK (R158), and the steps ATOMIC_PERFORM and DIRECTED_DELIVERY. -/

namespace Sys2Proof.Machine

open Sys2Proof

/-- The families of R263. -/
inductive Family where
  | ret | red | dir
  deriving DecidableEq, Repr

/-- The functions by their numbers in a message between devices (log 96). -/
def atomFns : List AtomFn := [.add, .fadd, .min, .max, .and, .or, .xor, .xchg, .cas, .cas2, .cas4]
/-- The number of a function. -/
def AtomFn.code (fn : AtomFn) : Nat := atomFns.idxOf fn

/-- Bytes of an access of a function under a type (R264). -/
def AtomFn.size (fn : AtomFn) (y : Ty) : Nat :=
  match fn with
  | .cas => 4
  | .cas2 => 8
  | .cas4 => 16
  | _ => y.width / 8

/-- The types of R264. -/
def AtomFn.types (fn : AtomFn) (fam : Family) (y : Ty) : Bool :=
  let int32 := y == .i32 || y == .n32
  let int64 := y == .i64 || y == .n64
  let wide := int64 && fam != .dir
  match fn with
  | .add => int32 || wide
  | .min => int32 || wide
  | .max => int32 || wide
  | .fadd => y == .f32
  | .and => int32 || int64 || y == .b32
  | .or => int32 || int64 || y == .b32
  | .xor => int32 || int64 || y == .b32
  | .xchg => int32 || wide || y == .b32 || y == .f32
  | _ => true

/-- The new value of a word from its old one and a lane's operand bytes (R266, R270, R271): for the compare and swap forms the compare value comes first. -/
def atomApply (fn : AtomFn) (y : Ty) (m : Nat) (data : List Byte) : Nat :=
  let n := 8 * fn.size y
  let b := bytesNat data
  match fn with
  | .add => (m + b) % 2 ^ n
  | .fadd => (fmtF32.add .rne false m b).1
  | .min => if (if y.signed then decide (signedOf n b < signedOf n m) else decide (b < m)) then b else m
  | .max => if (if y.signed then decide (signedOf n m < signedOf n b) else decide (m < b)) then b else m
  | .and => m &&& b
  | .or => m ||| b
  | .xor => m ^^^ b
  | .xchg => b
  | _ => if bytesNat (data.take (fn.size y)) = m then bytesNat (data.drop (fn.size y)) else m

/-- Registers of a compare and swap form. -/
def AtomFn.casWords : AtomFn → Nat
  | .cas => 1
  | .cas2 => 2
  | .cas4 => 4
  | _ => 0

/-- The operands an atomic takes (R259, R263, R264, R271). -/
def atomOperands (t : Team) (fn : AtomFn) (fam : Family) (d a b : Sel) : Bool :=
  let n := fn.casWords
  let y := t.ty
  t.vectorSrc a &&
  if n ≠ 0 then
    match d, b with
    | .v r, .v m => r.toNat % n == 0 && m.toNat % n == 0 && t.vOk r n && t.vOk m n
    | _, _ => false
  else
    t.elemSrc y b &&
    match fam, d with
    | .ret, .v r => if y.wide then r.toNat % 2 == 0 && t.vOk r 2 else t.vOk r 1
    | .ret, .sp .zero => true
    | .ret, _ => false
    | .dir, .v r => t.vOk r 1
    | .dir, _ => false
    | .red, _ => true

/-- The accesses of an atomic start once the posted entries they need have drained (R267, R284). -/
def homeStart (i : Nat) (t : Team) (s : State) (classB : Bool) (kind : OpKind) (accs : List Acc) (acq : Option Nat) : Res :=
  let s0 := s.setTeam i t
  match (if t.releases.isSome then s0.drainAll i else s0.drainOver i (accs.map fun a => (a.va, a.size))) with
  | .fault e f s1 => .trap (postedInfo i t e f) s1
  | .wait h s1 => .hold h s1
  | .ok s1 => startOp i t s1 classB kind accs fun x => { x with acq := acq, rel := t.releases }

/-- An atomic, a reduction or a directed form (R263 to R269). -/
def atomicOp (s : State) (fn : AtomFn) (fam : Family) (d a b : Sel) : Host.Outcome State Fault Refusal :=
  sweep s (fun t _ => [need (atomOperands t fn fam d a b) .illegalOperand, need (fn.types fam t.ty) .illegalOperand]) [(0, a), (1, b)]
    fun i t q s1 =>
      let size := fn.size t.ty
      let dreg := match d with
        | .v r => r.toNat
        | _ => 0
      let data (l : Nat) : List Byte := match b with
        | .v m => if fn.casWords = 0 then natBytes (s1.elem t t.ty b l (q 1 l)) size
          else wordsBytes (t.vs l dreg fn.casWords) ++ wordsBytes (t.vs l m.toNat fn.casWords)
        | _ => natBytes (s1.elem t t.ty b l (q 1 l)) size
      let reg (l : Nat) : Nat := if fam = .dir then (t.v l dreg).toNat else 0
      let dst := match fam, d with
        | .ret, .v r => some r.toNat
        | _, _ => none
      homeStart i t s1 (fam != .ret) (.atomic fn t.ty dst (fam == .dir) (fam == .ret))
        (t.active.map fun l => Acc.new l (t.vecAddr (s1.src t a l (q 0 l)) 0) size size (reg l) (data l))
        (if fam = .ret then t.acqScope else none)

/-- AADD (R270). -/
def execAadd (d a b : Sel) (s : State) : Host.Outcome State Fault Refusal := atomicOp s .add .ret d a b
/-- AFADD (R270). -/
def execAfadd (d a b : Sel) (s : State) : Host.Outcome State Fault Refusal := atomicOp s .fadd .ret d a b
/-- AMIN (R270). -/
def execAmin (d a b : Sel) (s : State) : Host.Outcome State Fault Refusal := atomicOp s .min .ret d a b
/-- AMAX (R270). -/
def execAmax (d a b : Sel) (s : State) : Host.Outcome State Fault Refusal := atomicOp s .max .ret d a b
/-- AAND (R270). -/
def execAand (d a b : Sel) (s : State) : Host.Outcome State Fault Refusal := atomicOp s .and .ret d a b
/-- AOR (R270). -/
def execAor (d a b : Sel) (s : State) : Host.Outcome State Fault Refusal := atomicOp s .or .ret d a b
/-- AXOR (R270). -/
def execAxor (d a b : Sel) (s : State) : Host.Outcome State Fault Refusal := atomicOp s .xor .ret d a b
/-- AXCHG (R270). -/
def execAxchg (d a b : Sel) (s : State) : Host.Outcome State Fault Refusal := atomicOp s .xchg .ret d a b
/-- ACAS (R271). -/
def execAcas (d a b : Sel) (s : State) : Host.Outcome State Fault Refusal := atomicOp s .cas .ret d a b
/-- ACAS2 (R271). -/
def execAcas2 (d a b : Sel) (s : State) : Host.Outcome State Fault Refusal := atomicOp s .cas2 .ret d a b
/-- ACAS4 (R259). -/
def execAcas4 (d a b : Sel) (s : State) : Host.Outcome State Fault Refusal := atomicOp s .cas4 .ret d a b
/-- RDADD (R272). -/
def execRdadd (a b : Sel) (s : State) : Host.Outcome State Fault Refusal := atomicOp s .add .red (.sp .zero) a b
/-- RDFADD (R272). -/
def execRdfadd (a b : Sel) (s : State) : Host.Outcome State Fault Refusal := atomicOp s .fadd .red (.sp .zero) a b
/-- RDMIN (R272). -/
def execRdmin (a b : Sel) (s : State) : Host.Outcome State Fault Refusal := atomicOp s .min .red (.sp .zero) a b
/-- RDMAX (R272). -/
def execRdmax (a b : Sel) (s : State) : Host.Outcome State Fault Refusal := atomicOp s .max .red (.sp .zero) a b
/-- RDAND (R272). -/
def execRdand (a b : Sel) (s : State) : Host.Outcome State Fault Refusal := atomicOp s .and .red (.sp .zero) a b
/-- RDOR (R272). -/
def execRdor (a b : Sel) (s : State) : Host.Outcome State Fault Refusal := atomicOp s .or .red (.sp .zero) a b
/-- RDXOR (R272). -/
def execRdxor (a b : Sel) (s : State) : Host.Outcome State Fault Refusal := atomicOp s .xor .red (.sp .zero) a b
/-- DADD (R273). -/
def execDadd (d a b : Sel) (s : State) : Host.Outcome State Fault Refusal := atomicOp s .add .dir d a b
/-- DFADD (R273). -/
def execDfadd (d a b : Sel) (s : State) : Host.Outcome State Fault Refusal := atomicOp s .fadd .dir d a b
/-- DMIN (R273). -/
def execDmin (d a b : Sel) (s : State) : Host.Outcome State Fault Refusal := atomicOp s .min .dir d a b
/-- DMAX (R273). -/
def execDmax (d a b : Sel) (s : State) : Host.Outcome State Fault Refusal := atomicOp s .max .dir d a b
/-- DXCHG (R273). -/
def execDxchg (d a b : Sel) (s : State) : Host.Outcome State Fault Refusal := atomicOp s .xchg .dir d a b

/-- CHUNK (R158): every active lane draws from the one counter. -/
def execChunk (d a : Sel) (s : State) : Host.Outcome State Fault Refusal :=
  sweep s (fun t _ => [need ((match d with | .v r => t.vOk r 2 | _ => false) && pairOk a) .illegalOperand]) [] fun i t _ s1 =>
    match d, a with
    | .v r, .s n => homeStart i t s1 false (.chunk r.toNat) (t.active.map fun l => Acc.new l (t.pair n) 32 32 0 []) t.acqScope
    | _, _ => .check .illegalOperand false s1

/-! ## Performing (R265) -/

/-- An access at a home that gives its team what it read (R67): an earlier PFENCE of the load-store path keeps it back (R232). -/
def OpKind.observes : OpKind → Bool
  | .atomic _ _ dst dir ret => dst.isSome || dir || ret
  | .chunk _ => true
  | _ => false

/-- An access at the home of an operation may be performed: its team's earlier accesses and writes there are, and so are the plain writes that its L1 already shows (R276); a release has what it covers visible within its scope (R67, R267, R280, R283). -/
def State.homeReady (s : State) (o : Nat) (x : Op) (a : Acc) (key n : Nat) : Bool :=
  !s.blocked x.team o key n && !s.fenced x.team o && !(x.kind.observes && s.pfenced x.team o .loadStore) && !s.aliasPosted x.team o key a.va n
  && !(s.stores.any fun w => ((w.2.team == x.team && decide (w.2.seq < o)) || (w.2.dom == x.dom && w.2.rel == none)) && overlaps w.2.key w.2.data.length key n)
  && (match x.rel with
      | some sc => s.coveredAt sc x.team x.dom o
      | none => true)

/-- The indices of the accesses that one request carries (R265): those of a pass to one address, in lane order. -/
def Op.group (x : Op) (k : Nat) : List Nat :=
  match x.accs[k]? with
  | none => []
  | some a => (List.range x.accs.length).filter fun j => match x.accs[j]? with
    | some b => !b.done && b.tr.place == a.tr.place && b.lane / 32 == a.lane / 32
    | none => false

/-- An earlier pass of the operation has an access to the address that is not performed (R265). -/
def Op.earlierPass (x : Op) (a : Acc) : Bool :=
  x.accs.any fun b => !b.done && b.tr.place == a.tr.place && decide (b.lane / 32 < a.lane / 32)

/-- An old value delivered: to the lane's register, towards its recipient, or nowhere (R265, R273). DESIGN CHOICE: the registers of one request's lanes are written together (log 119). -/
def State.deliverOld (s : State) (o k : Nat) (x : Op) (a : Acc) (dst : Option Nat) (dir : Bool) (old : List Byte) : State :=
  if dir then
    match x.team with
    | none => s
    | some i =>
      match s.team i with
      | none => s
      | some t => s.setOp o { x with accs := x.accs.modify k fun a =>
          { a with data := old, tr := { a.tr with place := .scratch t.cluster (scratchKey a.reg) } } }
  else
    let s1 := s.setOp o (x.markDone k)
    match dst with
    | none => s1
    | some r => s1.deliver x { a with reg := r } false (bytesWords (ceilDiv old.length 4) old)

/-- The lanes of one request, one at a time in lane order, on the value m of the word (R265). -/
def State.atomLanes (s : State) (o : Nat) (fn : AtomFn) (y : Ty) (dst : Option Nat) (dir : Bool) (m : Nat) : List Nat → State × Nat
  | [] => (s, m)
  | k :: ks =>
    match s.op o with
    | none => (s, m)
    | some x =>
      match x.accs[k]? with
      | none => s.atomLanes o fn y dst dir m ks
      | some a => (s.deliverOld o k x a dst dir (natBytes m (fn.size y))).atomLanes o fn y dst dir (atomApply fn y m a.data) ks

/-- One lane's draw from a chunk counter (R158): start and count, and the counter after it. -/
def chunkDraw (remaining next cmin cmax p : Nat) : Nat × Nat :=
  let lo := max cmin 1
  let n := min remaining (max lo (min cmax (remaining / (2 * max p 1))))
  (n, next)

/-- The draws of the lanes in pass order: the state with registers written, and the counter's remaining and next. -/
def State.chunkLanes (s : State) (o reg rem next cmin cmax p : Nat) : List Nat → State × Nat × Nat
  | [] => (s, rem, next)
  | k :: ks =>
    match s.op o with
    | none => (s, rem, next)
    | some x =>
      match x.accs[k]? with
      | none => s.chunkLanes o reg rem next cmin cmax p ks
      | some a =>
        let n := (chunkDraw rem next cmin cmax p).1
        let s1 := (s.setOp o (x.markDone k)).deliver x { a with reg := reg } false [BitVec.ofNat 32 next, BitVec.ofNat 32 n]
        s1.chunkLanes o reg (rem - n) ((next + n) % 2 ^ 32) cmin cmax p ks

/-- The request of access k at its home (R265): the word read, every lane of the request acting on it, the result written; every access drops the issuing core's L1 copy. -/
def State.atomicAt (s : State) (o k : Nat) (x : Op) (a : Acc) (key : Nat) : State :=
  let mk := s.ctxMemKey x.part x.ctx
  match x.kind with
  | .atomic fn y dst dir _ =>
    let g := x.group k
    if s.rangeBad key a.size then s.setOp o (x.failAll .memUncorr g)
    else
      let (s1, m) := s.atomLanes o fn y dst dir (bytesNat (s.homeBytes mk key a.size)) g
      (s1.homeWrite mk key (natBytes m a.size)).dropLines x.dom .loadStore key a.size
  | .chunk reg =>
    let g := (List.range x.accs.length).filter fun j => !(((x.accs[j]?).map (·.done)).getD true)
    if s.rangeBad key 32 then s.setOp o (x.failAll .memUncorr g)
    else
      let w (j : Nat) : Nat := bytesNat (s.homeBytes mk (key + 4 * j) 4)
      let (s1, rem, next) := s.chunkLanes o reg (w 0) (w 1) (w 2) (w 3) (w 4) g
      (s1.homeWrite mk key (natBytes rem 4 ++ natBytes next 4)).dropLines x.dom .loadStore key 32
  | _ => s

/-- The operations that ATOMIC_PERFORM performs. -/
def OpKind.atHome : OpKind → Bool
  | .atomic .. => true
  | .chunk _ => true
  | _ => false

/-- ATOMIC_PERFORM (R158, R265): the request of access k is performed at its home, or the reply of another device is taken. -/
def execAtomicPerform (o k : Nat) (s : State) : Host.Outcome State Fault Refusal :=
  match s.op o with
  | none => .next s
  | some x =>
    match x.accs[k]? with
    | none => .next s
    | some a =>
      if a.done || x.unsent k || x.earlierPass a || !x.kind.atHome then .next s
      else
        match a.tr.place with
        | .mem key => if s.homeReady o x a key a.size then .next (s.atomicAt o k x a key) else .next s
        | .remote _ =>
          match s.takeReply o k, x.kind with
          | (some r, s1), .atomic _ _ dst dir _ =>
            match r.cause with
            | some c => .next (s1.setOp o (x.failLane k a c))
            | none => .next (s1.deliverOld o k x a dst dir (r.data.take a.size))
          | _, _ => .next s
        | _ => .next s

/-- The first old value that can be delivered to its recipient: nothing of a lower lane to the same word waits, and its line is present (R217, R273, R274). DESIGN CHOICE: of several, that of the lowest lane goes first (log 120). -/
def State.deliverable (s : State) (x : Op) : Option Nat :=
  (List.range x.accs.length).find? fun k => match x.accs[k]? with
    | none => false
    | some a =>
      match a.tr.place with
      | .scratch cl key =>
        !a.done && !(x.accs.any fun b => !b.done && b.reg == a.reg && decide (b.lane < a.lane))
          && (match s.cluster cl with
              | some c => c.present key
              | none => false)
      | _ => false

/-- DIRECTED_DELIVERY (R273, R274): one lane's old value written at its recipient, and its arrival at the tack behind it. -/
def execDirectedDelivery (o : Nat) (s : State) : Host.Outcome State Fault Refusal :=
  match s.op o with
  | none => .next s
  | some x =>
    match x.kind, s.deliverable x with
    | .atomic _ _ _ true _, some k =>
      match x.accs[k]? with
      | none => .next s
      | some a =>
        match a.tr.place with
        | .scratch cl key =>
          .next (((s.setOp o (x.markDone k)).scratchWrite cl key (a.data.take 4)).arrive cl (key + 4))
        | _ => .next s
    | _, _ => .next s

end Sys2Proof.Machine
end

