-- ==== Sys2Proof/Machine/Queues.lean ====
section
/-! DEFINITION. Queues: hardware work queues, their sub-rings and steal order (R138 to R142), ENQ, DEQ, DEQTRY, QLEN, RFSRC and refills (R14, R17, R143 to R148). -/

namespace Sys2Proof.Machine

open Sys2Proof

/-! ## Virtual dies (R324, R325) -/

/-- The physical die bound to a virtual die of a context. -/
def State.physDie (s : State) (p c v : Nat) : Option Nat := (s.ctx p c).vdmap[v]?

/-- The distance of two virtual dies on the physical grid (R325); none where one is not bound. -/
def State.hops (s : State) (p c u v : Nat) : Option Nat :=
  match s.physDie p c u, s.physDie p c v with
  | some a, some b =>
    let d (x y : Nat) : Nat := if x ≤ y then y - x else x - y
    some (d (a / 4) (b / 4) + d (a % 4) (b % 4))
  | _, _ => none

/-! ## Queues -/

/-- The number under which queue n of a partition is kept. -/
def queueKey (p n : Nat) : Nat := p * 4096 + n

/-- A queue that no descriptor write has touched (R140). -/
def Queue.fresh : Queue := { base := 0, depth := 0, radius := 15, prio := 0, en := false, rings := [] }

/-- A queue. -/
def State.queue (s : State) (k : Nat) : Queue := cellGet Queue.fresh s.queues k
/-- The state with a queue replaced. -/
def State.setQueue (s : State) (k : Nat) (q : Queue) : State := { s with queues := cellPut s.queues k q }

/-- A sub-ring of a queue (R139). -/
def Queue.ring (q : Queue) (v : Nat) : SubRing := cellGet { head := 0, tail := 0, published := [] } q.rings v
/-- The queue with a sub-ring replaced. -/
def Queue.setRing (q : Queue) (v : Nat) (r : SubRing) : Queue := { q with rings := cellPut q.rings v r }
/-- Records a sub-ring holds, D. -/
def Queue.cap (q : Queue) : Nat := q.depth + 1

/-- The address of slot s of sub-ring v (R139). -/
def Queue.recAddr (q : Queue) (v s : Nat) : Nat := (q.base + (v * q.cap + s % q.cap) * 32) % 2 ^ 64

/-- The queue that an operation dequeues from. -/
def OpKind.dequeues : OpKind → Option Nat
  | .deq k _ _ _ => some k
  | _ => none

/-- Slots of a sub-ring that a dequeue has claimed and not read: a slot whose read faulted keeps its record until the replay has read it (R139, R144). -/
def State.unread (s : State) (k v : Nat) : List Nat :=
  (s.ops.map fun x =>
    if x.2.kind.dequeues = some k then ((x.2.accs.filter fun a => !a.done) ++ x.2.refail).filterMap fun a => if a.aux = v then some a.reg else none
    else []).flatten

/-- The least number of a list, or d. -/
def listMin (d : Nat) (l : List Nat) : Nat := l.foldl min d

/-- A sub-ring has room: its next slot holds no record (R139). -/
def State.roomIn (s : State) (k v : Nat) : Bool :=
  let r := (s.queue k).ring v
  decide (r.tail < (s.queue k).cap + listMin r.head (s.unread k v))

/-- Records claimed and not yet dequeued in sub-ring v (R140, R148). -/
def State.heldIn (s : State) (k v : Nat) : Nat :=
  let r := (s.queue k).ring v
  r.tail - r.head + (s.unread k v).length

/-- Records held in all sub-rings. -/
def State.held (s : State) (k : Nat) : Nat := (List.range 8).foldl (fun n v => n + s.heldIn k v) 0

/-- The steal order of a queue from virtual die u (R142): u first, then ascending hops, ties by the lower die. -/
def State.stealOrder (s : State) (p c k u : Nat) : List Nat :=
  let r := (s.queue k).radius
  ((List.range 5).map fun h =>
    if r < 5 ∧ r < h then []
    else (List.range (s.ctx p c).vdmap.length).filter fun v => s.hops p c u v == some h).flatten

/-- A block of a context's fault records, another than x's, has entered a queue in part: no other record enters it (R326). -/
def State.blockOpen (s : State) (x k : Nat) : Bool := s.ctxs.any fun y => y.1 != x && y.2.ownOpen == some k

/-- A block of fault records of any context has entered a queue in part (R326). -/
def State.blockIn (s : State) (k : Nat) : Bool := s.ctxs.any fun y => y.2.ownOpen == some k

/-- The first sub-ring of the steal order with room, where no block of fault records is entering the queue. -/
def State.firstRoom (s : State) (p c k u : Nat) : Option Nat := if s.blockIn k then none else (s.stealOrder p c k u).find? fun v => s.roomIn k v
/-- The first sub-ring of the steal order that is not empty. -/
def State.firstRecord (s : State) (p c k u : Nat) : Option Nat :=
  (s.stealOrder p c k u).find? fun v => decide (((s.queue k).ring v).head < ((s.queue k).ring v).tail)

/-- A slot claimed at the tail of a sub-ring. -/
def State.claimTail (s : State) (k v : Nat) : Nat × State :=
  let q := s.queue k
  let r := q.ring v
  (r.tail, s.setQueue k (q.setRing v { r with tail := r.tail + 1 }))

/-- The record at the head of a sub-ring claimed. -/
def State.claimHead (s : State) (k v : Nat) : Nat × State :=
  let q := s.queue k
  let r := q.ring v
  (r.head, s.setQueue k (q.setRing v { r with head := r.head + 1 }))

/-- A slot's record is published. -/
def State.publish (s : State) (k v slot : Nat) : State :=
  let q := s.queue k
  let r := q.ring v
  s.setQueue k (q.setRing v { r with published := r.published ++ [slot] })

/-- A slot's record has been read. -/
def State.unpublish (s : State) (k v slot : Nat) : State :=
  let q := s.queue k
  let r := q.ring v
  s.setQueue k (q.setRing v { r with published := r.published.filter (· != slot) })

/-- A queue number that the partition has (R138). -/
def State.queueOk (s : State) (p n : Nat) : Bool := decide (n < 1024 * (s.quarters p).length)

/-- The rest of an instruction with a queue's handle resolved. -/
def withQueue (i : Nat) (t : Team) (s : State) (single : Bool) (h : Word) (k : Nat → State → Res) : Res :=
  withHandle i t s single h .queue fun n s1 =>
    if s1.queueOk t.part n then k (queueKey t.part n) s1 else .check .staleHandle single (s1.setTeam i t)

/-- The same for an instruction that executes once and names a queue: a disabled one is QUEUE_HANDLE (R141). -/
def withQueueOn (i : Nat) (t : Team) (s : State) (single : Bool) (h : Word) (k : Nat → State → Res) : Res :=
  withQueue i t s single h fun q s1 => if (s1.queue q).en then k q s1 else .check .queueHandle single (s1.setTeam i t)

/-- Every active lane faults at an instruction that names a disabled queue (R141). -/
def queueOff (i : Nat) (t : Team) (s : State) : Res :=
  .trap (lanesInfo i t t.pc.toNat false (t.active.map fun l => plainFault l 0 .queueHandle) .whole) (s.setTeam i t)

/-- A queue handle's source and a block of eight registers. -/
def recordBlock (t : Team) (d : Sel) : Bool :=
  match d with
  | .v r => t.vOk r 8
  | _ => false

/-! ## ENQ -/

/-- Slots claimed for the lanes in pass order, as far as there is room; lanes that already hold a claim keep it (R143). -/
def State.claimSlots (s : State) (p c k u : Nat) (got : List (Nat × Nat × Nat)) : List Nat → List (Nat × Nat × Nat) × Bool × State
  | [] => (got, true, s)
  | l :: ls =>
    if got.any fun g => g.1 == l then s.claimSlots p c k u got ls
    else
      match s.firstRoom p c k u with
      | none => (got, false, s)
      | some v =>
        let (slot, s1) := s.claimTail k v
        s1.claimSlots p c k u (got ++ [(l, v, slot)]) ls

/-- What a release needs at issue: the posted entries drained (R284). -/
def withRelease (i : Nat) (t : Team) (s : State) (k : State → Res) : Res :=
  if t.releases.isSome then
    match (s.setTeam i t).drainAll i with
    | .fault e f s1 => .trap (postedInfo i t e f) s1
    | .wait h s1 => .hold h s1
    | .ok s1 => k s1
  else k (s.setTeam i t)

/-- ENQ (R143, R144): it claims while it issues; the records are written by ENQ_PUBLISH. -/
def execEnq (d a : Sel) (s : State) : Host.Outcome State Fault Refusal :=
  sweepHandle s (fun t _ => [need (recordBlock t d && t.scalarSrc a) .illegalOperand]) a [a] (fun _ => popsOnce [(0, a)]) fun i t q s1 =>
    withQueue i t s1 false (s1.scalar t a (q 0 0)) fun k s2 => ifActive i t s2 fun s3 =>
      let fl := t.setFlag true
      if !(s3.queue k).en && t.claimed.isEmpty then queueOff i t s3
      else if t.flagFull fl then .hold (.flagFull (fl.getD 0)) (s3.setTeam i t)
      else withRelease i t s3 fun s4 =>
        match s4.claimSlots t.part t.ctx k t.vdie t.claimed t.active with
        | (got, false, s5) => .hold (.queueRoom k) (s5.setTeam i { t with claimed := got })
        | (got, true, s5) =>
          let r := match d with
            | .v r => r.toNat
            | _ => 0
          let accs := got.map fun g =>
            { Acc.new g.1 ((s5.queue k).recAddr g.2.1 g.2.2) 32 32 g.2.2 (wordsBytes (t.vs g.1 r 8)) with aux := g.2.1 }
          .ok (s5.enterOp i t { opOf i t s5 fl (.enq k) with accs := accs, rel := t.releases } [])

/-- A record written into its slot by the device, on another device's page too (R139, R143, R345): where it cannot, the cause. -/
def State.writeRecord (s : State) (p c die va : Nat) (bs : List Byte) : Got Unit :=
  s.agentPut p c die none va bs [(va, 32)]

/-- ENQ_PUBLISH (R143, R144): the next record of an enqueue is written and published, after the release where there is one. -/
def execEnqPublish (o : Nat) (s : State) : Host.Outcome State Fault Refusal :=
  match s.op o with
  | none => .next s
  | some x =>
    match x.kind, (List.range x.accs.length).find? fun k => ((x.accs[k]?).map (!·.done)).getD false with
    | .enq q, some k =>
      match x.accs[k]? with
      | none => .next s
      | some a =>
        if x.mig || s.writeHeld o x then .next s
        else
          match s.writeRecord x.part x.ctx (coreDie x.core) a.va a.data with
          | .hold h s1 => .next (s1.holdOp o h)
          | .fault f s1 =>
            let y := x.markDone k
            .next (s1.setOp o { y with failed := y.failed ++ [{ f with lane := a.lane }], refail := insertLane a y.refail })
          | .ok _ s1 => .next ((s1.setOp o (x.markDone k)).publish q a.aux a.reg)
    | _, _ => .next s

/-! ## DEQ, DEQTRY -/

/-- The access of a record claimed for a lane. -/
def claimAcc (q : Queue) (lane v slot : Nat) : Acc := { Acc.new lane (q.recAddr v slot) 32 32 slot [] with aux := v }

/-- Records claimed for lanes in pass order until none is left (R146). -/
def State.claimRecords (s : State) (p c k u : Nat) : List Nat → List Acc × State
  | [] => ([], s)
  | l :: ls =>
    match s.firstRecord p c k u with
    | none => ([], s)
    | some v =>
      let (slot, s1) := s.claimHead k v
      let (as, s2) := s1.claimRecords p c k u ls
      (claimAcc (s.queue k) l v slot :: as, s2)

/-- The next lane of a DEQ or of a refill claims its record, once every earlier lane holds its own (R145, R147). A refill that finds none left takes no more (R17). -/
def State.claimNext (s : State) (o : Nat) (x : Op) : State :=
  match x.kind, x.team with
  | .deq k r (l :: ls) refill, some i =>
    match s.team i with
    | none => s
    | some t =>
      if x.allDone && x.failed.isEmpty && x.refail.isEmpty then
        match (if (s.queue k).en then s.firstRecord t.part t.ctx k t.vdie else none) with
        | none => if refill then s.setOp o { x with kind := .deq k r [] refill } else s
        | some v =>
          let (slot, s1) := s.claimHead k v
          s1.setOp o { x with kind := .deq k r ls refill, accs := x.accs ++ [claimAcc (s.queue k) l v slot] }
      else s
  | _, _ => s

/-- A dequeue's or refill's next lane can claim, or a refill can end (R17, R145). -/
def State.claimDue (s : State) (t : Team) (x : Op) : Bool :=
  match x.kind with
  | .deq k _ (_ :: _) refill =>
    x.allDone && x.failed.isEmpty && x.refail.isEmpty && (refill || ((s.queue k).en && (s.firstRecord t.part t.ctx k t.vdie).isSome))
  | _ => false

/-- DEQ (R145): the team issues nothing further until every active lane holds a record. -/
def execDeq (d a : Sel) (s : State) : Host.Outcome State Fault Refusal :=
  sweepHandle s (fun t _ => [need (recordBlock t d && t.scalarSrc a) .illegalOperand]) a [a] (fun _ => popsOnce [(0, a)]) fun i t q s1 =>
    withQueue i t s1 false (s1.scalar t a (q 0 0)) fun k s2 => ifActive i t s2 fun s3 =>
      if !(s3.queue k).en then queueOff i t s3
      else
        let r := match d with
          | .v r => r.toNat
          | _ => 0
        let o := s3.stamp
        let x := { opOf i t s3 none (.deq k r t.active false) with acq := t.acqScope }
        let s4 := s3.enterOp i t x []
        .ok ((s4.modTeam i fun t => { t with hold := some (.opDone o) }).claimNext o { x with units := [] })

/-- DEQTRY (R146): it never holds; the result mask is written at issue. -/
def execDeqtry (d a b : Sel) (s : State) : Host.Outcome State Fault Refusal :=
  sweepHandle s (fun t _ => [need (recordBlock t d && t.scalarSrc a && (match b with | .m _ => true | _ => false)) .illegalOperand]) a [a]
    (fun _ => popsOnce [(0, a)]) fun i t q s1 =>
    withQueue i t s1 false (s1.scalar t a (q 0 0)) fun k s2 => ifActive i t s2 fun s3 =>
      let fl := t.setFlag false
      if !(s3.queue k).en then queueOff i t s3
      else if t.flagFull fl then .hold (.flagFull (fl.getD 0)) (s3.setTeam i t)
      else
        let r := match d with
          | .v r => r.toNat
          | _ => 0
        let (as, s4) := s3.claimRecords t.part t.ctx k t.vdie t.active
        let t1 := match b with
          | .m n => t.setM n ((t.m n &&& ~~~t.eff) ||| maskOf (as.map (·.lane)))
          | _ => t
        .ok (s4.enterOp i t1 { opOf i t s4 fl (.deq k r [] false) with accs := as, acq := t.acqScope } [])

/-- QLEN (R148). -/
def execQlen (d a b : Sel) (s : State) : Host.Outcome State Fault Refusal :=
  onceAfter s (fun t _ => [need (scalarDst d && t.scalarSrc a && t.scalarSrc b) .illegalOperand, t.pushCheck d]) [(0, a), (1, b)]
    (fun i t s1 => if isQ a then .ok s1 else withQueue i t s1 true (s1.scalar t a 0) fun _ s2 => .ok s2) fun i t q s1 =>
    withQueue i t s1 true (s1.scalar t a (q 0)) fun k s2 =>
      let v := s2.scalar t b (q 1)
      let n := if v = 0xFFFFFFFF then s2.held k
        else if v.toNat < (s2.ctx t.part t.ctx).vdmap.length then s2.heldIn k v.toNat else 0
      putScalar i t s2 d (BitVec.ofNat 32 n)

/-- RFSRC (R14): A is a scalar register; a value of 0 clears the source. A wave has none (R302). -/
def execRfsrc (d a : Sel) (s : State) : Host.Outcome State Fault Refusal :=
  once s (fun t _ => [need (recordBlock t d && isS a && t.wave.isNone) .illegalOperand]) [] fun i t _ s1 =>
    let h := s1.scalar t a 0
    let r := match d with
      | .v r => r.toNat
      | _ => 0
    if h = 0 then .ok (s1.setTeam i { t with refill := none })
    else withQueueOn i t s1 true h fun k s2 => .ok (s2.setTeam i { t with refill := some (k, r) })

/-! ## Delivery -/

/-- The first claimed record that is published and not delivered. -/
def State.deliverableRecord (s : State) (q : Nat) (x : Op) : Option Nat :=
  (List.range x.accs.length).find? fun k => match x.accs[k]? with
    | some a => !a.done && ((s.queue q).ring a.aux).published.contains a.reg
    | none => false

/-- A lane that a refill has filled joins the live set and M0 (R17). -/
def Team.addLive (t : Team) (lane : Nat) : Team :=
  let t1 := { t with live := t.live ||| (1#1024 <<< lane) }
  t1.setM 0 (t1.m 0 ||| (1#1024 <<< lane))

/-- Eight words of a record written into a lane's block (R17, R145). -/
def State.giveRecord (s : State) (o : Nat) (x : Op) (k r : Nat) (a : Acc) (refill : Bool) (bs : List Byte) : State :=
  let s1 := s.setOp o (x.markDone k)
  match x.team with
  | none => s1
  | some i => s1.modTeam i fun t =>
      let t1 := t.setVs a.lane r (bytesWords 8 bs)
      if refill then t1.addLive a.lane else t1

/-- RECORD_DELIVERY (R17, R145, R147): a claimed record that has been published is read from its slot and delivered. -/
def execRecordDelivery (o : Nat) (s : State) : Host.Outcome State Fault Refusal :=
  match s.op o with
  | none => .next s
  | some x =>
    match x.kind with
    | .deq q r _ refill =>
      match s.deliverableRecord q x with
      | none => .next s
      | some k =>
        match x.accs[k]? with
        | none => .next s
        | some a => if x.mig || s.acquires x.team o then .next s else
          match s.agentRead x.part x.ctx (coreDie x.core) a.va 32 with
          | .hold h s1 => .next (s1.holdOp o h)
          | .fault f s1 =>
            let y := x.markDone k
            .next (s1.setOp o { y with failed := y.failed ++ [{ f with lane := a.lane }], refail := insertLane a y.refail })
          | .ok bs s1 => .next ((s1.forget.giveRecord o x k r a refill bs).unpublish q a.aux a.reg)
    | _ => .next s

/-- DEQ_RESUME (R145): a DEQ whose next lane found nothing claims a record that a reachable sub-ring has gained; only a placed team claims (R162). -/
def execDeqResume (t : Nat) (s : State) : Host.Outcome State Fault Refusal :=
  match s.team t with
  | none => .next s
  | some x =>
    match x.hold with
    | some (.opDone o) =>
      match s.op o with
      | some y => if x.place = .placed ∧ !x.halted ∧ x.trap = none then .next (s.claimNext o y) else .next s
      | none => .next s
    | _ => .next s

end Sys2Proof.Machine
end

