-- ==== Sys2Proof/Machine/Knots.lean ====
section
/-! DEFINITION. Knots: dependency counts, their firings and the launches that wait on them (R21, R149 to R154), and the completion of grids (R73, R77). -/

namespace Sys2Proof.Machine

open Sys2Proof

/-- The number under which knot n of a partition is kept. -/
def knotKey (p n : Nat) : Nat := p * 2 ^ 20 + n
/-- A knot that nothing has touched (log 11). -/
def Knot.fresh : Knot := { count := 0, record := 0, queue := none, firing := [] }
/-- A knot. -/
def State.knot (s : State) (k : Nat) : Knot := cellGet Knot.fresh s.knots k
/-- The state with a knot replaced. -/
def State.setKnot (s : State) (k : Nat) (x : Knot) : State := { s with knots := cellPut s.knots k x }
/-- A knot number that the partition has (R149). -/
def State.knotOk (s : State) (p n : Nat) : Bool := decide (n < 65536 * (s.quarters p).length)

/-- The rest of an instruction with a knot's handle resolved. -/
def withKnot (i : Nat) (t : Team) (s : State) (single : Bool) (h : Word) (k : Nat → State → Res) : Res :=
  withHandle i t s single h .knot fun n s1 =>
    if s1.knotOk t.part n then k (knotKey t.part n) s1 else .check .staleHandle single (s1.setTeam i t)

/-- The check of a knot's handle that stands in no queue register (R55). -/
def preKnot (a : Sel) (single : Bool) (i : Nat) (t : Team) (s : State) : Res :=
  if isQ a then .ok s else withKnot i t s single (s.scalar t a 0) fun _ s1 => .ok s1

/-! ## Instructions -/

/-- The check of a queue's handle, or 0, that stands in no queue register. -/
def preQueue (d : Sel) (i : Nat) (t : Team) (s : State) : Res :=
  if isQ d || s.scalar t d 0 == 0 then .ok s else withQueueOn i t s true (s.scalar t d 0) fun _ s1 => .ok s1

/-- The alignment of the record that a pair addresses (R154). -/
def preAlign (b : Sel) (i : Nat) (t : Team) (s : State) : Res :=
  match b with
  | .s n => if t.pair n % 32 = 0 then .ok s else .check .align true (s.setTeam i t)
  | _ => .ok s

/-- KNOTINIT (R151). -/
def execKnotinit (a b : Sel) (s : State) : Host.Outcome State Fault Refusal :=
  onceAfter s (fun t _ => [need (t.scalarSrc a && t.scalarSrc b) .illegalOperand]) [(0, a), (1, b)] (preKnot a true) fun i t q s1 =>
    withKnot i t s1 true (s1.scalar t a (q 0)) fun k s2 =>
      let fl := t.setFlag true
      if t.flagFull fl then .hold (.flagFull (fl.getD 0)) (s2.setTeam i t)
      else withRelease i t s2 fun s3 =>
        .ok (s3.enterOp i t { opOf i t s3 fl (.knot 0 k t.vdie (s3.scalar t a (q 0)).toNat) with
          accs := [{ Acc.new 0 0 0 1 0 [] with aux := (s3.scalar t b (q 1)).toNat }], rel := t.releases, mask := 0 } [])

/-- KNOTADD and KNOTDEC (R21, R151): one operation for each active lane, in pass order. -/
def knotOp (s : State) (a b : Sel) (fn : Nat) : Host.Outcome State Fault Refusal :=
  sweepHandle s (fun t _ => [need (t.scalarSrc a && t.vectorSrc b) .illegalOperand]) a [a, b]
    (fun t => popsOnce [(0, a)] ++ popsLanes t.active [(1, b)]) (pre := preKnot a false) fun i t q s1 =>
    withKnot i t s1 false (s1.scalar t a (q 0 0)) fun k s2 => ifActive i t s2 fun s3 =>
      let fl := t.setFlag true
      if t.flagFull fl then .hold (.flagFull (fl.getD 0)) (s3.setTeam i t)
      else withRelease i t s3 fun s4 =>
        let accs := t.active.map fun l => { Acc.new l 0 0 1 0 [] with aux := (s4.src t b l (q 1 l)).toNat }
        .ok (s4.enterOp i t { opOf i t s4 fl (.knot fn k t.vdie (s4.scalar t a (q 0 0)).toNat) with accs := accs, rel := t.releases } [])

/-- KNOTADD (R151). -/
def execKnotadd (a b : Sel) (s : State) : Host.Outcome State Fault Refusal := knotOp s a b 1
/-- KNOTDEC (R151). -/
def execKnotdec (a b : Sel) (s : State) : Host.Outcome State Fault Refusal := knotOp s a b 2

/-- KNOTBIND (R154). -/
def execKnotbind (d a b : Sel) (s : State) : Host.Outcome State Fault Refusal :=
  onceAfter s (fun t _ => [need (t.scalarSrc d && t.scalarSrc a && pairOk b) .illegalOperand]) [(0, a), (2, d)]
    (fun i t s1 => (preKnot a true i t s1).andThen fun s2 => (preQueue d i t s2).andThen fun s3 => preAlign b i t s3) fun i t q s1 =>
    withKnot i t s1 true (s1.scalar t a (q 0)) fun k s2 =>
      let go (qk : Option Nat) (s : State) : Res :=
        match b with
        | .s n =>
          let fl := t.setFlag true
          if t.pair n % 32 ≠ 0 then .check .align true (s.setTeam i t)
          else if t.flagFull fl then .hold (.flagFull (fl.getD 0)) (s.setTeam i t)
          else withRelease i t s fun s3 =>
            .ok (s3.enterOp i t { opOf i t s3 fl (.knotbind k (t.pair n) qk) with accs := [Acc.new 0 0 0 1 0 []], rel := t.releases, mask := 0 } [])
        | _ => .check .illegalOperand true (s.setTeam i t)
      let h := s2.scalar t d (q 2)
      if h = 0 then go none s2 else withQueueOn i t s2 true h fun qk s3 => go (some qk) s3

/-! ## Firing (R150, R152, R153) -/

/-- A fault of the context that no team takes (R153, R246, R360): no pc, no mask. -/
def contextInfo (p c obj code vdie : Nat) (f : LaneFault) (redo : Redo) : TrapInfo :=
  { part := p, ctx := c, team := none, wave := false, pc := 0, scalar := false, posted := false, code := code, obj := obj, vdie := vdie,
    cause := f.cause, unfinished := 0, faults := [{ f with lane := 0 }], redo := redo }

/-- A fault of the owner's ring (R389): a scalar owner part with fo.pc 0, and the ring stops. -/
def State.ringTrap (s : State) (p c : Nat) (f : LaneFault) (redo : Redo) : State :=
  let x := s.ctx p c
  let s1 := s.setCtx p c { x with ring := { x.ring with stopped := true } }
  (if f.cause = .rights then s1.count p c 0x100 else s1).takeTrap { contextInfo p c 0 0 0 f redo with scalar := true }

/-- A firing that meets a fault (R152, R153, R389): the knot holds fire pending; the lane whose operation fired it takes it, or the ring whose command did, or the context where no team is left to. -/
def State.fireFault (s : State) (k : Nat) (f : Firing) (rest : List Firing) (x : LaneFault) : State :=
  let s1 := s.setKnot k { s.knot k with firing := { f with held := true } :: rest }
  let ctx := s1.takeTrap (contextInfo f.part f.ctx f.obj 0 f.vdie x (.firing k))
  match f.who with
  | some (.lane i pc lane) =>
    if (s1.team i).isNone then ctx
    else s1.modTeam i fun t => { t with pend := t.pend ++ [{ pc := pc, scalar := false, faults := [{ x with lane := lane }], mask := 0, redo := .firing k }] }
  | some .ring => s1.ringTrap f.part f.ctx x (.firing k)
  | none => ctx

/-- The operation that fired the knot, or the ring, waits no more for it (R151, R153). -/
def State.fireReleases (s : State) (f : Firing) : State :=
  match f.op with
  | none => s
  | some .ring =>
    let x := s.ctx f.part f.ctx
    s.setCtx f.part f.ctx { x with ring := { x.ring with fires := some false } }
  | some (.lane o lane) =>
    match s.op o with
    | none => s
    | some x => s.setOp o { x with accs := x.accs.map fun a => if a.lane = lane then { a with done := true } else a }

/-- The team of a firing that finds its queue full holds (R143, R153); the ring waits as it is. -/
def State.fireHolds (s : State) (f : Firing) : State :=
  match f.op with
  | none => s
  | some .ring => s
  | some (.lane o _) =>
    match (s.op o).bind (·.team) with
    | none => s
    | some i => s.modTeam i fun t => if t.hold = none then { t with hold := some (.opDone o) } else t

/-- The physical die from which a firing acts. -/
def State.fireDie (s : State) (f : Firing) : Nat := (s.physDie f.part f.ctx f.vdie).getD 0

/-- Steps 1 and 2 of R150 for the first pending firing of a knot, as far as they go: the record read, a slot claimed, which is all that the operation that fired it waits for (R151), the record written and published. -/
def State.fireHead (s : State) (k : Nat) : State :=
  match (s.knot k).firing with
  | [] => s
  | f :: rest =>
    if f.held || f.mig then s
    else
      let keep (g : Firing) (s : State) : State := s.setKnot k { s.knot k with firing := g :: rest }
      match (match f.data with
        | some bs => Got.ok bs s
        | none => s.agentRead f.part f.ctx (s.fireDie f) f.record 32) with
      | .hold h s1 => keep { f with mig := h == .walkMig } (match h with
        | .remoteRead dev va n => s1.ask dev (agentTag va) 0 va n
        | _ => s1)
      | .fault x s1 => s1.fireFault k f rest x
      | .ok bs s1 =>
        let g := { f with data := some bs }
        if g.claim.isNone && !(s1.queue g.queue).en then keep { g with op := none } (s1.fireReleases g)
        else
          match (match g.claim with
            | some c => some c
            | none => (s1.firstRoom g.part g.ctx g.queue g.vdie).map fun v => (v, ((s1.queue g.queue).ring v).tail)) with
          | none => (keep g s1).fireHolds g
          | some (v, slot) =>
            let s2 := if g.claim.isNone then ((s1.claimTail g.queue v).2).fireReleases g else s1
            let h := { g with claim := some (v, slot), op := none }
            match s2.writeRecord h.part h.ctx (s2.fireDie h) ((s2.queue h.queue).recAddr v slot) bs with
            | .hold w s3 => keep { h with mig := w == .walkMig } s3
            | .fault x s3 => s3.fireFault k h rest x
            | .ok _ s3 => (s3.forget.setKnot k { s3.knot k with firing := rest }).publish h.queue v slot

/-- A firing queued behind another (R152, R153): its operation does not wait where the queue is disabled; its team holds where the queue is full. -/
def State.fireBehind (s : State) (f : Firing) : State × Firing :=
  if f.op.isNone then (s, f)
  else if !(s.queue f.queue).en then (s.fireReleases f, { f with op := none })
  else if (s.firstRoom f.part f.ctx f.queue f.vdie).isNone then (s.fireHolds f, f)
  else (s, f)

/-- The firings of a knot go on: the first as far as it can, those behind it as R153 says. -/
def State.fireNext (s : State) (k : Nat) : State :=
  match (s.knot k).firing with
  | [] => s
  | f :: rest =>
    let (s1, fs) := rest.foldl (fun (x : State × List Firing) g => let (s2, h) := x.1.fireBehind g; (s2, x.2 ++ [h])) (s, [])
    (s1.setKnot k { s1.knot k with firing := f :: fs }).fireHead k

/-! ## Grids (R73, R76, R77) -/

/-- A grid that has started and has no cluster left completes (R73): the decrement of its knot is an operation without a team, after the release. -/
def State.finishGrid (s : State) (g : Nat) (x : Grid) : State :=
  let s1 := { s with grids := cellDel s.grids g }
  match x.done with
  | none => s1
  | some k =>
    let o : Op :=
      { team := none, part := x.part, ctx := x.ctx, core := x.die * Config.coresPerDie, dom := x.die * Config.coresPerDie, pc := 0,
        flag := none, mask := 0, acq := none, rel := some x.scope, kind := .gridDone k x.vdie x.doneObj, accs := [], units := [], failed := [], refail := [],
        mig := false, pat := none }
    { s1.bump with ops := cellPut s1.ops s1.stamp o }

/-- A grid passed to the distributors (R157), behind others that the same firing released: one of no clusters completes at once (R77). -/
def State.startGrid (s : State) (g : Nat) (ahead : List Nat) (x : Grid) : State :=
  let y := { x with waiting := false, ahead := ahead }
  if y.size = 0 then { s with grids := cellPut s.grids g y }.finishGrid g y else { s with grids := cellPut s.grids g y }

/-- The launches that wait on a knot start, in the order in which they were created (R150): each notes those before it, which begin placement first. -/
def State.releaseWaiters (s : State) (k : Nat) : State :=
  let ws := s.grids.filter fun g => g.2.waiting && g.2.start == some k
  ws.foldl (fun s1 g => s1.startGrid g.1 ((recKeys ws).filter (decide <| · < g.1)) g.2) s

/-- A zero transition (R150): the waiters go first; a bound knot's record then goes to its queue. -/
def State.fire (s : State) (k part ctx vdie obj : Nat) (op : Option FireOp) : State :=
  let s1 := s.releaseWaiters k
  let who : Option Firer := match op with
    | none => none
    | some .ring => some .ring
    | some (.lane o lane) => (s.op o).bind fun y => y.team.map fun i => .lane i y.pc lane
  let f : Firing :=
    { record := (s1.knot k).record, queue := ((s1.knot k).queue).getD 0, vdie := vdie, part := part, ctx := ctx, obj := obj, op := op, who := who,
      data := none, claim := none, held := false, mig := false }
  if (s1.knot k).queue.isNone then s1.fireReleases f
  else (s1.setKnot k { s1.knot k with firing := (s1.knot k).firing ++ [f] }).fireNext k

/-- A decrement by an agent that is no team (R153). -/
def State.agentDec (s : State) (k part ctx vdie obj : Nat) : State :=
  let x := s.knot k
  if x.count = 0 then (s.noticeOwner part ctx .knotUnderflow obj 0 0 vdie 0).count part ctx Cause.knotUnderflow.code
  else
    let s1 := s.setKnot k { x with count := x.count - 1 }
    if x.count = 1 then s1.fire k part ctx vdie obj none else s1

/-- The first access of an operation that is not done. -/
def Op.firstOpen (x : Op) : Option (Nat × Acc) :=
  (x.accs.zipIdx.find? fun a => !a.1.done).map fun a => (a.2, a.1)

/-- One count operation of a lane (R151). -/
def State.knotLane (s : State) (o : Nat) (x : Op) (fn key vdie obj k : Nat) (a : Acc) : State :=
  let n := s.knot key
  let done := s.setOp o (x.markDone k)
  if fn = 0 then done.setKnot key { n with count := a.aux }
  else if fn = 1 then
    if n.count + a.aux < 2 ^ 32 then done.setKnot key { n with count := n.count + a.aux }
    else s.setOp o (x.failLane k a .knotUnderflow)
  else if n.count < a.aux then s.setOp o (x.failLane k a .knotUnderflow)
  else if a.aux = 0 then done
  else if n.count = a.aux then
    ((s.setOp o { x with accs := x.accs.modify k fun a => { a with size := 1 } }).setKnot key { n with count := 0 }).fire key x.part x.ctx vdie
      obj (some (.lane o a.lane))
  else done.setKnot key { n with count := n.count - a.aux }

/-- KNOT_OPERATION (R149 to R154, R73): the knot unit performs the next operation of a team's instruction, or a grid's decrement, after the release it carries. -/
def execKnotOperation (o : Nat) (s : State) : Host.Outcome State Fault Refusal :=
  match s.op o with
  | none => .next s
  | some x =>
    if s.writeHeld o x then .next s
    else
      match x.kind with
      | .knot fn key vdie obj =>
        match x.accs.zipIdx.find? fun a => !a.1.done && a.1.size == 0 with
        | none => .next s
        | some a => .next (s.knotLane o x fn key vdie obj a.2 a.1)
      | .knotbind key rec1 qk =>
        match x.firstOpen with
        | none => .next s
        | some (k, _) => .next ((s.setOp o (x.markDone k)).setKnot key { s.knot key with record := rec1, queue := qk })
      | .gridDone key vdie obj =>
        if s.stores.any fun w => w.2.part == x.part && w.2.ctx == x.ctx && decide (w.2.seq < o) then .next s
        else .next ((s.dropOp o).agentDec key x.part x.ctx vdie obj)
      | _ => .next s

/-- KNOT_FIRE_RETRY (R153): a pending firing goes on. -/
def execKnotFireRetry (part n : Nat) (s : State) : Host.Outcome State Fault Refusal := .next (s.fireNext (knotKey part n))

end Sys2Proof.Machine
end

