-- ==== Sys2Proof/Machine/Drains.lean ====
section
/-! DEFINITION. Drains: the two phases of invalidation: INVPG and INVCF (R349, R350), and what a confirmation waits for and removes. -/

namespace Sys2Proof.Machine

open Sys2Proof

/-- A range of a drain overlaps a run. -/
def Drain.overlaps (d : Drain) (a n : Nat) : Bool := decide (d.base < a + n) && decide (a < d.base + d.size)

/-- A translation of a context rests on a drain's range: its virtual page in stage 1; in stage 2 its page, or a stage-1 node that its walk read (R349). -/
def Drain.rests (d : Drain) (va n pa : Nat) (nodes : List Nat) : Bool :=
  if d.stage = 1 then d.overlaps (va % 2 ^ 57) n else d.overlaps pa n || nodes.any fun k => d.overlaps k 4096

/-- INVPG's first phase (R349): cached entries are marked, thimbles cleared, translations of posted entries dropped, and the drain is pending. -/
def State.beginDrain (s : State) (d : Drain) : State :=
  let n := s.stamp
  let mine (p c : Nat) : Bool := p == d.part && c == d.ctx
  { s.bump with
    drains := cellPut s.drains n d
    tlb := (s.tlb.filter fun x => !(mine x.part x.ctx && x.lane.isSome && d.rests x.va x.size x.pa x.nodes)).map fun x =>
      if mine x.part x.ctx && d.rests x.va x.size x.pa x.nodes then { x with marked := n :: x.marked } else x
    walks := s.walks.map fun w =>
      if mine w.part w.ctx && w.stage == d.stage && d.overlaps w.base w.size then { w with marked := n :: w.marked } else w
    posted := s.posted.map fun e =>
      match s.team e.2.team, e.2.tr with
      | some t, some tr =>
        if mine t.part t.ctx && !e.2.sent && d.rests e.2.va e.2.data.length tr.pa tr.nodes then (e.1, { e.2 with tr := none }) else e
      | _, _ => e }

/-- Every access under a translation that the drain marks is performed, of those stamped before n (R350). -/
def State.drainDone (s : State) (d : Drain) (n : Nat) : Bool :=
  !(s.ops.any fun o => decide (o.1 < n) && o.2.part == d.part && o.2.ctx == d.ctx
      && o.2.accs.any fun a => !a.done && (match a.tr.place with
        | .mem _ => d.rests a.va a.size a.tr.pa a.tr.nodes
        | .remote _ => d.rests a.va a.size a.tr.pa a.tr.nodes
        | _ => false))
  && !(s.stores.any fun w => decide (w.2.seq < n) && w.2.part == d.part && w.2.ctx == d.ctx
      && d.rests w.2.va w.2.data.length w.2.pa w.2.nodes)
  && !(s.posted.any fun e => decide (e.1 < n) && e.2.sent && match s.team e.2.team, e.2.tr with
      | some t, some tr => t.part == d.part && t.ctx == d.ctx && d.rests e.2.va e.2.data.length tr.pa tr.nodes
      | _, _ => false)
  && !(s.agentOut.any fun w => w.part == d.part && w.ctx == d.ctx && d.rests w.va w.data.length w.tr.pa w.tr.nodes)

/-- The drains that a team has pending. -/
def State.drainsOf (s : State) (i : Nat) : List (Nat × Drain) := s.drains.filter fun d => d.2.team == i

/-- An event is a request of another device to one of some contexts. -/
def Event.ofAny (e : Event) (f : Nat → Nat → Bool) : Bool :=
  match e with
  | .remoteAccess u => f u.part u.ctx
  | .remoteDrainRequest r => f r.part r.ctx
  | _ => false

/-- An event is a request of another device to a context. -/
def Event.of (e : Event) (p c : Nat) : Bool := e.ofAny fun q d => q == p && d == c

/-- The mark of an object whose first walk for its home holds on s2.mig (R298, R347). -/
def PleatHome.unfixed (h : PleatHome) : Bool := h.pa.isNone && h.mig

/-- The walks of some contexts held on s2.mig read their entries again (R350). -/
def State.releaseMigOf (s : State) (f : Nat → Nat → Bool) : State :=
  { s with
    teams := s.teams.map fun e => if f e.2.part e.2.ctx && e.2.hold == some .walkMig then (e.1, { e.2 with hold := none }) else e
    ops := s.ops.map fun o => if f o.2.part o.2.ctx && o.2.mig then (o.1, { o.2 with mig := false }) else o
    posted := s.posted.map fun e => match s.team e.2.team with
      | some t => if f t.part t.ctx && e.2.mig then (e.1, { e.2 with mig := false }) else e
      | none => e
    pleatHomes := (s.pleatHomes.filter fun h => !(f h.part h.ctx && h.unfixed)).map fun h => if f h.part h.ctx then { h with mig := false } else h
    parts := s.parts.map fun x => if x.2.opMig.any (f x.1) then (x.1, { x.2 with opMig := none }) else x
    migHeld := s.migHeld.map fun e => if e.1.ofAny f then (e.1, false) else e
    knots := s.knots.map fun k => (k.1, { k.2 with firing := k.2.firing.map fun r => if f r.part r.ctx then { r with mig := false } else r })
    ctxs := s.ctxs.map fun x => if f (x.1 / 64) (x.1 % 64) then (x.1, { x.2 with ring := { x.2.ring with mig := false }, ownMig := false }) else x }

/-- The walks of a context held on s2.mig read their entries again (R350). -/
def State.releaseMig (s : State) (p c : Nat) : State := s.releaseMigOf fun q d => q == p && d == c

/-- The drains of a team begun before stamp n end (R350): what they marked goes; walks held on them go on, and those held on s2.mig where the drain is of stage 2. -/
def State.endDrains (s : State) (i n : Nat) : State :=
  let ds := (s.drainsOf i).filter fun d => decide (d.1 < n)
  let ns := ds.map (·.1)
  let s1 := { s with
    drains := s.drains.filter fun d => !(d.2.team == i && decide (d.1 < n))
    tlb := s.tlb.filter fun x => !(x.marked.any ns.contains)
    walks := s.walks.filter fun w => !(w.marked.any ns.contains) }
  ds.foldl (fun s d => if d.2.stage = 2 then s.releaseMig d.2.part d.2.ctx else s) s1

/-- The size of a whole stage's space. -/
def stageSpace (stage : Nat) : Nat := if stage = 1 then 2 ^ 57 else 2 ^ 52

/-- INVPG (R349): the owner drains its own stage 1, the operator the stage 2 of context D. -/
def execInvpg (d a b : Sel) (s : State) : Host.Outcome State Fault Refusal :=
  issue s fun i t s1 =>
    let oper := s1.auth t == .operator
    let ss : List (Nat × Sel) := if oper then [(1, b), (2, d)] else [(1, b)]
    match firstCause ([need (s1.auth t != .auditor) .rights, need (pairOk a && ss.all fun f => t.scalarSrc f.2) .illegalOperand]
        ++ ss.map fun f => t.popCheck f.2) with
    | some c => .check c true s1
    | none => withPops i t s1 (popsOnce ss) fun t q s2 =>
      match a with
      | .s n =>
        let addr := t.pair n
        let code := (s2.scalar t b (q 1 0)).toNat
        let ctx := if oper then (s2.scalar t d (q 2 0)).toNat else t.ctx
        let stage := if oper then 2 else 1
        if 4 < code ∨ (oper ∧ !(decide (ctx < 64) && (s2.ctx t.part ctx).en)) then .check .illegalOperand true s2
        else if code < 4 ∧ addr % codeSize code ≠ 0 then .check .align true s2
        else if code < 4 ∧ (if oper then 2 ^ 52 ≤ addr else canonical addr = false) then .check .illegalOperand true s2
        else
          let dr : Drain :=
            { team := i, part := t.part, ctx := ctx, stage := stage, base := if code = 4 then 0 else addr % stageSpace stage,
              size := if code = 4 then stageSpace stage else codeSize code }
          doneOp i t s2 true fun s => s.beginDrain dr
      | _ => .check .illegalOperand true s2

/-- INVCF (R350): it releases at DEVICE scope; its flag clears when the drains have been confirmed. -/
def execInvcf (s : State) : Host.Outcome State Fault Refusal :=
  once s (fun t s1 => [need (s1.auth t != .auditor) .rights]) [] fun i t _ s1 =>
    let fl := t.setFlag true
    if t.flagFull fl then .hold (.flagFull (fl.getD 0)) (s1.setTeam i t)
    else
      match (s1.setTeam i t).drainAll i with
      | .fault e f s2 => .trap (postedInfo i t e f) s2
      | .wait h s2 => .hold h s2
      | .ok s2 => .ok (s2.enterOp i t { opOf i t s2 fl .invcf with rel := some 4, mask := 0 } [])

/-- INVCF can confirm: its release is complete and its drains have nothing left to wait for. -/
def State.invcfReady (s : State) (o : Nat) (x : Op) : Bool :=
  match x.team with
  | none => true
  | some i => s.covered (some i) x.dom o && (s.drainsOf i).all fun d => decide (o ≤ d.1) || s.drainDone d.2 o

end Sys2Proof.Machine
end

