-- ==== Sys2Proof/Machine/Objects.lean ====
section
/-! DEFINITION. Objects: pleat objects' records (R291) and their homes on this device (R298, R299, R301). -/

namespace Sys2Proof.Machine

open Sys2Proof

/-- A pleat object's record (R291). -/
structure PleatObj where
  nargs : Nat
  nrep : Nat
  scope : Nat
  vregs : Nat
  dev : Nat
  state : Nat
  entry : Nat
  deriving DecidableEq, Repr

/-- The object of a record's words: none where it breaks R291. -/
def pleatOf (ws : List Word) : Option PleatObj :=
  let w (k : Nat) : Word := (ws[k]?).getD 0
  let x : PleatObj :=
    { nargs := bits (w 0) 2 0, nrep := bits (w 0) 6 4, scope := bits (w 0) 10 8, vregs := bits (w 0) 23 16, dev := bits (w 1) 8 0,
      state := (w 2).toNat + 2 ^ 32 * (w 3).toNat, entry := (w 4).toNat }
  if x.nargs = 0 ∨ 4 < x.nargs ∨ 4 < x.nrep ∨ x.scope < 3 ∨ 5 < x.scope ∨ x.vregs < 8 ∨ 128 < x.vregs ∨ x.vregs % 8 ≠ 0 ∨ x.state % 4 ≠ 0
      ∨ w 5 ≠ 0 then none
  else some x

/-- The argument words of a PLEAT lane's access. -/
def Acc.args (a : Acc) : List Word := bytesWords 4 (a.data.take 16)
/-- The record's words of a PLEAT lane's access. -/
def Acc.objWords (a : Acc) : List Word := bytesWords 8 (a.data.drop 16)

/-! ## Homes (R298) -/

/-- The die whose agents perform what other devices ask of a context. -/
def State.doorDie (s : State) (p c : Nat) : Nat := (s.physDie p c 0).getD 0

/-- The core of a die that is the home of a physical address (R298). -/
def pleatCore (pa : Nat) : Nat := ((pa / 2 ^ 7 % 64) ^^^ (pa / 2 ^ 13 % 64) ^^^ (pa / 2 ^ 19 % 64)) % 48

/-- A request in the inbox of an object. -/
def PleatReq.waits (r : PleatReq) (p c obj : Nat) : Bool := r.part == p && r.ctx == c && r.object == obj && r.stage == .inbox

/-- The home that was fixed for an object. -/
def State.homeEntry (s : State) (p c obj : Nat) : Option PleatHome := s.pleatHomes.find? fun h => h.part == p && h.ctx == c && h.object == obj

/-- A home fixed, or moved with its line: the requests in the object's inbox go with it (R298). -/
def State.fixHome (s : State) (h : PleatHome) : State :=
  { s with
    pleatHomes := h :: s.pleatHomes.filter fun y => !(y.part == h.part && y.ctx == h.ctx && y.object == h.object)
    pleats := s.pleats.map fun r => if r.2.waits h.part h.ctx h.object then (r.1, { r.2 with core := h.core }) else r }

/-- Where a fixed home stands now (R298): it moves with the line of its state's partition-physical address, by a stage-2 migration alone, and holds while that runs. -/
def State.homeNow (s : State) (h : PleatHome) : Got Nat :=
  match h.pa with
  | none => if h.mig then .hold .walkMig s else .ok h.core s
  | some pa => if h.mig then .hold .walkMig s else
    match s.stage2 h.part h.ctx (s.doorDie h.part h.ctx) none pa .none with
    | (.ok x, s1) => .ok (s1.home h.part x.key * 48 + pleatCore pa) s1
    | (.mig, s1) => .hold .walkMig s1
    | (.drain, s1) => .hold .walkDrain s1
    | (.fault .., s1) => .ok h.core s1

/-- The home core of an object on this device (R298): fixed when it is first needed after its context has been placed, from then on moved by a stage-2 migration alone; where its state has no home here, a free choice among the partition's cores (log 27). -/
def State.pleatHome (s : State) (p c obj : Nat) (x : PleatObj) : Got Nat :=
  match s.homeEntry p c obj with
  | some h =>
    match s.homeNow h with
    | .ok core s1 => .ok core (s1.fixHome { h with core := core })
    | .hold g s1 => .hold g (s1.fixHome { h with mig := h.mig || g == Hold.walkMig })
    | .fault f s1 => .fault f s1
  | none =>
    let any (s : State) : Got Nat :=
      let (n, s1) := s.choose (48 * (s.partDies p).length)
      let core := (((s1.partDies p)[n / 48]?).getD 0) * 48 + n % 48
      .ok core (s1.fixHome { part := p, ctx := c, object := obj, pa := none, core := core })
    match s.translate p c none (s.doorDie p c) none none x.state .none with
    | (.mig, s1) => .hold .walkMig { s1 with pleatHomes := { part := p, ctx := c, object := obj, pa := none, core := 0, mig := true } :: s1.pleatHomes }
    | (.drain, s1) => .hold .walkDrain s1
    | (.fault .., s1) => any s1
    | (.ok tr, s1) =>
      match tr.place with
      | .mem key =>
        let core := s1.home p key * 48 + pleatCore tr.pa
        .ok core (s1.fixHome { part := p, ctx := c, object := obj, pa := some tr.pa, core := core })
      | _ => any s1

/-- The home of the object of a handle-table slot fixed, where it stands on this device and its state translates (R298). -/
def State.fixSlot (s : State) (p c slot : Nat) : State :=
  let x := s.ctx p c
  let die := s.doorDie p c
  match s.agentRead p c die (x.htabBase + 16 * slot) 16 with
  | .ok ws s1 =>
    match entryObj (bytesWords 4 ws) .pleat (bits ((bytesWords 4 ws)[0]?.getD 0) 11 0) with
    | none => s1
    | some va =>
      match s1.agentRead p c die va 32 with
      | .ok bs s2 =>
        match pleatOf (bytesWords 8 bs) with
        | none => s2
        | some ob =>
          if ob.dev ≠ x.fabDev ∨ (s2.homeEntry p c va).isSome then s2
          else
            match s2.translate p c none die none none ob.state .none with
            | (.ok tr, s3) =>
              match tr.place with
              | .mem key => s3.fixHome { part := p, ctx := c, object := va, pa := some tr.pa, core := s3.home p key * 48 + pleatCore tr.pa }
              | _ => s3
            | (_, s3) => s3
      | .fault _ s2 => s2
      | .hold _ s2 => s2
  | .fault _ s1 => s1
  | .hold _ s1 => s1

/-- Placement fixes the homes of a context's objects, as far as its handle table names them and their state translates (R298; log 27). -/
def State.fixHomes (s : State) (p c : Nat) : State := (List.range (s.ctx p c).htabSlots).foldl (fun s slot => s.fixSlot p c slot) s

/-- The homes of a context's objects are no longer fixed: it has left its dies (R298, R308). -/
def State.dropHomes (s : State) (p c : Nat) : State := { s with pleatHomes := s.pleatHomes.filter fun h => !(h.part == p && h.ctx == c) }

/-! ## Inboxes (R299) -/

/-- Requests in the inboxes of a core (R299). -/
def State.inboxUsed (s : State) (core : Nat) : Nat := (s.pleats.filter fun r => r.2.core == core && r.2.stage == .inbox).length

/-- The requests of an object in its inbox, oldest first. -/
def State.inboxOf (s : State) (p c obj : Nat) : List (Nat × PleatReq) := s.pleats.filter fun r => r.2.waits p c obj

/-- The core where a request in an inbox waits for its wave now. -/
def State.waitCore (s : State) (r : PleatReq) : Nat :=
  match (s.homeEntry r.part r.ctx r.object).map s.homeNow with
  | some (.ok core _) => core
  | _ => r.core

/-- A wave of an object runs (R289, R301). -/
def State.waveRuns (s : State) (p c obj : Nat) : Bool :=
  s.teams.any fun e => e.2.part == p && e.2.ctx == c && match e.2.wave with
    | some w => w.object == obj
    | none => false

/-- A context is running: created, placed, not halted. -/
def Ctx.runs (c : Ctx) : Bool := c.en && !c.preempted && !c.sealed

/-- A request in an inbox of the core waits for its wave to start, which nothing but room keeps back (R301). -/
def State.waveWaits (s : State) (core : Nat) : Bool :=
  s.pleats.any fun r => r.2.stage == .inbox && s.waitCore r.2 == core && (s.ctx r.2.part r.2.ctx).runs && !s.waveRuns r.2.part r.2.ctx r.2.object

end Sys2Proof.Machine
end

