-- ==== Sys2Proof/Machine/Launch.lean ====
section
/-! DEFINITION. Launch: launch records (R155 to R157), LAUNCH (R75 to R78), what clusters and teams hold of a core (R59 to R62, R69 to R71, R224), EXIT and the end of teams, clusters and grids (R15, R16, R73, R74, R89). -/

namespace Sys2Proof.Machine

open Sys2Proof

/-! ## Records -/

/-- Rows and columns of a shape code (R155). -/
def shapeOf (n : Nat) : Option (Nat × Nat) :=
  if n < 8 then some (1, n + 1)
  else match n with
    | 8 => some (2, 6)
    | 9 => some (3, 4)
    | 10 => some (4, 3)
    | 11 => some (6, 2)
    | _ => none

/-- Register units of a team (R60). -/
def regUnitsOf (lanes vregs : Nat) : Nat := ceilDiv lanes 32 * (vregs / 8)

/-- A role-table entry's words (R155). -/
def roleOf (ws : List Word) : Role :=
  let w (k : Nat) : Word := (ws[k]?).getD 0
  { entry := (w 0).toNat + 2 ^ 32 * (w 1).toNat, lanes := bits (w 2) 10 0, vregs := bits (w 2) 23 16, kind := bits (w 2) 25 24, count := bits (w 3) 7 0 }

/-- A role's fields are in range (R155, R156). -/
def Role.ok (r : Role) : Bool :=
  decide (r.entry < 2 ^ 32) && decide (1 ≤ r.lanes) && decide (r.lanes ≤ 1024) && decide (8 ≤ r.vregs) && decide (r.vregs ≤ 128)
    && r.vregs % 8 == 0 && decide (1 ≤ r.count) && decide (r.count ≤ 32) && decide (r.kind < 3)

/-- The roles of a cluster's teams in TID order (R71). -/
def teamRoles (rs : List Role) : List Role := (rs.map fun r => List.replicate r.count r).flatten

/-- Register units that core k of a cluster of n cores needs. -/
def coreUnits (rs : List Role) (n k : Nat) : Nat :=
  ((teamRoles rs).zipIdx.filter fun r => r.2 % n == k).foldl (fun u r => u + regUnitsOf r.1.lanes r.1.vregs) 0

/-- What a launch record says, before its knots (R155). -/
structure LaunchRec where
  roles : List Role
  hasRoles : Bool
  scratch : Nat
  carve : Nat
  fuse : Bool
  shape : Nat
  scope : Nat
  size : Nat
  start : Word
  done : Word
  deriving DecidableEq, Repr

/-- Entries of a role table that a record names. -/
def recRoles (ws : List Word) : Nat := bits ((ws[4]?).getD 0) 17 16
/-- The address of the role table. -/
def recRoleTable (ws : List Word) : Nat := ((ws[8]?).getD 0).toNat + 2 ^ 32 * ((ws[9]?).getD 0).toNat

/-- The launch of a record's words and its role table: none where a field breaks R156. -/
def launchRecOf (ws : List Word) (table : List Role) : Option LaunchRec :=
  let w (k : Nat) : Word := (ws[k]?).getD 0
  let entry := (w 0).toNat + 2 ^ 32 * (w 1).toNat
  let hasRoles := decide (recRoles ws ≠ 0)
  match shapeOf (bits (w 3) 23 20) with
  | none => none
  | some (h, wd) =>
    let n := h * wd
    let lone : Role := { entry := entry, lanes := bits (w 2) 10 0, vregs := bits (w 2) 23 16, kind := 0, count := n }
    let roles := if hasRoles then table else [lone]
    let x : LaunchRec :=
      { roles := roles, hasRoles := hasRoles, scratch := bits (w 3) 15 0, carve := bits (w 3) 18 16, fuse := bit (w 3) 19,
        shape := bits (w 3) 23 20, scope := bits (w 3) 26 24, size := bits (w 4) 15 0, start := w 5, done := w 6 }
    if (if hasRoles then entry ≠ 0 else entry = 0) ∨ !(roles.all (·.ok)) ∨ 6 ≤ x.scope ∨ 32 * n < (teamRoles roles).length
        ∨ (List.range n).any (fun k => decide (Config.regUnits < coreUnits roles n k))
        ∨ 65536 * x.carve < 128 * ceilDiv x.scratch n then none
    else some x

/-- What creating a launch comes to. -/
inductive Created where
  | ok (s : State)
  | fault (f : LaneFault) (s : State)
  | hold (h : Hold) (s : State)

/-- How a launch's records and handles are read: by a team, or by an agent. -/
structure Reader where
  read : State → Nat → Nat → Nat → Got (List Byte)
  knot : State → Word → Got (Option Nat)

/-- The entries of a role table, 16 bytes each. -/
def Reader.roles (rd : Reader) (s : State) (va : Nat) : Nat → Got (List Role)
  | 0 => .ok [] s
  | n + 1 =>
    match rd.read s va 16 16 with
    | .hold h s1 => .hold h s1
    | .fault f s1 => .fault f s1
    | .ok bs s1 =>
      match rd.roles s1 (va + 16) n with
      | .ok rs s2 => .ok (roleOf (bytesWords 4 bs) :: rs) s2
      | r => r

/-- A knot that a record names, or none for 0; a stale one is a fault (R156). -/
def Reader.knotOf (rd : Reader) (s : State) (p : Nat) (h : Word) (va : Nat) : Got (Option Nat) :=
  if h = 0 then .ok none s
  else
    match rd.knot s h with
    | .ok (some n) s1 => if s1.knotOk p n then .ok (some (knotKey p n)) s1 else .fault (plainFault 0 va .staleHandle) s1
    | .ok none s1 => .fault (plainFault 0 va .staleHandle) s1
    | .fault f s1 => .fault f s1
    | .hold g s1 => .hold g s1

/-- A die has room for one more launch that waits or is not fully placed (R157). -/
def State.launchRoom (s : State) (die : Nat) : Bool :=
  decide ((s.grids.filter fun g => g.2.die == die && (g.2.waiting || decide (g.2.next < g.2.size))).length < Config.launchSlots)

/-- A launch created from the record at va (R75, R155 to R157), by a team or by a command of the owner's ring. -/
def State.createLaunch (s : State) (rd : Reader) (ring : Bool) (p c vdie die va : Nat) : Created :=
  match rd.read s va 64 64 with
  | .hold h s1 => .hold h s1
  | .fault f s1 => .fault f s1
  | .ok bs s1 =>
    let ws := bytesWords 16 bs
    let table := recRoleTable ws
    if recRoles ws ≠ 0 ∧ table % 16 ≠ 0 then .fault (plainFault 0 va .align) s1
    else
      match rd.roles s1 table (recRoles ws) with
      | .hold h s2 => .hold h s2
      | .fault f s2 => .fault f s2
      | .ok rs s2 =>
        match launchRecOf ws rs with
        | none => .fault (plainFault 0 va .illegalOperand) s2
        | some x =>
          match rd.knotOf s2 p x.start va with
          | .hold h s3 => .hold h s3
          | .fault f s3 => .fault f s3
          | .ok st s3 =>
            match rd.knotOf s3 p x.done va with
            | .hold h s4 => .hold h s4
            | .fault f s4 => .fault f s4
            | .ok dn s4 =>
              if !s4.launchRoom die then .hold .launchRoom s4
              else
                let wait := match st with
                  | some k => decide ((s4.knot k).count ≠ 0)
                  | none => false
                let g : Grid :=
                  { part := p, ctx := c, roles := x.roles, hasRoles := x.hasRoles, scratch := x.scratch, carve := x.carve, fuse := x.fuse,
                    shape := x.shape, scope := x.scope, size := x.size, start := st, done := dn, doneObj := x.done.toNat, waiting := wait,
                    next := 0, running := 0, die := die, vdie := vdie, ring := ring, ahead := [] }
                let s5 := { s4.bump with grids := cellPut s4.grids s4.stamp g }
                .ok (if wait then s5 else s5.startGrid s4.stamp [] g)

/-- The reader of a team. -/
def teamReader (i : Nat) (t : Team) : Reader :=
  { read := fun s va n al => s.record i t va n al, knot := fun s h => s.handle i t h .knot }

/-- Launches of lanes created in pass order (R75, R78): lanes already done are remembered with the team while it holds. -/
def State.launchLanes (s : State) (i : Nat) (t : Team) (bad : List (LaneFault × Acc)) : List Acc → Except Hold (List (LaneFault × Acc)) × State
  | [] => (.ok bad, s)
  | a :: as =>
    if t.claimed.any fun c => c.1 == a.lane then s.launchLanes i t bad as
    else
      match s.createLaunch (teamReader i t) false t.part t.ctx t.vdie (coreDie t.core) a.va with
      | .ok s1 =>
        let t1 := { t with claimed := t.claimed ++ [(a.lane, 0, 0)] }
        (s1.setTeam i t1).launchLanes i t1 bad as
      | .fault f s1 => s1.launchLanes i t (bad ++ [({ f with lane := a.lane }, a)]) as
      | .hold h s1 => (.error h, s1)

/-- LAUNCH (R75, R76, R78, R156). -/
def execLaunch (a b : Sel) (s : State) : Host.Outcome State Fault Refusal :=
  sweepOn s (fun t _ => [need (t.vectorSrc a && t.scalarSrc b) .illegalOperand]) [a, b] (fun t => t.active) (fun t => popsVS t a b)
    fun i t q s1 =>
      let fl := t.setFlag true
      let accs := t.active.map fun l => Acc.new l (t.vecAddr (s1.src t a l (q 0 l)) (s1.scalar t b (q 1 0))) 64 64 0 []
      if t.flagFull fl then .hold (.flagFull (fl.getD 0)) (s1.setTeam i t)
      else withRelease i t s1 fun s2 =>
        if t.releases.isSome && !s2.coveredAt (t.releases.getD 0) (some i) (s2.dom t) s2.stamp then .hold (.drained s2.stamp) s2
        else
          match s2.launchLanes i t [] accs with
          | (.error h, s3) => .hold h s3
          | (.ok bad, s3) =>
            match s3.team i with
            | none => .stay s3
            | some t1 => .ok (s3.enterOp i t1 { opOf i t1 s3 fl .launch with rel := t.releases } bad)

/-! ## Placing clusters -/

/-- The teams that stand on a core: placed ones, lining halves apart (R62, R363). -/
def State.teamsOn (s : State) (core : Nat) : List (Nat × Team) := s.teams.filter fun e => e.2.core == core && e.2.place == .placed

/-- A team slot of a core is free. -/
def State.slotFree (s : State) (core n : Nat) : Bool := decide (n < Config.teamSlots) && !((s.teamsOn core).any fun e => e.2.slot == n)

/-- The lowest free team slot of a core (R62), among 32. -/
def State.freeSlot (s : State) (core : Nat) (taken : List Nat) : Option Nat :=
  (List.range Config.teamSlots).find? fun n => !taken.contains n && !((s.teamsOn core).any fun e => e.2.slot == n)

/-- Free team slots of a core. -/
def State.freeSlots (s : State) (core : Nat) : Nat := Config.teamSlots - (s.teamsOn core).length

/-- Register units in use on a core (R60). -/
def State.unitsUsed (s : State) (core : Nat) : Nat := (s.teamsOn core).foldl (fun n e => n + regUnitsOf e.2.nlanes e.2.nregs) 0

/-- Scratch in use on a core: the shares of the clusters that stand there (R224), those in lining copies apart (R363). -/
def State.scratchUsed (s : State) (core : Nat) : Nat :=
  s.clusters.foldl (fun n c => if c.2.cores.contains core && !(c.2.away.any fun a => a.1 == core) then n + c.2.share else n) 0

/-- A cluster's range stands on a core: the core is in its rectangle, and the range is not away (R330, R363). -/
def Cluster.standsOn (c : Cluster) (core : Nat) : Bool := c.cores.contains core && !(c.away.any fun a => a.1 == core)

/-- A fused cluster but the one named stands on the core, so that no other team may enter it (R229). -/
def State.fusedOn (s : State) (cl core : Nat) : Bool := s.clusters.any fun c => c.1 != cl && c.2.fuse && c.2.standsOn core

/-- The L1s that hold lines in a core's memory: its own, and those of the fused clusters of its rectangles (R227, R229). -/
def State.domsOn (s : State) (core : Nat) : List Nat :=
  core :: s.clusters.filterMap fun c => if c.2.fuse && c.2.cores.contains core then some (1000 + c.1) else none

/-- A core has a carve-out, or may take it: it holds no team, and no other cluster's range that the change would destroy, and the stores that reached its L1s are home (R62, R222, R223; log 91). -/
def State.carveOk (s : State) (core carve cl : Nat) : Bool :=
  (s.core core).carve == carve
    || ((s.teamsOn core).isEmpty && !(s.clusters.any fun c => c.1 != cl && c.2.share != 0 && c.2.standsOn core)
        && !(s.stores.any fun w => (s.domsOn core).contains w.2.dom))

/-- The core takes a carve-out (R223): every line of its L1s is discarded. -/
def State.carveTo (s : State) (core carve : Nat) : State :=
  if (s.core core).carve = carve then s
  else { s.setCore core { s.core core with carve := carve } with
    lines := s.lines.filter fun x => !((s.domsOn core).contains x.dom && x.path == .loadStore) }

/-- The teams of a cluster placed one after another (R59, R61, R70, R71): TID, then its role. -/
def State.placeTeams (s : State) (g : Grid) (k cl vd n : Nat) (cores : List Nat) : List (Nat × Role) → State
  | [] => s
  | (tid, r) :: rs =>
    let cc := tid % n
    let core := (cores[cc]?).getD 0
    match s.freeSlot core [] with
    | none => s
    | some slot =>
      let t := Team.fresh g.part g.ctx core slot cl cc tid k (teamRoles g.roles).length r.lanes r.vregs r.kind vd (BitVec.ofNat 32 r.entry) s.stamp
      (s.bump.setTeam s.stamp t).placeTeams g k cl vd n cores rs

/-! ## The end of a team (R16, R73, R74, R89) -/

/-- A cluster whose every team has ended is over, and so is its grid with its last cluster (R73); the grid's completion walks from the die of its last team to end, or from virtual die 0 for a launch of the owner's ring (R150). -/
def State.endCluster (s : State) (cl vdie : Nat) : State :=
  if s.teams.any fun e => e.2.cluster == cl && e.2.wave.isNone then s
  else
    match recFind s.clusters cl with
    | none => s
    | some c =>
      let s1 := { s with clusters := cellDel s.clusters cl }
      match recFind s1.grids c.grid with
      | none => s1
      | some g =>
        let g1 := { g with running := g.running - 1, vdie := if g.ring then g.vdie else vdie }
        let s2 := { s1 with grids := cellPut s1.grids c.grid g1 }
        if g1.running = 0 ∧ g1.size ≤ g1.next then s2.finishGrid c.grid g1 else s2

/-- The requests of a wave that ends have their answers, or are aborted (R305, R307): each stays at its home until its requester has it (R308). -/
def State.scatter (s : State) (abort : Bool) (nrep : Nat) : List Nat → List (Option (List Word)) → State
  | n :: ns, rep :: reps =>
    match recFind s.pleats n with
    | none => s.scatter abort nrep ns reps
    | some r =>
      let r1 := { r with stage := if abort then .aborted else .replied, aborted := abort, reply := rep.getD (List.replicate nrep 0) }
      { s with pleats := cellPut s.pleats n r1 }.scatter abort nrep ns reps
  | _, _ => s

/-- What ends with a wave. -/
def State.endWave (s : State) (t : Team) (abort : Bool) : State :=
  match t.wave with
  | none => s
  | some w => s.scatter abort (bits ((w.record[0]?).getD 0) 6 4) w.reqs w.replies

/-- A team ends (R74, R89, R350): its drains are confirmed, its slot, registers, rows and thimbles return, and its cluster and grid follow; a wave's requests are answered (R305). -/
def State.endTeam (s : State) (i : Nat) : State :=
  match s.team i with
  | none => s
  | some t =>
    let s1 := (((s.leaveL1 t).endWave t false).endDrains i s.stamp).dropTeam i
    let s2 := { s1 with
      tlb := s1.tlb.filter fun x => !(match x.lane with | some l => l.1 == i | none => false)
      acc := s1.acc.filter fun a => a.1 / 2 ^ 21 != i }
    s2.endCluster t.cluster t.vdie

/-- The release of a wave is complete, where the team is one (R293, R305): at FABRIC scope where a request came from another device, else at its object's. -/
def State.waveReleases (s : State) (i : Nat) : Bool :=
  match s.team i with
  | none => true
  | some t =>
    match t.wave with
    | none => true
    | some w =>
      let far := w.reqs.any fun n => match recFind s.pleats n with
        | some r => r.pkg.isSome
        | none => false
      s.coveredAt (if far then 5 else bits ((w.record[0]?).getD 0) 10 8) (some i) (s.dom t) s.stamp

/-- Kinds of operations that will write registers of lanes, or whose lanes wait for a reply (R89, R303). -/
def OpKind.writesRegs : OpKind → Bool
  | .load .. => true
  | .pload .. => true
  | .sample .. => true
  | .atomic _ _ dst _ _ => dst.isSome
  | .chunk _ => true
  | .deq .. => true
  | .pleat .. => true
  | _ => false

/-- An operation of the team that will write a register of a lane of E is outstanding (R89). -/
def State.regPending (s : State) (i : Nat) (e : Mask) : Bool :=
  s.ops.any fun o => o.2.team == some i && o.2.kind.writesRegs
    && (o.2.accs.any (fun a => !a.done && e.toNat.testBit a.lane) || o.2.refail.any (fun a => e.toNat.testBit a.lane)
      || (match o.2.kind with
          | .sample _ _ _ cs => cs.any fun c => e.toNat.testBit c.1
          | _ => false))
  || s.ops.any fun o => o.2.team == some i && match o.2.kind with
    | .loop l => l.fn != 0 && l.groups.any fun g => maskWord e g.g != 0
    | _ => false

/-- Nothing of the team is outstanding (R89): operations, records staged whole that have still to enter their queues (R242), drains' accesses, stores on their way. -/
def State.teamIdle (s : State) (i : Nat) : Bool :=
  !(((s.team i).map fun t => t.qregs.toList.any (·.whole)).getD false) && !(s.ops.any fun o => o.2.team == some i) && !(s.posted.any fun e => e.2.team == i) && !(s.stores.any fun w => w.2.team == some i)
    && (s.drainsOf i).all fun d => s.drainDone d.2 s.stamp

/-- EXIT (R15, R16, R89): it executes once, also over an empty mask. The last one of a wave ends it as PLDONE does (R305). -/
def execExit (s : State) : Host.Outcome State Fault Refusal :=
  once s (fun _ _ => []) [] fun i t _ s1 =>
    let e := t.eff
    if s1.regPending i e then .hold (.regWrites e) s1
    else
      let live := t.live &&& ~~~e
      let t1 := { t with live := live }
      let t2 := t1.setM 0 (t1.m 0)
      if live = 0 ∧ t.refill = none then
        match (s1.setTeam i t2).drainAll i with
        | .fault n f s2 => .trap (postedInfo i t2 n f) s2
        | .wait h s2 => .hold h s2
        | .ok s2 =>
          if s2.teamIdle i then (if s2.waveReleases i then .stay (s2.endTeam i) else .hold (.drained s2.stamp) s2)
          else .hold (.opsDone true s2.stamp) s2
      else .ok (s1.setTeam i t2)

end Sys2Proof.Machine
end

