-- ==== Sys2Proof/Machine/Clauses.lean ====
section
/-! DEFINITION. Clauses: how a clause is reached, fetched and started (R17, R41 to R45), and refill points (R14 to R17, R147). -/

namespace Sys2Proof.Machine

open Sys2Proof

/-- A run of bytes cut at lines of 128 bytes: n pieces at most. -/
def linePieces (va n : Nat) : Nat → List (Nat × Nat)
  | 0 => []
  | k + 1 =>
    let m := min n (128 - va % 128)
    if n = 0 then [] else (va, m) :: linePieces (va + m) (n - m) k

/-- Text as it stands once every store under way to it is performed (R42): the bytes at home under the writes and posted entries in flight there, and the team's own by their virtual addresses. So a fetch never meets part of a store (log 95). -/
def State.underFlight (s : State) (i va key : Nat) (bs : List Byte) : List Byte :=
  let b1 := s.stores.foldl (fun bs w => layOver key bs w.2.key w.2.data) bs
  s.posted.foldl (fun bs e =>
    if e.2.held.isSome then bs
    else if e.2.team = i ∧ overlaps va bs.length e.2.va e.2.data.length then layOver va bs e.2.va e.2.data
    else match e.2.tr.map Tr.place with
      | some (.mem k) => layOver key bs k e.2.data
      | _ => bs) b1

/-- Bytes of text read for execution (R42, R345), with the lines in memory they came from. Text on another device comes with its reply, which holds all the bytes asked for now. -/
def State.fetchPieces (s : State) (i : Nat) (t : Team) : List (Nat × Nat) → Got (List Byte × List Nat)
  | [] => .ok ([], []) s
  | (va, n) :: ps =>
    match s.translate t.part t.ctx (some t.core) (coreDie t.core) (some i) none va .exec with
    | (.mig, s1) => .hold .walkMig s1
    | (.drain, s1) => .hold .walkDrain s1
    | (.fault c pg tier sz, s1) => .fault (laneFault 0 va c pg tier sz) s1
    | (.ok tr, s1) =>
      let rest (bs : List Byte) (key : Nat) (s : State) : Got (List Byte × List Nat) :=
        match s.fetchPieces i t ps with
        | .ok (cs, ks) s2 => .ok (bs ++ cs, key :: ks) s2
        | r => r
      match tr.place with
      | .mem key =>
        if s1.rangeBad key n then .fault (laneFault 0 va .memUncorr tr.pa (opTier (keyTier key)) tr.leaf) s1
        else rest (s1.underFlight i va key (s1.homeBytes (s1.ctxMemKey t.part t.ctx) key n)) (key - key % 128) s1
      | .remote dev =>
        match s1.fabIn.find? fun r => r.op == remoteTag i va && (r.cause.isSome || decide (n ≤ r.data.length)) with
        | none => .hold (.remoteRead dev va n) { s1 with fabIn := s1.fabIn.filter fun r => r.op != remoteTag i va }
        | some r =>
          match r.cause with
          | none => rest (r.data.take n) ((textKey tr.place va).getD 0) s1
          | some c => .fault (farFault 0 va c) s1
      | _ => rest (List.replicate n 0) ((textKey tr.place va).getD 0) s1

/-- Words of a clause after its header. -/
def clauseBody (h : Word) : Nat := headerCount h + headerLits h

/-- A header passes its check (R43, R44). -/
def headerOk (base h : Word) : Bool :=
  !(12 ≤ bits h 19 16 && bits h 19 16 ≤ 14) && !(12 ≤ bits h 15 12 && bits h 15 12 ≤ 14) && !bit h 0
    && decide (base.toNat + 4 * clauseBody h ≤ 0xFFFFFFFC)

/-- A failure at a header (R42): no instruction issues; the unfinished mask is the effective mask. -/
def State.fetchTrap (s : State) (i : Nat) (t : Team) (f : LaneFault) : State :=
  (s.dropReplies i).takeTrap { issueFault i t false f with redo := .fetch }

/-- ILLEGAL_HEADER at a header. -/
def State.badHeader (s : State) (i : Nat) (t : Team) (c : Cause) : State := s.takeTrap (checkInfo i t false c 0 .fetch)

/-- The words of a clause laid out. -/
def clauseOf (ws : List Word) : Clause :=
  let h := (ws.head?).getD 0
  { header := h, instrs := (ws.drop 1).take (headerCount h), lits := ((ws.drop 1).drop (headerCount h)).take (headerLits h) }

/-- The copy of a clause that a core's instruction-fetch cache holds. -/
def State.iclause (s : State) (t : Team) (key : Nat) : Option IClause :=
  s.icache.find? fun c => c.core == t.core && c.part == t.part && c.ctx == t.ctx && c.va == t.base.toNat && c.keys.head? == some key

/-- The team can take a step of its own: placed, not halted, not parked, nothing left to do first. -/
def Team.free (t : Team) : Bool :=
  t.place == .placed && !t.halted && !t.debug && t.trap.isNone && t.pend.isEmpty && t.hold.isNone && t.redo == .none

/-- CLAUSE_FETCH (R42 to R44): the header is fetched, from memory or from a cached copy of the clause by a free choice, and checked. -/
def execClauseFetch (t : Nat) (s : State) : Host.Outcome State Fault Refusal :=
  match s.team t with
  | none => .next s
  | some x =>
    if x.free && x.stage == .reach then
      if misalignedPc x.base then .next (s.badHeader t x .align)
      else
        match s.fetchPieces t x [(x.base.toNat, 4)] with
        | .hold h s1 => .next (s1.setTeam t { x with hold := some (s1.holdAs t x h) })
        | .fault f s1 => .next (s1.fetchTrap t x f)
        | .ok (bs, ks) s1 =>
          let (h, s2) := match s1.iclause x ((ks.head?).getD 0) with
            | none => (bytesWord bs, s1)
            | some c =>
              let (n, s2) := s1.choose 2
              (if n = 0 then c.clause.header else bytesWord bs, s2)
          if headerOk x.base h then .next ((s2.dropReplies t).setTeam t { x with clause := { header := h, instrs := [], lits := [] }, stage := .waiting })
          else .next ((s2.dropReplies t).badHeader t x .illegalHeader)
    else .next s
where
  misalignedPc (a : Word) : Bool := decide (a.toNat % 4 ≠ 0)

/-! ## Refill points -/

/-- The vacant lanes of a team, ascending (R17). -/
def Team.vacant (t : Team) : List Nat := (List.range t.nlanes).filter fun l => !t.live.toNat.testBit l

/-- The team's first instruction may issue (R17, R42). -/
def Team.begin (t : Team) : Team := { t with stage := .run, pc := t.base + 4, hold := none }

/-- The refill steps (R17, R141, R147): the first vacant lane claims a record, and each next one when the lane before it holds its own; with nothing to claim the team runs, or parks where no lane is live. -/
def State.refillAt (s : State) (i : Nat) (t : Team) : State :=
  match t.refill with
  | none => s.setTeam i t.begin
  | some (k, r) =>
    if t.vacant.isEmpty || !(s.queue k).en || (s.firstRecord t.part t.ctx k t.vdie).isNone then
      if t.live = 0 then s.setTeam i { t with stage := .refill, hold := some (.queueRecord k) } else s.setTeam i t.begin
    else
      let o := s.stamp
      let t1 := { t with stage := .refill }
      let x := { opOf i t1 s none (.deq k r t.vacant true) with acq := some 4 }
      ((s.enterOp i t1 x []).modTeam i fun t => { t with hold := some (.opDone o) }).claimNext o { x with units := [] }

/-- The flags that a clause waits on are clear (R42). -/
def Team.waitClear (t : Team) : Bool := (List.range 12).all fun n => !t.clause.header.toNat.testBit (20 + n) || t.flag n == 0

/-- CLAUSE_START (R17, R42): the flags are clear; the clause's words are fetched once, whole, all old or all new; a refill point runs its steps; the first instruction may issue. A header that has changed meanwhile is reached again (log 21). -/
def execClauseStart (t : Nat) (s : State) : Host.Outcome State Fault Refusal :=
  match s.team t with
  | none => .next s
  | some x =>
    if x.free && x.stage == .waiting && x.waitClear then
      let n := 4 * (1 + clauseBody x.clause.header)
      match s.fetchPieces t x (linePieces x.base.toNat n 4) with
      | .hold h s1 => .next (s1.setTeam t { x with hold := some (s1.holdAs t x h) })
      | .fault f s1 => .next (s1.fetchTrap t x f)
      | .ok (bs, ks) s1 =>
        let fresh := clauseOf (bytesWords (1 + clauseBody x.clause.header) bs)
        let cached := match s1.iclause x ((ks.head?).getD 0) with
          | some c => if c.keys = ks then some c.clause else none
          | none => none
        let (c, s2) := match cached with
          | none => (fresh, s1)
          | some c =>
            let (m, s2) := s1.choose 2
            (if m = 0 then c else fresh, s2)
        let s2 := s2.dropReplies t
        if c.header = x.clause.header then
          let s3 := { s2 with icache := { core := x.core, part := x.part, ctx := x.ctx, va := x.base.toNat, keys := ks, clause := c }
            :: s2.icache.filter fun y => !(y.core == x.core && y.part == x.part && y.ctx == x.ctx && y.va == x.base.toNat) }
          let y := { x with clause := c }
          if bit c.header 2 then .next (s3.refillAt t y) else .next (s3.setTeam t y.begin)
        else .next (s2.setTeam t { x with stage := .reach })
    else .next s

/-- A record can be claimed for the team's refill (R17, R141). -/
def State.refillDue (s : State) (t : Team) : Bool :=
  match t.refill with
  | some (k, _) => (s.queue k).en && (s.firstRecord t.part t.ctx k t.vdie).isSome
  | none => true

/-- REFILL_WAKE (R17): the records of a refill are here, or one has come for a team without live lanes. -/
def execRefillWake (t : Nat) (s : State) : Host.Outcome State Fault Refusal :=
  match s.team t with
  | none => .next s
  | some x =>
    let y := { x with hold := none }
    if y.free && x.stage == .refill then
      match x.hold with
      | none => if x.live = 0 then .next (s.refillAt t y) else .next (s.setTeam t y.begin)
      | some (.queueRecord _) => if s.refillDue x then .next (s.refillAt t y) else .next s
      | _ => .next s
    else .next s

end Sys2Proof.Machine
end

