-- ==== Sys2Proof/Machine/Quant.lean ====
section
/-! DEFINITION. Quant: the Q4X format (R174 to R177), S8E scales (R173), QBLK and DQBLK (R208, R209). -/

namespace Sys2Proof.Machine

open Sys2Proof

/-- A Q4X code outside an outlier pair (R174): 0 to 7, -7 to -1; the marker reads as 0. -/
def q4Value (c : Nat) : Int := if c % 16 < 8 then (c % 16 : Nat) else if c % 16 = 8 then 0 else ((c % 16 : Nat) : Int) - 16

/-- The value of an outlier pair's even element (R175): ±2^(2·odd[2:0] + 1 - 7). -/
def q4Outlier (odd : Nat) : Dy := { m := if odd.testBit 3 then -1 else 1, e := 2 * ((odd % 8 : Nat) : Int) - 6 }

/-- Element k of a word of Q4X codes (R174 to R176), and whether it is an anomaly of R176. -/
def q4Slot (w k : Nat) : Dy × Bool :=
  let p := slice w 8 (k / 2)
  let even := p % 16
  let odd := p / 16
  if k % 2 = 0 then (if even = 8 then q4Outlier odd else { m := q4Value even, e := 0 }, false)
  else if even = 8 then ({ m := 0, e := 0 }, false)
  else ({ m := q4Value odd, e := 0 }, odd == 8)

/-- An element to be quantised: what it rounds to, whether it is infinite, its scaled value where it is finite. -/
structure QElem where
  q : Int
  big : Bool
  val : Option Dy
  st : Nat
  deriving DecidableEq, Repr

/-- An element scaled by 2^(127 - c) and rounded to an integer under a rounding mode (R177, R208). -/
def qElem (f : Fmt) (rm : Rnd) (flush : Bool) (c x : Nat) : QElem :=
  match f.input flush x with
  | .nan _ => { q := 0, big := false, val := none, st := stInv }
  | .inf neg => { q := if neg then -1 else 1, big := true, val := none, st := 0 }
  | .fin neg m e =>
    let k := e + 127 - (c : Int)
    let q := (roundInt rm neg m k).1
    { q := q, big := decide (7 < q.natAbs), val := some { m := signedM neg m, e := k }, st := 0 }

/-- The exponent code of the outlier magnitude nearest to |q| (R177). -/
def q4Nearest (x : QElem) : Nat :=
  if x.val = none then 7
  else if x.q.natAbs < 10 then 4 else if x.q.natAbs < 40 then 5 else if x.q.natAbs < 160 then 6 else 7

/-- A finite number is a whole number or an outlier's value. -/
def Dy.same (x y : Dy) : Bool := decide ((Dy.add x { m := -y.m, e := y.e }).m = 0)

/-- st.inx where a stored value differs from its scaled value (R208); a NaN has no scaled value. -/
def qInexact (x : QElem) (stored : Dy) : Nat :=
  match x.val with
  | some v => if v.same stored then 0 else stInx
  | none => if x.big then stInx else 0

/-- A pair of elements encoded into a byte, with the sticky bits (R177). -/
def q4Pair (a b : QElem) : Nat × Nat :=
  let lo (x : QElem) : Nat := lowBits 4 x.q
  if a.big then
    let odd := q4Nearest a + (if a.q < 0 then 8 else 0)
    (8 + 16 * odd, a.st ||| b.st ||| stOdrop ||| qInexact a (q4Outlier odd))
  else if b.big then
    let c : Int := if b.q < 0 then -7 else 7
    (lo a + 16 * lowBits 4 c, a.st ||| b.st ||| stSat ||| qInexact a { m := a.q, e := 0 } ||| qInexact b { m := c, e := 0 })
  else (lo a + 16 * lo b, a.st ||| b.st ||| qInexact a { m := a.q, e := 0 } ||| qInexact b { m := b.q, e := 0 })

/-- Pairs of elements encoded from byte i on. -/
def q4Pairs : List QElem → Nat × Nat
  | a :: b :: xs =>
    let (p, s) := q4Pair a b
    let (r, t) := q4Pairs xs
    (p + 256 * r, s ||| t)
  | _ => (0, 0)

/-- Eight elements quantised into a word (R208): every slot 0 under a NaN scale. -/
def q4Word (f : Fmt) (rm : Rnd) (flush : Bool) (c : Nat) (xs : List Nat) : Nat × Nat :=
  if c = 255 then (0, stInv) else q4Pairs (xs.map (qElem f rm flush c))

/-- A block of eight V registers. -/
def Team.block8 (t : Team) : Sel → Bool
  | .v r => t.vOk r 8
  | _ => false

/-- The number of a V register. -/
def vNum : Sel → Nat
  | .v r => r.toNat
  | _ => 0

/-- QBLK (R208). -/
def execQblk (d a b : Sel) (s : State) : Host.Outcome State Fault Refusal :=
  sweepTo s (fun t _ => [need (t.vectorDst d && t.block8 a && t.vectorSrc b) .illegalOperand,
      need (t.ty == .f32 || t.ty == .f16 || t.ty == .bf16) .illegalOperand, t.pushCheck d]) (·.active) d [(1, b)] fun i t ls q s1 =>
    match fmtOf t.ty with
    | none => .check .illegalOperand false s1
    | some f =>
      let rs := ls.map fun l =>
        (l, q4Word f t.rnd t.flush (bits (s1.src t b l (q 1 l)) 7 0) ((t.vs l (vNum a) 8).map fun w => w.toNat % 2 ^ f.width))
      putLanes i (t.addStatus (orBits rs)) s1 d (rs.map fun r => (r.1, BitVec.ofNat 32 r.2.1))

/-- Element k of a decoded block as F32 (R209), with its sticky bits. DESIGN CHOICE: under a NaN scale an odd-slot marker sets no st.fmt (log 102). -/
def dq4Elem (flush : Bool) (c w k : Nat) : Nat × Nat :=
  if c = 255 then (fmtF32.nan, stInv)
  else
    let (v, odd) := q4Slot w k
    let (x, st) := fmtF32.roundDy .rne flush false false { m := v.m, e := v.e + c - 127 }
    (x, st ||| (if odd then stFmt else 0))

/-- DQBLK (R209). -/
def execDqblk (d a b : Sel) (s : State) : Host.Outcome State Fault Refusal :=
  sweep s (fun t _ => [need (t.block8 d && t.vectorSrc a && t.vectorSrc b) .illegalOperand]) [(0, a), (1, b)] fun i t q s1 =>
    let rs := t.active.map fun l =>
      (l, (List.range 8).map fun k => dq4Elem t.flush (bits (s1.src t b l (q 1 l)) 7 0) (s1.src t a l (q 0 l)).toNat k)
    let st := rs.foldl (fun x r => r.2.foldl (fun x e => x ||| e.2) x) 0
    .ok (s1.setTeam i (rs.foldl (fun t r => t.setVs r.1 (vNum d) (r.2.map fun e => BitVec.ofNat 32 e.1)) (t.addStatus st)))

end Sys2Proof.Machine
end

