-- ==== Sys2Proof/Machine/Engines.lean ====
section
/-! DEFINITION. Engines: queue registers and engine ports: QBIND, QTRY, QFENCE (R237 to R241, R247); copy records (R243); the base-die engines (R236, R242, R244 to R246). -/

namespace Sys2Proof.Machine

open Sys2Proof

/-! ## QBIND, QTRY, QFENCE -/

/-- The binding of a port (R237); the virtual die counts for engine ports. -/
def portBind (b : Nat) (die : Nat) : Option QBind :=
  if b = 0 then some .unbound
  else if b = 1 then some .fifo
  else if b = 2 then some .copy
  else if 0x10 ≤ b ∧ b < 0x40 then some (.engine die (b / 16 - 1) (b % 16))
  else none

/-- A tracer walk of the team pushes into the queue register (R211). -/
def State.walkInto (s : State) (i q : Nat) : Bool :=
  s.ops.any fun o => o.2.team == some i && match o.2.kind with
    | .trace n .. => n == q
    | _ => false

/-- QBIND's check of the register's own record (R239), which needs no popped value. -/
def preBind (d : Sel) (i : Nat) (t : Team) (s : State) : Res :=
  match d with
  | .q n => if (t.qregs[n.toNat]).partial' then .check .illegalOperand true (s.setTeam i t) else .ok s
  | _ => .ok s

/-- QBIND (R239): it waits for a tracer walk into the register, and for a whole record to enter its queue (log 22). -/
def execQbind (d a : Sel) (b : BitVec 8) (s : State) : Host.Outcome State Fault Refusal :=
  let port := b.toNat
  let eng := decide (0x10 ≤ port) && decide (port < 0x40)
  let ss : List (Nat × Sel) := if eng then [(0, a)] else []
  onceAfter s (fun t _ => [need (isQ d && (!eng || t.scalarSrc a) && (portBind port 0).isSome) .illegalOperand]) ss (preBind d) fun i t q s1 =>
    match d with
    | .q n =>
      let v := (s1.scalar t a (q 0)).toNat
      let old := t.qregs[n.toNat]
      if eng ∧ (s1.physDie t.part t.ctx v).isNone then .check .illegalOperand true (s1.setTeam i t)
      else if old.partial' then .check .illegalOperand true (s1.setTeam i t)
      else if s1.walkInto i n.toNat ∨ old.whole then .hold (.walkEnd n.toNat) (s1.setTeam i t)
      else
        match portBind port v with
        | none => .check .illegalOperand true (s1.setTeam i t)
        | some p => .ok (s1.setTeam i { t.mend (qkey n.toNat) with qregs := t.qregs.set n.toNat { bind := p, fifo := [], staged := [] } n.isLt })
    | _ => .check .illegalOperand true s1

/-- QTRY (R240). -/
def execQtry (d a : Sel) (s : State) : Host.Outcome State Fault Refusal :=
  once s (fun t _ => [need (pairOk d && isQ a) .illegalOperand, t.popCheck a]) [] fun i t _ s1 =>
    match d, a with
    | .s r, .q n =>
      let port := t.qregs[n.toNat]
      match port.fifo with
      | [] => .ok (s1.setTeam i ((t.setS r 0).setS (r + 1) 0))
      | w :: ws =>
        .ok (s1.setTeam i (({ t with qregs := t.qregs.set n.toNat { port with fifo := ws } n.isLt }.setS r w).setS (r + 1) 1))
    | _, _ => .check .illegalOperand true s1

/-- The number of a bound port's command queue, for a team. -/
def State.portQueue (s : State) (i : Nat) (t : Team) (b : QBind) : Option Nat :=
  match b with
  | .copy => some (copyQueue i)
  | .engine v kind n => (s.physDie t.part t.ctx v).map fun d => engineQueue d kind n
  | _ => none

/-- The queue registers that a mask names. -/
def namedPorts (t : Team) (m : Nat) : List QPort := (List.range 16).filterMap fun k => if m.testBit k then t.qregs[k]? else none

/-- QFENCE (R247): one join entry in every named queue, in one step. Records staged whole before it enter first (log 22). -/
def execQfence (a : Sel) (s : State) : Host.Outcome State Fault Refusal :=
  once s (fun t _ => [need (t.scalarSrc a) .illegalOperand]) [(0, a)] fun i t q s1 =>
    let m := (s1.scalar t a (q 0)).toNat
    let ps := namedPorts t m
    if 2 ^ 16 ≤ m then .check .illegalOperand true (s1.setTeam i t)
    else if ps.any (fun p => p.bind == .fifo || p.partial') then .check .illegalOperand true (s1.setTeam i t)
    else if ps.any (fun p => p.bind == .unbound) then .check .queueHandle true (s1.setTeam i t)
    else
      let fl := t.setFlag true
      if t.flagFull fl then .hold (.flagFull (fl.getD 0)) (s1.setTeam i t)
      else if ps.any (·.whole) then .hold (.portsIn m) (s1.setTeam i t)
      else .ok ((s1.setTeam i t).enterOp i t { opOf i t s1 fl (.join (ps.filterMap fun p => s1.portQueue i t p.bind)) with mask := 0 } [])

/-- FIFO_POP_WAKE (R238): a team that waits for an entry of a FIFO, or for room in it, goes on. -/
def execFifoPopWake (t : Nat) (s : State) : Host.Outcome State Fault Refusal :=
  match s.team t with
  | none => .next s
  | some x =>
    match x.hold with
    | some (.fifoEmpty q) =>
      if ((x.qregs[q]?).map (·.fifo.isEmpty)).getD true then .next s else .next (s.setTeam t { x with hold := none })
    | some (.fifoFull q) =>
      match x.qregs[q]? with
      | none => .next s
      | some p =>
        let room := match p.bind with
          | .fifo => decide (p.fifo.length < Config.fifoDepth)
          | _ => !p.whole
        if room then .next (s.setTeam t { x with hold := none }) else .next s
    | _ => .next s

/-! ## Records enter their queues (R238, R242) -/

/-- Records of an engine's command queue. -/
def State.queued (s : State) (k : Nat) : Nat :=
  (s.ops.filter fun o => match o.2.kind with
    | .engine n .. => n == k
    | _ => false).length

/-- A whole record that the team staged before a port's, for the same queue, waits in another port: records enter their queue in the order in which their last words were staged (R242). -/
def Team.stagedBefore (t : Team) (p : QPort) : Bool := t.qregs.toList.any fun o => o.whole && o.bind == p.bind && decide (o.since < p.since)

/-- ENGINE_RECORD_ENTRY (R238, R241, R242): a record staged whole enters its queue, once there is room and the writes that its team issued before its last word are home. Copy records have entered theirs when they were staged (R243). -/
def execEngineRecordEntry (t : Nat) (q : BitVec 4) (s : State) : Host.Outcome State Fault Refusal :=
  match s.team t with
  | none => .next s
  | some x =>
    let port := x.qregs[q.toNat]
    if !port.whole || !s.writesHome (some t) port.since || x.stagedBefore port then .next s
    else
      let s1 := s.setTeam t { x with qregs := x.qregs.set q.toNat { port with staged := [] } q.isLt }
      let op : Op := { opOf t x s none .done with mask := 0 }
      match port.bind, s.portQueue t x port.bind with
      | .engine v _ _, some k =>
        if s.queued k < Config.engineDepth then
          .next { s1.bump with ops := cellPut s1.ops s1.stamp { op with kind := .engine k v x.cluster port.staged 0 false } }
        else .next s
      | _, _ => .next s

/-! ## What engines read and write -/

/-- A run of bytes read by an engine, line by line. -/
def State.agentGet (s : State) (p c die : Nat) : List (Nat × Nat) → Got (List Byte)
  | [] => .ok [] s
  | (va, n) :: ps =>
    match s.agentRead p c die va n with
    | .hold h s1 => .hold h s1
    | .fault f s1 => .fault f s1
    | .ok bs s1 =>
      match s1.agentGet p c die ps with
      | .ok cs s2 => .ok (bs ++ cs) s2
      | r => r

/-- Word k of a record. -/
def recWord (ws : List Word) (k : Nat) : Nat := ((ws[k]?).getD 0).toNat
/-- The address in words k and k + 1 of a record. -/
def recAddr (ws : List Word) (k : Nat) : Nat := recWord ws k + 2 ^ 32 * recWord ws (k + 1)

/-- The target of a completion is good (R241): a tack address passes R215. -/
def State.targetOk (s : State) (cl : Nat) (ws : List Word) : Option Cause :=
  if bits ((ws[0]?).getD 0) 14 13 = 1 then
    let a := recWord ws 1
    if a % 4 ≠ 0 then some .align
    else
      match s.cluster cl with
      | some c => if scratchOk c a 4 then none else some .scratchBounds
      | none => some .scratchBounds
  else none

/-- A fault of a record's body (R246). -/
def bodyFault (c : Cause) : LaneFault := plainFault 0 0 c

/-- A record that meets a fault stops (R246): ENGINE_RECORD_FAULT reports it. -/
def State.recordFails (s : State) (e : Nat) (f : LaneFault) : State :=
  match s.op e with
  | none => s
  | some x => s.setOp e { x with failed := [f] }

/-! ## Copy records (R243) -/

/-- A copy record breaks its table or the bounds of its cluster's scratch (R215, R242). DESIGN CHOICE: a scratch address that is no multiple of 128 is a break, with cause ALIGN (log 118). -/
def State.copyBody (s : State) (cl : Nat) (ws : List Word) : Option Cause :=
  let rb := recWord ws 5
  let rows := recWord ws 6
  if rb % 128 ≠ 0 ∨ rb < 128 ∨ 65536 < rb ∨ rows < 1 ∨ 4096 < rows ∨ recWord ws 8 % 128 ≠ 0 then some .illegalOperand
  else if recWord ws 2 % 128 ≠ 0 then some .align
  else
    match s.cluster cl with
    | none => some .scratchBounds
    | some c => if (List.range rows).all fun j => scratchOk c (recWord ws 2 + j * recWord ws 8) rb then s.targetOk cl ws else some .scratchBounds

/-- The memory address and scratch address of line n of a copy record. -/
def recLine (ws : List Word) (n : Nat) : Nat × Nat :=
  let per := recWord ws 5 / 128
  let j := n / per
  let l := n % per
  ((recAddr ws 3 + j * recWord ws 7 + 128 * l) % 2 ^ 64, recWord ws 2 + j * recWord ws 8 + 128 * l)

/-- The next line of a copy record moves (R243). -/
def copyRecStep (o : Nat) (inn : Bool) (s : State) : State :=
  match s.op o with
  | none => s
  | some x =>
    match x.kind, x.team with
    | .recCopy ws pos, some i =>
      match s.team i with
      | none => s
      | some t =>
        if x.mig || !x.failed.isEmpty || x.rel.isSome || !s.copyTurn i o || (bits ((ws[0]?).getD 0) 7 0 == 1) != inn || recLines ws ≤ pos then s
        else
          let die := coreDie x.core
          match (if pos = 0 then s.copyBody t.cluster ws else none) with
          | some c => s.recordFails o (bodyFault c)
          | none =>
            let (va, sa) := recLine ws pos
            let key := scratchKey sa
            let fwd (s : State) : State := match s.op o with
              | some y => s.setOp o { y with kind := .recCopy ws (pos + 1) }
              | none => s
            if inn then
              match s.agentGet x.part x.ctx die (piecesOf va 128) with
              | .hold h s1 => s1.holdOp o h
              | .fault f s1 => s1.recordFails o f
              | .ok bs s1 => (fwd s1).landScratch t.cluster key bs
            else
              match s.cluster t.cluster with
              | none => s
              | some c =>
                if !c.present key then s.copyHolds x key
                else if (List.range 4).any fun j => c.spoiled.contains (key / 32 + j) then s.recordFails o (bodyFault .memUncorr)
                else
                  match s.agentPut x.part x.ctx die (some x.dom) va (c.bytes key 128) (piecesOf va 128) with
                  | .hold h s1 => s1.holdOp o h
                  | .fault f s1 => s1.recordFails o f
                  | .ok _ s1 => fwd s1
    | _, _ => s

/-- ENGINE_COPY_IN (R243): the next line of a copy record moves into scratch. -/
def execEngineCopyIn (o : Nat) (s : State) : Host.Outcome State Fault Refusal := .next (copyRecStep o true s)
/-- ENGINE_COPY_OUT (R243): the next line of a copy record moves out of scratch. -/
def execEngineCopyOut (o : Nat) (s : State) : Host.Outcome State Fault Refusal := .next (copyRecStep o false s)

/-! ## Base-die engines -/

/-- Nothing before the record in its queue is left, and no join keeps it back (R242, R247). -/
def State.engineTurn (s : State) (e k : Nat) : Bool :=
  !(s.ops.any fun o => decide (o.1 < e) && match o.2.kind with
    | .engine n .. => n == k
    | .join qs => qs.contains k
    | _ => false)

/-- Block length of a code (R194). -/
def blkLen (c : Nat) : Nat := 4 * 2 ^ c

/-- Types of a conversion (R242). -/
def convType (n : Nat) : Option Ty := if 9 ≤ n ∧ n ≤ 13 then tyOf n else none

/-- A record's body keeps its table (R242, R244, R245); none where it does. -/
def engineBody (kind : Nat) (ws : List Word) : Option Cause :=
  let w := recWord ws
  let b (k hi lo : Nat) : Nat := bits ((ws[k]?).getD 0) hi lo
  let ok : Bool := match kind with
    | 0 =>
      let ty := b 9 15 8
      w 4 % 4 == 0 && decide (4 ≤ w 4) && decide (w 4 ≤ 4096) && decide (1 ≤ b 9 7 0)
        && (ty == 14 || ty == 2 || ty == 10) && (ty != 14 || b 9 7 0 == 1)
    | 1 => decide (1 ≤ b 2 3 0) && decide (b 2 3 0 ≤ 8) && decide (b 2 9 8 ≤ 2) && (b 2 20 16 == 2 || b 2 20 16 == 9 || b 2 20 16 == 10)
    | _ =>
      (convType (b 2 4 0)).isSome && (convType (b 2 12 8)).isSome && b 2 4 0 != b 2 12 8
        && (recAddr ws 8 == 0 || w 3 % blkLen (b 2 17 16) == 0)
        && ((b 2 4 0 != 13 && b 2 12 8 != 13) || w 3 % 8 == 0)
  if ok then none else some .illegalOperand

/-- The units of work of a record: output rows, elements, or elements and words of eight. -/
def engineUnits (kind : Nat) (ws : List Word) : Nat :=
  match kind with
  | 0 => recWord ws 8
  | 1 => recWord ws 3
  | _ => if bits ((ws[2]?).getD 0) 4 0 = 13 ∨ bits ((ws[2]?).getD 0) 12 8 = 13 then recWord ws 3 / 8 else recWord ws 3

/-- Combine of R244 and the additions of R245. -/
def combAdd (ty a b : Nat) : Nat := if ty = 2 then (a + b) % 2 ^ 32 else (fmtF32.add .rne false a b).1

/-- Rows of a gather combined word by word. -/
def combRows (ty : Nat) : List (List Word) → List Word
  | [] => []
  | [r] => r
  | r :: rs =>
    rs.foldl (fun acc x => (acc.zip x).map fun p => BitVec.ofNat 32 (combAdd ty p.1.toNat p.2.toNat)) r

/-- The rows that a gather's output is built from (R244): a row of zeros past the table. -/
def State.gatherRows (s : State) (p c die : Nat) (ws : List Word) : List Word → Got (List (List Word))
  | [] => .ok [] s
  | x :: xs =>
    let rb := recWord ws 4
    let next (r : List Word) (s : State) : Got (List (List Word)) :=
      match s.gatherRows p c die ws xs with
      | .ok rs s2 => .ok (r :: rs) s2
      | e => e
    if recWord ws 5 ≤ x.toNat then next (List.replicate (rb / 4) 0) s
    else
      let va := (recAddr ws 2 + x.toNat * rb) % 2 ^ 64
      match s.agentGet p c die (piecesOf va rb) with
      | .hold h s1 => .hold h s1
      | .fault f s1 => .fault f s1
      | .ok bs s1 => next (bytesWords (rb / 4) bs) s1

/-- Output row n of a gather (R244). -/
def State.gatherUnit (s : State) (p c die : Nat) (dom : Option Nat) (ws : List Word) (n : Nat) : Got Unit :=
  let pool := bits ((ws[9]?).getD 0) 7 0
  let idx := (recAddr ws 6 + 4 * (n * pool)) % 2 ^ 64
  match s.agentGet p c die (piecesOf idx (4 * pool)) with
  | .hold h s1 => .hold h s1
  | .fault f s1 => .fault f s1
  | .ok bs s1 =>
    match s1.gatherRows p c die ws (bytesWords pool bs) with
    | .hold h s2 => .hold h s2
    | .fault f s2 => .fault f s2
    | .ok rows s2 =>
      let dst := (recAddr ws 10 + n * recWord ws 4) % 2 ^ 64
      s2.agentPut p c die dom dst (wordsBytes (combRows (bits ((ws[9]?).getD 0) 15 8) rows)) (piecesOf dst (recWord ws 4))

/-- One step of a reduction (R245): add, min or max; BF16 elements have been widened to F32. -/
def reduceStep (op ty a b : Nat) : Nat :=
  if op = 0 then combAdd ty a b
  else if ty = 2 then
    let less := decide (signedOf 32 b < signedOf 32 a)
    if op = 1 then (if less then b else a) else (if less then a else b)
  else (fmtF32.minmax false (op == 2) a b).1

/-- The sources' elements of a reduction. -/
def State.reduceSrcs (s : State) (p c die : Nat) (size n : Nat) : List Nat → Got (List Nat)
  | [] => .ok [] s
  | a :: as =>
    let va := (a + size * n) % 2 ^ 64
    match s.agentGet p c die (piecesOf va size) with
    | .hold h s1 => .hold h s1
    | .fault f s1 => .fault f s1
    | .ok bs s1 =>
      match s1.reduceSrcs p c die size n as with
      | .ok xs s2 => .ok (bytesNat bs :: xs) s2
      | r => r

/-- Element n of a reduction (R245). DESIGN CHOICE: of one source it is the element as it stands, a NaN with its payload (log 106). -/
def State.reduceUnit (s : State) (p c die : Nat) (dom : Option Nat) (ws : List Word) (n : Nat) : Got Unit :=
  let w2 : Word := (ws[2]?).getD 0
  let ty := bits w2 20 16
  let size := if ty = 9 then 2 else 4
  match s.reduceSrcs p c die size n ((List.range (bits w2 3 0)).map fun k => recAddr ws (6 + 2 * k)) with
  | .hold h s1 => .hold h s1
  | .fault f s1 => .fault f s1
  | .ok xs s1 =>
    let ys := if ty = 9 then xs.map fun x => (floatToFloat fmtBF16 fmtF32 .rne false false x).1 else xs
    let r := match ys with
      | [] => 0
      | y :: rest => rest.foldl (reduceStep (bits w2 9 8) ty) y
    let out := if ty = 9 then (floatToFloat fmtF32 fmtBF16 .rne false false r).1 else r
    let dst := (recAddr ws 4 + size * n) % 2 ^ 64
    s1.agentPut p c die dom dst (natBytes out size) (piecesOf dst size)

/-- A source element's value for a conversion, after its own scale (R245). -/
def convIn (src : Ty) (flush : Bool) (c : Option Nat) (x k : Nat) : Val :=
  let k2 : Int := match c with
    | some c => (c : Int) - 127
    | none => 0
  let narrow := src == .e4m3 || src == .e5m2 || src == .q4x
  let v : Val := if src = .q4x then
      let y := (q4Slot x k).1
      .fin (decide (y.m < 0)) y.m.natAbs y.e
    else match fmtOf src with
      | some f => f.input flush x
      | none => .nan false
  match v with
  | .fin n m e => .fin n m (if narrow then e + k2 else e)
  | v => v

/-- A value scaled for a narrowing (R245). -/
def convScale (dst : Ty) (c : Option Nat) (v : Val) : Val :=
  let narrow := dst == .e4m3 || dst == .e5m2 || dst == .q4x
  match v, c with
  | .fin n m e, some c => .fin n m (if narrow then e + 127 - c else e)
  | v, _ => v

/-- A value as an element to quantise. -/
def valElem (v : Val) : QElem :=
  match v with
  | .nan _ => { q := 0, big := false, val := none, st := 0 }
  | .inf neg => { q := if neg then -1 else 1, big := true, val := none, st := 0 }
  | .fin neg m e =>
    let q := (roundInt .rne neg m e).1
    { q := q, big := decide (7 < q.natAbs), val := some { m := signedM neg m, e := e }, st := 0 }

/-- A value as a code of a float format (R104, R245). -/
def convOut (f : Fmt) (flush sat : Bool) (v : Val) : Nat :=
  match v with
  | .nan _ => f.nan
  | .inf a => if f.hasInf then f.signed a (f.maxCode + 1) else if sat then f.signed a f.maxCode else f.nan
  | .fin a m e => (f.round .rne flush sat a m e).1

/-- Bits of an element in memory. -/
def convBits (y : Ty) : Nat := if y = .q4x then 4 else y.width

/-- The scale code of element t of a conversion: none for unit scales (R245). -/
def State.convCode (s : State) (p c die : Nat) (ws : List Word) (t : Nat) : Got (Option Nat) :=
  if recAddr ws 8 = 0 then .ok none s
  else
    let va := (recAddr ws 8 + t / blkLen (bits ((ws[2]?).getD 0) 17 16)) % 2 ^ 64
    match s.agentRead p c die va 1 with
    | .hold h s1 => .hold h s1
    | .fault f s1 => .fault f s1
    | .ok bs s1 => .ok (some (bytesNat bs)) s1

/-- The scale codes of a run of elements. -/
def State.convCodes (s : State) (p c die : Nat) (ws : List Word) : List Nat → Got (List (Option Nat))
  | [] => .ok [] s
  | t :: ts =>
    match s.convCode p c die ws t with
    | .hold h s1 => .hold h s1
    | .fault f s1 => .fault f s1
    | .ok x s1 =>
      match s1.convCodes p c die ws ts with
      | .ok xs s2 => .ok (x :: xs) s2
      | r => r

/-- Unit n of a conversion (R245): one element, or eight where either side is Q4X. A NaN scale gives a NaN. DESIGN CHOICE: no sticky bit of any team is set (log 104). -/
def State.convertUnit (s : State) (p c die : Nat) (dom : Option Nat) (ws : List Word) (n : Nat) : Got Unit :=
  let w2 : Word := (ws[2]?).getD 0
  match convType (bits w2 4 0), convType (bits w2 12 8) with
  | some src, some dst =>
    let m := if src = .q4x ∨ dst = .q4x then 8 else 1
    let inBytes := convBits src * m / 8
    let outBytes := convBits dst * m / 8
    let va := (recAddr ws 4 + inBytes * n) % 2 ^ 64
    match s.agentGet p c die (piecesOf va inBytes) with
    | .hold h s1 => .hold h s1
    | .fault f s1 => .fault f s1
    | .ok bs s1 =>
      match s1.convCodes p c die ws ((List.range m).map fun k => n * m + k) with
      | .hold h s2 => .hold h s2
      | .fault f s2 => .fault f s2
      | .ok cs s2 =>
        let x := bytesNat bs
        let vals : List Val := (List.range m).map fun k =>
          let code := (cs[k]?).getD none
          if code = some 255 then .nan false
          else convScale dst code (convIn src (bit w2 25) code (if src = .q4x then x else slice x (convBits src) k) k)
        let out : Nat := if dst = .q4x then (q4Pairs (vals.map valElem)).1
          else match fmtOf dst with
            | some f => (vals.zipIdx.map fun v => convOut f (bit w2 25) (bit w2 24) v.1 * 2 ^ (f.width * v.2)).foldl (· + ·) 0
            | none => 0
        let dest := (recAddr ws 6 + outBytes * n) % 2 ^ 64
        s2.agentPut p c die dom dest (natBytes out outBytes) (piecesOf dest outBytes)
  | _, _ => .fault (bodyFault .illegalOperand) s

/-- The kind of an engine queue's number. -/
def queueKind (k : Nat) : Nat := k / 2 / 16 % 4

/-- The next unit of the record at the head of an engine queue (R242). -/
def engineStep (e kind : Nat) (unit : State → Nat → Nat → Nat → Option Nat → List Word → Nat → Got Unit) (s : State) : State :=
  match s.op e with
  | none => s
  | some x =>
    match x.kind with
    | .engine k v cl ws pos stopped =>
      if stopped || x.mig || !x.failed.isEmpty || queueKind k != kind || !s.engineTurn e k || engineUnits kind ws ≤ pos then s
      else
        match (if pos = 0 then (match engineBody kind ws with
          | some c => some c
          | none => s.targetOk cl ws) else none) with
        | some c => s.recordFails e (bodyFault c)
        | none =>
          match unit s x.part x.ctx (k / 2 / 64) (some x.dom) ws pos with
          | .hold h s1 => s1.holdOp e h
          | .fault f s1 => s1.recordFails e f
          | .ok _ s1 => match s1.op e with
            | some y => s1.forget.setOp e { y with kind := .engine k v cl ws (pos + 1) stopped }
            | none => s1
    | _ => s

/-- ENGINE_GATHER (R244): the next output row of a gather. -/
def execEngineGather (e : Nat) (s : State) : Host.Outcome State Fault Refusal := .next (engineStep e 0 State.gatherUnit s)
/-- ENGINE_REDUCE (R245): the next element of a reduction. -/
def execEngineReduce (e : Nat) (s : State) : Host.Outcome State Fault Refusal := .next (engineStep e 1 State.reduceUnit s)
/-- ENGINE_CONVERT (R245): the next elements of a conversion. -/
def execEngineConvert (e : Nat) (s : State) : Host.Outcome State Fault Refusal := .next (engineStep e 2 State.convertUnit s)

/-! ## Completion and faults -/

/-- What an engine command's completion does (R242): nothing, an arrival at a tack, or a decrement of a knot from the engine's die. -/
def State.complete (s : State) (e : Nat) (x : Op) (cl v : Nat) (ws : List Word) : State :=
  let d := bits ((ws[0]?).getD 0) 14 13
  if d = 1 then
    if s.tackReachable cl (some (scratchKey (recWord ws 1))) then (s.arrive cl (scratchKey (recWord ws 1))).endOp e x else s
  else if d = 2 then
    let die := (s.physDie x.part x.ctx v).getD 0
    match s.agentHandle x.part x.ctx die ((ws[1]?).getD 0) .knot with
    | .hold h s1 => s1.holdOp e h
    | .fault f s1 => s1.recordFails e f
    | .ok none s1 => s1.recordFails e (bodyFault .staleHandle)
    | .ok (some n) s1 =>
      if s1.knotOk x.part n then (s1.endOp e x).agentDec (knotKey x.part n) x.part x.ctx v (recWord ws 1)
      else s1.recordFails e (bodyFault .staleHandle)
  else s.endOp e x

/-- A record of no unit passes the checks of its body and of its target before it completes (R241, R246). -/
def State.emptyBody (s : State) (kind cl : Nat) (ws : List Word) : Option Cause :=
  if engineUnits kind ws = 0 then
    match engineBody kind ws with
    | some c => some c
    | none => s.targetOk cl ws
  else none

/-- The scope of a record's completion (R241). -/
def recScope (ws : List Word) : Nat := bits ((ws[0]?).getD 0) 17 15

/-- ENGINE_COMPLETION (R242, R246, R288): every unit is done, and the release at ce.scope covers what the team had observed; the completion is performed and the record leaves its queue. -/
def execEngineCompletion (e : Nat) (s : State) : Host.Outcome State Fault Refusal :=
  match s.op e with
  | none => .next s
  | some x =>
    if x.mig || !x.failed.isEmpty then .next s
    else
      match x.kind, x.team with
      | .engine k v cl ws pos stopped, _ =>
        if stopped || !s.engineTurn e k || pos < engineUnits (queueKind k) ws || !s.coveredAt (recScope ws) x.team x.dom e then .next s
        else
          match s.emptyBody (queueKind k) cl ws with
          | some c => .next (s.recordFails e (bodyFault c))
          | none => .next (s.complete e x cl v ws)
      | .recCopy ws pos, some i =>
        match s.team i with
        | none => .next s
        | some t =>
          if x.rel.isSome || pos < recLines ws || !s.copyLast i e || !s.writesHome (some i) e || !s.coveredAt (recScope ws) x.team x.dom e then .next s
          else
            match (if recLines ws = 0 then s.copyBody t.cluster ws else none) with
            | some c => .next (s.recordFails e (bodyFault c))
            | none => .next (s.complete e x t.cluster t.vdie ws)
      | _, _ => .next s

/-- The port number of a record's queue, in fo.code (log 23). -/
def recPort (x : Op) : Nat :=
  match x.kind with
  | .engine k .. => 16 * (queueKind k + 1) + k / 2 % 16
  | _ => 2

/-- The first address that a record names (R246): its low word in fo.obj, its high word in fo.pc (log 23). -/
def recFirst (x : Op) : Nat :=
  match x.kind with
  | .engine k _ _ ws _ _ => if queueKind k = 0 then recAddr ws 2 else recAddr ws 4
  | .recCopy ws _ => recAddr ws 3
  | _ => 0

/-- ENGINE_RECORD_FAULT (R246): the queue stops and the fault goes to the owner, and to the operator for its causes; no team parks. A stopped copy record is marked by its release field. -/
def execEngineRecordFault (e : Nat) (s : State) : Host.Outcome State Fault Refusal :=
  match s.op e with
  | none => .next s
  | some x =>
    match x.failed with
    | [] => .next s
    | f :: _ =>
      let halt (k : OpKind) (v : Nat) : State :=
        let s1 := s.setOp e { x with failed := [], kind := k, rel := if k == x.kind then some 0 else x.rel }
        s1.takeTrap { contextInfo x.part x.ctx (recFirst x % 2 ^ 32) (recPort x) v f (.engine e) with pc := recFirst x / 2 ^ 32 }
      match x.kind with
      | .engine k v cl ws pos _ => .next (halt (.engine k v cl ws pos true) v)
      | .recCopy ws pos => .next (halt (.recCopy ws pos) ((x.team.bind s.team).map (·.vdie) |>.getD 0))
      | _ => .next s

end Sys2Proof.Machine
end

