-- ==== Sys2Proof/Machine/Matrix.lean ====
section
/-! DEFINITION. Matrix: the accumulator and its windows (R189 to R191, R200, R201, R205 to R207), swatches (R194, R195, R199), the matrix step (R185 to R187), and loops: MMA, MLOOP, MGRP and MATRIX_STEP (R163 to R170, R192, R193, R196 to R198, R202 to R204). -/

namespace Sys2Proof.Machine

open Sys2Proof

/-! ## The accumulator -/

/-- Where an element of a lane group's window stands: rows are kept with the team that holds them. -/
def accKey (i g row col : Nat) : Nat := i * 2 ^ 21 + g * 2 ^ 16 + row * 64 + col

/-- An accumulator element, row relative to the window. -/
def State.accAt (s : State) (i g row col : Nat) : Word := cellGet 0 s.acc (accKey i g row col)
/-- The state with an accumulator element written; an error in it ends (R397). -/
def State.setAcc (s : State) (i g row col : Nat) (w : Word) : State :=
  { s with acc := cellPut s.acc (accKey i g row col) w, soft := s.soft.filter (· != accKey i g row col) }
/-- Rows of a window set to +0. -/
def State.clearRows (s : State) (i g row n : Nat) : State :=
  let keep (k : Nat) : Bool := !(decide (accKey i g row 0 ≤ k) && decide (k < accKey i g (row + n) 0))
  { s with acc := s.acc.filter fun a => keep a.1, soft := s.soft.filter keep }

/-- A run of rows of a window holds an element with an uncorrectable error (R397). -/
def State.rowsSpoilt (s : State) (i : Nat) (r : Nat × Nat × Nat) : Bool :=
  s.soft.any fun k => decide (accKey i r.1 r.2.1 0 ≤ k) && decide (k < accKey i r.1 (r.2.1 + r.2.2) 0)

/-- A lane group's window. -/
def Team.win (t : Team) (g : Nat) : AccWin := (t.acwin[g]?).getD { base := 0, rows := 0 }

/-- The lane groups with an active lane, ascending (R163). -/
def Team.actGroups (t : Team) : List Nat := (List.range 32).filter fun g => maskWord t.eff g != 0
/-- The lowest active lane of a group. -/
def Team.lowLane (t : Team) (g : Nat) : Nat := ((t.active.filter fun l => l / 32 == g).head?).getD 0

/-- First row and rows of row group k of a loop. -/
def Loop.rowsOf (l : Loop) (k : Nat) : Nat × Nat := (l.row + (l.offs[k]?).getD 0, (l.offs[k + 1]?).getD 0 - (l.offs[k]?).getD 0)

/-- The runs of rows that a lane group of a loop has not retired (R191, R204). -/
def Loop.unretired (l : Loop) (x : LoopGrp) : List (Nat × Nat) :=
  if l.total ≤ x.pos then [] else (l.busyGroups.drop (x.pos / l.steps)).map l.rowsOf

/-- A loop of the team stamped before n has a run of rows of a group unretired (R191). -/
def State.rowsBusy (s : State) (i n g row len : Nat) : Bool :=
  s.ops.any fun o => o.2.team == some i && decide (o.1 < n) && match o.2.kind with
    | .loop l => l.groups.any fun x => x.g == g && (l.unretired x).any fun r => overlaps r.1 r.2 row len
    | _ => false

/-- A failed check of a window (R189): the whole effective mask unfinished, the lowest lane of the lowest failing group the primary. -/
def winTrap (i : Nat) (t : Team) (s : State) (g : Nat) (c : Cause) : Res :=
  .trap { checkInfo i t false c 0 .whole with faults := [plainFault (t.lowLane g) 0 c] } (s.setTeam i t)

/-- The core rows of a window, in its order. -/
def AccWin.places (w : AccWin) : List Nat := if w.split.isEmpty then (List.range w.rows).map (w.base + ·) else w.split

/-- A run of rows passes a group's window (R189). -/
def Team.outside (t : Team) (r : Nat × Nat × Nat) : Bool := r.2.2 != 0 && decide ((t.win r.1).rows < r.2.1 + r.2.2)

/-- The window check, then the row scoreboard (R170, R189, R191), over runs (group, row, count). -/
def rowOp (i : Nat) (t : Team) (s : State) (runs : List (Nat × Nat × Nat)) (k : State → Res) : Res :=
  match runs.find? t.outside with
  | some r => winTrap i t s r.1 .accWindow
  | none => if runs.any fun r => s.rowsBusy i s.stamp r.1 r.2.1 r.2.2 then .hold (.rows runs) (s.setTeam i t) else k s

/-- A rowOp that reads its rows: the lanes of a group that meets an uncorrectable error fault (R397). -/
def rowRead (i : Nat) (t : Team) (s : State) (runs : List (Nat × Nat × Nat)) (k : State → Res) : Res :=
  rowOp i t s runs fun s1 =>
    let gs := (runs.filter fun r => s1.rowsSpoilt i r).map (·.1)
    if gs.isEmpty then k s1
    else .trap (lanesInfo i t t.pc.toNat false ((t.active.filter fun l => gs.contains (l / 32)).map fun l => plainFault l 0 .memUncorr) .whole) (s1.setTeam i t)

/-- Rows of a core in use by the windows of its teams, spilled ones among them until their rows have flipped away (R363); `skip` is left out. -/
def State.rowUsed (s : State) (core : Nat) (skip : Nat × Nat) (row : Nat) : Bool :=
  s.teams.any fun e => e.2.core == core && (e.2.place == .placed || (e.2.place == .spilled && e.2.rowsAway.isNone))
    && !(s.ctx e.2.part e.2.ctx).sealed && (List.range 32).any fun g => (e.1, g) != skip && (e.2.win g).places.contains row

/-- The lowest row of a core from which n rows are free (R200). -/
def State.freeRun (s : State) (core : Nat) (skip : Nat × Nat) (n : Nat) : Option Nat :=
  (List.range (Config.accRows + 1 - n)).find? fun b => (List.range n).all fun k => !s.rowUsed core skip (b + k)

/-- The free rows of a core (R200). -/
def State.freeRows (s : State) (core : Nat) (skip : Nat × Nat) : List Nat := (List.range Config.accRows).filter fun r => !s.rowUsed core skip r

/-- A window of n rows of a core, as soon as n are free (R200): a run of them, or, where they lie apart, the lowest ones (log 43). -/
def State.allot (s : State) (core : Nat) (skip : Nat × Nat) (n : Nat) : Option AccWin :=
  match s.freeRun core skip n with
  | some b => some { base := if n = 0 then 0 else b, rows := n }
  | none =>
    let rs := (s.freeRows core skip).take n
    if rs.length < n then none else some { base := (rs.head?).getD 0, rows := n, split := rs }

/-- A team's windows with one replaced. -/
def Team.setWin (t : Team) (g : Nat) (w : AccWin) : Team := { t with acwin := t.acwin.setIfInBounds g w }

/-- Rows that the team's other groups hold (R200). -/
def Team.otherRows (t : Team) (g : Nat) : Nat := (List.range 32).foldl (fun n k => if k = g then n else n + (t.win k).rows) 0

/-- ACWIN's checks of the operand that stands in no queue register (R200). -/
def preWin (d a : Sel) (i : Nat) (t : Team) (s : State) : Res :=
  if (!isQ d && decide (t.groups ≤ (s.scalar t d 0).toNat)) || (!isQ a && decide (Config.accRows < (s.scalar t a 0).toNat)) then
    .check .illegalOperand false (s.setTeam i t)
  else .ok s

/-- ACWIN (R164, R200, R302). -/
def execAcwin (d a : Sel) (s : State) : Host.Outcome State Fault Refusal :=
  sweepPre s (fun t _ => [need (t.actGroups.all (· == 0)) .rights, need (t.scalarSrc d && t.scalarSrc a && t.wave.isNone) .illegalOperand]) [a, d]
    (fun _ => popsOnce [(0, a), (2, d)]) (preWin d a) fun i t q s1 =>
    let g := (s1.scalar t d (q 2 0)).toNat
    let n := (s1.scalar t a (q 0 0)).toNat
    if t.groups ≤ g ∨ Config.accRows < n + t.otherRows g then .check .illegalOperand false (s1.setTeam i t)
    else if s1.rowsBusy i s1.stamp g 0 Config.accRows then .hold (.rows [(g, 0, Config.accRows)]) (s1.setTeam i t)
    else
      let t1 := t.setWin g { base := 0, rows := 0 }
      let s2 := (s1.setTeam i t1).clearRows i g 0 Config.accRows
      match s2.allot t.core (i, g) n with
      | none => .hold (.accRows n) s2
      | some w => .ok (s2.setTeam i (t1.setWin g w))

/-- ACZERO (R164, R201). -/
def execAczero (a b : Sel) (s : State) : Host.Outcome State Fault Refusal :=
  sweepOn s (fun t _ => [need (t.scalarSrc a && t.scalarSrc b) .illegalOperand]) [a, b] (fun t => t.active) (fun _ => popsOnce [(0, a), (1, b)])
    fun i t q s1 =>
    let row := (s1.scalar t a (q 0 0)).toNat
    let n := (s1.scalar t b (q 1 0)).toNat
    rowOp i t s1 (t.actGroups.map fun g => (g, row, n)) fun s2 =>
      .ok (t.actGroups.foldl (fun s g => s.clearRows i g row n) (s2.setTeam i t))

/-- A row operand (R163, R205): a scalar source, in which LID and GID read 0 (R80), or each group's lowest active lane of a V register. -/
def rowOf (t : Team) (s : State) (a : Sel) (q : Nat → Nat → Word) (g : Nat) : Nat :=
  match a with
  | .v r => (t.v (t.lowLane g) r.toNat).toNat
  | _ => (s.scalar t a (q 0 0)).toNat

/-- A pair of sources for the two columns of a lane: V registers b and b+1, or one scalar (R205, R207). -/
def pairAt (t : Team) (s : State) (b : Sel) (q : Nat → Nat → Word) (lane : Nat) : Word × Word :=
  match b with
  | .v r => (t.v lane r.toNat, t.v lane (r.toNat + 1))
  | _ => (s.scalar t b (q 1 0), s.scalar t b (q 1 0))

/-- The window check of rows whose operand stands in no queue register (R55, R189): it comes before any pop. -/
def preRows (a : Sel) (runs : Team → State → List (Nat × Nat × Nat)) (i : Nat) (t : Team) (s : State) : Res :=
  if isQ a then .ok s
  else match (runs t s).find? t.outside with
    | some r => winTrap i t s r.1 .accWindow
    | none => .ok s

/-- The rows of the active groups that a row operand names, where it is popped from no queue register. -/
def groupRows (a : Sel) (t : Team) (s : State) : List (Nat × Nat × Nat) := t.actGroups.map fun g => (g, rowOf t s a (fun _ _ => 0) g, 1)

/-- A first register of a pair, or a scalar source. -/
def Team.pairSrc (t : Team) : Sel → Bool
  | .v r => t.vOk r 2
  | a => t.scalarSrc a

/-- ACRD (R167, R188, R205). -/
def execAcrd (d a b : Sel) (s : State) : Host.Outcome State Fault Refusal :=
  sweepPre s (fun t _ => [need ((match d with | .v r => t.vOk r 2 | _ => false) && t.vectorSrc a && t.pairSrc b) .illegalOperand]) [a, b]
    (fun _ => popsOnce [(0, a), (1, b)]) (preRows a (groupRows a)) fun i t q s1 =>
    match d with
    | .v r =>
      rowRead i t s1 (t.actGroups.map fun g => (g, rowOf t s1 a q g, 1)) fun s2 =>
        let rs := t.active.map fun l =>
          let row := rowOf t s2 a q (l / 32)
          let c := pairAt t s2 b q l
          (l, fmtF32.mul .rne t.flush (s2.accAt i (l / 32) row (l % 32)).toNat c.1.toNat,
            fmtF32.mul .rne t.flush (s2.accAt i (l / 32) row (32 + l % 32)).toNat c.2.toNat)
        let t1 := rs.foldl (fun t x => (t.setVs x.1 r.toNat [BitVec.ofNat 32 x.2.1.1, BitVec.ofNat 32 x.2.2.1]).addStatus (x.2.1.2 ||| x.2.2.2)) t
        .ok (s2.setTeam i t1)
    | _ => .check .illegalOperand false (s1.setTeam i t)

/-- ACRDX (R206). -/
def execAcrdx (d a b : Sel) (s : State) : Host.Outcome State Fault Refusal :=
  sweepPre s (fun t _ => [need ((match d with | .v r => t.vOk r 1 | _ => false) && t.scalarSrc a && t.scalarSrc b) .illegalOperand]) [a, b]
    (fun _ => popsOnce [(0, a), (1, b)])
    (preRows a fun t s => t.active.map fun l => (l / 32, (s.scalar t a 0).toNat + l % 32, 1)) fun i t q s1 =>
    match d with
    | .v r =>
      let row := (s1.scalar t a (q 0 0)).toNat
      let col := (s1.scalar t b (q 1 0)).toNat % 64
      rowRead i t s1 (t.active.map fun l => (l / 32, row + l % 32, 1)) fun s2 =>
        .ok (s2.setTeam i (t.active.foldl (fun t l => t.setV l r.toNat (s2.accAt i (l / 32) (row + l % 32) col)) t))
    | _ => .check .illegalOperand false (s1.setTeam i t)

/-- AccAdd (R187): the sum and its status bits; the matrix unit sets no others (R186). -/
def accAdd (flush : Bool) (acc x : Word) : Word × Nat :=
  let r := fmtF32.add .rne flush acc.toNat x.toNat
  (BitVec.ofNat 32 r.1, r.2 &&& (stInv + stOvf))

/-- Columns of lanes updated by a function of the column and its source; the status bits gathered. -/
def State.writeCols (s : State) (i : Nat) (f : Word → Word → Word × Nat) : List (Nat × Nat × Nat × Word) → State × Nat
  | [] => (s, 0)
  | (g, row, col, w) :: cs =>
    let r := f (s.accAt i g row col) w
    let (s1, st) := (s.setAcc i g row col r.1).writeCols i f cs
    (s1, r.2 ||| st)

/-- ACWR and ACADD (R207). -/
def rowWrite (s : State) (a b : Sel) (reads : Bool) (f : Bool → Word → Word → Word × Nat) : Host.Outcome State Fault Refusal :=
  sweepPre s (fun t _ => [need (t.vectorSrc a && t.pairSrc b) .illegalOperand]) [a, b]
    (fun _ => popsOnce [(0, a), (1, b)]) (preRows a (groupRows a)) fun i t q s1 =>
    (if reads then rowRead else rowOp) i t s1 (t.actGroups.map fun g => (g, rowOf t s1 a q g, 1)) fun s2 =>
      let cols := (t.active.map fun l =>
        let row := rowOf t s2 a q (l / 32)
        let c := pairAt t s2 b q l
        [(l / 32, row, l % 32, c.1), (l / 32, row, 32 + l % 32, c.2)]).flatten
      let (s3, st) := (s2.setTeam i t).writeCols i (f t.flush) cols
      .ok (s3.setTeam i (t.addStatus st))

/-- ACWR (R207). -/
def execAcwr (a b : Sel) (s : State) : Host.Outcome State Fault Refusal := rowWrite s a b false fun _ _ w => (w, 0)
/-- ACADD (R207). -/
def execAcadd (a b : Sel) (s : State) : Host.Outcome State Fault Refusal := rowWrite s a b true accAdd

/-! ## Swatches -/

/-- What a swatch says (R194). -/
structure Swatch where
  afmt : Ty
  bfmt : Ty
  depth : Nat
  blk : Nat
  unit : Bool
  ascale : Nat
  deriving DecidableEq, Repr

/-- The swatch of a record's words: none where it is not valid (R195). -/
def swatchOf (ws : List Word) : Option Swatch :=
  let w (k : Nat) : Word := (ws[k]?).getD 0
  let l := 4 * 2 ^ bits (w 0) 17 16
  let eight (y : Ty) : Bool := y == .e4m3 || y == .e5m2
  match tyOf (bits (w 0) 4 0), tyOf (bits (w 0) 12 8) with
  | some a, some b =>
    let depth := if a = .q4x ∧ b = .q4x then 64 else if eight a && eight b then 32
      else if (a = .f16 ∧ b = .f16) ∨ (a = .bf16 ∧ b = .bf16) then 16 else 0
    if depth = 0 ∨ depth < l then none
    else some { afmt := a, bfmt := b, depth := depth, blk := l, unit := bit (w 0) 24, ascale := (w 1).toNat }
  | _, _ => none

/-- The rest of a matrix instruction with the current swatch's record read (R195). -/
def withSwatch (i : Nat) (t : Team) (s : State) (k : List Word → State → Res) : Res :=
  match t.swatch with
  | none => .check .swatchInvalid false (s.setTeam i t)
  | some va => withRecord i t s false va 32 32 fun ws s1 =>
    match swatchOf ws with
    | none => .check .swatchInvalid false (s1.setTeam i t)
    | some _ => k ws s1

/-- SWSEL (R164, R199). -/
def execSwsel (a : Sel) (s : State) : Host.Outcome State Fault Refusal :=
  once s (fun t _ => [need (t.scalarSrc a) .illegalOperand]) [(0, a)] fun i t q s1 =>
    let h := s1.scalar t a (q 0)
    if h = 0 then .ok (s1.setTeam i { t with swatch := none })
    else withHandle i t s1 true h .swatch fun va s2 => .ok (s2.setTeam i { t with swatch := some va })

/-! ## The matrix step (R185, R186) -/

/-- A sum of products on its way: the exact sum of the finite terms, the infinities and NaNs met, whether a NaN was made here, and whether some term is not -0. -/
structure StepSum where
  sum : Dy
  pinf : Bool
  ninf : Bool
  nan : Bool
  inv : Bool
  other : Bool
  deriving DecidableEq, Repr

/-- No term yet. -/
def StepSum.zero : StepSum := { sum := { m := 0, e := 0 }, pinf := false, ninf := false, nan := false, inv := false, other := false }

/-- A product scaled by 2^k added. -/
def StepSum.term (x : StepSum) (k : Int) (a b : Val) : StepSum :=
  match (mulVals a b).1 with
  | .nan _ => { x with nan := true, inv := x.inv || !anyNan [a, b], other := true }
  | .inf n => { x with pinf := x.pinf || !n, ninf := x.ninf || n, other := true }
  | .fin n m e => { x with sum := Dy.add x.sum { m := signedM n m, e := e + k }, other := x.other || !(n && m == 0) }

/-- The products of one block, under its scale code; code 255 is a NaN (R173, R186). -/
def StepSum.block (x : StepSum) (code : Nat) : List (Val × Val) → StepSum
  | ps =>
    if code = 255 then { x with nan := true, inv := true, other := true }
    else ps.foldl (fun x p => x.term ((code : Int) - 127) p.1 p.2) x

/-- The step result and its status bits (R185, R186). -/
def StepSum.result (x : StepSum) (flush : Bool) : Word × Nat :=
  if x.nan || (x.pinf && x.ninf) then (0x7FC00000, if x.inv || (x.pinf && x.ninf) then stInv else 0)
  else if x.pinf then (0x7F800000, 0)
  else if x.ninf then (0xFF800000, 0)
  else
    let r := fmtF32.roundDy .rne flush false (!x.other) x.sum
    (BitVec.ofNat 32 r.1, r.2 &&& stOvf)

/-- Element k of a word under a format, and whether it is an anomaly of R176. DESIGN CHOICE: a Q4X 0 is +0, so that its product with a negative value is -0 (log 105). -/
def fragElem (y : Ty) (flush : Bool) (w k : Nat) : Val × Bool :=
  if y = .q4x then
    let e := q4Slot w k
    (.fin (decide (e.1.m < 0)) e.1.m.natAbs e.1.e, e.2)
  else match fmtOf y with
    | some f => (f.input flush (slice w f.width k), false)
    | none => (.nan false, false)

/-- Bits of an element of a fragment (R196). -/
def fragBits (y : Ty) : Nat := if y = .q4x then 4 else y.width

/-- Row i of an A fragment, or column i of a B fragment, decoded (R196): the words stand register by register, 32 lanes each. -/
def fragLine (y : Ty) (flush : Bool) (depth : Nat) (ws : List Word) (i : Nat) : List (Val × Bool) :=
  (List.range depth).map fun t =>
    let b := t * fragBits y
    fragElem y flush (((ws[(8 * (i / 32) + b / 32) * 32 + i % 32]?).getD 0).toNat) (b % 32 / fragBits y)

/-- The blocks of a list, n elements each. -/
def blocksOf {α : Type} (n : Nat) (xs : List α) (count : Nat) : List (List α) := (List.range count).map fun j => (xs.drop (j * n)).take n

/-- StepResult of a decoded row and column, with the row's scale codes (R185). -/
def stepResult (sw : Swatch) (flush : Bool) (codes : List Nat) (row col : List Val) : Word × Nat :=
  (((blocksOf sw.blk (row.zip col) (sw.depth / sw.blk)).zip codes).foldl (fun x b => x.block b.2 b.1) StepSum.zero).result flush

/-- The step results of a row added to its accumulator row; the status bits gathered. -/
def State.addRow (s : State) (i g row : Nat) (sw : Swatch) (flush : Bool) (codes : List Nat) (a : List Val) : List (List Val × Nat) → State × Nat
  | [] => (s, 0)
  | (col, n) :: cs =>
    let x := stepResult sw flush codes a col
    let y := accAdd flush (s.accAt i g row n) x.1
    let (s1, st) := (s.setAcc i g row n y.1).addRow i g row sw flush codes a cs
    (s1, x.2 ||| y.2 ||| st)

/-- One step over the rows of a row group: row k of the list is fragment row lo + k (R166, R202, R203). DESIGN CHOICE: an odd-slot marker (R176) in a row outside the group sets no st.fmt (log 103). -/
def State.addRows (s : State) (i g row lo : Nat) (sw : Swatch) (flush : Bool) (a : List Word) (cols : List (List Val × Nat)) : List (List Nat) → State × Nat
  | [] => (s, 0)
  | codes :: rest =>
    let line := fragLine sw.afmt flush sw.depth a lo
    let (s1, st) := s.addRow i g row sw flush codes (line.map (·.1)) cols
    let (s2, st2) := s1.addRows i g (row + 1) (lo + 1) sw flush a cols rest
    (s2, st ||| st2 ||| (if line.any (·.2) then stFmt else 0))

/-! ## Loops -/

/-- Room for one more loop of the team and of its core (R192). A loop that PREEMPT stopped keeps its place (R193). -/
def State.loopRoom (s : State) (i core : Nat) : Bool :=
  let loops := s.ops.filter fun o => match o.2.kind with
    | .loop _ => true
    | _ => false
  decide ((loops.filter fun o => o.2.team == some i).length < 4) && decide ((loops.filter fun o => o.2.core == core).length < 64)

/-- A loop issues (R192, R198, R393): it holds for its flag, for room and for a unit that is asleep, which it asks to wake. -/
def loopStart (i : Nat) (t : Team) (s : State) (l : Loop) : Res :=
  let fl := t.setFlag true
  if t.flagFull fl then .hold (.flagFull (fl.getD 0)) (s.setTeam i t)
  else if l.total ≠ 0 && !s.loopRoom i t.core then .hold .loopRoom (s.setTeam i t)
  else if (s.core t.core).asleep then .hold (.unitAsleep s.stamp) (s.bump.setTeam i t)
  else .ok ((s.setTeam i t).enterOp i t (opOf i t s fl (.loop l)) [])

/-- Lane groups at the start of a loop. -/
def Team.newGroups (t : Team) (frags : Nat → List Word) : List LoopGrp :=
  t.actGroups.map fun g => { g := g, pos := 0, stopped := false, frags := frags g, bufs := [] }

/-- A fragment register of a lane; lanes that do not exist have no stated value (R57; log 7). -/
def fragWord (t : Team) (s : State) (lane r : Nat) : Word :=
  if lane < t.nlanes then t.v lane r else bytesWord ((List.range 4).map fun k => Config.freeByte s.stamp ((lane * 128 + r) * 4 + k))

/-- Sixteen registers of a lane group (R196). -/
def fragRegs (t : Team) (s : State) (g r : Nat) : List Word :=
  ((List.range 16).map fun k => (List.range 32).map fun p => fragWord t s (32 * g + p) (r + k)).flatten

/-- MMA (R195, R202). -/
def execMma (d a b : Sel) (s : State) : Host.Outcome State Fault Refusal :=
  sweepHandle s (fun t _ => [need ((match d with | .s n => n.toNat ≤ 62 | _ => false) && (match a, b with
      | .v m, .v n => t.vOk m 16 && t.vOk n 16
      | _, _ => false)) .illegalOperand]) d [] (fun _ => []) fun i t _ s1 =>
    match d, a, b with
    | .s n, .v ra, .v rb => withSwatch i t s1 fun ws s2 => ifActive i t s2 fun s3 =>
      let row := (t.s n).toNat
      match (t.actGroups.map fun g => (g, row, 64)).find? t.outside with
      | some r => winTrap i t s3 r.1 .accWindow
      | none => loopStart i t s3
          { fn := 0, sw := ws, flush := t.flush, vbase := t.pair 62, record := [], row := row, offs := [0, 64], stride := 0,
            step0 := (t.s (n + 1)).toNat, st := 0, groups := t.newGroups fun g => fragRegs t s3 g ra.toNat ++ fragRegs t s3 g rb.toNat }
    | _, _, _ => .check .illegalOperand false (s1.setTeam i t)

/-- A loop record: six S registers (R165). -/
def loopRec (t : Team) (n : BitVec 6) : List Word := (List.range 6).map fun k => t.s (n + BitVec.ofNat 6 k)
/-- A word of a loop record. -/
def recNum (r : List Word) (k : Nat) : Nat := ((r[k]?).getD 0).toNat
/-- F of a loop record is allowed (R165, R203). -/
def recOk (t : Team) (r : List Word) : Bool := recNum r 5 % 16 == 0 && decide (recNum r 5 + 63 < t.nregs)
/-- The images of a loop record are aligned (R197). -/
def recAligned (t : Team) (r : List Word) : Bool :=
  (t.pair 62 + recNum r 0) % 128 == 0 && (t.pair 62 + recNum r 2) % 128 == 0 && recNum r 1 % 128 == 0 && recNum r 3 % 128 == 0

/-- An S register that names a loop record (R203). -/
def recReg : Sel → Bool
  | .s n => decide (n.toNat ≤ 58)
  | _ => false

/-- The first checks of MLOOP and MGRP, which need no popped value (R55, R195, R203, R204; log 24): F of the loop record, as an operand, then the swatch. -/
def withLoop (i : Nat) (t : Team) (s : State) (d : Sel) (k : List Word → List Word → State → Res) : Res :=
  match d with
  | .s n => if !recOk t (loopRec t n) then .check .illegalOperand false (s.setTeam i t) else withSwatch i t s (k (loopRec t n))
  | _ => .check .illegalOperand false (s.setTeam i t)

/-- The alignment check of a loop record (R197). -/
def withAligned (i : Nat) (t : Team) (s : State) (r : List Word) (k : State → Res) : Res :=
  if !recAligned t r then .check .align false (s.setTeam i t) else k s

/-- MLOOP's checks that need no popped value. -/
def preLoop (d : Sel) (i : Nat) (t : Team) (s : State) : Res := withLoop i t s d fun r _ s1 => withAligned i t s1 r .ok

/-- MLOOP (R195, R203): F, the swatch, the window and the alignment (log 24); an empty mask has no window to check (R65). -/
def execMloop (d a : Sel) (s : State) : Host.Outcome State Fault Refusal :=
  sweepHandle s (fun t _ => [need (recReg d && t.scalarSrc a) .illegalOperand]) a [a] (fun _ => popsOnce [(0, a)]) (pre := preLoop d) fun i t q s1 =>
    withLoop i t s1 d fun r ws s2 =>
      let row := (s2.scalar t a (q 0 0)).toNat
      match (t.actGroups.map fun g => (g, row, 64)).find? t.outside with
      | some x => winTrap i t s2 x.1 .accWindow
      | none => withAligned i t s2 r fun s3 => ifActive i t s3 fun s4 => loopStart i t s4
          { fn := 1, sw := ws, flush := t.flush, vbase := t.pair 62, record := r, row := row, offs := [0, 64], stride := 0, step0 := 0, st := 0,
            groups := t.newGroups fun _ => [] }

/-- Something of a team stamped before o keeps a plain read of it back (R67, R197, R232, R281). -/
def State.readHeld (s : State) (o i key va n : Nat) : Bool :=
  s.blocked (some i) o key n || s.pfenced (some i) o .loadStore || s.aliasPosted (some i) o key va n

/-- A plain read that the sequencer makes for its team, of a run inside a line (R197): through the team's L1, under what the team has posted, in program order at stamp o. `mine` finds another device's answer. -/
def State.plainRead (s : State) (o i dom : Nat) (t : Team) (mine : FabRep → Bool) (va n : Nat) : Got (List Byte) :=
  match s.translate t.part t.ctx (some t.core) (coreDie t.core) (some i) none va .read with
  | (.mig, s1) => .hold .walkMig s1
  | (.drain, s1) => .hold .walkDrain s1
  | (.fault c pg tier sz, s1) => .fault (laneFault 0 va c pg tier sz) s1
  | (.ok tr, s1) =>
    match tr.place with
    | .mem key =>
      if s1.readHeld o i key va n then .hold (.behind o key va n) s1
      else
        let (met, s2) := if s1.meetsBad i false key n then (true, s1) else s1.meetsCopy dom .loadStore t.acq key n
        if met then .fault (laneFault 0 va .memUncorr tr.pa (opTier (keyTier key)) tr.leaf) s2
        else
          let (bs, s3) := s2.pathRead (s2.ctxMemKey t.part t.ctx) (!s2.revokes t.part t.ctx (va % 2 ^ 57)) dom .loadStore t.acq key tr.pa n
          .ok (s3.forward i va o bs) s3
    | .remote dev =>
      match s1.fabIn.find? mine with
      | none => .hold (.remoteRead dev va n) s1
      | some r =>
        match r.cause with
        | none => .ok (s1.forward i va o (r.data.take n)) s1
        | some c => .fault (farFault 0 va c) s1
    | _ => .ok (s1.forward i va o (List.replicate n 0)) s1

/-- A word of MGRP's table (R197, R204). -/
def State.tableWord (s : State) (i : Nat) (t : Team) (va : Nat) : Got (List Byte) :=
  if va % 4 ≠ 0 then .fault (plainFault 0 va .align) s
  else s.plainRead s.stamp i (s.dom t) t (fun r => r.op == remoteTag i va) va 4

/-- Words of a table read at issue, one at a time. -/
def State.recordWords (s : State) (i : Nat) (t : Team) (va : Nat) : Nat → Got (List Word)
  | 0 => .ok [] s
  | n + 1 =>
    match s.tableWord i t va with
    | .hold h s1 => .hold h s1
    | .fault f s1 => .fault f s1
    | .ok bs s1 =>
      match s1.recordWords i t ((va + 4) % 2 ^ 64) n with
      | .ok ws s2 => .ok (bytesWord bs :: ws) s2
      | r => r

/-- Row offsets rise and stay within 64 rows (R166). -/
def offsOk : List Nat → Bool
  | a :: b :: rest => decide (a ≤ b) && offsOk (b :: rest)
  | [a] => decide (a ≤ 64)
  | [] => false

/-- What MGRP's group table gives (R166, R204): the row offsets and the stride of the images, or GROUP_BOUNDS. -/
def withTable (i : Nat) (t : Team) (s : State) (va : Nat) (k : List Nat → Nat → State → Res) : Res :=
  (s.recordWords i t va 1).into i t false fun head s1 =>
    let n := recNum head 0
    if n = 0 ∨ 64 < n then .check .groupBounds false (s1.setTeam i t)
    else (s1.recordWords i t ((va + 4) % 2 ^ 64) (n + 2)).into i t false fun tab s2 =>
      let offs := (tab.take (n + 1)).map (·.toNat)
      let stride := recNum tab (n + 1)
      if !offsOk offs ∨ stride % 128 ≠ 0 then .check .groupBounds false (s2.setTeam i t) else k offs stride s2

/-- Where MGRP's table stands. -/
def tableAt (t : Team) (s : State) (a : Sel) (q : Word) : Nat := (t.pair 62 + (s.scalar t a q).toNat) % 2 ^ 64

/-- MGRP's checks that need no popped value: its table's too, where A is no queue register. -/
def preGroups (d a : Sel) (i : Nat) (t : Team) (s : State) : Res :=
  withLoop i t s d fun r _ s1 =>
    if isQ a then withAligned i t s1 r .ok else withTable i t s1 (tableAt t s1 a 0) fun _ _ s2 => withAligned i t s2 r .ok

/-- MGRP (R166, R204): F, the swatch, the table, the window and the alignment (log 24); an empty mask has no window to check (R65). -/
def execMgrp (d a b : Sel) (s : State) : Host.Outcome State Fault Refusal :=
  sweepHandle s (fun t _ => [need (recReg d && t.scalarSrc a && t.scalarSrc b) .illegalOperand]) a [a, b]
    (fun _ => popsOnce [(0, a), (1, b)]) (pre := preGroups d a) fun i t q s1 =>
    withLoop i t s1 d fun r ws s2 => withTable i t s2 (tableAt t s2 a (q 0 0)) fun offs stride s3 =>
      let row := (s3.scalar t b (q 1 0)).toNat
      match t.actGroups.find? fun g => decide ((t.win g).rows < row + (offs.getLast?).getD 0) with
      | some g => winTrap i t s3 g .groupBounds
      | none => withAligned i t s3 r fun s4 => ifActive i t s4 fun s5 => loopStart i t s5
          { fn := 2, sw := ws, flush := t.flush, vbase := t.pair 62, record := r, row := row, offs := offs, stride := stride, step0 := 0, st := 0,
            groups := t.newGroups fun _ => [] }

/-! ## MATRIX_STEP -/

/-- Runs of a number of bytes from a 32-bit offset over the vector base, cut at lines (R132, R203). DESIGN CHOICE: an image or scale run that passes offset 2^32 goes on at the vector base (log 100). -/
def offsetPieces (vbase off n : Nat) : List (Nat × Nat) :=
  let a := off % 2 ^ 32
  let m := min n (2 ^ 32 - a)
  let cut (va k : Nat) : List (Nat × Nat) := ((List.range (ceilDiv (va % 128 + k) 128)).filterMap fun j =>
    let lo := max va (va - va % 128 + 128 * j)
    let hi := min (va + k) (va - va % 128 + 128 * (j + 1))
    if lo < hi then some (lo % 2 ^ 64, hi - lo) else none)
  cut (vbase + a) m ++ cut vbase (n - m)

/-- Bytes that the sequencer reads for a loop: plain reads of its team (R197). -/
def State.loopRead (s : State) (o i : Nat) (x : Op) (t : Team) : List (Nat × Nat) → Got (List Byte)
  | [] => .ok [] s
  | (va, n) :: ps =>
    match s.plainRead o i x.dom t (fun r => r.op == o && r.lane == va) va n with
    | .hold h s1 => .hold h s1
    | .fault f s1 => .fault f s1
    | .ok bs s1 =>
      match s1.loopRead o i x t ps with
      | .ok cs s2 => .ok (bs ++ cs) s2
      | r => r

/-- What a step reads (R165, R166, R203): the A and B images, and the scale bytes of the rows it computes. -/
def Loop.reads (l : Loop) (sw : Swatch) (k st : Nat) : List (Nat × Nat) × List (Nat × Nat) × List (Nat × Nat) :=
  let nb := sw.depth / sw.blk
  let lo := (l.offs[k]?).getD 0
  let scales := if sw.unit then [] else offsetPieces l.vbase (sw.ascale + (64 * st + lo) * nb) ((l.rowsOf k).2 * nb)
  if l.fn = 0 then ([], [], scales)
  else (offsetPieces l.vbase (recNum l.record 0 + st * recNum l.record 1) 2048,
    offsetPieces l.vbase (recNum l.record 2 + k * l.stride + st * recNum l.record 3) 2048, scales)

/-- A step of a lane group with everything read: the accumulator rows, and the lane group and status bits after it. -/
def State.loopCompute (s : State) (i : Nat) (l : Loop) (sw : Swatch) (lg : LoopGrp) (k : Nat) (a b : List Word) (scales : List Byte) : State × LoopGrp × Nat :=
  let nb := sw.depth / sw.blk
  let rows := l.rowsOf k
  let cols := (List.range 64).map fun n => (fragLine sw.bfmt l.flush sw.depth b n, n)
  let codes := (List.range rows.2).map fun r => if sw.unit then List.replicate nb 127 else ((scales.drop (r * nb)).take nb).map (·.toNat)
  let (s1, st) := s.addRows i lg.g rows.1 ((l.offs[k]?).getD 0) sw l.flush a (cols.map fun c => (c.1.map (·.1), c.2)) codes
  let st2 := if cols.any fun c => c.1.any (·.2) then stFmt else 0
  let bufs := if l.fn = 0 then [] else (lg.pos % 2, a ++ b) :: lg.bufs.filter (·.1 != lg.pos % 2)
  (s1, { lg with pos := lg.pos + 1, bufs := bufs }, st ||| st2)

/-- A loop with a lane group replaced. -/
def Loop.setGrp (l : Loop) (x : LoopGrp) : Loop := { l with groups := l.groups.map fun y => if y.g = x.g then x else y }

/-- A lane group's loop stops at a step boundary on a fault: its effective lanes are unfinished (R197). -/
def State.loopStops (s : State) (o : Nat) (x : Op) (l : Loop) (lg : LoopGrp) (f : LaneFault) : State :=
  let lanes := (lanesBelow x.mask 1024).filter fun n => n / 32 == lg.g
  s.setOp o { x with kind := .loop (l.setGrp { lg with stopped := true }), failed := x.failed ++ lanes.map fun n => { f with lane := n } }

/-- A lane group may take its next step (R191, R193): its team is placed, an MLOOP or MGRP not stopped by PREEMPT (R203, R361), earlier loops have retired the rows, and an earlier PFENCE of the load-store path is complete (R232). A debug stop stops no loop, as only issue may stop (R391). DESIGN CHOICE: the loop of a spilled team stands still until the team is restored (log 113). -/
def State.stepReady (s : State) (o i : Nat) (x : Op) (t : Team) (l : Loop) (lg : LoopGrp) : Bool :=
  !x.mig && !lg.stopped && decide (lg.pos < l.total) && t.place == .placed && !(t.halted && l.fn != 0) && !s.pfenced (some i) o .loadStore
    && (let r := l.rowsOf ((l.busyGroups[lg.pos / l.steps]?).getD 0)
        !s.rowsBusy i o lg.g r.1 r.2)

/-- An MMA of a team that stands on its core has a step to take, which needs nothing that a halt keeps from it (R361): no walk held on s2.mig, no row of an earlier loop. -/
def State.mmaSteps (s : State) (o : Nat) (x : Op) : Bool :=
  match x.kind, x.team with
  | .loop l, some i => l.fn == 0 && !x.mig && ((s.team i).map (·.place == .placed)).getD false && l.groups.any fun lg =>
      !lg.stopped && decide (lg.pos < l.total) && (let r := l.rowsOf ((l.busyGroups[lg.pos / l.steps]?).getD 0)
        !s.rowsBusy i o lg.g r.1 r.2)
  | _, _ => false

/-- MATRIX_STEP (R166, R185 to R187, R197, R202 to R204): the next step of one lane group of a loop. -/
def execMatrixStep (o g : Nat) (s : State) : Host.Outcome State Fault Refusal :=
  match s.op o with
  | none => .next s
  | some x =>
    match x.kind, x.team with
    | .loop l, some i =>
      match s.team i, l.groups.find? (·.g == g), swatchOf l.sw with
      | some t, some lg, some sw =>
        if !s.stepReady o i x t l lg then .next s
        else
          let k := (l.busyGroups[lg.pos / l.steps]?).getD 0
          if s.rowsSpoilt i (lg.g, (l.rowsOf k).1, (l.rowsOf k).2) then .next (s.loopStops o x l lg (plainFault 0 0 .memUncorr))
          else
          let rd := l.reads sw k (if l.fn = 0 then l.step0 else lg.pos % l.steps)
          match s.loopRead o i x t (rd.1 ++ rd.2.1 ++ rd.2.2) with
          | .hold (.remoteRead dev va n) s1 => .next (s1.ask dev o va va n)
          | .hold h s1 => .next (s1.holdOp o h)
          | .fault f s1 => .next (s1.loopStops o x l lg f)
          | .ok bs s1 =>
            let ws := if l.fn = 0 then lg.frags else bytesWords 1024 (bs.take 4096)
            let (s2, lg1, st) := s1.loopCompute i l sw lg k (ws.take 512) (ws.drop 512) (if l.fn = 0 then bs else bs.drop 4096)
            .next ({ s2 with fabIn := s2.fabIn.filter (·.op != o) }.setOp o
              { x with kind := .loop { l.setGrp lg1 with st := l.st ||| st } })
      | _, _, _ => .next s
    | _, _ => .next s

/-- Every lane group of a loop has retired its rows. -/
def Loop.finished (l : Loop) : Bool := l.groups.all fun g => decide (l.total ≤ g.pos)
/-- Every lane group of a loop is finished or stopped. -/
def Loop.settled (l : Loop) : Bool := l.groups.all fun g => g.stopped || decide (l.total ≤ g.pos)

/-- The buffers that a loop loaded, written to its lane groups' registers (R198, R203). -/
def Team.loopRegs (t : Team) (l : Loop) : Team :=
  l.groups.foldl (fun t g => g.bufs.foldl (fun t b =>
    (b.2.zipIdx).foldl (fun t w =>
      let lane := 32 * g.g + w.2 % 32
      if lane < t.nlanes then t.setV lane (recNum l.record 5 + 32 * b.1 + w.2 / 32) w.1 else t) t) t) t

/-- A loop that is over: its registers and sticky bits (R184, R186, R198). -/
def State.loopEnds (s : State) (x : Op) (l : Loop) : State :=
  match x.team with
  | none => s
  | some i => s.modTeam i fun t => (t.loopRegs l).addStatus l.st

/-- A stopped loop goes on at the faulting step (R197), or is given up where it stands: the buffer registers that its steps loaded still get the last words loaded, as its rows and status stay (R198). -/
def Loop.release (l : Loop) (lanes : Mask) (again : Bool) : Loop :=
  { l with groups := l.groups.map fun g =>
      if g.stopped && maskWord lanes g.g != 0 then
        { g with stopped := false, pos := if again then g.pos else l.total }
      else g }

end Sys2Proof.Machine
end

