-- ==== Sys2Proof/Machine/Fences.lean ====
section
/-! DEFINITION. Fences: FENCE (R283), and the tracer: TRACE, TRSTOP, TRACER_PUSH (R210 to R213). -/

namespace Sys2Proof.Machine

open Sys2Proof

/-! ## FENCE -/

/-- Operations that return data to their team, or read for it (R283). -/
def OpKind.readsForTeam : OpKind → Bool
  | .load .. => true
  | .pload .. => true
  | .sample .. => true
  | .atomic _ _ _ dir ret => ret && !dir
  | .chunk _ => true
  | .deq .. => true
  | .pleat .. => true
  | .loop l => l.groups.any fun g => decide (g.pos < l.total)
  | _ => false

/-- Every earlier operation of the team that returns data to it has delivered it (R283). -/
def State.readsDone (s : State) (i n : Nat) : Bool :=
  !(s.ops.any fun o => o.2.team == some i && decide (o.1 < n) && o.2.kind.readsForTeam)

/-- The release half of a FENCE (R283): the posted entries drain; then the team issues on, and its later writes wait for the fence. Where it acquires too, its later reads come after both halves (R286 note b). -/
def fenceRelease (i : Nat) (t : Team) (s : State) (sc : Nat) : Res :=
  let fl := t.setFlag true
  if t.flagFull fl then .hold (.flagFull (fl.getD 0)) (s.setTeam i t)
  else
    match (s.setTeam i t).drainAll i with
    | .fault e f s1 => .trap (postedInfo i t e f) s1
    | .wait h s1 => .hold h s1
    | .ok s1 => .ok (s1.enterOp i t { opOf i t s1 fl .fence with rel := some sc, acq := t.acqScope, mask := 0 } [])

/-- FENCE (R283): an acquire holds until the earlier reads are done; at TEAM scope nothing more is ordered. -/
def execFence (s : State) : Host.Outcome State Fault Refusal :=
  once s (fun t _ => [need (t.order != 0) .illegalOperand]) [] fun i t _ s1 =>
    if t.acqScope.isSome && !s1.readsDone i s1.stamp then .hold (.opsDone false s1.stamp) (s1.setTeam i t)
    else
      let t1 := if t.acqScope.isSome ∧ t.scope ≠ 0 then { t with acq := s1.acquireAt t t.scope } else t
      let s2 := if t.acqScope.isSome ∧ t.scope ≠ 0 then s1.bump else s1
      match t.relScope with
      | none => .ok (s2.setTeam i t1)
      | some 0 => doneOp i t1 s2 true id
      | some sc => fenceRelease i t1 s2 sc

/-! ## The tracer -/

/-- TRACE (R210, R211): the descriptor is read at issue. -/
def execTrace (d a : Sel) (s : State) : Host.Outcome State Fault Refusal :=
  once s (fun t _ => [need (isQ d && t.scalarSrc a) .illegalOperand, t.pushCheck d]) [(0, a)] fun i t q s1 =>
    withHandle i t s1 true (s1.scalar t a (q 0)) .tracer fun va s2 => withRecord i t s2 true va 32 32 fun ws s3 =>
      match d with
      | .q n =>
        let fl := t.setFlag true
        let w : Word := (ws[0]?).getD 0
        if s3.walkInto i n.toNat then .hold (.walkEnd n.toNat) (s3.setTeam i t)
        else if t.flagFull fl then .hold (.flagFull (fl.getD 0)) (s3.setTeam i t)
        else
          .ok ((s3.setTeam i t).enterOp i t
            { opOf i t s3 fl (.trace n.toNat (bits w 10 0) (bits w 21 11) (bits w 31 22) [] false) with mask := 0 } [])
      | _ => .check .illegalOperand true (s3.setTeam i t)

/-- The team's walks into a queue register are told to stop. -/
def State.stopWalks (s : State) (i q : Nat) : State :=
  { s with ops := s.ops.map fun o =>
      match o.2.kind with
      | .trace n a b c ps st => if o.2.team = some i ∧ n = q then (o.1, { o.2 with kind := .trace n a b c ps true }) else (o.1, { o.2 with kind := .trace n a b c ps st })
      | _ => o }

/-- TRSTOP (R212): it holds until the end token is in the queue. DESIGN CHOICE: into an unbound queue register there is no walk, and it does nothing (log 112). -/
def execTrstop (a : Sel) (s : State) : Host.Outcome State Fault Refusal :=
  once s (fun _ _ => [need (isQ a) .illegalOperand]) [] fun i t _ s1 =>
    match a with
    | .q n =>
      if s1.walkInto i n.toNat then .hold (.walkEnd n.toNat) ((s1.stopWalks i n.toNat).setTeam i t)
      else .ok (s1.setTeam i t)
    | _ => .check .illegalOperand true (s1.setTeam i t)

/-- The word of tile j of a box (R210). -/
def tileWord (n0 n1 j : Nat) : Word := BitVec.ofNat 32 (j % n0 + j / n0 % n1 * 2 ^ 11 + j / (n0 * n1) * 2 ^ 22)

/-- The first tile at or after j, round the box, that has not been pushed. -/
def nextTile (total j : Nat) (pushed : List Nat) : Option Nat :=
  ((List.range (pushed.length + 1)).map fun k => (j + k) % total).find? fun k => !pushed.contains k

/-- The token that ends a walk (R210). -/
def endToken : Word := 0xFFFFFFFF

/-- A push of a walk that faults: the word is not staged, and the walk waits for its fault (R211, R241). -/
def State.walkFault (s : State) (o : Nat) (x : Op) (c : Cause) : State :=
  s.parkOp o { x with failed := [plainFault 0 0 c], refail := [Acc.new 0 0 0 1 0 []] }

/-- A posted entry that a walk's push needs drained is held: its team learns of it once (R241, R284). -/
def State.walkPosted (s : State) (i e : Nat) (x : Op) (f : LaneFault) : State :=
  s.modTeam i fun t =>
    if t.pend.any (fun p => p.redo == .posted e) || (match t.trap.bind (recFind s.traps) with
        | some r => r.redo == .posted e
        | none => false) then t
    else { t with pend := t.pend ++ [{ pc := x.pc, scalar := true, faults := [f], mask := 0, redo := .posted e }] }

/-- One push of a walk: what it leaves where the word enters is `after`. -/
def State.walkPush (s : State) (o i q : Nat) (x : Op) (w : Word) (after : State → State) : State :=
  match s.push1 i (BitVec.ofNat 4 q) w with
  | .ok s1 => after s1
  | .full => s
  | .bad => s.walkFault o x .illegalOperand
  | .fault e f s1 => s1.walkPosted i e x f
  | .wait _ s1 => s1

/-- A team is placed and neither halted nor stopped. -/
def Team.going (t : Team) : Bool := t.place == .placed && !t.halted

/-- TRACER_PUSH (R211, R212): the next tile of a walk, a free choice among those left, or the end token, behind which the walk is over. -/
def execTracerPush (o : Nat) (s : State) : Host.Outcome State Fault Refusal :=
  match s.op o with
  | none => .next s
  | some x =>
    match x.kind, x.team with
    | .trace q n0 n1 n2 pushed stopped, some i =>
      match s.team i with
      | none => .next s
      | some t =>
        if !t.going || !x.failed.isEmpty || !x.refail.isEmpty then .next s
        else
          let total := n0 * n1 * n2
          if stopped ∨ total ≤ pushed.length then .next (s.walkPush o i q x endToken fun s1 => s1.endOp o x)
          else
            let (j, s1) := s.choose total
            match nextTile total j pushed with
            | none => .next s1
            | some k =>
              .next (s1.walkPush o i q x (tileWord n0 n1 k) fun s2 =>
                s2.setOp o { x with kind := .trace q n0 n1 n2 (k :: pushed) stopped })
    | _, _ => .next s

end Sys2Proof.Machine
end

