-- ==== Sys2Proof/Machine/Peers.lean ====
section
/-! DEFINITION. Peers: pattern records and access (R294, R309 to R313), reshards (R295, R314), peer access (R315, R316), remote caching revoked (R322, R323), virtual dies (R324, R325), units and injection buckets (R320, R321), and what another device's unit or request does here (R317, R401). -/

namespace Sys2Proof.Machine

open Sys2Proof

/-! ## Pattern records (R309, R310) -/

/-- A dimension of a pattern: extent, block, grid. -/
structure PatDim where
  dim : Nat
  blk : Nat
  grid : Nat
  deriving DecidableEq, Repr

/-- A pattern record (R309). -/
structure Pattern where
  esize : Nat
  dims : List PatDim
  peers : Nat
  deriving DecidableEq, Repr

/-- The pattern of a record's words: none where it breaks R309. -/
def patternOf (ws : List Word) : Option Pattern :=
  let w (k : Nat) : Word := (ws[k]?).getD 0
  let rank := bits (w 0) 2 0
  let ds := (List.range rank).map fun d => ({ dim := (w (1 + d)).toNat, blk := bits (w (5 + d)) 15 0, grid := bits (w (5 + d)) 25 16 } : PatDim)
  let peers := (w 9).toNat + 2 ^ 32 * (w 10).toNat
  if rank = 0 ∨ 4 < rank ∨ (ds.any fun d => d.dim == 0 || d.blk == 0 || d.grid == 0 || decide (512 < d.grid))
      ∨ 512 < ds.foldl (fun n d => n * d.grid) 1 ∨ peers % 8 ≠ 0 then none
  else some { esize := 2 ^ bits (w 0) 5 4, dims := ds, peers := peers }

/-- Peer entry and local index of coordinates, row-major (R310): none for one outside its dimension. -/
def patResolve : List (PatDim × Nat) → Nat → Nat → Option (Nat × Nat)
  | [], p, loc => some (p, loc)
  | (d, x) :: rest, p, loc =>
    if d.dim ≤ x then none
    else
      let ext := ceilDiv d.dim (d.blk * d.grid) * d.blk
      patResolve rest (p * d.grid + x / d.blk % d.grid) (loc * ext + (x / (d.blk * d.grid) * d.blk + x % d.blk))

/-- A lane's coordinates resolved (R310): the device, which may not be reached, and the offset from the vector base. -/
def State.patLane (s : State) (i : Nat) (t : Team) (pt : Pattern) (lane : Nat) (xs : List Nat) : Got (Nat × Nat) :=
  match patResolve (pt.dims.zip xs) 0 0 with
  | none => .fault (plainFault lane 0 .patternCoord) s
  | some (p, loc) =>
    match s.record i t ((pt.peers + 8 * p) % 2 ^ 64) 8 8 with
    | .hold h s1 => .hold h s1
    | .fault f s1 => .fault { f with lane := lane } s1
    | .ok bs s1 =>
      let ws := bytesWords 2 bs
      let dev := bits ((ws[0]?).getD 0) 8 0
      .ok (dev, ((ws[1]?).getD 0).toNat + loc * pt.esize) s1

/-- What resolving lanes gives: accesses that name their device, and lanes that fault with what was captured. -/
inductive Resolved where
  | ok (good : List Acc) (bad : List (LaneFault × Acc)) (s : State)
  | hold (h : Hold) (s : State)

/-- An access that names its device (R315): no translation where it is another. -/
def namedAcc (own dev lane va size align reg : Nat) (data : List Byte) : Acc :=
  { Acc.new lane va size align reg data with aux := 1, tr := if dev = own then noTr else { noTr with place := .remote dev } }

/-- A lane that did not resolve keeps its coordinates (R313): `aux` is 2 above its record's address. -/
def coordAcc (rec lane size reg : Nat) (xs : List Nat) (data : List Byte) : Acc :=
  { Acc.new lane 0 size size reg (wordsBytes (xs.map (BitVec.ofNat 32)) ++ data) with aux := rec + 2 }

/-- Lanes resolved in pass order (R310, R312): each with its coordinates, and its data. -/
def State.patLanes (s : State) (i : Nat) (t : Team) (rec : Nat) (pt : Pattern) (reg : Nat) : List (Nat × List Nat × List Byte) → Resolved
  | [] => .ok [] [] s
  | (l, xs, data) :: rest =>
    match s.patLane i t pt l xs with
    | .hold h s1 => .hold h s1
    | .fault f s1 =>
      match s1.patLanes i t rec pt reg rest with
      | .ok g b s2 => .ok g ((f, coordAcc rec l pt.esize reg xs data) :: b) s2
      | r => r
    | .ok (dev, off) s1 =>
      match s1.patLanes i t rec pt reg rest with
      | .ok g b s2 =>
        .ok (namedAcc (s2.ctx t.part t.ctx).fabDev dev l ((t.pair 62 + off) % 2 ^ 64) pt.esize pt.esize reg data :: g) b s2
      | r => r

/-- The rest of a pattern instruction with its record read and checked (R312): it holds while the entry drains (R295). -/
def withPattern (i : Nat) (t : Team) (s : State) (h : Word) (fits : Pattern → Bool) (k : Nat → Pattern → State → Res) : Res :=
  withHandle i t s false h .pattern fun va s1 => withRecord i t s1 false va 64 64 fun ws s2 =>
    match patternOf ws with
    | none => .check .illegalOperand false (s2.setTeam i t)
    | some pt =>
      if !fits pt then .check .illegalOperand false (s2.setTeam i t)
      else if s2.patDraining.contains (t.part, t.ctx, hSlot h) then .hold (.patDrain (hSlot h)) (s2.setTeam i t)
      else ifActive i t s2 (k va pt)

/-- Lanes whose device is valid, and those that fault with the device and address captured (R310, R312, R313): no access is made, so no plane is needed. -/
def State.reached (s : State) (t : Team) (accs : List Acc) : List Acc × List (LaneFault × Acc) :=
  let out (a : Acc) : Bool := !s.named t.part t.ctx (a.remoteDev.getD (s.ctx t.part t.ctx).fabDev)
  (accs.filter fun a => !out a, (accs.filter out).map fun a => (plainFault a.lane a.va .peerUnreachable, a))

/-- The coordinates of the active lanes. -/
def patCoords (t : Team) (r : Nat) (pt : Pattern) (data : Nat → List Byte) : List (Nat × List Nat × List Byte) :=
  t.active.map fun l => (l, (t.vs l r pt.dims.length).map (·.toNat), data l)

/-- Accesses that name their devices go on as an operation of loads or atomics (R313, R315): lanes that faulted before join those that fault at their start. -/
def namedStart (i : Nat) (t : Team) (s : State) (fl : Option Nat) (kind : OpKind) (accs : List Acc) (bad0 : List (LaneFault × Acc)) (fill : Op → Op) : Res :=
  match (s.setTeam i t).startAll i t kind.access accs with
  | .hold h s1 => .hold h s1
  | .ok good bad s1 => .ok (s1.enterOp i t (fill { opOf i t s1 fl kind with accs := good }) (bad0 ++ bad))

/-- Plain stores of the device's own lanes wait as posted entries, each performed once its bytes are home (R284, R294): by index from k on. -/
def State.postOwn (s : State) (i o : Nat) : List (Nat × Acc) → State
  | [] => s
  | (k, a) :: as => (if a.done || a.remoteDev.isSome then s else s.post1 i o a (some k)).postOwn i o as

/-- Stores that name their devices (R294, R313, R315): lanes of the device itself are posted, or go on their way as releases, at once where no replay to a lower device goes before theirs. -/
def namedStores (i : Nat) (t : Team) (s : State) (fl : Option Nat) (accs : List Acc) (bad0 : List (LaneFault × Acc)) (slot : Option Nat) : Res :=
  match (s.setTeam i t).startAll i t .write accs with
  | .hold h s1 => .hold h s1
  | .ok good bad s1 =>
    let ws := lastWriters good
    let o := s1.stamp
    let own := (s1.ctx t.part t.ctx).fabDev
    let later := ws.any fun a => match a.remoteDev with
      | some d => decide (d < own)
      | none => false
    let op := { opOf i t s1 fl .store with rel := t.releases, pat := slot }
    match t.releases with
    | none =>
      if later then .ok (s1.enterOp i t { op with accs := ws } (bad0 ++ bad))
      else .ok ((s1.enterOp i t { op with accs := ws } (bad0 ++ bad)).postOwn i o (ws.zipIdx.map fun a => (a.2, a.1)))
    | some sc =>
      let s2 := s1.enterOp i t { op with accs := ws } (bad0 ++ bad)
      if later then .ok s2 else .ok (s2.sendAll i t o sc 0 ws)

/-- PATLD, PATST, PATADDR take a V register block D (R312). -/
def patFits (t : Team) (d a : Sel) (addr : Bool) (pt : Pattern) : Bool :=
  match d, a with
  | .v r, .v n =>
    t.vOk n pt.dims.length && (if addr then t.vOk r 2 else if pt.esize = 8 then r.toNat % 2 == 0 && t.vOk r 2 else t.vOk r 1)
  | _, _ => false

/-- The checks of a pattern instruction's fields. -/
def patFields (t : Team) (d a b : Sel) : Bool := isV d && isV a && (match d, a with
  | .v r, .v n => t.vOk r 1 && t.vOk n 1
  | _, _ => false) && t.scalarSrc b

/-- PATLD (R294, R312, R313). -/
def execPatld (d a b : Sel) (s : State) : Host.Outcome State Fault Refusal :=
  sweepHandle s (fun t _ => [need (patFields t d a b) .illegalOperand]) b [b] (fun _ => popsOnce [(1, b)]) fun i t q s1 =>
    withPattern i t s1 (s1.scalar t b (q 1 0)) (patFits t d a false) fun rec pt s2 =>
      let fl := t.setFlag false
      if t.flagFull fl then .hold (.flagFull (fl.getD 0)) (s2.setTeam i t)
      else
        match s2.patLanes i t rec pt (vNumOf d) (patCoords t (vNumOf a) pt fun _ => []) with
        | .hold h s3 => .hold h (s3.setTeam i t)
        | .ok good bad s3 =>
          namedStart i t s3 fl (.load .loadStore false (8 * min 4 pt.esize) false) good bad fun x =>
            { x with acq := t.acqScope, pat := some (hSlot (s1.scalar t b (q 1 0))) }
where
  vNumOf : Sel → Nat
    | .v r => r.toNat
    | _ => 0

/-- PATST (R312, R313). -/
def execPatst (d a b : Sel) (s : State) : Host.Outcome State Fault Refusal :=
  sweepHandle s (fun t _ => [need (patFields t d a b) .illegalOperand]) b [b] (fun _ => popsOnce [(1, b)]) fun i t q s1 =>
    withPattern i t s1 (s1.scalar t b (q 1 0)) (patFits t d a false) fun rec pt s2 =>
      let fl := t.setFlag true
      let r := match d with
        | .v r => r.toNat
        | _ => 0
      let n := match a with
        | .v n => n.toNat
        | _ => 0
      if t.flagFull fl then .hold (.flagFull (fl.getD 0)) (s2.setTeam i t)
      else withRelease i t s2 fun s3 =>
        match s3.patLanes i t rec pt 0 (patCoords t n pt fun l => (wordsBytes (t.vs l r (if pt.esize = 8 then 2 else 1))).take pt.esize) with
        | .hold h s4 => .hold h s4
        | .ok good bad s4 => namedStores i t s4 fl good bad (some (hSlot (s1.scalar t b (q 1 0))))

/-- PATADDR (R312): lanes that do not resolve fault; the others receive the pair. -/
def execPataddr (d a b : Sel) (s : State) : Host.Outcome State Fault Refusal :=
  sweepHandle s (fun t _ => [need (patFields t d a b) .illegalOperand]) b [b] (fun _ => popsOnce [(1, b)]) fun i t q s1 =>
    withPattern i t s1 (s1.scalar t b (q 1 0)) (patFits t d a true) fun rec pt s2 =>
      let r := match d with
        | .v r => r.toNat
        | _ => 0
      let n := match a with
        | .v n => n.toNat
        | _ => 0
      match s2.patLanes i t rec pt r (patCoords t n pt fun _ => []) with
      | .hold h s3 => .hold h (s3.setTeam i t)
      | .ok all bad0 s3 =>
        let (good, far) := s3.reached t all
        let bad := bad0 ++ far
        let own := (s3.ctx t.part t.ctx).fabDev
        let t1 := good.foldl (fun t x => t.setVs x.lane r [BitVec.ofNat 32 (x.remoteDev.getD own), BitVec.ofNat 32 (x.va + 2 ^ 64 - t.pair 62)]) t
        if bad.isEmpty then .ok (s3.setTeam i t1)
        else
          .ok (s3.enterOp i t1 { opOf i t1 s3 none .pataddr with pat := some (hSlot (s1.scalar t b (q 1 0))) } bad)

/-! ## Reshards and revoked pages -/

/-- The other devices of a context's job. -/
def State.others (s : State) (p c : Nat) : List Nat :=
  let x := s.ctx p c
  (List.range (x.fabNdev + 1)).filter (· != x.fabDev)

/-- One request to each other device of the job. -/
def jobAccs (devs : List Nat) (va : Nat) : List Acc :=
  devs.map fun d => { Acc.new d va 1 1 0 [] with tr := { noTr with place := .remote d } }

/-- The units that carry the requests of a job-wide operation: they cost nothing (R314, R321). -/
def jobUnits (accs : List Acc) : List FabUnit :=
  accs.zipIdx.filterMap fun a => a.1.remoteDev.map fun d => { dev := d, cost := 0, idx := [a.2], stalled := false }

/-- A job-wide operation enters (R314): its units wait for their devices to be reached; the team issues on. -/
def State.enterJob (s : State) (i : Nat) (t : Team) (x : Op) : State :=
  let o := s.stamp
  let y := { x with units := jobUnits x.accs, mask := 0 }
  ((s.bump.setTeam i (t.raiseFlag x.flag)).setOp o y)

/-- The request of a job-wide operation, as it travels (R295, R314, R323). -/
def jobBody (fn a b phase : Nat) : DrainBody :=
  match fn, phase with
  | 0, _ => .patInv (BitVec.ofNat 32 a)
  | 1, 1 => .patCheck (BitVec.ofNat 32 a) (BitVec.ofNat 32 b)
  | 1, 2 => .patCopy (BitVec.ofNat 32 a) (BitVec.ofNat 32 b)
  | 1, _ => .patEnd (BitVec.ofNat 32 a)
  | 2, _ => .fsDrain a b
  | _, _ => .fsConf a b

/-- PATINV (R295, R314). -/
def execPatinv (a : Sel) (s : State) : Host.Outcome State Fault Refusal :=
  once s (fun t _ => [need (t.scalarSrc a) .illegalOperand]) [(0, a)] fun i t q s1 =>
    let h := s1.scalar t a (q 0)
    withHandle i t s1 true h .pattern fun _ s2 =>
      let fl := t.setFlag true
      if s2.patDraining.contains (t.part, t.ctx, hSlot h) then .check .illegalOperand true (s2.setTeam i t)
      else if t.flagFull fl then .hold (.flagFull (fl.getD 0)) (s2.setTeam i t)
      else
        let s3 := { s2 with patDraining := (t.part, t.ctx, hSlot h) :: s2.patDraining }
        .ok (s3.enterJob i t { opOf i t s3 fl (.job 0 h.toNat 0 0) with accs := jobAccs (s3.others t.part t.ctx) 0 })

/-- The check of a pattern handle that stands in no queue register (R55). -/
def prePat (a : Sel) (i : Nat) (t : Team) (s : State) : Res :=
  if isQ a then .ok s else withHandle i t s true (s.scalar t a 0) .pattern fun _ s1 => .ok s1

/-- PATCF (R295, R314): it releases at FABRIC scope; its two phases come after. -/
def execPatcf (a b : Sel) (s : State) : Host.Outcome State Fault Refusal :=
  onceAfter s (fun t _ => [need (t.scalarSrc a && t.scalarSrc b) .illegalOperand]) [(0, a), (1, b)]
    (fun i t s1 => (prePat a i t s1).andThen (prePat b i t)) fun i t q s1 =>
    let ha := s1.scalar t a (q 0)
    let hb := s1.scalar t b (q 1)
    withHandle i t s1 true ha .pattern fun _ s2 => withHandle i t s2 true hb .pattern fun _ s3 =>
      let fl := t.setFlag true
      if !s3.patDraining.contains (t.part, t.ctx, hSlot ha) then .check .illegalOperand true (s3.setTeam i t)
      else if t.flagFull fl then .hold (.flagFull (fl.getD 0)) (s3.setTeam i t)
      else
        match (s3.setTeam i t).drainAll i with
        | .fault e f s4 => .trap (postedInfo i t e f) s4
        | .wait h s4 => .hold h s4
        | .ok s4 =>
          .ok (s4.enterJob i t { opOf i t s4 fl (.job 1 ha.toNat hb.toNat 1) with
            rel := some 5, accs := jobAccs (s4.others t.part t.ctx) 0 })

/-- A record copied by an agent of the device: read, and the place it is written to. DESIGN CHOICE: a cause that the write meets is one of PATCF's, as the read's is (log 122). -/
def State.patCopy (s : State) (p c die : Nat) (ha hb : Word) (write : Bool) : Got Unit :=
  match s.agentHandle p c die ha .pattern with
  | .hold h s1 => .hold h s1
  | .fault f s1 => .fault f s1
  | .ok none s1 => .fault (plainFault 0 0 .staleHandle) s1
  | .ok (some va) s1 =>
    match s1.agentHandle p c die hb .pattern with
    | .hold h s2 => .hold h s2
    | .fault f s2 => .fault f s2
    | .ok none s2 => .fault (plainFault 0 0 .staleHandle) s2
    | .ok (some vb) s2 =>
      match s2.agentRead p c die vb 64 with
      | .hold h s3 => .hold h s3
      | .fault f s3 => .fault f s3
      | .ok bs s3 =>
        match s3.agentPlace p c die va 64 with
        | .hold h s4 => .hold h s4
        | .fault f s4 => .fault f s4
        | .ok tr s4 =>
          match tr.place, write with
          | .mem key, true => .ok () (s4.homeWrite (s4.ctxMemKey p c) key bs)
          | .remote dev, true =>
            match s4.agentSend p c dev va tr bs with
            | .ok _ s5 => .ok () (s5.sentDone va bs [(va, 64)])
            | r => r
          | _, _ => .ok () s4

/-- A pattern entry's drain ends here (R295): the teams of the context acquire the release that comes with it. -/
def State.endPatDrain (s : State) (p c slot : Nat) : State :=
  { s.bump with
    patDraining := s.patDraining.filter (· != (p, c, slot))
    teams := s.teams.map fun e => if e.2.part == p && e.2.ctx == c then (e.1, { e.2 with acq := s.stamp + 1 }) else e }

/-- No pattern access through an entry that was issued before n is outstanding (R295). -/
def State.patQuiet (s : State) (p c slot n : Nat) : Bool :=
  !(s.ops.any fun o => decide (o.1 < n) && o.2.part == p && o.2.ctx == c && o.2.pat == some slot)

/-- The range of a page size of FSDRAIN and FSCONF, or none. -/
def pageOf (va code : Nat) : Option (Nat × Nat) := if 3 < code then none else some (va % 2 ^ 57, codeSize code)

/-- The checks of FSDRAIN and FSCONF (R323), then their effect with the page and its size. -/
def pageOp (s : State) (a b : Sel) (eff : Nat → Team → Nat → Nat → State → Res) : Host.Outcome State Fault Refusal :=
  once s (fun t s1 => [need (s1.auth t == .owner) .rights, need (pairOk a && t.scalarSrc b) .illegalOperand]) [(1, b)] fun i t q s1 =>
    match a with
    | .s n =>
      let va := t.pair n
      match pageOf va (s1.scalar t b (q 1)).toNat with
      | none => .check .illegalOperand true (s1.setTeam i t)
      | some (base, size) =>
        if va % size ≠ 0 then .check .align true (s1.setTeam i t)
        else
          match s1.translate t.part t.ctx (some t.core) (coreDie t.core) (some i) none va .none with
          | (.mig, s2) => .hold .walkMig (s2.setTeam i t)
          | (.drain, s2) => .hold .walkDrain (s2.setTeam i t)
          | (.fault c pg tier sz, s2) => scalarFault i t s2 (laneFault 0 va c pg tier sz)
          | (.ok _, s2) => eff i t base size s2
    | _ => .check .illegalOperand true (s1.setTeam i t)

/-- A page of a device of the job, this one for none, is made revoking here (R323): its cached copies are dropped, and no new one is kept. -/
def State.revoke (s : State) (p c va size : Nat) (dev : Option Nat) : State :=
  { s with revoking := (p, c, va, size, dev) :: s.revoking, lines := [] }

/-- The revoking state of a page ends, and its translations are dropped, thimbles and posted entries included, with the copies of its lines that were read meanwhile (R323). -/
def State.unrevoke (s : State) (p c va size : Nat) (dev : Option Nat) : State :=
  { s with
    revoking := s.revoking.filter (· != (p, c, va, size, dev))
    lines := []
    tlb := s.tlb.filter fun x => !(x.part == p && x.ctx == c && overlaps x.va x.size va size)
    walks := s.walks.filter fun w => !(w.part == p && w.ctx == c && w.stage == 1 && overlaps w.base w.size va size)
    posted := s.posted.map fun e => match s.team e.2.team with
      | some t => if t.part == p && t.ctx == c && !e.2.sent && overlaps (e.2.va % 2 ^ 57) e.2.data.length va size then (e.1, { e.2 with tr := none }) else e
      | none => e }

/-- FSDRAIN (R323). -/
def execFsdrain (a b : Sel) (s : State) : Host.Outcome State Fault Refusal :=
  pageOp s a b fun i t va size s1 =>
    let fl := t.setFlag true
    if s1.revokes t.part t.ctx va then .check .illegalOperand true (s1.setTeam i t)
    else if t.flagFull fl then .hold (.flagFull (fl.getD 0)) (s1.setTeam i t)
    else
      let s2 := s1.revoke t.part t.ctx va size none
      .ok (s2.enterJob i t { opOf i t s2 fl (.job 2 va size 0) with accs := jobAccs (s2.others t.part t.ctx) va })

/-- The FSDRAIN of a page is not acknowledged by every device. -/
def State.pageDraining (s : State) (p c va : Nat) : Bool :=
  s.ops.any fun o => o.2.part == p && o.2.ctx == c && match o.2.kind with
    | .job 2 a _ _ => a == va
    | _ => false

/-- FSCONF (R323). -/
def execFsconf (a b : Sel) (s : State) : Host.Outcome State Fault Refusal :=
  pageOp s a b fun i t va size s1 =>
    let fl := t.setFlag true
    if !s1.revoking.contains (t.part, t.ctx, va, size, none) then .check .illegalOperand true (s1.setTeam i t)
    else if s1.pageDraining t.part t.ctx va then .hold (.pageDrain va) (s1.setTeam i t)
    else if t.flagFull fl then .hold (.flagFull (fl.getD 0)) (s1.setTeam i t)
    else
      let s2 := s1.unrevoke t.part t.ctx va size none
      .ok (s2.enterJob i t { opOf i t s2 fl (.job 3 va size 0) with accs := jobAccs (s2.others t.part t.ctx) va })

/-! ## Peer access -/

/-- The device that B of a peer form names: none where it cannot be reached (R315). -/
def State.peerDev (s : State) (t : Team) (b : Nat) : Option Nat :=
  if (s.ctx t.part t.ctx).fabNdev < b ∨ !(s.reaches t.part t.ctx b) then none else some b

/-- A lane of a peer form that cannot be reached, with its access as captured. -/
def peerAccs (t : Team) (s : State) (dev : Nat) (a : Sel) (q : Nat → Nat → Word) (size reg : Nat) (data : Nat → List Byte) : List Acc :=
  t.active.map fun l => namedAcc (s.ctx t.part t.ctx).fabDev dev l ((t.pair 62 + (s.src t a l (q 0 l)).toNat) % 2 ^ 64) size size reg (data l)

/-- PEERLD (R315). -/
def execPeerld (d a b : Sel) (s : State) : Host.Outcome State Fault Refusal :=
  sweepOn s (fun t _ => [need ((match d with | .v r => t.vOk r 1 | _ => false) && t.vectorSrc a && t.scalarSrc b) .illegalOperand,
      need t.ty.loads .illegalOperand]) [a, b] (fun t => t.active) (fun t => popsVS t a b) fun i t q s1 =>
    match d with
    | .v r =>
      let fl := t.setFlag false
      if t.flagFull fl then .hold (.flagFull (fl.getD 0)) (s1.setTeam i t)
      else namedStart i t s1 fl (.load .loadStore false t.ty.width t.ty.signed)
        (peerAccs t s1 (s1.scalar t b (q 1 0)).toNat a q (t.ty.width / 8) r.toNat fun _ => []) [] fun x => { x with acq := t.acqScope }
    | _ => .check .illegalOperand false (s1.setTeam i t)

/-- PEERST (R315). -/
def execPeerst (d a b : Sel) (s : State) : Host.Outcome State Fault Refusal :=
  sweepOn s (fun t _ => [need ((match d with
        | .v r => t.vOk r 1
        | .s _ => true
        | .k m => t.litOk m
        | .sp .zero => true
        | _ => false) && t.vectorSrc a && t.scalarSrc b) .illegalOperand,
      need t.ty.loads .illegalOperand]) [a, b] (fun t => t.active) (fun t => popsVS t a b) fun i t q s1 =>
    let fl := t.setFlag true
    let size := t.ty.width / 8
    let as := peerAccs t s1 (s1.scalar t b (q 1 0)).toNat a q size 0 fun l => natBytes (s1.src t d l 0).toNat size
    if t.flagFull fl then .hold (.flagFull (fl.getD 0)) (s1.setTeam i t)
    else withRelease i t s1 fun s2 => namedStores i t s2 fl as [] none

/-- PEERADD (R316): here it acts at the homes as RDADD and RDFADD do; elsewhere it travels. -/
def execPeeradd (d a b : Sel) (s : State) : Host.Outcome State Fault Refusal :=
  sweepOn s (fun t _ => [need (t.elemSrc t.ty d && t.vectorSrc a && t.scalarSrc b) .illegalOperand,
      need (t.ty == .i32 || t.ty == .n32 || t.ty == .i64 || t.ty == .n64 || t.ty == .f32) .illegalOperand]) [a, b, d] (fun t => t.active)
    (fun t => popsLanes t.active [(0, a)] ++ popsOnce [(1, b)] ++ popsLanes t.active [(2, d)]) fun i t q s1 =>
    let fl := t.setFlag true
    let size := t.ty.width / 8
    let dev := (s1.scalar t b (q 1 0)).toNat
    let accs := peerAccs t s1 dev a q size 0 fun l => natBytes (s1.elem t t.ty d l (q 2 l)) size
    if t.flagFull fl then .hold (.flagFull (fl.getD 0)) (s1.setTeam i t)
    else
      let kind := OpKind.atomic (if t.ty = .f32 then .fadd else .add) t.ty none false false
      let go (s : State) : Res := namedStart i t s fl kind accs [] fun x => { x with rel := t.releases }
      if t.releases.isSome ∨ dev ≠ (s1.ctx t.part t.ctx).fabDev then withRelease i t s1 go
      else
        match (s1.setTeam i t).drainOver i (accs.map fun x => (x.va, x.size)) with
        | .fault e f s2 => .trap (postedInfo i t e f) s2
        | .wait h s2 => .hold h s2
        | .ok s2 => go s2

/-! ## Virtual dies -/

/-- VDIE (R325). -/
def execVdie (d : Sel) (s : State) : Host.Outcome State Fault Refusal :=
  once s (fun t _ => [need (scalarDst d) .illegalOperand, t.pushCheck d]) [] fun i t _ s1 =>
    putScalar i t s1 d (BitVec.ofNat 32 (t.vdie % 8 + 2 ^ 16 * (s1.ctx t.part t.ctx).fabNvd))

/-- HOPS (R325). -/
def execHops (d a b : Sel) (s : State) : Host.Outcome State Fault Refusal :=
  once s (fun t _ => [need (scalarDst d && t.scalarSrc a && t.scalarSrc b) .illegalOperand, t.pushCheck d]) [(0, a), (1, b)] fun i t q s1 =>
    let n := s1.hops t.part t.ctx (s1.scalar t a (q 0)).toNat (s1.scalar t b (q 1)).toNat
    putScalar i t s1 d (match n with
      | some k => BitVec.ofNat 32 k
      | none => 0xFFFFFFFF)

/-! ## Units and buckets (R320, R321) -/

/-- A bucket as reset leaves it (R320); no token yet (log 25). -/
def Bucket.fresh : Bucket := { share := 32, expert := false, rate := 0, depth := 4096, stalls := 0, tokens := 0 }
/-- The capacity of a bucket. -/
def Bucket.cap (b : Bucket) : Nat := if b.expert then b.depth else 4096
/-- Tokens that a bucket gains in 1,024 cycles. -/
def Bucket.gain (b : Bucket) : Nat := if b.expert then b.rate else 11 * b.share
/-- A context's bucket on a physical die. -/
def State.bucket (s : State) (p c die : Nat) : Bucket := cellGet Bucket.fresh (s.ctx p c).buckets die
/-- The state with a bucket replaced. -/
def State.setBucket (s : State) (p c die : Nat) (b : Bucket) : State :=
  let x := s.ctx p c
  s.setCtx p c { x with buckets := cellPut x.buckets die b }

/-- BUCKET_REFILL (R321): one more token, where the rate is not 0 and the bucket is not full. -/
def execBucketRefill (part ctx die : Nat) (s : State) : Host.Outcome State Fault Refusal :=
  let b := s.bucket part ctx die
  if b.gain = 0 ∨ b.cap ≤ b.tokens ∨ 64 ≤ ctx ∨ 8 ≤ die then .next s
  else .next (s.setBucket part ctx die { b with tokens := b.tokens + 1 })

/-- Accesses in groups of one key, in the order in which the keys first come. -/
def groupsOf (key : Acc → Nat) (as : List (Nat × Acc)) : List (List (Nat × Acc)) :=
  (as.foldl (fun l a => if l.contains (key a.2) then l else l ++ [key a.2]) []).map fun n => as.filter fun a => key a.2 == n

/-- The requests of a unit as they travel (R253, R265, R315, R316): one, but for an atomic one for each address. Lanes that share one read ask once. -/
def Op.bodies (x : Op) (idx : List Nat) : List FabBody :=
  let as := idx.filterMap fun k => (x.accs[k]?).map fun a => (k, a)
  let words (g : List (Nat × Acc)) : List (Nat × Nat × List Byte) := g.map fun a => (a.1, a.2.va, a.2.data)
  match x.kind with
  | .store => [.store (words as)]
  | .atomic fn y dst dir ret =>
    (groupsOf (·.va) as).map fun g =>
      if (fn = .add ∨ fn = .fadd) ∧ dst = none ∧ dir = false ∧ ret = false then .add (fn == .fadd) (words g) else .atom fn.code y.code (words g)
  | _ =>
    (groupsOf (·.size) (as.filter (!·.2.tied) ++ (as.filter (·.2.tied)).take 1)).map fun g =>
      .load ((g.head?.map fun a => a.2.size).getD 0) (g.map fun a => (a.1, a.2.va))

/-- The accesses of a unit leave for their device (R303, R314 to R316, R323). -/
def State.sendUnit (s : State) (o : Nat) (x : Op) (u : FabUnit) : State :=
  let out : List Output := match x.kind with
    | .job fn a b phase => u.idx.map fun k => .job u.dev o k (jobBody fn a b phase)
    | .pleat .. =>
      let as := u.idx.filterMap fun k => (x.accs[k]?).map fun a => (k, a)
      (as.take 1).map fun f => .unit u.dev o (.pleat (BitVec.ofNat 32 f.2.aux) (as.map fun a => (a.1, a.2.args)))
    | _ => (x.bodies u.idx).map (.unit u.dev o)
  { s with outputs := s.outputs ++ out }

/-- The lanes of the device's own replay act in their turn (R313): stores are posted or go on their way. -/
def State.ownUnit (s : State) (o i : Nat) (x : Op) (u : FabUnit) : State :=
  match x.kind, s.team i with
  | .store, some t =>
    let as := u.idx.filterMap fun k => (x.accs[k]?).map fun a => (k, a)
    match x.rel with
    | none => s.postOwn i o as
    | some sc => as.foldl (fun s a => s.sendAll i t o sc a.1 [a.2]) s
  | _, _ => s

/-- Every request of a PLEAT has been accepted at its home (R299). -/
def Op.accepted (x : Op) : Bool :=
  match x.kind with
  | .pleat _ sent => (List.range x.accs.length).all fun k => match x.accs[k]? with
    | some a => a.done || sent.contains k
    | none => true
  | _ => true

/-- The team's hold for its units, or for its requests, ends once all are sent (R299, R313); lanes that were aborted meanwhile trap at its next issue (R307). -/
def State.unitsOver (s : State) (o : Nat) : State :=
  match s.op o with
  | none => s
  | some x =>
    if !x.units.isEmpty || !x.accepted then s
    else
      match x.team with
      | none => s
      | some i => s.modTeam i fun t =>
          if t.hold = some (.units o) ∨ t.hold = some (.inboxRoom o) then { t with hold := if x.failed.all (·.cause == .pleatAborted) then none else some (.faultAfter o) } else t

/-- A PLEAT's requests (R293). -/
def OpKind.isPleat : OpKind → Bool
  | .pleat .. => true
  | _ => false

/-- A team's units may go: it is placed, and neither halted nor stopped (R313). The requests of a PLEAT are sent on by its core while the team is spilled (R162, R299). -/
def State.unitsGo (s : State) (x : Op) : Bool :=
  match x.team with
  | none => true
  | some i => match s.team i with
    | some t => (t.place == .placed || (t.place == .spilled && x.kind.isPleat)) && !t.halted && !t.debug
    | none => false

/-- Requests of a PLEAT to an object of another device that have gone there and are not accepted, some apart (R299). -/
def Op.onWay (x : Op) (but : List Nat) (dev obj : Nat) : Bool :=
  match x.kind with
  | .pleat _ sent => (List.range x.accs.length).any fun k => !but.contains k && !sent.contains k && match x.accs[k]? with
    | some a => !a.done && a.remoteDev == some dev && a.va == obj
    | none => false
  | _ => false

/-- Earlier requests from this device to the object of a PLEAT's unit have still to be accepted (R299, R300): requests to one object travel in issue order. -/
def State.pleatBefore (s : State) (o : Nat) (x : Op) (u : FabUnit) : Bool :=
  match x.kind, (u.idx.head?).bind fun k => x.accs[k]? with
  | .pleat .., some a =>
    x.onWay ((x.units.map (·.idx)).flatten) u.dev a.va
      || s.ops.any fun y => decide (y.1 < o) && y.2.part == x.part && y.2.ctx == x.ctx && y.2.onWay [] u.dev a.va
  | _, _ => false

/-- A plain store of the team waits to go to a page of another device (R67, R318). -/
def State.postedTo (s : State) (i n dev va : Nat) : Bool :=
  (s.postedOf i).any fun e => decide (e.1 < n) && !e.2.sent && e.2.held.isNone && e.2.va / 4096 == va / 4096 && match e.2.tr.map Tr.place with
    | some (.remote d) => d == dev
    | _ => false

/-- Something that the team issued before keeps a unit back (R67, R281, R283, R300): what its release covers, an acquire, a release FENCE before a write, a store to one of its pages, or earlier requests to its object. An acquire whose last lanes wait for an acknowledgement keeps none back, since the team parks on them only once its units are sent. -/
def State.unitWaits (s : State) (o : Nat) (x : Op) (u : FabUnit) : Bool :=
  (match x.rel with
    | some sc => !s.coveredAt sc x.team x.dom o
    | none => false)
  || (x.kind.units && ((x.team.isSome && s.ops.any fun y => y.2.team == x.team && decide (y.1 < o) && y.2.acquiring && !(y.2.accs.all (·.done) && !y.2.refail.isEmpty))
    || (x.kind.access.writes && s.fenced x.team o)
    || (match x.team with
        | some i => u.idx.any fun k => match x.accs[k]? with
          | some a => s.postedTo i o u.dev a.va
          | none => false
        | none => false)))
  || s.pleatBefore o x u

/-- The lanes of a unit whose device can no longer be reached fault before it is sent (R313, R317). -/
def Op.cutUnit (x : Op) : List Nat → Op
  | [] => x
  | k :: ks =>
    match x.accs[k]? with
    | none => x.cutUnit ks
    | some a =>
      let y := x.markDone k
      { y with failed := y.failed ++ [plainFault a.lane a.va .peerUnreachable], refail := insertLane a y.refail }.cutUnit ks

/-- A unit finds too few tokens (R320, R368): inj.stalls counts it, modulo 2^32 (log 62), and so does the partition's counter, which saturates. -/
def State.stall (s : State) (p c die : Nat) : State :=
  let b := s.bucket p c die
  (s.setBucket p c die { b with stalls := (b.stalls + 1) % 2 ^ 32 }).count p c 0x110

/-- The next unit of an operation is sent, or counted as stalled (R320, R321). A job-wide request, or a PLEAT, waits until its device can be reached (R314). -/
def State.unitNext (s : State) (o : Nat) (x : Op) (u : FabUnit) (us : List FabUnit) : State :=
  let own := u.dev == (s.ctx x.part x.ctx).fabDev
  if own then
    let s1 := s.setOp o { x with units := us }
    match x.team with
    | some i => (s1.ownUnit o i { x with units := us } u).unitsOver o
    | none => s1
  else if !s.reaches x.part x.ctx u.dev then
    if x.kind.units then (s.setOp o ({ x with units := us }.cutUnit u.idx)).unitsOver o else s
  else if s.unitWaits o x u then s
  else
    let die := coreDie x.core
    let b := s.bucket x.part x.ctx die
    if u.cost ≤ b.tokens ∨ u.cost = 0 then
      (((s.setBucket x.part x.ctx die { b with tokens := b.tokens - u.cost }).sendUnit o x u).setOp o { x with units := us }).unitsOver o
    else if u.stalled then s
    else (s.stall x.part x.ctx die).setOp o { x with units := { u with stalled := true } :: us }

/-- A posted entry on another device goes there as a PEERST of its bytes (R284), or is counted as stalled (R320, R321), once nothing of its team before it keeps it back. -/
def State.postedUnit (s : State) (n : Nat) (e : Posted) (dev : Nat) : State :=
  match s.team e.team with
  | none => s
  | some t =>
    let die := coreDie t.core
    let b := s.bucket t.part t.ctx die
    let cost := 2 * ((e.va + e.data.length - 1) / 64 - e.va / 64 + 1)
    if !s.reaches t.part t.ctx dev then
      { s with posted := cellPut s.posted n { e with held := some (plainFault e.lane e.va .peerUnreachable) } }
    else if t.halted ∨ s.fenced (some e.team) n ∨ s.acquires (some e.team) n ∨ s.postedTo e.team n dev e.va ∨ s.readAway n e then s
    else if cost ≤ b.tokens then
      let s1 := s.setBucket t.part t.ctx die { b with tokens := b.tokens - cost }
      { s1 with posted := cellPut s1.posted n { e with sent := true }, outputs := s1.outputs ++ [Output.unit dev n (.store [(e.lane, e.va, e.data)])] }
    else if e.stalled then s
    else
      let s1 := s.stall t.part t.ctx die
      { s1 with posted := cellPut s1.posted n { e with stalled := true } }

/-- UNIT_SEND (R284, R300, R313, R321): the next unit of an operation, or a posted entry on another device, is sent once its bucket holds its tokens. -/
def execUnitSend (o : Nat) (s : State) : Host.Outcome State Fault Refusal :=
  match s.op o, recFind s.posted o with
  | some x, _ =>
    match x.units with
    | [] => .next s
    | u :: us => if s.unitsGo x then .next (s.unitNext o x u us) else .next s
  | none, some e =>
    match e.tr with
    | some tr => match tr.place with
      | .remote dev => if e.sent || e.held.isSome then .next s else .next (s.postedUnit o e dev)
      | _ => .next s
    | none => .next s
  | none, none => .next s

/-- PLANE_FAIL (R318): a plane that fails is left out; the flits it had not acknowledged are resent, so no access is lost or performed twice. -/
def execPlaneFail (plane : Nat) (s : State) : Host.Outcome State Fault Refusal :=
  if 36 ≤ plane ∨ s.dev.planes.contains plane then .next s
  else .next { s with dev := { s.dev with planes := plane :: s.dev.planes } }

/-! ## What other devices ask for here (R317, R401) -/

/-- A context is placed on the device. -/
def Ctx.placed (c : Ctx) : Bool := c.en && decide (c.fabNvd ≠ 0) && !c.sealed

/-- The member that a unit names belongs to the issuer's job (R401): its own table binds the issuer's number back. -/
def State.member (s : State) (p c pkg spart sctx dev : Nat) : Bool := s.route p c dev == some (pkg, spart, sctx)

/-- What another device's request met here tells the operator, where it is a stage-2 cause, in a notice that needs no acknowledgement (R317, R328; log 26). -/
def State.tellStage2 (s : State) (p c : Nat) (f : LaneFault) : State :=
  if f.cause.stage2 then s.tellOperator p (((s.ctx p c).vdmap[0]?).getD 0) (noticeRecord f.cause f.tier c f.page f.size) else s

/-- A lane of a unit refused here: its answer, and what the operator hears of it (R317). -/
def State.refuseLane (s : State) (u : Sys2Proof.FabUnit) (lane : Nat) (f : LaneFault) : State :=
  let s1 := { s with outputs := s.outputs ++ [Output.reply u.pkg u.uid lane [] (some f.cause)] }.tellStage2 u.part u.ctx f
  if f.cause = .memUncorr then s1.count u.part u.ctx 0x104 else s1

/-- The addresses that a unit names. -/
def bodyVas : FabBody → List Nat
  | .load _ ls => ls.map (·.2)
  | .store ls => ls.map (·.2.1)
  | .add _ ls => ls.map (·.2.1)
  | .atom _ _ ls => ls.map (·.2.1)
  | .pleat .. => []

/-- A request of a unit waits here for a walk that holds, or behind one of its issuer that does on the same page (R318, R347, R350): `mig` where an INVCF of the operator releases it. -/
def State.later (s : State) (u : Sys2Proof.FabUnit) (body : FabBody) (mig : Bool) : State :=
  { s with migHeld := s.migHeld ++ [(Event.remoteAccess { u with body := body }, mig)] }

/-- A lane of the same issuer to the same 4 KiB page waits here (R318): this one goes after it. -/
def State.behind (s : State) (u : Sys2Proof.FabUnit) (va : Nat) : Bool :=
  s.migHeld.any fun e => match e.1 with
    | .remoteAccess w => w.pkg == u.pkg && w.spart == u.spart && w.sctx == u.sctx && w.part == u.part && w.ctx == u.ctx
        && (bodyVas w.body).any fun a => a / 4096 == va / 4096
    | _ => false

/-- The number under which a request of another device goes on to a third device, by its first lane. -/
def forwardTag (u : Sys2Proof.FabUnit) (lane : Nat) : Nat := 2 ^ 130 + u.pkg + 2 ^ 9 * (lane + 2 ^ 11 * u.uid)

/-- A request whose leaf here leads on to another device goes there, once and whole, and its answers come back through this one (R265, R317, R345). -/
def State.forwardOn (s : State) (u : Sys2Proof.FabUnit) (lanes : List Nat) (dev va : Nat) (tr : Tr) (body : FabBody) : State :=
  let tag := forwardTag u ((lanes.head?).getD 0)
  let answer (l : Nat) : Option FabRep := s.fabIn.find? fun r => r.op == tag && r.lane == l
  if lanes.all fun l => (answer l).isSome then
    { s with
      fabIn := s.fabIn.filter (·.op != tag)
      agentOut := s.agentOut.filter (·.tag != tag)
      outputs := s.outputs ++ lanes.filterMap fun l => (answer l).map fun r => Output.reply u.pkg u.uid l r.data r.cause }
  else if s.agentOut.any (·.tag == tag) then s.later u body false
  else { s with
    outputs := s.outputs ++ [Output.unit dev tag body]
    agentOut := { dev := dev, tag := tag, va := va, data := [], part := u.part, ctx := u.ctx, tr := tr } :: s.agentOut }.later u body false

/-- A lane of a load unit performed here, at the home. -/
def State.remoteLoad (s : State) (u : Sys2Proof.FabUnit) (size lane va : Nat) : State :=
  let body := FabBody.load size [(lane, va)]
  if va % size ≠ 0 then s.refuseLane u lane (plainFault lane va .align)
  else if s.behind u va then s.later u body false
  else
    match s.agentRead u.part u.ctx (s.doorDie u.part u.ctx) va size with
    | .ok bs s1 => { s1 with outputs := s1.outputs ++ [Output.reply u.pkg u.uid lane bs none] }
    | .fault f s1 => s1.refuseLane u lane f
    | .hold (.remoteRead dev _ _) s1 => s1.forwardOn u [lane] dev va noTr body
    | .hold h s1 => s1.later u body (h == Hold.walkMig)

/-- What a lane of another device does to the bytes at its address: it replaces them, adds to them, or performs a function of R270 to R273 on them. -/
inductive FarWrite where
  | put
  | add (float : Bool)
  | atom (fn ty : Nat)
  deriving DecidableEq, Repr

/-- The body of a request of a write unit. -/
def FarWrite.body (w : FarWrite) (ls : List (Nat × Nat × List Byte)) : FabBody :=
  match w with
  | .put => .store ls
  | .add f => .add f ls
  | .atom fn y => .atom fn y ls

/-- The function and type of a lane that reads before it writes (R265, R316). -/
def FarWrite.fn (w : FarWrite) (data : List Byte) : Option (AtomFn × Ty) :=
  match w with
  | .put => none
  | .add f => some (if f then .fadd else .add, if f then .f32 else if data.length = 8 then .i64 else .i32)
  | .atom fn y => match atomFns[fn]?, tyOf y with
    | some g, some z => some (g, z)
    | _, _ => none

/-- The bytes after a request's lanes, in their order, and the old value that each lane saw (R265): a store's are its data and none. -/
def FarWrite.run (w : FarWrite) (n : Nat) (m : List Byte) : List (Nat × Nat × List Byte) → List Byte × List (Nat × List Byte)
  | [] => (m, [])
  | (lane, _, data) :: ls =>
    let r := match w.fn data with
      | none => w.run n data ls
      | some (g, y) => w.run n (natBytes (atomApply g y (bytesNat m) data) n) ls
    (r.1, (lane, if (w.fn data).isSome then m else []) :: r.2)

/-- A request of a store unit, or of an atomic with its lanes of one address, performed here as a whole, at the home (R265, R316, R317): each lane of an atomic answers with the old value that it saw. -/
def State.remoteWrite (s : State) (u : Sys2Proof.FabUnit) (w : FarWrite) (ls : List (Nat × Nat × List Byte)) : State :=
  match ls with
  | [] => s
  | (_, va, data) :: _ =>
    let n := match w.fn data with
      | some (g, y) => g.size y
      | none => data.length
    let refuse (s : State) (f : LaneFault) : State := ls.foldl (fun s l => s.refuseLane u l.1 { f with lane := l.1 }) s
    if n = 0 ∨ va % n ≠ 0 then refuse s (plainFault 0 va .align)
    else if s.behind u va then s.later u (w.body ls) false
    else
      match s.agentPlace u.part u.ctx (s.doorDie u.part u.ctx) va n with
      | .fault f s1 => refuse s1 f
      | .hold h s1 => s1.later u (w.body ls) (h == Hold.walkMig)
      | .ok tr s1 =>
        match tr.place with
        | .mem key =>
          if (w.fn data).isSome && s1.rangeBad key n then refuse s1 (laneFault 0 va .memUncorr tr.pa (opTier (keyTier key)) tr.leaf)
          else
            let k := s1.ctxMemKey u.part u.ctx
            let r := w.run n (s1.homeBytes k key n) ls
            let s2 := s1.homeWrite k key r.1
            { s2 with outputs := s2.outputs ++ r.2.map fun l => Output.reply u.pkg u.uid l.1 l.2 none }
        | .remote dev => s1.forwardOn u (ls.map (·.1)) dev va tr (w.body ls)
        | _ => { s1 with outputs := s1.outputs ++ ls.map fun l => Output.reply u.pkg u.uid l.1 [] none }

/-- The lanes of an atomic unit by their addresses: each group is one request (R265). -/
def byAddress (ls : List (Nat × Nat × List Byte)) : List (List (Nat × Nat × List Byte)) :=
  (ls.foldl (fun l a => if l.contains a.2.1 then l else l ++ [a.2.1]) []).map fun va => ls.filter fun a => a.2.1 == va

end Sys2Proof.Machine
end

