-- ==== Sys2Proof/Machine/Pleats.lean ====
section
/-! DEFINITION. Pleats: objects and their homes (R291, R298, R299), PLEAT, PLARG, PLREPLY, PLDONE (R292, R293, R302 to R305), waves and replies (R293, R301, R306 to R308), and the units of other devices (R317). -/

namespace Sys2Proof.Machine

open Sys2Proof

/-! ## PLEAT -/

/-- What a lane of a PLEAT comes to before it is sent: its access, with the record's words after the arguments, or a fault. -/
inductive PleatLane where
  | ok (a : Acc) (obj : PleatObj)
  | fault (f : LaneFault) (a : Acc)
  deriving DecidableEq, Repr

/-- A lane's handle resolved, where check 6 has not resolved it for every lane, and its object's record read (R291, R293, R303): `aux` keeps the handle. -/
def State.pleatLane (s : State) (i : Nat) (t : Team) (obj : Option Nat) (lane reg : Nat) (h : Word) (args : List Byte) : Got PleatLane :=
  let a : Acc := { Acc.new lane 0 0 1 reg args with aux := h.toNat }
  match (match obj with
    | some va => Got.ok (some va) s
    | none => s.handle i t h .pleat : Got (Option Nat)) with
  | .hold g s1 => .hold g s1
  | .fault f s1 => .ok (.fault { f with lane := lane } a) s1
  | .ok none s1 => .ok (.fault (plainFault lane 0 .staleHandle) a) s1
  | .ok (some va) s1 =>
    match s1.record i t va 32 32 with
    | .hold g s2 => .hold g s2
    | .fault f s2 => .ok (.fault { f with lane := lane } a) s2
    | .ok bs s2 =>
      match pleatOf (bytesWords 8 bs) with
      | none => .ok (.fault (plainFault lane 0 .illegalOperand) a) s2
      | some x =>
        let own := (s2.ctx t.part t.ctx).fabDev
        let b := { a with va := va, size := x.nrep, data := args ++ bs, tr := if x.dev = own then noTr else { noTr with place := .remote x.dev } }
        .ok (.ok b x) s2

/-- The lanes of a PLEAT resolved in pass order. -/
def State.pleatLanes (s : State) (i : Nat) (t : Team) (obj : Option Nat) (reg : Nat) : List (Nat × Word × List Byte) → Got (List PleatLane)
  | [] => .ok [] s
  | (l, h, args) :: rest =>
    match s.pleatLane i t obj l reg h args with
    | .hold g s1 => .hold g s1
    | .fault f s1 => .fault f s1
    | .ok x s1 =>
      match s1.pleatLanes i t obj reg rest with
      | .ok xs s2 => .ok (x :: xs) s2
      | r => r

/-- A lane whose object is resolved is refused (R300, R302): no device of the job, no plane, or the wave's own object. -/
def State.pleatRefused (s : State) (t : Team) (a : Acc) (x : PleatObj) : Option Cause :=
  let own := (s.ctx t.part t.ctx).fabDev
  if x.dev ≠ own ∧ (s.route t.part t.ctx x.dev).isNone then some .pleatContext
  else if x.dev ≠ own ∧ !(s.reaches t.part t.ctx x.dev) then some .peerUnreachable
  else match t.wave with
    | some w => if x.dev = own ∧ w.object = a.va then some .illegalOperand else none
    | none => none

/-- Lanes to send, and lanes that fault with what was captured. -/
def State.pleatSplit (s : State) (t : Team) : List PleatLane → List Acc × List (LaneFault × Acc)
  | [] => ([], [])
  | .fault f a :: rest =>
    let (g, b) := s.pleatSplit t rest
    (g, (f, a) :: b)
  | .ok a x :: rest =>
    let (g, b) := s.pleatSplit t rest
    match s.pleatRefused t a x with
    | none => (a :: g, b)
    | some c => (g, (plainFault a.lane 0 c, a) :: b)

/-- A block of an object fits a team's registers (R303). -/
def pleatFits (t : Team) (d a : Sel) (x : PleatObj) : Bool :=
  (match a with
    | .v r => t.vOk r x.nargs
    | _ => false)
  && (x.nrep == 0 || match d with
    | .v r => t.vOk r x.nrep
    | _ => false)

/-- The units of a PLEAT to objects of other devices (R300, R321): one for each pass and object. -/
def pleatUnits (accs : List Acc) : List FabUnit :=
  ((List.range 32).map fun g =>
    let idx := (List.range accs.length).filter fun k => match accs[k]? with
      | some a => !a.done && a.remoteDev.isSome && a.lane / 32 == g
      | none => false
    let key (k : Nat) : Nat × Nat := match accs[k]? with
      | some a => (a.remoteDev.getD 0, a.va)
      | none => (0, 0)
    let objs := idx.foldl (fun l k => if l.contains (key k) then l else l ++ [key k]) ([] : List (Nat × Nat))
    objs.map fun ob =>
      let ks := idx.filter fun k => key k == ob
      let words := ks.foldl (fun n k => n + match accs[k]? with
        | some a => bits ((a.objWords[0]?).getD 0) 2 0
        | none => 0) 0
      { dev := ob.1, cost := min 8 (ceilDiv (4 * words) 64), idx := ks, stalled := false }).flatten

/-- The requests of a PLEAT are on their way: the team holds until the last is sent (R299, R300). -/
def State.pleatOut (s : State) (o : Nat) : State :=
  match s.op o with
  | none => s
  | some x =>
    let s1 := s.setOp o { x with units := pleatUnits x.accs }
    match x.team with
    | none => s1
    | some i => if x.accs.any (!·.done) then s1.modTeam i fun t => { t with hold := some (.inboxRoom o) } else s1

/-- The widest scope that the requests of a PLEAT release at (R289, R300). -/
def pleatScope (accs : List Acc) : Nat :=
  accs.foldl (fun n a => max n (if a.remoteDev.isSome then 5 else bits ((a.objWords[0]?).getD 0) 10 8)) 3

/-- PLEAT (R292, R293, R300, R302, R303). -/
def execPleat (d a b : Sel) (s : State) : Host.Outcome State Fault Refusal :=
  sweepHandle s (fun t _ => [need ((isV d || d == .sp .zero) && (match a with | .v r => t.vOk r 1 | _ => false) && t.vectorSrc b) .illegalOperand])
    (if isVec b then .q 0 else b) [b] (fun t => popsLanes t.active [(1, b)]) fun i t q s1 =>
    let reg := match d with
      | .v r => r.toNat
      | _ => 0
    let ra := match a with
      | .v r => r.toNat
      | _ => 0
    let go (obj : Option Nat) (s : State) : Res := ifActive i t s fun s =>
      let fl := t.setFlag false
      let lanes := t.active.map fun l => (l, s.src t b l (q 1 l), wordsBytes ((List.range 4).map fun k => if ra + k < t.nregs then t.v l (ra + k) else 0))
      (s.pleatLanes i t obj reg lanes).into i t false fun xs s2 =>
        if xs.any fun x => match x with
          | .ok _ ob => !pleatFits t d a ob
          | .fault .. => false then .check .illegalOperand false (s2.setTeam i t)
        else if t.flagFull fl then .hold (.flagFull (fl.getD 0)) (s2.setTeam i t)
        else
          match (s2.setTeam i t).drainAll i with
          | .fault e f s3 => .trap (postedInfo i t e f) s3
          | .wait h s3 => .hold h s3
          | .ok s3 =>
            let (good, bad) := s3.pleatSplit t xs
            .ok ((s3.enterOp i t { opOf i t s3 fl (.pleat reg []) with accs := good, rel := some (pleatScope good) } bad).pleatOut s3.stamp)
    if isVec b then go none s1
    else withHandle i t s1 false (s1.scalar t b 0) .pleat fun obj s2 => go (some obj) s2

/-! ## Inboxes (R299) -/

/-- A request placed in its object's inbox, at its tail. -/
def State.enterInbox (s : State) (r : PleatReq) : State := { s.bump with pleats := cellPut s.pleats s.stamp r }

/-- The first of some accesses, by index, whose object's inbox has a slot; objects whose first request has none are passed over. -/
def State.acceptFirst (s : State) (o : Nat) (x : Op) (sent : List Nat) (reg : Nat) (full : List Nat) : List Nat → State
  | [] => s
  | k :: ks =>
    match x.accs[k]? with
    | none => s.acceptFirst o x sent reg full ks
    | some a =>
      if full.contains a.va then s.acceptFirst o x sent reg full ks
      else
        match pleatOf a.objWords with
        | none => s.acceptFirst o x sent reg (a.va :: full) ks
        | some ob =>
          match s.pleatHome x.part x.ctx a.va ob with
          | .hold h s1 => s1.holdOp o h
          | .fault _ s1 => s1
          | .ok core s1 =>
            if Config.inboxSlots ≤ s1.inboxUsed core then s1.acceptFirst o x sent reg (a.va :: full) ks
            else
              let s2 := s1.enterInbox
                { part := x.part, ctx := x.ctx, object := a.va, handle := BitVec.ofNat 32 a.aux, record := a.objWords, args := a.args.take ob.nargs,
                  core := core, pkg := none, op := o, lane := a.lane, stage := .inbox, reply := [] }
              (s2.setOp o { x with kind := .pleat reg (k :: sent) }).unitsOver o

/-- PLEAT_INBOX_ACCEPT (R289, R299): the next request of a PLEAT enters its object's inbox, after the release, when a slot is free. -/
def execPleatInboxAccept (o : Nat) (s : State) : Host.Outcome State Fault Refusal :=
  match s.op o with
  | none => .next s
  | some x =>
    match x.kind with
    | .pleat reg sent =>
      if x.mig || !s.unitsGo x || !s.coveredAt (x.rel.getD 3) x.team x.dom o then .next s
      else
        let ks := (List.range x.accs.length).filter fun k => match x.accs[k]? with
          | some a => !a.done && a.remoteDev.isNone && !sent.contains k
          | none => false
        .next (s.acceptFirst o x sent reg [] ks)
    | _ => .next s

/-! ## Waves -/

/-- The virtual die bound to a physical die, or 0xFFFFFFFF (R301). -/
def State.virtDie (s : State) (p c die : Nat) : Nat :=
  let m := (s.ctx p c).vdmap
  if m.contains die then (m.takeWhile (· != die)).length else 0xFFFFFFFF

/-- The wave's team (R293, R301). -/
def waveTeam (s : State) (core slot : Nat) (r : PleatReq) (ob : PleatObj) (rs : List (Nat × PleatReq)) : Team :=
  let t := Team.fresh r.part r.ctx core slot s.stamp 0 0 0 1 rs.length ob.vregs 0 (s.virtDie r.part r.ctx (coreDie core)) (BitVec.ofNat 32 ob.entry) s.stamp
  { (t.setS 62 (BitVec.ofNat 32 ob.state)).setS 63 (BitVec.ofNat 32 (ob.state / 2 ^ 32)) with
    wave := some { object := r.object, handle := r.handle, record := r.record, args := rs.map (·.2.args),
                   replies := rs.map fun _ => none, reqs := rs.map (·.1) } }

/-- WAVE_START (R293, R298, R301, R308): the object whose oldest request is x starts a wave at its home, where none runs and the core has room. -/
def execWaveStart (x : Nat) (s : State) : Host.Outcome State Fault Refusal :=
  match recFind s.pleats x with
  | none => .next s
  | some r =>
    let rs := (s.inboxOf r.part r.ctx r.object).take 1024
    if (rs.head?).map (·.1) ≠ some x ∨ s.waveRuns r.part r.ctx r.object ∨ !(s.ctx r.part r.ctx).runs then .next s
    else
      match pleatOf r.record with
      | none => .next s
      | some ob =>
        match s.pleatHome r.part r.ctx r.object ob with
        | .hold _ s1 => .next s1
        | .fault _ s1 => .next s1
        | .ok core s1 =>
          match s1.freeSlot core [] with
          | none => .next s1
          | some slot =>
            if !(s1.core core).enabled ∨ s1.fusedOn s1.stamp core ∨ Config.regUnits < s1.unitsUsed core + regUnitsOf rs.length ob.vregs then .next s1
            else
              let ns := rs.map (·.1)
              let s2 := { s1 with pleats := s1.pleats.map fun (y : Nat × PleatReq) => if ns.contains y.1 then (y.1, { y.2 with stage := .wave, core := core }) else y }
              .next (s2.bump.setTeam s2.stamp (waveTeam s2 core slot r ob rs))

/-- The wave of a team, and its object. -/
def Team.waveObj (t : Team) : Option (WaveSt × PleatObj) :=
  match t.wave with
  | none => none
  | some w => (pleatOf w.record).map fun x => (w, x)

/-- A block of a wave's words fits its registers; an empty one still names a declared register (R39, R304). -/
def waveBlock (t : Team) (a : Sel) (n : PleatObj → Nat) : Bool :=
  match t.waveObj, a with
  | some (_, x), .v r => t.vOk r (max 1 (n x))
  | _, _ => false

/-- PLARG (R304). -/
def execPlarg (d : Sel) (s : State) : Host.Outcome State Fault Refusal :=
  sweep s (fun t _ => [need (waveBlock t d (·.nargs)) .illegalOperand]) [] fun i t _ s1 =>
    match d, t.waveObj with
    | .v r, some (w, x) =>
      .ok (s1.setTeam i (t.active.foldl (fun t l => t.setVs l r.toNat (((w.args[l]?).getD []).take x.nargs)) t))
    | _, _ => .ok (s1.setTeam i t)

/-- PLREPLY (R304). -/
def execPlreply (a : Sel) (s : State) : Host.Outcome State Fault Refusal :=
  sweep s (fun t _ => [need (waveBlock t a (·.nrep)) .illegalOperand]) [] fun i t _ s1 =>
    match a, t.waveObj with
    | .v r, some (w, x) =>
      let reps := w.replies.zipIdx.map fun p => if t.active.contains p.2 then some (t.vs p.2 r.toNat x.nrep) else p.1
      .ok (s1.setTeam i { t with wave := some { w with replies := reps } })
    | _, _ => .ok (s1.setTeam i t)

/-- PLDONE (R305): it drains, holds for the wave's operations and for its release, and ends the wave. -/
def execPldone (s : State) : Host.Outcome State Fault Refusal :=
  once s (fun t _ => [need t.wave.isSome .illegalOperand]) [] fun i t _ s1 =>
    match (s1.setTeam i t).drainAll i with
    | .fault e f s2 => .trap (postedInfo i t e f) s2
    | .wait h s2 => .hold h s2
    | .ok s2 => if s2.teamIdle i then (if s2.waveReleases i then .stay (s2.endTeam i) else .hold (.drained s2.stamp) s2) else .hold (.opsDone true s2.stamp) s2

/-- A wave ends on an abort (R307): its requests are aborted, nothing more of it is performed, and no release is made. -/
def State.abortWave (s : State) (i : Nat) : State :=
  match s.team i with
  | none => s
  | some t =>
    let s1 := s.endWave t true
    let s2 := { s1 with
      ops := s1.ops.filter fun o => o.2.team != some i
      posted := s1.posted.filter fun e => e.2.team != i }
    (s2.setTeam i { t with wave := t.wave.map fun w => { w with reqs := [] } }).endTeam i

/-! ## Replies -/

/-- The fault of a lane of a PLEAT whose home answers with a cause: an abort (R307), a handle or record that is bad there, or what was met there (R317). -/
def pleatFault (lane : Nat) (c : Cause) : LaneFault :=
  if c = .pleatAborted ∨ c = .staleHandle ∨ c = .illegalOperand then plainFault lane 0 c else farFault lane 0 c

/-- A lane of a PLEAT that has its reply, an acquire at its object's scope or at FABRIC, or that was aborted (R293, R300, R307). -/
def State.pleatLands (s : State) (o k : Nat) (x : Op) (a : Acc) (reg : Nat) (ws : List Word) (cause : Option Cause) : State :=
  match cause with
  | some c =>
    let y := x.markDone k
    s.setOp o { y with failed := y.failed ++ [pleatFault a.lane c], refail := insertLane a y.refail }
  | none =>
    let s1 := (s.setOp o (x.markDone k)).deliver x { a with reg := reg } false (ws.take a.size)
    match x.team with
    | none => s1
    | some i => s1.acquire i (pleatScope [a])

/-- A reply cannot be written now (R308): its requester's context is sealed. One that is spilled or halted takes it into its saved registers. -/
def State.replyStays (s : State) (x : Op) : Bool :=
  (s.ctx x.part x.ctx).sealed || match x.team.bind s.team with
    | some t => t.place == .sealed
    | none => false

/-- The index of a lane's access. -/
def Op.laneIdx (x : Op) (lane : Nat) : Option (Nat × Acc) := (x.accs.zipIdx.find? fun a => a.1.lane == lane && !a.1.done).map fun a => (a.2, a.1)

/-- A reply from this device's home to the requester's lane (R293, R307, R308). -/
def State.replyHere (s : State) (n : Nat) (r : PleatReq) : State :=
  match s.op r.op with
  | none => { s with pleats := cellDel s.pleats n }
  | some x =>
    if s.replyStays x then { s with pleats := cellPut s.pleats n { r with stage := .stayed } }
    else
      match x.kind, x.laneIdx r.lane with
      | .pleat reg _, some (k, a) =>
        { s with pleats := cellDel s.pleats n }.pleatLands r.op k x a reg r.reply (if r.aborted then some .pleatAborted else none)
      | _, _ => { s with pleats := cellDel s.pleats n }

/-- A reply goes to its requester's package, which acknowledges it or leaves it here (R305, R308). -/
def State.replyOut (s : State) (n pkg : Nat) (r : PleatReq) : State :=
  { s with
    pleats := cellPut s.pleats n { r with stage := .sent }
    outputs := s.outputs ++ [Output.pleatReply pkg r.op r.lane n (if r.aborted then [] else wordsBytes r.reply) (if r.aborted then some .pleatAborted else none)] }

/-- What a requester's package says of a reply that has gone there (R308): written, or not, so that it stays at the home. -/
def State.replyHeard (s : State) (n : Nat) (r : PleatReq) : State :=
  match s.fabIn.find? fun y => y.op == n with
  | none => s
  | some y =>
    let s1 := { s with fabIn := s.fabIn.filter (·.op != n) }
    if y.taken then { s1 with pleats := cellDel s1.pleats n } else { s1 with pleats := cellPut s1.pleats n { r with stage := .stayed } }

/-- The first message of another device's home for an operation: a request was accepted (R299), or a reply is here, which is written and acknowledged, or left at its home (R293, R308). Those that say that a request was not accepted wait for PLEAT_RESEND. -/
def State.replyAway (s : State) (o : Nat) (x : Op) (reg : Nat) (sent : List Nat) : State :=
  match s.fabIn.find? fun r => r.op == o && r.cause != some .pleatContext with
  | none => s
  | some r =>
    let s1 := { s with fabIn := s.fabIn.erase r }
    let say (s : State) (away : Bool) : State :=
      match r.src with
      | none => s
      | some (pkg, req) => { s with outputs := s.outputs ++ [if away then Output.reply pkg req 0 [] (some .pleatContext) else Output.taken pkg req 0] }
    if r.taken then (s1.setOp o { x with kind := .pleat reg (r.lane :: sent) }).unitsOver o
    else if s.replyStays x && r.src.isSome then say s1 true
    else
      match x.accs[r.lane]? with
      | some a => if a.done then say s1 false else (say (s1.pleatLands o r.lane x a reg (bytesWords 4 r.data) r.cause) false).unitsOver o
      | none => say s1 false

/-- PLEAT_REPLY (R293, R299, R305, R307, R308): the answer of request k arrives, here or at another device, or a message of another device's home for operation k. -/
def execPleatReply (k : Nat) (s : State) : Host.Outcome State Fault Refusal :=
  match recFind s.pleats k, s.op k with
  | some r, _ =>
    if r.stage = .replied ∨ r.stage = .aborted then
      .next (match r.pkg with
        | none => s.replyHere k r
        | some pkg => s.replyOut k pkg r)
    else if r.stage = .sent then .next (s.replyHeard k r)
    else .next s
  | none, some x =>
    match x.kind with
    | .pleat reg sent => .next (s.replyAway k x reg sent)
    | _ => .next s
  | none, none => .next s

/-- Requests of a PLEAT that another device has not accepted are to be sent again, in their order and before the rest, once all of their object that have gone are answered (R299, R308). -/
def State.resend (s : State) (o : Nat) (x : Op) (sent : List Nat) : State :=
  match s.fabIn.find? fun r => r.op == o && r.cause == some .pleatContext with
  | none => s
  | some r =>
    match x.accs[r.lane]? with
    | none => { s with fabIn := s.fabIn.erase r }
    | some a =>
      let dev := a.remoteDev.getD 0
      let away := (List.range x.accs.length).filter fun k => !sent.contains k && !x.unsent k && match x.accs[k]? with
        | some b => !b.done && b.remoteDev == some dev && b.va == a.va
        | none => false
      let said (k : Nat) : Bool := s.fabIn.any fun y => y.op == o && y.lane == k && y.cause == some Cause.pleatContext
      if away.all said then
        { s with fabIn := s.fabIn.filter fun y => !(y.op == o && y.cause == some Cause.pleatContext && away.contains y.lane) }.setOp o
          { x with units := { dev := dev, cost := 0, idx := away, stalled := false } :: x.units }
      else s

/-- PLEAT_RESEND (R299, R308): a reply that stayed at its home for want of a placed requester is sent again; requests that another device did not accept are sent again. -/
def execPleatResend (k : Nat) (s : State) : Host.Outcome State Fault Refusal :=
  match recFind s.pleats k, s.op k with
  | some r, _ =>
    let back : Bool := r.pkg.isSome || match s.op r.op with
      | some x => !s.replyStays x
      | none => true
    if r.stage = .stayed ∧ back = true then .next { s with pleats := cellPut s.pleats k { r with stage := if r.aborted then .aborted else .replied } } else .next s
  | none, some x =>
    match x.kind with
    | .pleat _ sent => .next (s.resend k x sent)
    | _ => .next s
  | none, none => .next s

/-! ## Units of other devices -/

/-- A lane of a unit is refused here, with a cause that its issuer sees. -/
def State.refused (s : State) (u : Sys2Proof.FabUnit) (lane : Nat) (c : Cause) : State :=
  { s with outputs := s.outputs ++ [Output.reply u.pkg u.uid lane [] (some c)] }

/-- Requests of another device for an object homed here enter its inbox in their order (R299, R300, R308): from the first that finds no slot on, none is accepted, and their sender keeps them; while the home moves they wait here (R298). -/
def State.remotePleat (s : State) (u : Sys2Proof.FabUnit) (h : Word) : List (Nat × List Word) → State
  | [] => s
  | (lane, args) :: rest =>
    let die := s.doorDie u.part u.ctx
    let wait (s : State) (g : Hold) : State :=
      (match g with
        | .remoteRead dev va n => s.ask dev (agentTag va) 0 va n
        | _ => s).later u (.pleat h ((lane, args) :: rest)) (g == Hold.walkMig)
    match s.agentHandle u.part u.ctx die h .pleat with
    | .hold g s1 => wait s1 g
    | .fault f s1 => (s1.refuseLane u lane f).remotePleat u h rest
    | .ok none s1 => (s1.refused u lane .staleHandle).remotePleat u h rest
    | .ok (some va) s1 =>
      match s1.agentRead u.part u.ctx die va 32 with
      | .hold g s2 => wait s2 g
      | .fault f s2 => (s2.refuseLane u lane f).remotePleat u h rest
      | .ok bs s2 =>
        match pleatOf (bytesWords 8 bs) with
        | none => (s2.refused u lane .illegalOperand).remotePleat u h rest
        | some ob =>
          match s2.pleatHome u.part u.ctx va ob with
          | .hold g s3 => wait s3 g
          | .fault f s3 => (s3.refuseLane u lane f).remotePleat u h rest
          | .ok core s3 =>
            if Config.inboxSlots ≤ s3.inboxUsed core then
              (rest.map (·.1)).foldl (fun s l => s.refused u l .pleatContext) (s3.refused u lane .pleatContext)
            else
              ({ s3 with outputs := s3.outputs ++ [Output.taken u.pkg u.uid lane] }.enterInbox
                { part := u.part, ctx := u.ctx, object := va, handle := h, record := bytesWords 8 bs, args := args.take ob.nargs, core := core,
                  pkg := some u.pkg, op := u.uid, lane := lane, stage := .inbox, reply := [] }).remotePleat u h rest

/-- The lanes of a unit that is refused whole. -/
def refuseAll (s : State) (u : Sys2Proof.FabUnit) (c : Cause) (lanes : List Nat) : State := lanes.foldl (fun s l => s.refused u l c) s

/-- The lanes of a unit. -/
def bodyLanes : FabBody → List Nat
  | .load _ ls => ls.map (·.1)
  | .store ls => ls.map (·.1)
  | .add _ ls => ls.map (·.1)
  | .atom _ _ ls => ls.map (·.1)
  | .pleat _ ls => ls.map (·.1)

/-- REMOTE_ACCESS (R299, R300, R308, R317, R401): a unit of another device of the job is translated and performed here, request by request, or refused. -/
def execRemoteAccess (u : Sys2Proof.FabUnit) (s : State) : Host.Outcome State Fault Refusal :=
  if !s.member u.part u.ctx u.pkg u.spart u.sctx u.dev then .next (refuseAll s u .fabricPerm (bodyLanes u.body))
  else if !(s.ctx u.part u.ctx).placed then
    .next (refuseAll s u (match u.body with
      | .pleat .. => .pleatContext
      | _ => .fabricPerm) (bodyLanes u.body))
  else
    match u.body with
    | .load size ls => .next (ls.foldl (fun s l => s.remoteLoad u size l.1 l.2) s)
    | .store ls => .next (ls.foldl (fun s l => s.remoteWrite u .put [l]) s)
    | .add f ls => .next ((byAddress ls).foldl (fun s g => s.remoteWrite u (.add f) g) s)
    | .atom fn y ls => .next ((byAddress ls).foldl (fun s g => s.remoteWrite u (.atom fn y) g) s)
    | .pleat h ls => .next (s.remotePleat u h ls)

end Sys2Proof.Machine
end

