-- ==== Sys2Proof/Machine/Completion.lean ====
section
/-! DEFINITION. Completion: OPERATION_COMPLETE (R45, R67, R358): what each kind of operation waits for and does at its end; and REMOTE_DRAIN_REQUEST (R295, R314, R323). -/

namespace Sys2Proof.Machine

open Sys2Proof

/-! ## What each kind waits for -/

/-- An operation whose accesses are performed: its faulting lanes are reported, or it is over (R45, R358). Lanes that wait for a replay keep it. -/
def State.finishOp (s : State) (o : Nat) (x : Op) : State :=
  if !x.allDone || !x.units.isEmpty then s
  else if !x.failed.isEmpty then s.parkOp o x
  else if x.refail.isEmpty then s.endOp o x
  else s

/-- A sampled load whose texels are here: its lanes' results, then its end (R255). -/
def State.finishSample (s : State) (o : Nat) (x : Op) : State :=
  if x.allDone && x.units.isEmpty && (!x.failed.isEmpty || x.refail.isEmpty) then
    let s1 := s.deliverSample o x
    match s1.op o with
    | none => s1
    | some y => s1.finishOp o y
  else s

/-- A dequeue that holds its team, or a refill: the team goes on when every lane has its record (R17, R145). -/
def State.finishDeq (s : State) (o : Nat) (x : Op) (todo : List Nat) : State :=
  if x.allDone && !x.failed.isEmpty then s.parkOp o x
  else if x.allDone && todo.isEmpty && x.refail.isEmpty then
    let s1 := s.endOp o x
    match x.team with
    | none => s1
    | some i => s1.modTeam i fun t => if t.hold = some (.opDone o) then { t with hold := none } else t
  else s

/-- A loop whose lane groups have finished or stopped (R184, R197, R198). -/
def State.finishLoop (s : State) (o : Nat) (x : Op) (l : Loop) : State :=
  if !l.settled then s
  else if !x.failed.isEmpty then s.parkOp o x
  else if l.finished then (s.loopEnds x l).endOp o x
  else s

/-- A copy of the operation's cluster that has still to move a line into some lines of scratch (R249). -/
def State.copyInto (s : State) (o : Nat) (x : Op) (ls : List Nat) : Bool :=
  s.ops.any fun y => y.1 != o && (y.2.team.bind s.team).map (·.cluster) == (x.team.bind s.team).map (·.cluster) && match y.2.kind with
    | .copy true _ _ => y.2.accs.any (fun a => !a.done && ls.contains (lineOf a.reg)) || y.2.refail.any fun a => ls.contains (lineOf a.reg)
    | .recCopy ws pos => bits ((ws[0]?).getD 0) 7 0 == 1 && (List.range (recLines ws)).any fun n => decide (pos ≤ n) && ls.contains (lineOf (scratchKey (recLine ws n).2))
    | _ => false

/-- Every write that the team of a PRES issued before it is visible at CLUSTER scope (R249, R279), but for old values whose delivery waits for one of its own lines. -/
def State.presWrites (s : State) (o : Nat) (x : Op) (ls : List Nat) : Bool :=
  let cl := ((x.team.bind s.team).map (·.cluster)).getD 0
  s.ownDone (fun k a => farWrite k a || s.awaitsLine ls cl a) x.team o && match x.team.bind s.team with
    | some t => s.sharesL1 t 2 || s.storesHome x.team x.dom o
    | none => s.storesHome x.team x.dom o

/-- PRES (R249): the bits are set once the team's writes are visible and the copies into the lines have landed. -/
def State.finishPres (s : State) (o : Nat) (x : Op) (ls : List Nat) : State :=
  if !s.presWrites o x ls || s.copyInto o x ls then s
  else
    let s1 := match (x.team.bind s.team).map (·.cluster) with
      | some cl => s.setPresence cl ls
      | none => s
    s1.endOp o x

/-- A copy out of scratch that the operation's team issued before it has lines to move (R232). -/
def State.copyOutBefore (s : State) (o : Nat) (x : Op) : Bool :=
  s.ops.any fun y => y.2.team == x.team && decide (y.1 < o) && match y.2.kind with
    | .copy false _ _ => !(y.2.allDone && y.2.refail.isEmpty)
    | .recCopy ws pos => bits ((ws[0]?).getD 0) 7 0 == 2 && decide (pos < recLines ws)
    | _ => false

/-- PFENCE (R232, R257): with the load-store path named it waits for the team's writes; then the named caches are empty. -/
def State.finishPfence (s : State) (o : Nat) (x : Op) (ps : Nat) : State :=
  if ps.testBit 0 && (!s.writesHome x.team o || s.copyOutBefore o x) then s
  else
    let s1 := s.dropPaths x.core ps
    let s2 := if ps.testBit 0 then { s1 with lines := s1.lines.filter fun y => !(y.dom == x.dom && y.path == .loadStore) } else s1
    s2.endOp o x

/-- CFLUSH and CINV (R258). -/
def State.finishFlush (s : State) (o : Nat) (x : Op) (icache : Bool) : State :=
  if !s.flushReady o x then s
  else
    let y := { x with accs := [] }
    ((s.flushLines x icache).setOp o y).finishOp o y

/-- An operation is an entry of a command queue (R247). -/
def Op.inQueue (x : Op) (k : Nat) : Bool :=
  match x.kind with
  | .engine n .. => n == k
  | .copy .. => x.team.map copyQueue == some k
  | .recCopy .. => x.team.map copyQueue == some k
  | .join qs => qs.contains k
  | _ => false

/-- A join (R247): every earlier entry of its queues has completed. -/
def State.finishJoin (s : State) (o : Nat) (x : Op) (qs : List Nat) : State :=
  if s.ops.any fun y => decide (y.1 < o) && qs.any fun k => y.2.inQueue k then s else s.endOp o x

/-- INVCF (R350). -/
def State.finishInvcf (s : State) (o : Nat) (x : Op) : State :=
  if !s.invcfReady o x then s
  else match x.team with
    | some i => (s.endDrains i o).endOp o x
    | none => s.endOp o x

/-- The phases of PATCF (R295, R314): every device has checked; then the record is copied here and everywhere; then the drain ends here and everywhere. -/
def State.finishPatcf (s : State) (o : Nat) (x : Op) (a b phase : Nat) : State :=
  if !x.allDone || !x.units.isEmpty then s
  else if !x.failed.isEmpty then s.parkOp o x
  else if !x.refail.isEmpty then s
  else if phase = 1 then
    if x.mig || !s.coveredAt 5 x.team x.dom o then s
    else
      match s.patCopy x.part x.ctx (coreDie x.core) (BitVec.ofNat 32 a) (BitVec.ofNat 32 b) true with
      | .hold h s1 => s1.holdOp o h
      | .fault f s1 => s1.parkOp o { x with failed := [f], refail := [Acc.new 0 0 0 1 0 []] }
      | .ok _ s1 =>
        let accs := jobAccs (s1.others x.part x.ctx) 0
        s1.forget.setOp o { x with kind := .job 1 a b 2, accs := accs, units := jobUnits accs }
  else if phase = 2 then
    let accs := jobAccs (s.others x.part x.ctx) 0
    (s.endPatDrain x.part x.ctx (hSlot (BitVec.ofNat 32 a))).setOp o { x with kind := .job 1 a b 3, accs := accs, units := jobUnits accs }
  else s.endOp o x

/-- A job-wide operation (R295, R314, R323). -/
def State.finishJob (s : State) (o : Nat) (x : Op) (fn a b phase : Nat) : State :=
  if fn = 0 then if s.patQuiet x.part x.ctx (hSlot (BitVec.ofNat 32 a)) o then s.finishOp o x else s
  else if fn = 1 then s.finishPatcf o x a b phase
  else s.finishOp o x

/-- The acknowledgement of another device's PATINV (R295): `pc` keeps the slot. -/
def State.finishAck (s : State) (o : Nat) (x : Op) (pkg uid k : Nat) : State :=
  if s.patQuiet x.part x.ctx x.pc o then
    let s1 := s.dropOp o
    { s1 with outputs := s1.outputs ++ [Output.reply pkg uid k [] none] }
  else s

/-- An operation as far as it can complete now. -/
def State.completeOp (s : State) (o : Nat) (x : Op) : State :=
  match x.kind with
  | .loop l => s.finishLoop o x l
  | .sample .. => s.finishSample o x
  | .deq _ _ todo _ => s.finishDeq o x todo
  | .pres ls => s.finishPres o x ls
  | .pfence ps => s.finishPfence o x ps
  | .fence => if s.coveredAt (x.rel.getD 5) x.team x.dom o then s.endOp o x else s
  | .flush ic => s.finishFlush o x ic
  | .join qs => s.finishJoin o x qs
  | .invcf => s.finishInvcf o x
  | .job fn a b phase => s.finishJob o x fn a b phase
  | .jobAck pkg uid k => s.finishAck o x pkg uid k
  | .copy .. => s
  | .recCopy .. => s
  | .engine .. => s
  | .trace .. => s
  | .gridDone .. => s
  | .load .. => s.finishOp o x
  | .store => s.finishOp o x
  | .pload .. => s.finishOp o x
  | .pstore => s.finishOp o x
  | .atomic .. => s.finishOp o x
  | .chunk _ => s.finishOp o x
  | .enq _ => s.finishOp o x
  | .knot .. => s.finishOp o x
  | .knotbind .. => s.finishOp o x
  | .launch => s.finishOp o x
  | .pleat .. => s.finishOp o x
  | .pataddr => s.finishOp o x
  | .done => s.finishOp o x

/-- OPERATION_COMPLETE (R45, R67, R358): an operation in flight takes what other devices have answered; where all of it is performed its faulting lanes are reported, or its effect at completion happens and its done flag's count drops. Operations that end by a step of their own (copies, engine records, walks, grids) are left to it. -/
def execOperationComplete (o : Nat) (s : State) : Host.Outcome State Fault Refusal :=
  match s.op o with
  | none => .next s
  | some x =>
    let (s1, y) := s.answered o x
    .next (s1.completeOp o y)

/-! ## Requests of other devices (R295, R314, R323) -/

/-- A request is answered. -/
def State.answer (s : State) (r : DrainMsg) (c : Option Cause) : State := { s with outputs := s.outputs ++ [Output.reply r.pkg r.uid r.k [] c] }

/-- A request waits here for a walk that holds (R347, R350): `mig` where an INVCF of the operator releases it. -/
def State.askLater (s : State) (r : DrainMsg) (mig : Bool) : State := { s with migHeld := s.migHeld ++ [(Event.remoteDrainRequest r, mig)] }

/-- A phase of another device's PATCF here (R295, R314): it answers with the cause met, of which the operator here hears where it is a stage-2 one (R317), or that it is done. -/
def State.patPhase (s : State) (r : DrainMsg) (a b : Word) (write : Bool) : State :=
  if !(s.ctx r.part r.ctx).placed then s.answer r (some .fabricPerm)
  else
    match s.patCopy r.part r.ctx (s.doorDie r.part r.ctx) a b write with
    | .hold (.remoteRead dev va n) s1 => (s1.ask dev (agentTag va) 0 va n).askLater r false
    | .hold h s1 => s1.askLater r (h == Hold.walkMig)
    | .fault f s1 => (s1.answer r (some f.cause)).tellStage2 r.part r.ctx f
    | .ok _ s1 => s1.forget.answer r none

/-- REMOTE_DRAIN_REQUEST (R295, R314, R322, R323, R401): a request of another device of the job, refused where its route table does not bind the issuer back: it marks or copies a pattern entry, or revokes and drops the copies of the issuer's page here, and acknowledges. -/
def execRemoteDrainRequest (r : DrainMsg) (s : State) : Host.Outcome State Fault Refusal :=
  let die := s.doorDie r.part r.ctx
  if !s.member r.part r.ctx r.pkg r.spart r.sctx r.dev then .next (s.answer r (some .fabricPerm))
  else
    match r.body with
    | .patInv h =>
      let op : Op :=
        { team := none, part := r.part, ctx := r.ctx, core := die * Config.coresPerDie, dom := die * Config.coresPerDie, pc := hSlot h, flag := none,
          mask := 0, acq := none, rel := none, kind := .jobAck r.pkg r.uid r.k, accs := [], units := [], failed := [], refail := [], mig := false, pat := none }
      let k := (r.part, r.ctx, hSlot h)
      .next { s.bump with
        patDraining := if s.patDraining.contains k then s.patDraining else k :: s.patDraining
        ops := cellPut s.ops s.stamp op }
    | .patCheck a b => .next (s.patPhase r a b false)
    | .patCopy a b => .next (s.patPhase r a b true)
    | .patEnd a => .next ((s.endPatDrain r.part r.ctx (hSlot a)).answer r none)
    | .fsDrain va size => .next ((s.revoke r.part r.ctx va size (some r.dev)).answer r none)
    | .fsConf va size => .next ((s.unrevoke r.part r.ctx va size (some r.dev)).answer r none)

end Sys2Proof.Machine
end

