-- ==== Sys2Proof/Machine/Control.lean ====
section
/-! DEFINITION. Control: NOP, YIELD, branches, MODE and WAITD (R85 to R90, R98). -/

namespace Sys2Proof.Machine

open Sys2Proof

/-- A K slot below the header's count (R39, R87). -/
def Team.slotOk (t : Team) : Sel → Bool
  | .k n => t.litOk n
  | _ => false

/-- A target whose two low bits are not zero raises ALIGN at the branch (R46, R87). -/
def misaligned (a : Word) : Bool := decide (a.toNat % 4 ≠ 0)

/-- Checks 2 and 4 of a branch (R46, R87). -/
def branchChecks (b : Sel) (ok : Team → Bool) (t : Team) (_s : State) : List (Option Cause) :=
  [need t.isLast .illegalHeader, need (ok t) .illegalOperand, need (t.slotOk b) .illegalOperand]

/-- A branch taken or not (R87): to the literal, or to the fall-through clause; a misaligned target has no effect. -/
def branchTo (i : Nat) (t : Team) (s : State) (taken : Bool) (b : Sel) : Res :=
  if taken then
    let a := s.scalar t b 0
    if misaligned a then .check .align true s else .jump (s.setTeam i t) a
  else .jump (s.setTeam i t) t.fall

/-- NOP (R85). -/
def execNop (s : State) : Host.Outcome State Fault Refusal :=
  once s (fun _ _ => []) [] fun i t _ s1 => .ok (s1.setTeam i t)

/-- YIELD (R86): the team is stamped as if it had just been picked. -/
def execYield (s : State) : Host.Outcome State Fault Refusal :=
  once s (fun _ _ => []) [] fun i t _ s1 => .ok (s1.bump.setTeam i { t with age := s1.stamp, passed := 0 })

/-- BR (R87). -/
def execBr (b : Sel) (s : State) : Host.Outcome State Fault Refusal :=
  once s (branchChecks b fun _ => true) [] fun i t _ s1 => branchTo i t s1 true b

/-- BRZ (R87). -/
def execBrz (a b : Sel) (s : State) : Host.Outcome State Fault Refusal :=
  once s (branchChecks b fun t => t.scalarSrc a) [(0, a)] fun i t q s1 =>
    branchTo i t s1 (decide (s1.scalar t a (q 0) = 0)) b

/-- BRNZ (R87). -/
def execBrnz (a b : Sel) (s : State) : Host.Outcome State Fault Refusal :=
  once s (branchChecks b fun t => t.scalarSrc a) [(0, a)] fun i t q s1 =>
    branchTo i t s1 (decide (s1.scalar t a (q 0) ≠ 0)) b

/-- BRMZ (R87): every bit of the mask is clear. -/
def execBrmz (a b : Sel) (s : State) : Host.Outcome State Fault Refusal :=
  once s (branchChecks b fun _ => maskSrc a) [] fun i t _ s1 => branchTo i t s1 (decide (t.mask a = 0)) b

/-- BRMNZ (R87). -/
def execBrmnz (a b : Sel) (s : State) : Host.Outcome State Fault Refusal :=
  once s (branchChecks b fun _ => maskSrc a) [] fun i t _ s1 => branchTo i t s1 (decide (t.mask a ≠ 0)) b

/-- JMP (R88): the target is an S register. -/
def execJmp (b : Sel) (s : State) : Host.Outcome State Fault Refusal :=
  once s (fun t _ => [need t.isLast .illegalHeader, need (isS b) .illegalOperand]) [] fun i t _ s1 =>
    let a := s1.scalar t b 0
    if misaligned a then .check .align true s1 else .jump (s1.setTeam i t) a

/-- CALL (R88): the target is read and checked before the link is written. -/
def execCall (d b : Sel) (s : State) : Host.Outcome State Fault Refusal :=
  once s (fun t _ => [need t.isLast .illegalHeader, need (isS d || d == .sp .zero) .illegalOperand,
      need (isS b || t.slotOk b) .illegalOperand]) [] fun i t _ s1 =>
    let a := s1.scalar t b 0
    if misaligned a then .check .align true s1
    else
      match d with
      | .s n => .jump (s1.setTeam i (t.setS n t.fall)) a
      | _ => .jump (s1.setTeam i t) a

/-- SETMODE (R48, R90). -/
def execSetmode (b : Sel) (s : State) : Host.Outcome State Fault Refusal :=
  once s (fun t _ => [need (t.scalarSrc b) .illegalOperand]) [(1, b)] fun i t q s1 =>
    let v := s1.scalar t b (q 1)
    if modeOk v then .ok (s1.setTeam i { t with mode := v }) else .check .illegalOperand true s1

/-- GETMODE (R90). -/
def execGetmode (d : Sel) (s : State) : Host.Outcome State Fault Refusal :=
  once s (fun t _ => [need (scalarDst d) .illegalOperand, t.pushCheck d]) [] fun i t _ s1 => putScalar i t s1 d t.mode

/-- Work that the pushes of a record started (R242, R243): no instruction with a set field issued it. -/
def OpKind.fromPush : OpKind → Bool
  | .engine .. => true
  | .recCopy .. => true
  | _ => false

/-- The flags that a WAITD names and that are not clear, or an unflagged operation stamped before `before` (R98). -/
def State.waiting (s : State) (i : Nat) (t : Team) (flags : Nat) (all : Bool) (before : Nat) : Bool :=
  (List.range 12).any (fun n => flags.testBit n && decide ((t.flags[n]?).getD 0 ≠ 0))
  || (all && s.ops.any fun o => o.2.team == some i && o.2.flag == none && !o.2.kind.fromPush && decide (o.1 < before))

/-- WAITD (R98): bit 12 needs the posted entries drained (R284). -/
def execWaitd (b : Sel) (s : State) : Host.Outcome State Fault Refusal :=
  once s (fun t _ => [need (t.scalarSrc b) .illegalOperand]) [(1, b)] fun i t q s1 =>
    let v := s1.scalar t b (q 1)
    if bits v 31 13 ≠ 0 then .check .illegalOperand true s1
    else if bit v 12 then
      match s1.drainAll i with
      | .fault e f s2 => .trap (postedInfo i t e f) s2
      | .wait h s2 => .hold h s2
      | .ok s2 =>
        if s2.waiting i t v.toNat true s2.stamp then .hold (.waitd v.toNat true s2.stamp) s2 else .ok s2
    else if s1.waiting i t v.toNat false s1.stamp then .hold (.waitd v.toNat false s1.stamp) s1
    else .ok s1

/-- A reserved opcode (R52): ILLEGAL_OPCODE, check 1 of R55. -/
def execIllegalOpcode (_w : BitVec 32) (s : State) : Host.Outcome State Fault Refusal :=
  once s (fun _ _ => [some .illegalOpcode]) [] fun _ _ _ s1 => .ok s1

end Sys2Proof.Machine
end

