-- ==== Sys2Proof/Machine/System.lean ====
section
/-! DEFINITION. System: TRAP, BRK (R366), system registers (R365, R367), AUDRD (R368), PLACE, PREEMPT, RESUME (R330, R361, R371), DISCARD (R351, R373), ATTEST (R374, R385), HTAB_SYNC (R235) and FAULT_PART_ENQUEUE (R326). -/

namespace Sys2Proof.Machine

open Sys2Proof

/-! ## TRAP, BRK -/

/-- A fault that its instruction raises when it has completed (R359, R366). -/
def trapAfter (i : Nat) (t : Team) (s : State) (c : Cause) (code : Nat) : Res :=
  .stay ((s.setTeam i t.finish.next).takeTrap (checkInfo i t true c code .none))

/-- TRAP (R366). -/
def execTrap (b : BitVec 8) (s : State) : Host.Outcome State Fault Refusal :=
  once s (fun _ _ => []) [] fun i t _ s1 => trapAfter i t s1 .trap b.toNat

/-- BRK (R366): a debug stop with a notice where s2r.dbg is set, else as TRAP. -/
def execBrk (b : BitVec 8) (s : State) : Host.Outcome State Fault Refusal :=
  once s (fun _ _ => []) [] fun i t _ s1 =>
    if (s1.ctx t.part t.ctx).dbg then
      .stay ((s1.setTeam i { t.finish.next with debug := true }).breakNotice i t b.toNat)
    else trapAfter i t s1 .brk b.toNat

/-! ## System registers (R365) -/

/-- What an authority gets of a system register: no such number, no field granted, or the value. -/
inductive SysGet where
  | none
  | refused
  | value (w : Word)
  deriving DecidableEq, Repr

/-- What an authority's write of a system register comes to: no such number, no field granted, the state after it, or a slot to synchronise. -/
inductive SysSet where
  | none
  | refused
  | done (s : State)
  | sync (slot : Nat) (s : State)
  deriving DecidableEq, Repr

/-- The low word of a number. -/
def loWord (n : Nat) : Word := BitVec.ofNat 32 n
/-- The high word of a number. -/
def hiWord (n : Nat) : Word := BitVec.ofNat 32 (n / 2 ^ 32)
/-- A number with its low word replaced, under a mask. -/
def withLo (n : Nat) (m v : Word) : Nat := n - n % 2 ^ 32 + (v &&& m).toNat
/-- A number with its high word replaced, under a mask. -/
def withHi (n : Nat) (m v : Word) : Nat := n % 2 ^ 32 + (v &&& m).toNat * 2 ^ 32

/-- SYS_FABDEV (R319). -/
def Ctx.fabWord (x : Ctx) : Word := BitVec.ofNat 32 (x.fabDev % 512 + x.fabNdev % 1024 * 2 ^ 16 + x.fabNvd % 16 * 2 ^ 28)

/-- SYS_VDMAP_v (R324). -/
def Ctx.vdWord (x : Ctx) (v : Nat) : Word :=
  match x.vdmap[v]? with
  | .some d => BitVec.ofNat 32 (d % 8 + 2 ^ 31)
  | .none => 0

/-- A value that one authority may read. -/
def SysGet.only (a b : Auth) (w : Word) : SysGet := if a = b then .value w else .refused
/-- A value that operator and owner may read. -/
def SysGet.both (a : Auth) (w : Word) : SysGet := if a = .auditor then .refused else .value w

/-- A per-context or per-partition register as an authority reads it (R365). -/
def State.ctxReg (s : State) (p c : Nat) (a : Auth) (n : Nat) : SysGet :=
  let x := s.ctx p c
  if n = 0x140 then .only a .owner (loWord x.htabBase)
  else if n = 0x141 then .only a .owner (hiWord x.htabBase)
  else if n = 0x142 then .only a .owner (loWord x.htabSlots)
  else if n = 0x143 then .only a .owner 0
  else if n = 0x160 then .both a x.fabWord
  else if 0x168 ≤ n ∧ n < 0x170 then .only a .operator (x.vdWord (n - 0x168))
  else if n = 0x180 then .only a .owner x.fqOwn
  else if n = 0x181 then .only a .operator (s.part p).fqOp
  else if n = 0x184 then .only a .owner (loWord x.spillBase)
  else if n = 0x185 then .only a .owner (hiWord x.spillBase)
  else if n = 0x190 then .both a (loWord x.sched)
  else if n = 0x1A0 then .only a .owner (loWord x.s1root)
  else if n = 0x1A1 then .only a .owner (hiWord x.s1root)
  else .none

/-- A window register (R190). -/
def Team.winWord (t : Team) (g : Nat) : Word := BitVec.ofNat 32 ((t.win g).base % 1024 + (t.win g).rows % 2048 * 2 ^ 10)

/-- A system register as a team reads it (R336, R338, R365, R367). -/
def State.sysRead (s : State) (t : Team) (n : Nat) : SysGet :=
  if n = 0x100 then .value t.status
  else if n = 0x104 then .value t.abPc
  else if n = 0x105 then .value t.abSum
  else if 0x120 ≤ n ∧ n < 0x140 then .value (t.winWord (n - 0x120))
  else if 0x1C0 ≤ n ∧ n < 0x1E0 then .value ((t.abMask[n - 0x1C0]?).getD 0)
  else s.ctxReg t.part t.ctx (s.auth t) n

/-- A context holds a team that is placed. -/
def State.holdsTeam (s : State) (p c : Nat) : Bool := s.teams.any fun e => e.2.part == p && e.2.ctx == c && e.2.place == .placed

/-- A context's place in its job written (R319, R382): dropped while it holds a placed team. -/
def State.setFab (s : State) (p c : Nat) (v : Word) : State :=
  let x := s.ctx p c
  if s.holdsTeam p c then s else s.setCtx p c { x with fabDev := bits v 8 0, fabNdev := bits v 25 16 }

/-- A per-context register written by an authority (R365). -/
def State.ctxSet (s : State) (p c : Nat) (a : Auth) (n : Nat) (v : Word) : SysSet :=
  let x := s.ctx p c
  let own (y : Ctx) : SysSet := if a = .owner then .done (s.setCtx p c y) else .refused
  if n = 0x140 then own { x with htabBase := withLo x.htabBase 0xFFFFFFF0 v }
  else if n = 0x141 then own { x with htabBase := withHi x.htabBase 0x01FFFFFF v }
  else if n = 0x142 then own { x with htabSlots := bits v 20 0 }
  else if n = 0x143 then if a = .owner then .sync (bits v 19 0) s else .refused
  else if n = 0x160 then if a = .operator then .done (s.setFab p c v) else .refused
  else if 0x168 ≤ n ∧ n < 0x170 then .refused
  else if n = 0x180 then own { x with fqOwn := v }
  else if n = 0x184 then own { x with spillBase := withLo x.spillBase 0xFFFFF000 v }
  else if n = 0x185 then own { x with spillBase := withHi x.spillBase 0xFFFFFFFF v }
  else if n = 0x190 then if a = .operator then .done (s.setCtx p c { x with sched := bits v 1 0 }) else .refused
  else if n = 0x1A0 then own { x with s1root := withLo x.s1root 0xFFFFF000 v }
  else if n = 0x1A1 then own { x with s1root := withHi x.s1root 0x000FFFFF v }
  else .none

/-- A system register written by a team (R336, R338, R365, R367). -/
def State.sysWrite (s : State) (i : Nat) (t : Team) (n : Nat) (v : Word) : SysSet :=
  if n = 0x100 then .done (s.setTeam i (t.clearStatus (v &&& 0xFF)))
  else if n = 0x104 then .done (s.setTeam i { t with abPc := v })
  else if n = 0x105 then .done (s.setTeam i { t with abSum := v })
  else if 0x120 ≤ n ∧ n < 0x140 then .refused
  else if 0x1C0 ≤ n ∧ n < 0x1E0 then .done (s.setTeam i { t with abMask := t.abMask.setIfInBounds (n - 0x1C0) v })
  else if n = 0x181 then
    if s.auth t = .operator then .done (s.setPart t.part { s.part t.part with fqOp := v }) else .refused
  else s.ctxSet t.part t.ctx (s.auth t) n v

/-- The checks of a register number that SRD reads (R54, R55, R336): refused to the issuer, or not assigned. -/
def State.readCheck (s : State) (t : Team) (n : Nat) : Option Cause :=
  match s.sysRead t n with
  | .value _ => none
  | .refused => some .rights
  | .none => some .illegalOperand

/-- The checks of a register number that SWR writes (R2, R54, R55, R336), whatever the value. -/
def State.writeCheck (s : State) (t : Team) (n : Nat) : Option Cause :=
  match s.sysWrite 0 t n 0 with
  | .done _ => none
  | .sync _ _ => none
  | .refused => some .rights
  | .none => some .illegalOperand

/-- SRD (R336, R367). -/
def execSrd (d : Sel) (n : BitVec 16) (s : State) : Host.Outcome State Fault Refusal :=
  once s (fun t s1 => [s1.readCheck t n.toNat, need (scalarDst d) .illegalOperand, t.pushCheck d]) [] fun i t _ s1 =>
    match s1.sysRead t n.toNat with
    | .value w => putScalar i t s1 d w
    | .refused => .check .rights true s1
    | .none => .check .illegalOperand true s1

/-- SWR (R329, R336, R367): a write of htab.sync holds the team until every die has dropped its copy (R235). -/
def execSwr (n : BitVec 16) (b : Sel) (s : State) : Host.Outcome State Fault Refusal :=
  once s (fun t s1 => [s1.writeCheck t n.toNat, need (t.scalarSrc b) .illegalOperand]) [(1, b)] fun i t q s1 =>
    match (s1.setTeam i t).sysWrite i t n.toNat (s1.scalar t b (q 1)) with
    | .done s2 => .ok s2
    | .sync slot s2 => .ok (s2.modTeam i fun t => { t with hold := some (.sync slot) })
    | .refused => .check .rights true s1
    | .none => .check .illegalOperand true s1

/-- HTAB_SYNC (R235): every die drops its copy of a slot's entry; the teams that hold for it go on. -/
def execHtabSync (part ctx slot : Nat) (s : State) : Host.Outcome State Fault Refusal :=
  .next { s with
    hcopies := s.hcopies.filter fun x => !(x.part == part && x.ctx == ctx && x.slot == slot)
    teams := s.teams.map fun e =>
      if e.2.part == part && e.2.ctx == ctx && e.2.hold == some (.sync slot) then (e.1, { e.2 with hold := none }) else e }

/-! ## AUDRD -/

/-- A counter's number is in the table (R368). -/
def counterOk (n : Nat) : Bool := decide (n ≤ 0x104) || n == 0x110
/-- Counters for which B is read. -/
def counterByCtx (n : Nat) : Bool := decide (n ≤ 0x100) || n == 0x110

/-- One context's count. -/
def State.countOf (s : State) (p c n : Nat) : Nat :=
  cellGet 0 (s.part p).counts (n * 64 + c)

/-- A counter as AUDRD reads it: of one context, or of the whole partition. -/
def State.counter (s : State) (p n b : Nat) : Nat :=
  min countMax (if counterByCtx n ∧ b < 64 then s.countOf p b n else (List.range 64).foldl (fun m c => m + s.countOf p c n) 0)

/-- AUDRD (R368). -/
def execAudrd (d a b : Sel) (s : State) : Host.Outcome State Fault Refusal :=
  once s (fun t s1 => [need (s1.auth t == .auditor) .rights, need (pairOk d && t.scalarSrc a && t.scalarSrc b) .illegalOperand]) [(0, a), (1, b)]
    fun i t q s1 =>
    match d with
    | .s r =>
      let n := (s1.scalar t a (q 0)).toNat
      let c := (s1.scalar t b (q 1)).toNat
      if counterOk n && (!counterByCtx n || c == 0xFFFFFFFF || (decide (c < 64) && (s1.ctx t.part c).en)) then
        let v := s1.counter t.part n c
        .ok (s1.setTeam i ((t.setS r (loWord v)).setS (r + 1) (hiWord v)))
      else .check .illegalOperand true (s1.setTeam i t)
    | _ => .check .illegalOperand true s1

/-! ## PLACE, PREEMPT, RESUME (R330) -/

/-- A context of the partition. -/
def State.isCtx (s : State) (p c : Nat) : Bool := decide (c < 64) && (s.ctx p c).en

/-- The dies of a die map, virtual die by virtual die. -/
def mapDies (m : Word) : List Nat := (List.range (bits m 27 24)).map fun v => bits m (3 * v + 2) (3 * v)

/-- No number stands twice in a list. -/
def distinct : List Nat → Bool
  | [] => true
  | a :: as => !as.contains a && distinct as

/-- A die map is good (R330): 1 to 8 distinct dies of the partition, and no other bit. -/
def State.mapOk (s : State) (p : Nat) (m : Word) : Bool :=
  let k := bits m 27 24
  decide (1 ≤ k) && decide (k ≤ 8) && decide (bits m 31 28 = 0) && decide (m.toNat % 2 ^ 24 / 2 ^ (3 * k) = 0)
    && distinct (mapDies m) && (mapDies m).all (s.partDies p).contains

/-- The fault records of a context that wait start from other physical dies (R326): `f` of the die of each. -/
def State.moveParts (s : State) (p c : Nat) (f : Nat → Nat) : State :=
  let word (r : List Word) : List Word := r.take 8 ++ (r.drop 8).map fun d => BitVec.ofNat 32 (f d.toNat)
  let s1 := s.setCtx p c { s.ctx p c with ownParts := (s.ctx p c).ownParts.map (·.map word) }
  s1.setPart p { s1.part p with opParts := (s1.part p).opParts.map (·.map fun r => if bits ((r[0]?).getD 0) 21 16 = c then word r else r) }

/-- The number that stands for virtual die v of a context that is not placed: 16 above it. -/
def sealedDie (m : List Nat) (d : Nat) : Nat := if m.contains d then 16 + (m.takeWhile (· != d)).length else d

/-- PLACE (R298, R324, R326, R330). -/
def execPlace (a b : Sel) (s : State) : Host.Outcome State Fault Refusal :=
  once s (fun t s1 => [need (s1.auth t == .operator) .rights, need (t.scalarSrc a && t.scalarSrc b) .illegalOperand]) [(0, a), (1, b)]
    fun i t q s1 =>
    let c := (s1.scalar t a (q 0)).toNat
    let m := s1.scalar t b (q 1)
    let x := s1.ctx t.part c
    if !s1.isCtx t.part c || x.fabNvd != 0 || !s1.mapOk t.part m then .check .illegalOperand true (s1.setTeam i t)
    else .ok ((((((s1.setTeam i t).dropHomes t.part c).setCtx t.part c { x with vdmap := mapDies m, fabNvd := bits m 27 24 }).moveParts t.part c fun d =>
      if 16 ≤ d then ((mapDies m)[d - 16]?).getD 0 else d)).fixHomes t.part c)

/-- Every team and wave of a context halts between instructions, or comes to run again (R330, R361). -/
def State.halt (s : State) (p c : Nat) (on : Bool) : State :=
  { s.setCtx p c { s.ctx p c with preempted := on } with
    teams := s.teams.map fun e => if e.2.part == p && e.2.ctx == c then (e.1, { e.2 with halted := on }) else e }

/-- The contexts that a PREEMPT names. -/
def State.preemptSet (s : State) (p own a : Nat) : List Nat :=
  if a = 0xFFFFFFFF then (List.range 64).filter fun c => c != own && s.isCtx p c && (s.ctx p c).placed else [a]

/-- PREEMPT (R330, R361, R362, R371): every team stands between instructions here, so the halt is whole at once. -/
def execPreempt (a : Sel) (s : State) : Host.Outcome State Fault Refusal :=
  once s (fun t s1 => [need (s1.auth t == .operator) .rights, need (t.scalarSrc a) .illegalOperand]) [(0, a)] fun i t q s1 =>
    let c := (s1.scalar t a (q 0)).toNat
    if !(s1.part t.part).linEn then .check .illegalOperand true (s1.setTeam i t)
    else if c ≠ 0xFFFFFFFF ∧ (!s1.isCtx t.part c || c == t.ctx || (s1.ctx t.part c).sealed) then .check .illegalOperand true (s1.setTeam i t)
    else .ok ((s1.preemptSet t.part t.ctx c).foldl (fun s k => s.halt t.part k true) (s1.setTeam i t))

/-- What a team waits for once it runs on after a halt (R347): a walk that held restarts from the root. -/
def restartHold : Option Hold → Option Hold
  | some .walkMig => none
  | some .walkDrain => none
  | some (.drainGone _) => none
  | h => h

/-- A team that runs on after a halt (R290): its reads use no copy from before. -/
def Team.resumed (t : Team) (stamp : Nat) : Team := { t with acq := stamp + 1, hold := restartHold t.hold }

/-- The teams and posted entries of a context that run on after a halt (R290, R347). -/
def State.resumeTeams (s : State) (p c : Nat) : State :=
  { s.bump with
    teams := s.teams.map fun e => if e.2.part == p && e.2.ctx == c && e.2.halted then (e.1, e.2.resumed s.stamp) else e
    posted := s.posted.map fun e => match s.team e.2.team with
      | some t => if t.part == p && t.ctx == c && t.halted then (e.1, { e.2 with mig := false }) else e
      | none => e }

/-- Every debug-stopped team of a context runs on (R330, R366). -/
def State.undebug (s : State) (p c : Nat) : State :=
  { s with teams := s.teams.map fun e => if e.2.part == p && e.2.ctx == c then (e.1, { e.2 with debug := false, hold := if e.2.debug then restartHold e.2.hold else e.2.hold }) else e }

/-- RESUME (R330, R364, R371): what stands in lining copies or slots comes back by TEAM_RESTORE. -/
def execResume (a : Sel) (s : State) : Host.Outcome State Fault Refusal :=
  once s (fun t s1 => [need (s1.auth t != .auditor) .rights, need (t.scalarSrc a) .illegalOperand]) [(0, a)] fun i t q s1 =>
    let c := (s1.scalar t a (q 0)).toNat
    if !s1.isCtx t.part c then .check .illegalOperand true (s1.setTeam i t)
    else if s1.auth t = .owner then
      if c = t.ctx then .ok ((s1.setTeam i t).undebug t.part c) else .check .illegalOperand true (s1.setTeam i t)
    else if (s1.ctx t.part c).sealed then .check .illegalOperand true (s1.setTeam i t)
    else .ok (((s1.setTeam i t).resumeTeams t.part c).halt t.part c false)

/-! ## Runs of memory written at issue -/

/-- The places of a run that a team writes, piece by piece, or the first cause (R106). -/
def State.placeRun (s : State) (i : Nat) (t : Team) (va n : Nat) : Got (List Acc) :=
  match s.lineTrs i t .write ((piecesOf va n).map fun p => Acc.new 0 (p.1 % 2 ^ 64) p.2 1 0 []) with
  | .ok as s1 =>
    match as.find? fun a => match a.tr.place with
      | .mem key => s1.writeMeetsBad key a.size
      | _ => false with
    | some a => .fault (laneFault 0 a.va .memUncorr a.tr.pa (match a.tr.place with
        | .mem key => opTier (keyTier key)
        | _ => 3) a.tr.leaf) s1
    | none => .ok as s1
  | r => r

/-- The pieces of a run that lie on other devices are sent there: done when each is written (R317, R345). -/
def State.sendRun (s : State) (p c : Nat) (bs : List Byte) : List Acc → Got Unit
  | [] => .ok () s
  | a :: as =>
    match a.tr.place with
    | .remote dev =>
      match s.agentSend p c dev a.va a.tr (bs.take a.size) with
      | .ok _ s1 => s1.sendRun p c (bs.drop a.size) as
      | r => r
    | _ => s.sendRun p c (bs.drop a.size) as

/-- The pieces of a run written at their homes on the device; the team's L1 keeps no older copy. -/
def State.putHomes (s : State) (t : Team) (bs : List Byte) : List Acc → State
  | [] => s
  | a :: as =>
    let part := bs.take a.size
    let s1 := match a.tr.place with
      | .mem key => (s.homeWrite (s.ctxMemKey t.part t.ctx) key part).dropLines (s.dom t) .loadStore key a.size
      | _ => s
    s1.putHomes t (bs.drop a.size) as

/-- A run of bytes from an address written, when every piece on another device is. -/
def State.putRun (s : State) (t : Team) (va : Nat) (bs : List Byte) (as : List Acc) : Got Unit :=
  match s.sendRun t.part t.ctx bs as with
  | .ok _ s1 => .ok () ((s1.sentDone va bs (as.map fun a => (a.va, a.size))).putHomes t bs as)
  | r => r

/-! ## ATTEST (R374, R385) -/

/-- The dies of a partition as the descriptor lists them: one byte each, padded to 8 with 0xFF. -/
def State.dieBytes (s : State) (p : Nat) : List Byte :=
  ((s.partDies p).map (BitVec.ofNat 8) ++ List.replicate 8 0xFF).take 8

/-- The 32-byte descriptor of a partition (R385): the spec gives its fields' order and no widths but the last's; the numbers take four bytes each here (log 28). -/
def State.descriptor (s : State) (p : Nat) : List Byte :=
  natBytes p 4 ++ natBytes s.dev.shape 4 ++ s.dieBytes p ++ natBytes (if (s.part p).linEn then 1 else 0) 8
    ++ natBytes ((List.range 64).foldl (fun n c => n + if (s.ctx p c).dbg then 2 ^ c else 0) 0) 8

/-- A SHA3-512 digest. -/
def sha (bs : List Byte) : List Byte := (List.range 64).map (Config.digest bs)

/-- A partition's measurement (R385). -/
def State.measure (s : State) (p : Nat) : List Byte := sha (sha s.dev.image ++ s.descriptor p)

/-- A report (R374). -/
def State.report (s : State) (p c : Nat) (chal : List Byte) : List Byte :=
  let x := s.ctx p c
  let head := natBytes 4883 4 ++ natBytes c 4 ++ natBytes (x.fabDev % 512 + x.fabNdev % 1024 * 2 ^ 16) 4 ++ natBytes s.dev.fwver 4
    ++ natBytes (s.dev.attests + 1) 8 ++ List.replicate 40 0 ++ s.measure p ++ chal ++ sha Config.deviceKey
  head ++ (List.range 4627).map (Config.sign head)

/-- ATTEST (R374). -/
def execAttest (d a b : Sel) (s : State) : Host.Outcome State Fault Refusal :=
  once s (fun t s1 => [need (s1.auth t != .auditor) .rights, need (pairOk d && t.scalarSrc a && t.scalarSrc b) .illegalOperand]) [(0, a), (1, b)]
    fun i t q s1 =>
    match d with
    | .s r =>
      let va := t.pair r
      let ca := (t.pair 62 + (s1.scalar t a (q 0)).toNat) % 2 ^ 64
      if (s1.scalar t b (q 1)).toNat < 4883 then .check .illegalOperand true (s1.setTeam i t)
      else if va % 64 ≠ 0 ∨ ca % 64 ≠ 0 then .check .align true (s1.setTeam i t)
      else
        match (s1.setTeam i t).clearOver i [(va, 4883)] with
        | .fault e f s2 => .trap (postedInfo i t e f) s2
        | .wait h s2 => .hold h s2
        | .ok s2 =>
          match s2.record i t ca 64 64 with
          | .hold h s3 => .hold h s3
          | .fault f s3 => scalarFault i t s3 f
          | .ok chal s3 =>
            match s3.placeRun i t va 4883 with
            | .hold h s4 => .hold h s4
            | .fault f s4 => scalarFault i t s4 f
            | .ok as s4 =>
              match s4.putRun t va (s4.report t.part t.ctx chal) as with
              | .hold h s5 => .hold h s5
              | .fault f s5 => scalarFault i t s5 f
              | .ok _ s5 => .ok { s5 with dev := { s5.dev with attests := s5.dev.attests + 1 } }
    | _ => .check .illegalOperand true s1

/-! ## DISCARD (R351 to R353, R373) -/

/-- The operator's notice of a discarded page (R373): no id, so none acknowledges it. -/
def State.noticeDiscard (s : State) (t : Team) (page size : Nat) : State :=
  let (r, s1) := s.stage2 t.part t.ctx (coreDie t.core) none page .none
  let tier := match r with
    | .ok x => opTier x.tier
    | _ => 3
  s1.tellOperator t.part (coreDie t.core)
    (noticeRecord .discarded tier t.ctx page (sizeCode size))

/-- The bit s1.disc set in a leaf: in all sixteen entries of a 64 KiB one (R342). -/
def State.setDisc (s : State) (t : Team) (l : S1) : State :=
  let put (s : State) (key : Nat) : State := s.homeWrite (s.ctxMemKey t.part t.ctx) key (natBytes (if ebit l.e 7 then l.e else l.e + 2 ^ 7) 8)
  if l.size = 2 ^ 16 then (List.range 16).foldl (fun s j => put s (l.key - l.key % 128 + 8 * j)) s else put s l.key

/-- The pages of a DISCARD from page k on, n of them at most (R351, R373): each is reported once its drain is confirmed. `page` is the page of k whose drain is to be confirmed; it is kept with the team meanwhile. -/
def State.discardFrom (s : State) (i : Nat) (t : Team) (va size k : Nat) (page : Option Nat) : Nat → Res
  | 0 => .ok (s.setTeam i { t with claimed := [] })
  | n + 1 =>
    match page with
    | some pg =>
      if (s.drainsOf i).all fun d => s.drainDone d.2 s.stamp then
        ((s.endDrains i s.stamp).noticeDiscard t pg size).discardFrom i t va size (k + 1) none n
      else .hold .confirm (s.setTeam i { t with claimed := [(k, pg, 0)] })
    | none =>
      let a := (va + k * size) % 2 ^ 64
      let t0 := { t with claimed := [] }
      if !canonical a then scalarFault i t0 s (plainFault 0 a .s1NotMapped)
      else if s.draining t.part t.ctx 1 (some i) (a % 2 ^ 57) then .hold .walkDrain (s.setTeam i t0)
      else
        match s.walk1 t.part t.ctx (coreDie t.core) (some i) (a % 2 ^ 57) (s.ctx t.part t.ctx).s1root [] 5 with
        | (.mig, s1) => .hold .walkMig (s1.setTeam i t0)
        | (.drain, s1) => .hold .walkDrain (s1.setTeam i t0)
        | (.fault c pg tier sz, s1) => scalarFault i t0 s1 (laneFault 0 a c pg tier sz)
        | (.ok l, s1) =>
          if l.size ≠ size then .check .illegalOperand true (s1.setTeam i t0)
          else if ebit l.e 7 then s1.discardFrom i t va size (k + 1) none n
          else
            let dr : Drain := { team := i, part := t.part, ctx := t.ctx, stage := 1, base := a % 2 ^ 57, size := size }
            let pg := epage l.e - epage l.e % size
            let s2 := (s1.setDisc t l).beginDrain dr
            if (s2.drainsOf i).all fun d => s2.drainDone d.2 s2.stamp then
              ((s2.endDrains i s2.stamp).noticeDiscard t pg size).discardFrom i t va size (k + 1) none n
            else .hold .confirm (s2.setTeam i { t with claimed := [(k, pg, 0)] })

/-- DISCARD (R351, R373). -/
def execDiscard (d a b : Sel) (s : State) : Host.Outcome State Fault Refusal :=
  once s (fun t s1 => [need (s1.auth t == .owner) .rights, need (t.scalarSrc d && pairOk a && t.scalarSrc b) .illegalOperand]) [(1, b), (2, d)]
    fun i t q s1 =>
    match a with
    | .s r =>
      let n := (s1.scalar t d (q 2)).toNat
      let code := (s1.scalar t b (q 1)).toNat
      if n < 1 ∨ 512 < n ∨ 3 < code then .check .illegalOperand true (s1.setTeam i t)
      else if t.pair r % codeSize code ≠ 0 then .check .align true (s1.setTeam i t)
      else
        match (s1.setTeam i t).drainAll i with
        | .fault e f s2 => .trap (postedInfo i { t with claimed := [] } e f) s2
        | .wait h s2 => .hold h s2
        | .ok s2 =>
          if !s2.covered (some i) (s2.dom t) s2.stamp then .hold (.drained s2.stamp) s2
          else
            match t.claimed with
            | (k, pg, _) :: _ => s2.discardFrom i t (t.pair r) (codeSize code) k (some pg) (n - k)
            | [] => s2.discardFrom i t (t.pair r) (codeSize code) 0 none n
    | _ => .check .illegalOperand true s1

/-! ## Fault records into their queues (R326) -/

/-- The operator's own context: the lowest that issues as operator (log 29). -/
def State.operatorCtx (s : State) (p : Nat) : Option Nat := (List.range 64).find? fun c => (s.ctx p c).en && (s.ctx p c).auth == .operator

/-- The virtual dies of a context that a queue reaches from a physical die, nearest first (R142). -/
def State.reachFrom (s : State) (p c k die : Nat) : List Nat :=
  let r := (s.queue k).radius
  let d (x y : Nat) : Nat := if x ≤ y then y - x else x - y
  let hop (v : Nat) : Nat := match s.physDie p c v with
    | some b => d (die / 4) (b / 4) + d (die % 4) (b % 4)
    | none => 99
  ((List.range 5).map fun h =>
    if r < 5 ∧ r < h then [] else (List.range (s.ctx p c).vdmap.length).filter fun v => hop v == h).flatten

/-- What became of a fault record at its queue: the queue that it entered, or that it waits, on s2.mig or not (R326, R347). -/
inductive Entered where
  | queue (k : Nat)
  | waits (mig : Bool)
  deriving DecidableEq, Repr

/-- A record enters a context's queue under R143 from a physical die, where its handle is good and there is room, and no block of another context is entering it; else nothing changes. -/
def State.enqueueFault (s : State) (x p c : Nat) (h : Word) (r : List Word) : State × Entered :=
  let die := ((r[8]?).getD 0).toNat
  if h = 0 then (s, .waits false)
  else
    match s.agentHandle p c die h .queue with
    | .hold (.remoteRead dev va n) s1 => (s1.ask dev (agentTag va) 0 va n, .waits false)
    | .hold g s1 => (s1, .waits (g == Hold.walkMig))
    | .fault _ s1 => (s1, .waits false)
    | .ok none s1 => (s1, .waits false)
    | .ok (some n) s1 =>
      let k := queueKey p n
      if !s1.queueOk p n || !(s1.queue k).en || s1.blockOpen x k then (s1, .waits false)
      else
        match (s1.reachFrom p c k die).find? fun v => s1.roomIn k v with
        | none => (s1, .waits false)
        | some v =>
          let (slot, s2) := s1.claimTail k v
          match s2.writeRecord p c die ((s2.queue k).recAddr v slot) (wordsBytes (r.take 8)) with
          | .ok _ s3 => (s3.forget.publish k v slot, .queue k)
          | .hold g s3 => ({ s1 with outputs := s3.outputs, agentOut := s3.agentOut }, .waits (g == Hold.walkMig))
          | .fault .. => (s1, .waits false)

/-- Blocks with the first record of the first one taken off. -/
def dropRecord : List FaultBlock → List FaultBlock
  | [] => []
  | [] :: bs => bs
  | [_] :: bs => bs
  | (_ :: rs) :: bs => rs :: bs

/-- The first of some blocks has records left of which one has entered (R326). -/
def blockLeft (b : FaultBlock) : Bool := decide (1 < b.length)

/-- FAULT_PART_ENQUEUE (R326, R347, R357): the next record that waits for the owner's queue, or the operator's, enters it. -/
def execFaultPartEnqueue (part ctx : Nat) (oper : Bool) (s : State) : Host.Outcome State Fault Refusal :=
  if oper then
    match s.operatorCtx part, (s.part part).opParts with
    | some c, (r :: rs) :: bs =>
      if (s.part part).opMig = some c then .next s
      else
        match s.enqueueFault (ctxKey 4 0) part c (s.part part).fqOp r with
        | (s1, .queue _) => .next (s1.setPart part { s1.part part with opParts := dropRecord ((r :: rs) :: bs) })
        | (s1, .waits m) => .next (if m then s1.setPart part { s1.part part with opMig := some c } else s1)
    | _, _ => .next s
  else
    match (s.ctx part ctx).ownParts with
    | (r :: rs) :: bs =>
      if (s.ctx part ctx).ownMig then .next s
      else
        match s.enqueueFault (ctxKey part ctx) part ctx (s.ctx part ctx).fqOwn r with
        | (s1, .queue k) =>
          .next (s1.setCtx part ctx { s1.ctx part ctx with
            ownParts := dropRecord ((r :: rs) :: bs), ownOpen := if blockLeft (r :: rs) then some k else none })
        | (s1, .waits m) => .next (if m then s1.setCtx part ctx { s1.ctx part ctx with ownMig := true } else s1)
    | _ => .next s

end Sys2Proof.Machine
end

