-- ==== Sys2Proof/Machine/Rings.lean ====
section
/-! DEFINITION. Rings: the owner's command ring (R388, R389): what an entry comes to, and what its commands do: RING_LAUNCH, RING_ENQ, RING_KNOTDEC, RING_SWR. -/

namespace Sys2Proof.Machine

open Sys2Proof

/-! ## Entries -/

/-- The ring is enabled (R388). -/
def Ring.on (r : Ring) : Bool := decide (4 ≤ r.log) && decide (r.log ≤ 16)
/-- Entries of the ring. -/
def Ring.size (r : Ring) : Nat := 2 ^ r.log
/-- Index i of the ring plus n. -/
def Ring.index (r : Ring) (i n : Nat) : Nat := (i + n) % r.size

/-- An entry's sequence number. -/
def ringNumber (e : List Byte) : Nat := bytesNat (e.take 8)
/-- An entry's command (R388). -/
def ringCode (e : List Byte) : Nat := ((e[8]?).getD 0).toNat
/-- Field a of an entry. -/
def ringA (e : List Byte) : Word := bytesWord (e.drop 12)
/-- Field b of an entry. -/
def ringB (e : List Byte) : Nat := bytesNat ((e.drop 16).take 8)

/-- The tag that an entry must carry (R388). -/
def ringTag (k : Key) (e : List Byte) : List Byte := (List.range 32).map (Config.mac (keyNat k) (e.take 32))

/-- Why an entry is dropped, by the code of its notice; none where it is performed (R389). -/
def Ctx.ringFate (x : Ctx) (e : List Byte) : Option Nat :=
  if x.keyState ≠ .imported ∨ x.ring.expect = 2 ^ 64 - 2 then .some 4
  else if (e.drop 32).take 32 ≠ ringTag x.ringKey e then .some 3
  else if ringNumber e < x.ring.expect then .some 1
  else if x.ring.expect < ringNumber e then .some 2
  else .none

/-- Commands that the ring knows (R388); an entry with another has nothing to perform (log 31). -/
def ringKnown (e : List Byte) : Bool := decide (1 ≤ ringCode e) && decide (ringCode e ≤ 4)

/-- A notice of the ring, and the refusal that it counts (R389). -/
def State.ringNotice (s : State) (p c code : Nat) : State := (s.noticeOwner p c .rights 0 0 code 0 0).count p c 0x100

/-- Bytes of the trusted VM's memory at a host address, where no bytes came with the request: the host's memory as the CXL tier holds it. -/
def State.hostBytes (s : State) (a n : Nat) : List Byte := s.homeBytes .none (memKey 2 (a % 2 ^ 52)) n

/-- The entry at ring.head as the host's memory holds it when it is read: what the driver said last, else what tier 2 holds (log 77). -/
def State.ringEntry (s : State) (r : Ring) : List Byte := (r.buffer.head?).getD (s.hostBytes (r.base + 64 * r.head) 64)

/-- Entries that the ring has to read: head ≠ tail. -/
def Ring.unread (r : Ring) : Nat := (r.tail % r.size + r.size - r.head % r.size) % r.size

/-- At most n entries read one at a time up to the first that is performed (R389): head passes each. -/
def State.ringScan (s : State) (p c : Nat) : Nat → State
  | 0 => s
  | n + 1 =>
    let x := s.ctx p c
    let e := s.ringEntry x.ring
    let r := { x.ring with head := x.ring.index x.ring.head 1, buffer := x.ring.buffer.drop 1 }
    match x.ringFate e with
    | .some code => ((s.setCtx p c { x with ring := r }).ringNotice p c code).ringScan p c n
    | .none =>
      let s1 := s.setCtx p c { x with ring := { r with expect := x.ring.expect + 1, cmd := if ringKnown e then some e else none } }
      if ringKnown e then s1 else s1.ringScan p c n

/-- The ring reads on where it may: enabled, not stopped, no command to perform first, no handshake of its quarters (R378, R389). -/
def State.ringRead (s : State) (p c : Nat) : State :=
  let x := s.ctx p c
  if x.en && x.ring.on && !x.ring.stopped && x.ring.cmd.isNone && !s.merging p then s.ringScan p c x.ring.unread else s

/-! ## Commands -/

/-- The die whose agents act for a context's ring: that of virtual die 0. -/
def State.ringDie (s : State) (p c : Nat) : Nat := (s.physDie p c 0).getD 0

/-- The command to perform next, where it is the one of a code. -/
def State.ringCmd (s : State) (p c code : Nat) : Option (List Byte) :=
  let r := (s.ctx p c).ring
  match r.cmd with
  | some e => if r.stopped || r.mig || ringCode e ≠ code then none else some e
  | none => none

/-- The ring without the command that it has performed or skipped. -/
def Ring.free (r : Ring) : Ring := { r with cmd := none, claim := none, fires := none }

/-- What a command comes to: performed, it makes way for the next entry; held, it is tried again. -/
def State.ringEnds (p c : Nat) : Got Unit → State
  | .ok _ s =>
    let x := s.ctx p c
    (s.forget.setCtx p c { x with ring := x.ring.free }).ringRead p c
  | .fault f s => s.ringTrap p c f .ring
  | .hold (.remoteRead dev va n) s => s.ask dev (agentTag va) 0 va n
  | .hold .walkMig s =>
    let x := s.ctx p c
    s.setCtx p c { x with ring := { x.ring with mig := true } }
  | .hold _ s => s

/-- The command of a code performed, where it is the ring's next. -/
def ringDo (p c code : Nat) (act : State → Word → Nat → Got Unit) (s : State) : Host.Outcome State Fault Refusal :=
  match s.ringCmd p c code with
  | none => .next s
  | some e => .next (State.ringEnds p c (act s (ringA e) (ringB e)))

/-- The reader of the device's agents for a context. -/
def agentReader (p c die : Nat) : Reader :=
  { read := fun s va n al => if va % al ≠ 0 then .fault (plainFault 0 va .align) s else s.agentRead p c die va n
    knot := fun s h => s.agentHandle p c die h .knot }

/-- RING_LAUNCH (R389): LAUNCH by one lane with record address b. -/
def execRingLaunch (part ctx : Nat) (s : State) : Host.Outcome State Fault Refusal :=
  ringDo part ctx 1 (fun s _ b =>
    let die := s.ringDie part ctx
    match s.createLaunch (agentReader part ctx die) true part ctx 0 die b with
    | .ok s1 => .ok () s1
    | .fault f s1 => .fault f s1
    | .hold h s1 => .hold h s1) s

/-- A handle that a command names, of a number that the partition has. -/
def State.ringHandle (s : State) (p c : Nat) (h : Word) (kind : HKind) (ok : State → Nat → Bool) : Got Nat :=
  match s.agentHandle p c (s.ringDie p c) h kind with
  | .ok (some n) s1 => if ok s1 n then .ok n s1 else .fault (plainFault 0 0 .staleHandle) s1
  | .ok none s1 => .fault (plainFault 0 0 .staleHandle) s1
  | .fault f s1 => .fault f s1
  | .hold g s1 => .hold g s1

/-- The slot of a queue that the ring's ENQ claimed before a fault or a hold of its write. -/
def Ring.claimed (r : Ring) (k : Nat) : Option (Nat × Nat) := (r.claim.filter (·.1 == k)).map (·.2)

/-- The slot of a queue for the ring's ENQ, claimed now or before, and the state that holds the claim (R143). -/
def State.ringClaim (s : State) (p c k : Nat) : Option ((Nat × Nat) × State) :=
  let x := s.ctx p c
  match x.ring.claimed k with
  | some c => some (c, s)
  | none => (s.firstRoom p c k 0).map fun v =>
      let (slot, s1) := s.claimTail k v
      ((v, slot), s1.setCtx p c { x with ring := { x.ring with claim := some (k, v, slot) } })

/-- RING_ENQ (R143, R389): the 32 bytes at b enter queue a, from virtual die 0. A write that faults or holds keeps the slot claimed. -/
def execRingEnq (part ctx : Nat) (s : State) : Host.Outcome State Fault Refusal :=
  ringDo part ctx 2 (fun s a b =>
    let die := s.ringDie part ctx
    match s.ringHandle part ctx a .queue fun s n => s.queueOk part n with
    | .fault f s1 => .fault f s1
    | .hold h s1 => .hold h s1
    | .ok n s1 =>
      let k := queueKey part n
      if !(s1.queue k).en && ((s1.ctx part ctx).ring.claimed k).isNone then .fault (plainFault 0 0 .queueHandle) s1
      else
        match s1.agentGet part ctx die (piecesOf b 32) with
        | .fault f s2 => .fault f s2
        | .hold h s2 => .hold h s2
        | .ok bs s2 =>
          match s2.ringClaim part ctx k with
          | none => .hold (.queueRoom k) s2
          | some ((v, slot), s3) =>
            match s3.writeRecord part ctx die ((s3.queue k).recAddr v slot) bs with
            | .ok _ s4 => .ok () (s4.publish k v slot)
            | r => r) s

/-- The ring's decrement takes its knot to zero (R150, R153): the firing is the ring's, which waits until its record has a slot claimed, or is held by a disabled queue. -/
def State.ringFires (s : State) (p c k obj : Nat) : Got Unit :=
  let x := s.ctx p c
  let s1 := (s.setCtx p c { x with ring := { x.ring with fires := some true } }).fire k p c 0 obj (some .ring)
  if (s1.ctx p c).ring.stopped || (s1.ctx p c).ring.fires == some true then .hold (.order 0) s1 else .ok () s1

/-- RING_KNOTDEC (R151, R153, R389): knot a goes down by b. Once it has fired, the command waits for the firing alone. -/
def execRingKnotdec (part ctx : Nat) (s : State) : Host.Outcome State Fault Refusal :=
  ringDo part ctx 3 (fun s a b =>
    match (s.ctx part ctx).ring.fires with
    | some true => .hold (.order 0) s
    | some false => .ok () s
    | none =>
    match s.ringHandle part ctx a .knot fun s n => s.knotOk part n with
    | .fault f s1 => .fault f s1
    | .hold h s1 => .hold h s1
    | .ok n s1 =>
      let k := knotKey part n
      let x := s1.knot k
      if x.count < b then .fault (plainFault 0 0 .knotUnderflow) s1
      else if b = 0 then .ok () s1
      else
        let s2 := s1.setKnot k { x with count := x.count - b }
        if x.count = b then s2.ringFires part ctx k a.toNat else .ok () s2) s

/-- RING_SWR (R365, R389): a per-context register is written with the context's own rights. -/
def execRingSwr (part ctx : Nat) (s : State) : Host.Outcome State Fault Refusal :=
  ringDo part ctx 4 (fun s a b =>
    match s.ctxSet part ctx (s.ctx part ctx).auth a.toNat (loWord b) with
    | .none => .fault (plainFault 0 0 .illegalOperand) s
    | .refused => .fault (plainFault 0 0 .rights) s
    | .done s1 => .ok () s1
    | .sync slot s1 => .ok () { s1 with hcopies := s1.hcopies.filter fun x => !(x.part == part && x.ctx == ctx && x.slot == slot) }) s

end Sys2Proof.Machine
end

