-- ==== Sys2Proof/Machine/FaultAck.lean ====
section
/-! DEFINITION. FaultAck: FLTACK (R332, R359, R369), the replay and the abort of what a fault left (R137, R152, R197, R211, R218, R246, R284, R307, R313). A team's replay is performed when it is next picked (ISSUE_PICK). -/

namespace Sys2Proof.Machine

open Sys2Proof

/-! ## The replay of captured accesses (R137, R332) -/

/-- An operation whose captured accesses have started again: they join it; those that fault again are captured again, and the team holds for them. -/
def State.restart (s : State) (o i : Nat) (x : Op) (good : List Acc) (bad : List (LaneFault × Acc)) : State :=
  let accs := x.accs ++ good
  let own := if accs.any (·.aux == 1) then some (s.ctx x.part x.ctx).fabDev else none
  let us := if x.kind.units then unitsOf (x.kind == .store) own accs else []
  let y : Op := { x with accs := accs, failed := bad.map (·.1), refail := bad.map (·.2), units := us }
  let s1 := s.setOp o y
  let s2 := if !us.isEmpty then s1.modTeam i fun t => { t with hold := some (.units o) }
    else if bad.isEmpty then s1
    else s1.modTeam i fun t => { t with hold := some (.faultAfter o) }
  if bad.isEmpty ∨ accs.any (!·.done) then s2 else s2.parkOp o y

/-- The captured accesses of a store start again: posted, or on their way as releases (R137, R284, R313). -/
def State.restartStore (s : State) (o i : Nat) (t : Team) (x : Op) (good : List Acc) (bad : List (LaneFault × Acc)) : State :=
  let own := (s.ctx x.part x.ctx).fabDev
  let later := good.any fun a => a.aux == 1 && match a.remoteDev with
    | some d => decide (d < own)
    | none => false
  match x.rel with
  | none =>
    if later then s.restart o i x good bad
    else if good.any (·.aux == 1) then (s.restart o i x good bad).postOwn i o (good.zipIdx.map fun a => (x.accs.length + a.2, a.1))
    else (s.restart o i x (good.filter (·.remoteDev.isSome)) bad).postAll i o (good.filter (·.remoteDev.isNone))
  | some sc => if later then s.restart o i x good bad else (s.restart o i x good bad).sendAll i t o sc x.accs.length good

/-- Lanes of a pattern instruction that did not resolve do so again from their captured coordinates (R313); others keep what was captured. -/
def State.repattern (s : State) (i : Nat) (t : Team) : List Acc → Resolved
  | [] => .ok [] [] s
  | a :: as =>
    let next (g : List Acc) (b : List (LaneFault × Acc)) (s : State) : Resolved :=
      match s.repattern i t as with
      | .ok gs bs s1 => .ok (g ++ gs) (b ++ bs) s1
      | r => r
    if a.aux < 2 then next [a] [] s
    else
      match s.record i t (a.aux - 2) 64 64 with
      | .hold h s1 => .hold h s1
      | .fault f s1 => next [] [({ f with lane := a.lane }, a)] s1
      | .ok rs s1 =>
        match patternOf (bytesWords 16 rs) with
        | none => next [] [(plainFault a.lane 0 .illegalOperand, a)] s1
        | some pt =>
          let n := pt.dims.length
          match s1.patLane i t pt a.lane ((bytesWords n (a.data.take (4 * n))).map (·.toNat)) with
          | .hold h s2 => .hold h s2
          | .fault f s2 => next [] [(f, a)] s2
          | .ok (dev, off) s2 =>
            next [namedAcc (s2.ctx t.part t.ctx).fabDev dev a.lane ((t.pair 62 + off) % 2 ^ 64) a.size a.size a.reg (a.data.drop (4 * n))] [] s2

/-- The team's replay holds, and is tried again at its next issue. -/
def State.replayHolds (s : State) (i : Nat) (r : Redo) (h : Hold) : State :=
  s.modTeam i fun t => { t with redo := r, hold := some (s.holdAs i t h) }

/-- The captured accesses of an instruction start again under its team's translation (R137, R332). -/
def State.replayStart (s : State) (o i : Nat) (t : Team) (x : Op) (lanes : List Acc) : State :=
  let again := Redo.accs o lanes
  let go (good : List Acc) (bad0 : List (LaneFault × Acc)) (s : State) : State :=
    match s.startAll i t x.kind.access good with
    | .hold h s1 => s1.replayHolds i again h
    | .ok g b s1 => if x.kind == .store then s1.restartStore o i t x (lastWriters g) (bad0 ++ b) else s1.restart o i x g (bad0 ++ b)
  if x.pat.isSome then
    match s.repattern i t lanes with
    | .hold h s1 => s1.replayHolds i again h
    | .ok g b s1 => go g b s1
  else go lanes [] s

/-- What an operation's captured accesses do at the replay, by kind. -/
def State.replayAccs (s : State) (o i : Nat) (t : Team) (x : Op) (lanes : List Acc) : State :=
  let again := Redo.accs o lanes
  match x.kind with
  | .pataddr =>
    match s.repattern i t lanes with
    | .hold h s1 => s1.replayHolds i again h
    | .ok good bad s1 =>
      let own := (s1.ctx t.part t.ctx).fabDev
      let (near, out) := s1.reached t good
      (s1.modTeam i fun t => near.foldl (fun t x =>
        t.setVs x.lane x.reg [BitVec.ofNat 32 (x.remoteDev.getD own), BitVec.ofNat 32 (x.va + 2 ^ 64 - t.pair 62)]) t).restart o i x [] (bad ++ out)
  | .launch =>
    match s.launchLanes i t [] lanes with
    | (.error h, s1) => s1.replayHolds i again h
    | (.ok bad, s1) => (s1.modTeam i fun t => { t with claimed := [] }).restart o i x [] bad
  | .pleat reg _ =>
    match s.pleatLanes i t none reg (lanes.map fun a => (a.lane, BitVec.ofNat 32 a.aux, a.data.take 16)) with
    | .hold h s1 => s1.replayHolds i again h
    | .fault _ s1 => s1
    | .ok xs s1 =>
      let (good, bad) := s1.pleatSplit t xs
      (s1.restart o i { x with rel := some (max (x.rel.getD 3) (pleatScope good)) } good bad).pleatOut o
  | .copy inn _ _ =>
    match s.lineTrs i t (if inn then .read else .write) lanes with
    | .hold h s1 => s1.replayHolds i again h
    | .ok as s1 => s1.restart o i x as []
    | .fault f s1 =>
      let y := { x with failed := [f], refail := lanes }
      ((s1.setOp o y).modTeam i fun t => { t with hold := some (.faultAfter o) }).parkOp o y
  | .pload .. => (s.replayStart o i t x lanes).serveOp o i
  | .pstore => (s.replayStart o i t x lanes).serveOp o i
  | .sample .. => s.replayStart o i t { x with accs := x.accs.filter fun a => !(lanes.any fun b => b.lane == a.lane && b.reg == a.reg) } lanes
  | _ => s.replayStart o i t x lanes

/-- A loop, a walk or a PATCF that a fault stopped goes on (R197, R211, R314). -/
def State.replayOp (s : State) (o : Nat) (lanes : Mask) : State :=
  match s.op o with
  | none => s
  | some x =>
    match x.kind with
    | .loop l => s.setOp o { x with kind := .loop (l.release lanes true) }
    | .job 1 a b _ =>
      let accs := jobAccs (s.others x.part x.ctx) 0
      s.setOp o { x with kind := .job 1 a b 1, accs := accs, units := jobUnits accs, refail := [] }
    | _ => s.setOp o { x with refail := [] }

/-- The knot's first firing, which a fault holds, goes on (R152, R153). -/
def State.unholdFiring (s : State) (k : Nat) : State :=
  match (s.knot k).firing with
  | [] => s
  | f :: rest => s.setKnot k { s.knot k with firing := { f with held := false } :: rest }

/-- The posted entry translates and drains again (R284). -/
def State.unholdPosted (s : State) (e : Nat) : State :=
  match recFind s.posted e with
  | none => s
  | some x => { s with posted := cellPut s.posted e { x with held := none, tr := none } }

/-- The replay that a team has to perform before it issues on (R332). -/
def State.redoNow (s : State) (i : Nat) (t : Team) : State :=
  let t1 := { t with redo := .none }
  let s1 := s.setTeam i t1
  match t.redo with
  | .accs o lanes =>
    match s1.op o with
    | none => s1
    | some x => s1.replayAccs o i t1 { x with refail := [] } lanes
  | .push q ws => s1.pushGo i (BitVec.ofNat 4 q) ws
  | .posted e => s1.unholdPosted e
  | .firing k => s1.unholdFiring k
  | .op o => s1.replayOp o (BitVec.allOnes 1024)
  | _ => s1

/-! ## Replay and abort of a fault (R332) -/

/-- The command of an engine or copy record that stopped its queue starts again (R246). -/
def State.restartRecord (s : State) (e : Nat) : State :=
  match s.op e with
  | none => s
  | some x =>
    match x.kind with
    | .engine k v cl ws _ _ => s.setOp e { x with kind := .engine k v cl ws 0 false, failed := [], rel := none }
    | .recCopy ws _ => s.setOp e { x with kind := .recCopy ws 0, failed := [], rel := none }
    | _ => s

/-- An undecided fault of a context's ring (R389). -/
def TrapRec.ofRing (r : TrapRec) (p c : Nat) : Bool := !r.decided && r.team.isNone && r.scalar && r.part == p && r.ctx == c

/-- A context's ring runs on (R389), where no other fault of it stays: it performs its command again, or skips it. -/
def State.restartRing (s : State) (p c : Nat) (again : Bool) : State :=
  let x := s.ctx p c
  let r := if again then x.ring else x.ring.free
  (s.setCtx p c { x with ring := { r with stopped := decide (1 < (s.traps.filter fun e => e.2.ofRing p c).length) } }).ringRead p c

/-- A firing's fault is decided: the ring whose command fired the knot runs on. -/
def State.firingRing (s : State) (r : TrapRec) : State := if r.scalar then s.restartRing r.part r.ctx true else s

/-- A replay that the last acting authority has given: the team's runs when it next issues, the context's at once. -/
def State.replayFault (s : State) (r : TrapRec) : State :=
  match r.team with
  | some i => s.modTeam i fun t =>
      { t with trap := none, redo := match r.redo with
        | .whole => .none
        | .fetch => .none
        | x => x }
  | none =>
    match r.redo with
    | .engine e => s.restartRecord e
    | .firing k => (s.unholdFiring k).firingRing r
    | .ring => s.restartRing r.part r.ctx true
    | _ => s

/-- The captured lanes of an operation are given up (R332): a claimed record is left, a copy makes no arrival (R218). -/
def State.abortAccs (s : State) (o : Nat) (lanes : List Acc) : State :=
  match s.op o with
  | none => s
  | some x =>
    let y := { x with refail := [] }
    match x.kind with
    | .copy inn tile _ => s.setOp o { y with kind := .copy inn tile none }
    | .sample ws flush reg coords => s.setOp o { y with kind := .sample ws flush reg (coords.filter fun c => !(lanes.any fun a => a.lane == c.1)) }
    | .deq q _ _ _ => lanes.foldl (fun s a => s.unpublish q a.aux a.reg) (s.setOp o y)
    | _ => s.setOp o y

/-- A loop's stopped lane groups are given up where they stand; a walk or a PATCF ends (R332). -/
def State.abortOp (s : State) (o : Nat) (lanes : Mask) : State :=
  match s.op o with
  | none => s
  | some x =>
    match x.kind with
    | .loop l => s.setOp o { x with kind := .loop (l.release lanes false) }
    | _ => s.endOp o x

/-- A pending firing is discarded (R153). -/
def State.dropFiring (s : State) (k : Nat) : State :=
  match (s.knot k).firing with
  | [] => s
  | f :: rest => (s.setKnot k { s.knot k with firing := rest }).fireReleases f

/-- The clause of one EXIT over every live lane, without a guard, that an aborted clause header comes to (R332). -/
def Team.exits (t : Team) : Team :=
  let one : Clause := { header := 0x000FF000, instrs := [0x09F0F0F0], lits := [] }
  let t1 := { t with mode := t.mode &&& 0x0FFFFFFF, refill := none, stage := .run, pc := t.base + 4, clause := one }
  t1.setM 0 t1.live

/-- The abort registers (R359). -/
def Team.aborted (t : Team) (r : TrapRec) : Team :=
  { t with abPc := BitVec.ofNat 32 r.pc, abSum := maskSummary r.unfinished, abMask := Vector.ofFn fun g => maskWord r.unfinished g.val }

/-- An abort of a team's fault (R332, R359): its unfinished lanes have no effect, and it goes on with the next instruction. -/
def State.abortTeam (s : State) (i : Nat) (t : Team) (r : TrapRec) : State :=
  let t1 := { t.aborted r with trap := none, redo := .none }
  let s1 := s.setTeam i t1
  if t.wave.isSome then s1.abortWave i
  else
    match r.redo with
    | .whole => s1.setTeam i t1.finish.next
    | .push _ _ => s1.setTeam i t1.finish.next
    | .fetch => s1.setTeam i t1.exits
    | .accs o lanes => s1.abortAccs o lanes
    | .op o => s1.abortOp o r.unfinished
    | .posted e =>
      let s2 := match recFind s1.posted e with
        | some x => s1.landed x.lands
        | none => s1
      { s2 with posted := cellDel s2.posted e }
    | .firing k => s1.dropFiring k
    | _ => s1

/-- An abort, which decides a fault at once (R332, R369). -/
def State.abortFault (s : State) (r : TrapRec) : State :=
  match r.team with
  | some i =>
    match s.team i with
    | some t => s.abortTeam i t r
    | none => s
  | none =>
    match r.redo with
    | .engine e => s.dropOp e
    | .firing k => (s.dropFiring k).firingRing r
    | .ring => s.restartRing r.part r.ctx false
    | _ => s

/-- An authority's action on a fault recorded (R332): it is decided by an abort, or by the last acting authority's replay; it is over when every acting authority has acknowledged it. -/
def State.recordAck (s : State) (id : Nat) (r : TrapRec) (oper abort : Bool) : State :=
  let r1 := if oper then { r with ackOp := true } else { r with ackOwn := true }
  let all := (!r1.actOwn || r1.ackOwn) && (!r1.actOp || r1.ackOp)
  let s1 := if r.decided then s else if abort then s.abortFault r1 else if all then s.replayFault r1 else s
  if all then { s1 with traps := cellDel s1.traps id }
  else { s1 with traps := cellPut s1.traps id { r1 with decided := r.decided || abort } }

/-- The unacknowledged fault that an issuer may name (R332): of its own context, or, for the operator, of the partition. -/
def State.unacked (s : State) (t : Team) (id : Nat) : Option TrapRec :=
  match recFind s.traps id with
  | none => none
  | some r =>
    if r.part ≠ t.part then none
    else if s.auth t = .operator then (if r.ackOp then none else some r)
    else if r.ctx = t.ctx ∧ r.ackOwn = false then some r
    else none

/-- FLTACK (R332, R359, R369): the issuer's release at DEVICE scope comes first. -/
def execFltack (a : Sel) (b : BitVec 8) (s : State) : Host.Outcome State Fault Refusal :=
  once s (fun t s1 => [need (s1.auth t != .auditor) .rights, need (t.scalarSrc a && decide (b.toNat < 2)) .illegalOperand]) [(0, a)]
    fun i t q s1 =>
    let id := (s1.scalar t a (q 0)).toNat
    let oper := s1.auth t == .operator
    match s1.unacked t id with
    | none => .check .illegalOperand true (s1.setTeam i t)
    | some r =>
      if (if oper then !r.actOp else !r.actOwn) then .check .rights true (s1.setTeam i t)
      else
        match (s1.setTeam i t).drainAll i with
        | .fault e f s2 => .trap (postedInfo i t e f) s2
        | .wait h s2 => .hold h s2
        | .ok s2 =>
          if !s2.covered (some i) (s2.dom t) s2.stamp then .hold (.drained s2.stamp) s2
          else .ok (s2.recordAck id r oper (b == 1))

end Sys2Proof.Machine
end

