-- ==== Sys2Proof/Machine/Seal.lean ====
section
/-! DEFINITION. Seal: SEAL and UNSEAL (R330, R331, R372): the blob, what waits, what is released, and the planner that gives teams and clusters their places again (R330, R364). -/

namespace Sys2Proof.Machine

open Sys2Proof

/-! ## What a seal carries (R330) -/

/-- An access of an operation that a posted entry of its team still holds: the entry is state (R79, R284). -/
def State.stillPosted (s : State) (o k : Nat) : Bool := s.posted.any fun e => !e.2.sent && e.2.op == o && e.2.acc == some k

/-- An operation that is state of its team, not in flight: progress kept at a boundary, lanes parked, posted or not sent, replies pending (R79, R284, R313, R361). -/
def State.carried (s : State) (o : Nat) (x : Op) : Bool :=
  match x.kind with
  | .loop _ => !s.mmaSteps o x
  | .trace .. => true
  | .pleat .. => true
  | .deq .. => x.allDone
  | .knot .. => x.accs.all fun a => a.done || a.size == 1
  | _ => (x.allDone && !x.refail.isEmpty)
    || (!x.allDone && (List.range x.accs.length).all fun k => ((x.accs[k]?).map (·.done)).getD true || x.unsent k || s.stillPosted o k)

/-- No operation of a context is in flight: its writes are home, and what is left of its instructions is state (R330). -/
def State.ctxQuiet (s : State) (p c : Nat) : Bool :=
  !(s.ops.any fun o => o.2.part == p && o.2.ctx == c && !s.carried o.1 o.2)
  && !(s.stores.any fun w => w.2.part == p && w.2.ctx == c)
  && !(s.posted.any fun e => e.2.sent && match s.team e.2.team with
      | some t => t.part == p && t.ctx == c
      | none => false)

/-- The teams and waves of a context. -/
def State.ctxTeams (s : State) (p c : Nat) : List (Nat × Team) := s.teams.filter fun e => e.2.part == p && e.2.ctx == c

/-- A context is wholly halted by PREEMPT. -/
def State.wholeHalt (s : State) (p c : Nat) : Bool := (s.ctx p c).preempted && (s.ctxTeams p c).all (·.2.halted)

/-- A seal's length over its header (R372): free, within its bound (log 7). -/
def sealBody (n teams : Nat) : Nat := Config.sealLen n % (4097 + 0x1C1000 * teams)

/-- The event under which the bytes of seal n under a key are free (log 7). -/
def sealEvent (k : Key) (n : Nat) : Nat := 2 * (n + 2 ^ 64 * keyNat k)

/-- The header of a blob (R331), sealed under a partition's key: the nonce is the device's seal counter (log 7). -/
def blobHeader (k : Key) (c len seq nvd n : Nat) : List Byte :=
  natBytes len 4 ++ natBytes c 4 ++ natBytes seq 4 ++ natBytes nvd 4 ++ natBytes n 12 ++ natBytes 0 4
    ++ (List.range 16).map (fun j => Config.cipher (sealEvent k n) j) ++ natBytes 0 16

/-- A blob (R331): its header, then ciphertext. -/
def blobBytes (k : Key) (c len seq nvd n : Nat) : List Byte :=
  blobHeader k c len seq nvd n ++ (List.range (len - 64)).map fun j => Config.cipher (sealEvent k n) (16 + j)

/-- The context's core resources are released, its dies unbound, its state kept for the one blob that holds it (R330, R372). -/
def State.sealAway (s : State) (p c len : Nat) : State :=
  let x := s.ctx p c
  let n := s.dev.seals + 1
  let mine (q d : Nat) : Bool := q == p && d == c
  let s0 := ((s.leaveCtx p c).setCtx p c { x with sealed := true, blob := some (n, len, x.fabNvd), seq := (x.seq + 1) % 2 ^ 32, vdmap := [], fabNvd := 0 }).moveParts p c (sealedDie x.vdmap)
  { s0 with
    dev := { s0.dev with seals := n }
    teams := s0.teams.map fun e => if mine e.2.part e.2.ctx && e.2.place != .spilled then (e.1, { e.2 with place := .sealed }) else e
    clusters := s0.clusters.map fun e => if mine e.2.part e.2.ctx then (e.1, { e.2 with away := e.2.cores.map fun k => (k, true) }) else e
    tlb := s0.tlb.filter fun y => !(mine y.part y.ctx && y.lane.isSome) }

/-- SEAL (R330, R331, R372). -/
def execSeal (d a b : Sel) (s : State) : Host.Outcome State Fault Refusal :=
  once s (fun t s1 => [need (s1.auth t == .operator) .rights, need (pairOk d && t.scalarSrc a && t.scalarSrc b) .illegalOperand]) [(0, a), (1, b)]
    fun i t q s1 =>
    match d with
    | .s r =>
      let c := (s1.scalar t a (q 0)).toNat
      let x := s1.ctx t.part c
      let len := 64 + sealBody (s1.dev.seals + 1) (s1.ctxTeams t.part c).length
      if !s1.isCtx t.part c || x.fabNvd == 0 || !s1.wholeHalt t.part c then .check .illegalOperand true (s1.setTeam i t)
      else if !s1.ctxQuiet t.part c then .hold (.quiet c) (s1.setTeam i t)
      else if (s1.scalar t b (q 1)).toNat < len then .check .illegalOperand true (s1.setTeam i t)
      else
        match (s1.setTeam i t).clearOver i [(t.pair r, len)] with
        | .fault e f s2 => .trap (postedInfo i t e f) s2
        | .wait h s2 => .hold h s2
        | .ok s2 =>
          match s2.placeRun i t (t.pair r) len with
          | .hold h s3 => .hold h s3
          | .fault f s3 => scalarFault i t s3 f
          | .ok as s3 =>
            match s3.putRun t (t.pair r) (blobBytes (s3.part t.part).sealKey c len ((x.seq + 1) % 2 ^ 32) x.fabNvd (s3.dev.seals + 1)) as with
            | .hold h s4 => .hold h s4
            | .fault f s4 => scalarFault i t s4 f
            | .ok _ s4 => .ok (s4.sealAway t.part c len)
    | _ => .check .illegalOperand true s1

/-! ## Places given again (R330, R364) -/

/-- Windows of a team on a core, one lane group after another (R79, R200, R364): each where it was, if those rows are free, else where ACWIN would put it; none where its rows do not fit. -/
def State.giveRows (s : State) (i core : Nat) : List (Nat × AccWin) → Option State
  | [] => some s
  | (g, w) :: rest =>
    if w.rows = 0 then s.giveRows i core rest
    else
      match (if w.places.all fun r => !s.rowUsed core (i, g) r then some w else s.allot core (i, g) w.rows) with
      | none => none
      | some v => (s.modTeam i fun t => t.setWin g v).giveRows i core rest

/-- A team's windows, by lane group. -/
def Team.wins (t : Team) : List (Nat × AccWin) := (List.range 32).map fun g => (g, t.win g)

/-- The carve-out that a team's cluster needs of its core; a wave needs none. -/
def State.teamCarve (s : State) (t : Team) : Option Nat :=
  match t.wave, (recFind s.clusters t.cluster).bind fun c => recFind s.grids c.grid with
  | none, some g => some g.carve
  | _, _ => none

/-- The slot that a team takes on a core: its own where it is free (R364), else the lowest free one. -/
def State.backSlot (s : State) (core : Nat) (t : Team) : Option Nat := if s.slotFree core t.slot then some t.slot else s.freeSlot core []

/-- A team placed on a core again, with its thimbles cleared (R62, R68, R229, R330, R364): none where a slot, its register units or its rows are not free, where the core has another carve-out and cannot take the launch's, or where another cluster's fused L1 keeps it out. Its reads use no copy from before (R290). -/
def State.rePlace (s : State) (i core : Nat) (t : Team) : Option State :=
  let cl := if t.wave.isSome then s.stamp else t.cluster
  let carve := (s.teamCarve t).getD (s.core core).carve
  match s.backSlot core t with
  | none => none
  | some slot =>
    if !(s.core core).enabled || decide (Config.regUnits < s.unitsUsed core + regUnitsOf t.nlanes t.nregs) || s.fusedOn cl core
        || !s.carveOk core carve cl then none
    else
      let s0 := s.carveTo core carve
      let t1 := { t with core := core, slot := slot, place := .placed, rowsAway := none, acwin := Vector.replicate 32 { base := 0, rows := 0 }, acq := s.stamp + 1 }
      let dom := s0.dom t1
      let s1 := { s0.bump.setTeam i t1 with
        ops := s0.ops.map fun (o : Nat × Op) => if o.2.team == some i then (o.1, { o.2 with core := core, dom := dom }) else o
        tlb := s0.tlb.filter fun x => !(match x.lane with | some l => l.1 == i | none => false) }
      s1.giveRows i core t.wins

/-- The teams of a list placed again, each on its core, or none of them. -/
def State.rePlaceAll (s : State) : List (Nat × Nat) → Option State
  | [] => some s
  | (i, core) :: rest =>
    match s.team i with
    | none => s.rePlaceAll rest
    | some t =>
      match s.rePlace i core t with
      | none => none
      | some s1 => s1.rePlaceAll rest

/-- A core can take a cluster's range (R222 to R229). -/
def State.rangeFits (s : State) (cl : Nat) (c : Cluster) (carve core : Nat) : Bool :=
  let others := s.clusters.filter fun e => e.1 != cl && e.2.standsOn core
  (s.core core).enabled && s.carveOk core carve cl
    && decide (others.foldl (fun n e => n + e.2.share) 0 + c.share ≤ 65536 * carve)
    && (!c.fuse || (s.teamsOn core).all fun e => e.2.cluster == cl) && !(others.any (·.2.fuse))

/-- A cluster's scratch ranges back on every core of its rectangle on a die; none where a core cannot take one. -/
def State.bringBack (s : State) (cl die : Nat) : Option State :=
  match recFind s.clusters cl with
  | none => some s
  | some c =>
    let c1 := { c with die := die, away := [] }
    let carve := match recFind s.grids c.grid with
      | some g => g.carve
      | none => 0
    if c.die == die && c.away.isEmpty then some s
    else if c1.cores.all fun k => s.rangeFits cl c carve k then
      some { c1.cores.foldl (fun s k => s.carveTo k carve) s with clusters := cellPut s.clusters cl c1 }
    else none

/-- The clusters of a list brought back, each on its die, or none of them. -/
def State.bringAll (s : State) : List (Nat × Nat) → Option State
  | [] => some s
  | (cl, die) :: rest =>
    match s.bringBack cl die with
    | none => none
    | some s1 => s1.bringAll rest

/-! ## UNSEAL -/

/-- The homes of a context's objects are fixed again (R298, R308): the core of each of its inbox requests. -/
def State.rehome (s : State) (p c : Nat) : List (Nat × PleatReq) → Got Unit
  | [] => .ok () s
  | (n, r) :: rest =>
    match pleatOf r.record with
    | none => s.rehome p c rest
    | some ob =>
      match s.pleatHome p c r.object ob with
      | .hold h s1 => .hold h s1
      | .fault f s1 => .fault f s1
      | .ok core s1 => { s1 with pleats := cellPut s1.pleats n { r with core := core } }.rehome p c rest

/-- The core that a sealed team comes back to: the same mesh position of the die now bound to its virtual die, or a wave's new home (R308, R330). -/
def State.backCore (s : State) (p c : Nat) (t : Team) : Nat :=
  match t.wave with
  | some w => match w.reqs.head? with
    | some n => match recFind s.pleats n with
      | some r => r.core
      | none => t.core
    | none => t.core
  | none => (s.physDie p c t.vdie).getD 0 * Config.coresPerDie + t.core % Config.coresPerDie

/-- The teams of a list given rows again on their cores. -/
def State.giveAll (s : State) : List (Nat × Nat × List (Nat × AccWin)) → Option State
  | [] => some s
  | (i, core, ws) :: rest =>
    match s.giveRows i core ws with
    | none => none
    | some s1 => s1.giveAll rest

/-- Every team and cluster of a sealed context placed again, halted; spilled teams stay so, with their core and rows moved (R330, R372). -/
def State.unsealAll (s : State) (p c : Nat) : Option State :=
  let ts : List (Nat × Team) := s.ctxTeams p c
  let spilled := ts.filter fun (e : Nat × Team) => e.2.place == .spilled
  let cls := (s.clusters.filter fun e => e.2.part == p && e.2.ctx == c).map fun e =>
    (e.1, match ts.find? fun t => t.2.cluster == e.1 && t.2.wave.isNone with
      | some t => (s.physDie p c t.2.vdie).getD 0
      | none => e.2.die)
  let s1 : State := { s.setCtx p c { s.ctx p c with sealed := false, blob := none } with
    teams := s.teams.map fun (e : Nat × Team) =>
      if e.2.part == p && e.2.ctx == c && e.2.place == .spilled then
        (e.1, { e.2 with core := s.backCore p c e.2, rowsAway := none, acwin := Vector.replicate 32 { base := 0, rows := 0 } }) else e }
  match s1.bringAll cls with
  | none => none
  | some s2 =>
    match s2.rePlaceAll ((ts.filter fun (e : Nat × Team) => e.2.place == .sealed).map fun e => (e.1, s.backCore p c e.2)) with
    | none => none
    | some s3 => s3.giveAll (spilled.map fun e => (e.1, s.backCore p c e.2, e.2.wins))

/-- The bytes of a run as a team reads them at issue, piece by piece. -/
def State.readRun (s : State) (i : Nat) (t : Team) : List (Nat × Nat) → Got (List Byte)
  | [] => .ok [] s
  | (va, n) :: ps =>
    match s.record i t (va % 2 ^ 64) n 1 with
    | .hold h s1 => .hold h s1
    | .fault f s1 => .fault f s1
    | .ok bs s1 =>
      match s1.readRun i t ps with
      | .ok cs s2 => .ok (bs ++ cs) s2
      | r => r

/-- The bytes of a blob's header that AES-256-GCM covers: the additional data, the nonce and the tag (R331). -/
def sealedHeader (h : List Byte) : List Byte := h.take 28 ++ (h.drop 32).take 16

/-- UNSEAL (R330, R331, R372): the blob verifies where it is, in every byte that the seal covers, the one that holds the context's state (log 7). -/
def execUnseal (d a : Sel) (s : State) : Host.Outcome State Fault Refusal :=
  once s (fun t s1 => [need (s1.auth t == .operator) .rights, need (pairOk d && t.scalarSrc a) .illegalOperand]) [(0, a)]
    fun i t q s1 =>
    match d with
    | .s r =>
      let c := (s1.scalar t a (q 0)).toNat
      let p := t.part
      let x := s1.ctx p c
      let bad (s : State) : Res := .check .illegalOperand true (s.setTeam i t)
      match (s1.setTeam i t).readRun i t (piecesOf (t.pair r) 64) with
      | .hold h s2 => .hold h s2
      | .fault f s2 => scalarFault i t s2 f
      | .ok head s2 =>
        if !s1.isCtx p c || !x.sealed || x.fabNvd == 0 then bad s2
        else
          match x.blob with
          | none => bad s2
          | some (n, len, nvd) =>
            if nvd ≠ x.fabNvd ∨ sealedHeader head ≠ sealedHeader (blobHeader (s2.part p).sealKey c len x.seq nvd n) then bad s2
            else
              match s2.readRun i t (piecesOf (t.pair r) len) with
              | .hold h s3 => .hold h s3
              | .fault f s3 => scalarFault i t s3 f
              | .ok bs s3 =>
                if bs.drop 64 ≠ (blobBytes (s3.part p).sealKey c len x.seq nvd n).drop 64 then bad s3
                else
                  match s3.rehome p c (s3.pleats.filter fun r => r.2.part == p && r.2.ctx == c && (r.2.stage == .inbox || r.2.stage == .wave)) with
                  | .hold h s4 => .hold h s4
                  | .fault f s4 => scalarFault i t s4 f
                  | .ok _ s4 =>
                    match s4.unsealAll p c with
                    | none => .hold (.placing c) s4
                    | some s5 => .ok s5
    | _ => .check .illegalOperand true s1

end Sys2Proof.Machine
end

