-- ==== Sys2Proof/Machine/Ready.lean ====
section
/-! DEFINITION. Ready: what ends each hold of a team (R161), which teams are ready, and which teams that are not placed want to come back (R72, R162, R364). -/

namespace Sys2Proof.Machine

open Sys2Proof

/-- The reply of another device to a read of a team is here. -/
def State.replyIn (s : State) (i va : Nat) : Bool := s.fabIn.any fun r => r.op == remoteTag i va

/-- What a team holds for has come (R161). Holds that a step of their own ends are not over here. -/
def State.holdClear (s : State) (i : Nat) (t : Team) : Hold → Bool
  | .waitd flags all before => !s.waiting i t flags all before
  | .flagFull n => decide (t.flag n < Config.flagMax)
  | .fifoEmpty _ => false
  | .fifoFull _ => false
  | .opDone o => (s.op o).isNone
  | .opsDone all before => if all then s.teamIdle i else s.readsDone i before
  | .faultAfter _ => false
  | .regWrites e => !s.regPending i e
  | .queueRoom k => (s.queue k).en && (s.firstRoom t.part t.ctx k t.vdie).isSome
  | .queueRecord _ => false
  | .launchRoom => s.launchRoom (coreDie t.core)
  | .walkEnd q => !s.walkInto i q && !(((t.qregs[q]?).map (·.whole)).getD false)
  | .portsIn m => !((namedPorts t m).any (·.whole))
  | .accRows n => decide (n ≤ (s.freeRows t.core (i, 32)).length)
  | .rows need => !(need.any fun r => s.rowsBusy i s.stamp r.1 r.2.1 r.2.2)
  | .loopRoom => s.loopRoom i t.core
  | .unitAsleep _ => !(s.core t.core).asleep
  | .walkMig => false
  | .walkDrain => true
  | .tack .. => false
  | .tackDone => false
  | .absent _ => false
  | .serve _ => false
  | .sync _ => false
  | .units _ => false
  | .remoteRead _ va _ => s.replyIn i va
  | .remoteEntry e => match recFind s.posted e with
    | some x => x.held.isSome
    | none => true
  | .inboxRoom _ => false
  | .patDrain slot => !s.patDraining.contains (t.part, t.ctx, slot)
  | .pageDrain va => !s.pageDraining t.part t.ctx va
  | .entry e => match recFind s.posted e with
    | some x => x.held.isSome || s.drainReady e x
    | none => true
  | .behind o key va n => !s.readHeld o i key va n
  | .order o => (s.op o).isNone
  | .drained before => s.coveredAt 2 (some i) (s.dom t) before
  | .drainGone ds => ds.isEmpty || ds.any fun d => !(recKeys s.drains).contains d
  | .confirm => (s.drainsOf i).all fun d => s.drainDone d.2 s.stamp
  | .quiet c => s.ctxQuiet t.part c
  | .placing c => (s.unsealAll t.part c).isSome

/-- The team holds nothing back any more. -/
def State.holdOver (s : State) (i : Nat) (t : Team) : Bool :=
  match t.hold with
  | none => true
  | some h => s.holdClear i t h

/-- A hold of an instruction that has issued, whose rest goes on without the team: no trap of an earlier instruction is raised meanwhile. -/
def Hold.midway : Hold → Bool
  | .faultAfter _ => true
  | .units _ => true
  | .inboxRoom _ => true
  | .serve _ => true
  | _ => false

/-- A trap that waits for the team's next issue can be raised (R218, R307, R358). -/
def Team.pendDue (t : Team) : Bool := !t.pend.isEmpty && match t.hold with
  | none => true
  | some h => !h.midway

/-- The team has a replay to perform (R332): a hold of an instruction that has issued does not keep it. -/
def State.redoDue (s : State) (i : Nat) (t : Team) : Bool := t.redo != .none && (s.holdOver i t || match t.hold with
  | some h => h.survives
  | none => true)

/-- The team waits where it stands in the steps of R42. -/
def State.stageReady (s : State) (t : Team) : Bool :=
  match t.stage with
  | .reach => true
  | .waiting => t.waitClear
  | .refill => t.live != 0 || s.refillDue t
  | .run => true

/-- A record has come that a team parked in a DEQ can claim (R145, R162). -/
def State.deqDue (s : State) (t : Team) : Bool :=
  match t.hold with
  | some (.opDone o) => match s.op o with
    | some x => s.claimDue t x
    | none => false
  | _ => false

/-- A team would be ready if it were placed (R161, R162). -/
def State.wouldRun (s : State) (i : Nat) (t : Team) : Bool :=
  !t.halted && !t.debug && t.trap.isNone
    && (s.deqDue t || t.pendDue || s.redoDue i t || (s.holdOver i t && s.stageReady t) || (t.stage == .refill && t.live == 0 && s.refillDue t && t.refill.isSome))

/-- A team wants to come back to its core (R72, R162, R364): spilled and ready, or flipped away and not halted. -/
def State.wantsBack (s : State) (i : Nat) (t : Team) : Bool :=
  match t.place with
  | .spilled => !(s.ctx t.part t.ctx).sealed && s.wouldRun i t
  | .lining => !t.halted
  | .slot => !t.halted
  | _ => false

end Sys2Proof.Machine
end

