-- ==== Sys2Proof/Machine/Placing.lean ====
section
/-! DEFINITION. Placing: CLUSTER_PLACE (R59 to R62, R68 to R76, R222 to R229), TEAM_SPILL and TEAM_RESTORE (R72, R162, R360, R364), LINING_FLIP and LINING_DRAIN (R363). -/

namespace Sys2Proof.Machine

open Sys2Proof

/-! ## New clusters -/

/-- A core can take its teams of a new cluster (R62, R72, R222 to R229, R392). A launch of one core is not fused (R229). -/
def State.coreTakes (s : State) (g : Grid) (fuse : Bool) (core teams units share : Nat) : Bool :=
  (s.core core).enabled && decide (teams ≤ s.freeSlots core) && decide (s.unitsUsed core + units ≤ Config.regUnits)
    && s.carveOk core g.carve s.stamp
    && decide (s.scratchUsed core + share ≤ 65536 * g.carve)
    && (!fuse || (s.teamsOn core).isEmpty) && !s.fusedOn s.stamp core
    && !(s.teams.any fun e => e.2.core == core && s.wantsBack e.1 e.2) && !s.waveWaits core

/-- The next cluster of a grid can be placed at an origin of a virtual die; a grid begins after those that the same firing released before it (R150). -/
def State.clusterFits (s : State) (g : Grid) (die row col h w : Nat) : Bool :=
  let n := h * w
  !g.waiting && !s.merging g.part && decide (g.next < g.size) && (s.ctx g.part g.ctx).runs && decide (row + h ≤ 6) && decide (col + w ≤ 8)
    && (g.ahead.all fun k => match recFind s.grids k with
      | some x => decide (0 < x.next)
      | none => true)
    && ((rectCores die row col h w).zipIdx.all fun c =>
      s.coreTakes g (g.fuse && decide (1 < n)) c.1 (((teamRoles g.roles).zipIdx.filter fun r => r.2 % n == c.2).length) (coreUnits g.roles n c.2)
        (128 * ceilDiv g.scratch n))

/-- CLUSTER_PLACE (R59 to R62, R68 to R76, R222 to R229): the next cluster of a grid is placed whole on a die, its origin at mesh position (origin / 8, origin mod 8); every team starts with an acquire. -/
def execClusterPlace (g vd origin : Nat) (s : State) : Host.Outcome State Fault Refusal :=
  match recFind s.grids g with
  | none => .next s
  | some x =>
    match shapeOf x.shape, s.physDie x.part x.ctx vd with
    | some (h, w), some die =>
      if s.clusterFits x die (origin / 8) (origin % 8) h w then
        let cores := rectCores die (origin / 8) (origin % 8) h w
        let cl := s.stamp
        let c : Cluster :=
          { grid := g, part := x.part, ctx := x.ctx, cid := x.next, die := die, row := origin / 8, col := origin % 8, h := h, w := w,
            share := 128 * ceilDiv x.scratch (h * w), fuse := x.fuse && decide (1 < h * w), cells := [], absent := [], spoiled := [], away := [] }
        let s1 := cores.foldl (fun s k => s.carveTo k x.carve) s.bump
        let s2 := { s1 with clusters := cellPut s1.clusters cl c, grids := cellPut s1.grids g { x with next := x.next + 1, running := x.running + 1 } }
        .next (s2.placeTeams x x.next cl vd (h * w) cores ((teamRoles x.roles).zipIdx.map fun r => (r.2, r.1)))
      else .next s
    | _, _ => .next s

/-! ## Spills and restores (R162, R364) -/

/-- A reason for which a team may be spilled (R162): every one but a wait flag, tokens, a walk held on s2.mig or a drain, and a halt. -/
def Team.mayLeave (t : Team) : Bool :=
  t.trap.isSome || match t.hold with
    | none => t.stage == .refill
    | some (.waitd ..) => false
    | some (.units _) => false
    | some .walkMig => false
    | some .walkDrain => false
    | some (.drainGone _) => false
    | some _ => true

/-- The team has no claim of a dequeue pending on a queue (R145, R162). Slots that an ENQ has claimed stay claimed while its team is away (R143). -/
def State.noClaim (s : State) (i : Nat) : Bool :=
  !(s.ops.any fun o => o.2.team == some i && match o.2.kind with
    | .deq .. => !o.2.allDone
    | _ => false)

/-- The team's PLEAT waits for tokens of its injection bucket (R162, R300). -/
def State.tokenWait (s : State) (t : Team) : Bool :=
  match t.hold with
  | some (.inboxRoom o) => match (s.op o).map (·.units) with
    | some (u :: _) => decide ((s.bucket t.part t.ctx (coreDie t.core)).tokens < u.cost)
    | _ => false
  | _ => false

/-- A team that wants to come back finds room: its cluster's ranges, a slot, register units and rows (R72, R364). -/
def State.backHome (s : State) (i : Nat) (t : Team) : Option State :=
  match (if t.wave.isSome then some s else match recFind s.clusters t.cluster with
    | some c => s.bringBack t.cluster c.die
    | none => some s) with
  | none => none
  | some s1 => s1.rePlace i t.core t

/-- The next cluster of a grid fits somewhere on a die. -/
def State.fitsOn (s : State) (g : Grid) (die : Nat) : Bool :=
  match shapeOf g.shape with
  | none => false
  | some (h, w) => (List.range 48).any fun o => s.clusterFits g die (o / 8) (o % 8) h w

/-- The wave of a core's waiting request finds a slot and units (R301). -/
def State.waveFits (s : State) (core : Nat) (r : PleatReq) : Bool :=
  match pleatOf r.record with
  | none => false
  | some ob => (s.freeSlot core []).isSome && !s.fusedOn s.stamp core
      && decide (s.unitsUsed core + regUnitsOf (min 1024 (s.inboxOf r.part r.ctx r.object).length) ob.vregs ≤ Config.regUnits)

/-- The slot or units of a team would let a cluster, a wave or a returning team be placed (R162). -/
def State.spillHelps (s : State) (i : Nat) (t : Team) : Bool :=
  let s1 := s.setTeam i { t with place := .spilled }
  let die := coreDie t.core
  (s.grids.any fun g => (s.ctx g.2.part g.2.ctx).vdmap.contains die && !s.fitsOn g.2 die && s1.fitsOn g.2 die)
  || (s.teams.any fun e => e.2.core == t.core && s.wantsBack e.1 e.2 && (s.backHome e.1 e.2).isNone && (s1.backHome e.1 e.2).isSome)
  || (s.pleats.any fun r => s.waitCore r.2 == t.core && r.2.stage == .inbox && !s.waveRuns r.2.part r.2.ctx r.2.object
        && !s.waveFits t.core r.2 && s1.waveFits t.core r.2)

/-- The save slot of a team (R162): by virtual die, core and slot. -/
def State.saveSlot (s : State) (t : Team) : Nat :=
  ((s.ctx t.part t.ctx).spillBase + 0x180000 * ((48 * t.vdie + t.core % 48) * 32 + t.slot)) % 2 ^ 64

/-- TEAM_SPILL (R162, R360): a team long not ready leaves its core; what its save area then holds is not stated (log 7); a translation cause leaves it placed and is a fault of the context. -/
def execTeamSpill (t : Nat) (s : State) : Host.Outcome State Fault Refusal :=
  match s.team t with
  | none => .next s
  | some x =>
    if x.place == .placed && !x.halted && !x.debug && x.mayLeave && !s.wouldRun t x && x.idle != 0
        && decide (Config.spillCycles ≤ (s.core x.core).clk + 1 - x.idle) && s.noClaim t && !s.tokenWait x && s.spillHelps t x then
      let va := s.saveSlot x
      let bs := (List.range (Config.sealLen s.stamp % 0x180001)).map fun k => Config.freeByte s.stamp k
      match s.agentPut x.part x.ctx (coreDie x.core) none va bs (piecesOf va bs.length) with
      | .hold _ s1 => .next s1
      | .fault f s1 => .next (s1.takeTrap (contextInfo x.part x.ctx 0 0 x.vdie f .none))
      | .ok _ s1 => .next ((s1.leaveL1 x).bump.setTeam t { x with place := .spilled })
    else .next s

/-- TEAM_RESTORE (R68, R72, R162, R364): a team that wants to come back is placed on its own core, with what was saved of it. -/
def execTeamRestore (t : Nat) (s : State) : Host.Outcome State Fault Refusal :=
  match s.team t with
  | none => .next s
  | some x =>
    if s.wantsBack t x then
      match s.backHome t x with
      | some s1 => .next (s1.modTeam t fun y => { y with idle := 0, age := s.stamp, passed := 0 }).bump
      | none => .next s
    else .next s

/-! ## The lining (R363) -/

/-- The slot of a context in the lining save area for a core (R363): in HBM (log 20). -/
def State.liningSlot (s : State) (p c core : Nat) : Nat :=
  let ds := s.partDies p
  let n := ((ds.takeWhile (· != coreDie core)).length) * 48 + core % 48
  (s.part p).linBase + (c * (48 * ds.length) + n) * 0x1C1000

/-- A spilled team has accumulator rows, which stay on its core (R162). -/
def Team.rowsOn (t : Team) : Bool := t.place == .spilled && t.acwin.toList.any (·.rows != 0)

/-- Lining copies of a core hold undrained state of a context. -/
def State.liningHeld (s : State) (core p c : Nat) : Bool :=
  (s.teams.any fun e => e.2.core == core && e.2.part == p && e.2.ctx == c && (e.2.place == .lining || e.2.rowsAway == some false))
  || s.clusters.any fun e => e.2.part == p && e.2.ctx == c && e.2.away.contains (core, false)

/-- The undrained state of a context in a core's lining copies goes to its slot, as ciphertext (R363). -/
def State.drainLining (s : State) (core p c : Nat) : State :=
  let bs := (List.range (Config.sealLen s.stamp % 0x1C1001)).map fun k => Config.cipher (2 * s.stamp + 1) k
  let key := s.liningSlot p c core
  let s1 := if s.backed p 0 key then s.bump.homeWrite .none (memKey 0 key) bs else s.bump
  { s1 with
    teams := s1.teams.map fun (e : Nat × Team) =>
      if e.2.core == core && e.2.part == p && e.2.ctx == c then
        (e.1, { e.2 with place := if e.2.place = .lining then .slot else e.2.place, rowsAway := e.2.rowsAway.map fun _ => true }) else e
    clusters := s1.clusters.map fun (e : Nat × Cluster) =>
      if e.2.part == p && e.2.ctx == c then
        (e.1, { e.2 with away := e.2.away.map fun a => if a.1 == core then (core, true) else a }) else e }

/-- A context is wholly halted, so that its state leaves its cores (R363). -/
def State.flips (s : State) (p c : Nat) : Bool := (s.part p).linEn && s.wholeHalt p c && !(s.ctx p c).sealed

/-- A context has teams, cluster ranges or rows of spilled teams on a core that have not flipped. -/
def State.flipDue (s : State) (core p c : Nat) : Bool :=
  (s.teams.any fun e => e.2.core == core && e.2.part == p && e.2.ctx == c && (e.2.place == .placed || (e.2.rowsOn && e.2.rowsAway.isNone)))
  || s.clusters.any fun e => e.2.part == p && e.2.ctx == c && e.2.cores.contains core && !(e.2.away.any fun a => a.1 == core)

/-- An MMA of a context on a core has yet to take its one step, which completes before its team's state leaves (R361). -/
def State.mmaDue (s : State) (core p c : Nat) : Bool :=
  s.ops.any fun o => o.2.core == core && o.2.part == p && o.2.ctx == c && s.mmaSteps o.1 o.2

/-- LINING_FLIP (R361, R363): a halted context's teams and ranges on a core become its lining copies, once an MMA there has taken its step; other contexts' undrained state there is drained first. -/
def execLiningFlip (core part ctx : Nat) (s : State) : Host.Outcome State Fault Refusal :=
  if s.flips part ctx && s.flipDue core part ctx && !s.mmaDue core part ctx then
    let others := (List.range 64).filter fun c => c != ctx && s.liningHeld core part c
    let leaving := (s.teamsOn core).filter fun (e : Nat × Team) => e.2.part == part && e.2.ctx == ctx
    let s1 := leaving.foldl (fun (s : State) (e : Nat × Team) => s.leaveL1 e.2) (others.foldl (fun s c => s.drainLining core part c) s)
    .next { s1 with
      teams := s1.teams.map fun (e : Nat × Team) =>
        if e.2.core == core && e.2.part == part && e.2.ctx == ctx then
          (if e.2.place == .placed then (e.1, { e.2 with place := .lining }) else if e.2.rowsOn && e.2.rowsAway.isNone then (e.1, { e.2 with rowsAway := some false }) else e)
        else e
      clusters := s1.clusters.map fun (e : Nat × Cluster) =>
        if e.2.part == part && e.2.ctx == ctx && e.2.cores.contains core && !(e.2.away.any fun a => a.1 == core) then
          (e.1, { e.2 with away := (core, false) :: e.2.away }) else e }
  else .next s

/-- LINING_DRAIN (R363): what lies in a core's lining copies goes to the context's slot. -/
def execLiningDrain (core part ctx : Nat) (s : State) : Host.Outcome State Fault Refusal :=
  if s.liningHeld core part ctx then .next (s.drainLining core part ctx) else .next s

end Sys2Proof.Machine
end

