-- ==== Sys2Proof/Machine/Host.lean ====
section
/-! DEFINITION. Host: the register pages of the host link (R344, R354, R375 to R382, R386, R388, R391, R401, R403) by name: which authority reads and writes which fields, and what a write does; KEY_IMPORT, RING_DOORBELL, DEBUG_STOP, CONTEXT_CREATE, CONTEXT_REMOVE, QUEUE_DESCRIPTOR_WRITE, PART_SHAPE_WRITE, MERGE, SPLIT, REGISTER_WRITE, REGISTER_READ. -/

namespace Sys2Proof.Machine

open Sys2Proof

/-! ## Partitions that exist -/

/-- The device runs its firmware (R399, R400): nothing answers before, and in recovery only configuration space does. -/
def State.live (s : State) : Bool := s.dev.fw == 1 && !s.dev.trip

/-- A partition of the shape (R376). -/
def State.isPart (s : State) (p : Nat) : Bool := !(s.quarters p).isEmpty

/-- A partition holds a context, placed or sealed or neither (R376). -/
def State.holdsCtx (s : State) (p : Nat) : Bool := (List.range 64).any fun c => (s.ctx p c).en

/-- A context of the partition holds an imported key (R385). -/
def State.importedKey (s : State) (p : Nat) : Bool := (List.range 64).any fun c => match (s.ctx p c).key with
  | .imported _ => (s.ctx p c).en
  | _ => false

/-- A new random key of the device (R384). -/
def State.newKey (s : State) : Key × State := (.random (s.dev.keys + 1), { s with dev := { s.dev with keys := s.dev.keys + 1 } })

/-- A request whose home is erased (R307, R390): one of another package is aborted, and answered when that package takes it; an answer that its wave had made goes there as it is. It belongs to no context any more. -/
def PleatReq.orphaned (r : PleatReq) : Option PleatReq :=
  if r.pkg.isNone then none
  else if r.stage = .inbox ∨ r.stage = .wave then some { r with ctx := 64, stage := .aborted, aborted := true }
  else some { r with ctx := 64 }

/-- Every record of a partition goes: teams, operations, queues, knots, launches, caches, faults, contexts. Counts of seals stay (R403), and so does memory. Requests of other packages are answered as aborted (R307, R390). -/
def State.dropPart (s : State) (p : Nat) : State :=
  let dies := s.partDies p
  let gone : List Nat := (s.teams.filter fun (e : Nat × Team) => e.2.part == p).map (·.1)
  let cls : List Nat := (s.clusters.filter fun (e : Nat × Cluster) => e.2.part == p).map (·.1)
  { s with
    parts := cellDel s.parts p
    ctxs := s.ctxs.map fun e => if e.1 / 64 == p then (e.1, { Ctx.none with seq := e.2.seq }) else e
    queues := s.queues.filter fun e => e.1 / 4096 != p
    knots := s.knots.filter fun e => e.1 / 2 ^ 20 != p
    grids := s.grids.filter fun e => e.2.part != p
    clusters := s.clusters.filter fun e => e.2.part != p
    teams := s.teams.filter fun e => e.2.part != p
    ops := s.ops.filter fun e => e.2.part != p
    posted := s.posted.filter fun e => !gone.contains e.2.team
    stores := s.stores.filter fun e => e.2.part != p
    traps := s.traps.filter fun e => e.2.part != p
    lines := s.lines.filter fun x => !(if x.dom < 1000 then dies.contains (coreDie x.dom) else cls.contains (x.dom - 1000))
    icache := s.icache.filter fun x => x.part != p
    tlb := s.tlb.filter fun x => x.part != p
    walks := s.walks.filter fun x => x.part != p
    drains := s.drains.filter fun d => d.2.part != p
    revoking := s.revoking.filter fun x => x.1 != p
    patDraining := s.patDraining.filter fun x => x.1 != p
    pleats := s.pleats.filterMap fun e => if e.2.part = p then (e.2.orphaned).map fun r => (e.1, r) else some e
    pleatHomes := s.pleatHomes.filter fun h => h.part != p
    breaks := s.breaks.filter fun b => b.part != p
    migHeld := s.migHeld.map fun e => (e.1, e.2 && !(List.range 64).any (e.1.of p))
    hcopies := s.hcopies.filter fun x => x.part != p
    acc := s.acc.filter fun a => !gone.contains (a.1 / 2 ^ 21)
    soft := s.soft.filter fun k => !gone.contains (k / 2 ^ 21) }

/-- A partition as it starts (R384, R403): no context, key slot 0 and the sealing key random. -/
def State.startPart (s : State) (p : Nat) : State :=
  let (k1, s1) := s.newKey
  let (k2, s2) := s1.newKey
  (s2.setPart p { Part.fresh with sealKey := k1 }).setCtx p 0 { Ctx.none with key := k2, seq := (s2.ctx p 0).seq }

/-- Every partition of the shape starts anew. -/
def State.startParts (s : State) : State :=
  let s1 := (List.range 4).foldl (fun s p => s.dropPart p) s
  (List.range 4).foldl (fun s p => if s.isPart p then s.startPart p else s) s1

/-! ## PART_CFG and the handshake (R376, R378, R379) -/

/-- A write of PART_CFG by the operator (R376). -/
def State.partCfg (s : State) (v : Word) : State :=
  if decide (bits v 2 0 < 5) && !((List.range 4).any s.holdsCtx) then
    { s with dev := { s.dev with shape := bits v 2 0, partErr := s.dev.partErr && !bit v 3 } }.startParts
  else { s with dev := { s.dev with partErr := true } }

/-- PART_SHAPE_WRITE (R376). -/
def execPartShapeWrite (v : BitVec 32) (s : State) : Host.Outcome State Fault Refusal :=
  .next (if s.live then s.partCfg v else s)

/-- The shape after a merge or split of pair h, where the pair is two quarters, or one half. -/
def pairShape (shape h : Nat) (split : Bool) : Option Nat :=
  match shape, h, split with
  | 2, 0, false => some 3 | 2, 1, false => some 4 | 3, 1, false => some 1 | 4, 0, false => some 1
  | 1, 0, true => some 4 | 1, 1, true => some 3 | 3, 0, true => some 2 | 4, 1, true => some 2
  | _, _, _ => none

/-- The partitions that stand on a pair of quarters. -/
def State.pairParts (s : State) (h : Nat) : List Nat := [2 * h, 2 * h + 1].filter s.isPart

/-- Something waits at a queue, or is on its way to it (R140). -/
def State.queueParked (s : State) (k : Nat) : Bool :=
  (s.teams.any fun e => e.2.hold == some (.queueRoom k) || e.2.hold == some (.queueRecord k) || (e.2.stage == .refill && e.2.live == 0 && (e.2.refill.map (·.1)) == some k))
  || (s.ops.any fun o => match o.2.kind with
      | .enq q => q == k && !o.2.allDone
      | .deq q _ todo _ => q == k && (!todo.isEmpty || !o.2.allDone)
      | _ => false)
  || s.knots.any fun n => n.2.firing.any fun f => f.queue == k

/-- qd.busy (R140). -/
def State.queueBusy (s : State) (k : Nat) : Bool := decide (s.held k ≠ 0) || s.queueParked k

/-- Why a handshake is refused (R378), as mrg.why reads it. -/
def State.mergeWhy (s : State) : Nat :=
  let h := if s.dev.mrgPair then 1 else 0
  let ps := s.pairParts h
  (if s.queues.any fun q => ps.contains (q.1 / 4096) && s.queueBusy q.1 then 1 else 0)
    + (if ps.any fun p => (List.range 64).any fun c => (s.ctx p c).fabNvd != 0 then 2 else 0)
    + (if (pairShape s.dev.shape h s.dev.mrgSplit).isNone then 8 else 0)

/-- The state of the handshake changed. -/
def State.mergeTo (s : State) (st why : Nat) : State := { s with dev := { s.dev with mrgState := st, mrgWhy := why } }

/-- Ring fetch goes on in the pair's partitions. -/
def State.mergeResume (s : State) (h : Nat) : State :=
  (s.pairParts h).foldl (fun s p => (List.range 64).foldl (fun s c => s.ringRead p c) s) s

/-- A write of mrg.go starts the handshake where none runs (R378). -/
def State.mergeGo (s : State) (pair split : Bool) : State :=
  if 1 ≤ s.dev.mrgState ∧ s.dev.mrgState ≤ 3 then s
  else { s with dev := { s.dev with mrgPair := pair, mrgSplit := split, mrgState := 1, mrgWhy := 0 } }

/-- Records that a quarter no longer has after a split: queues and knots beyond its own. -/
def State.trimPart (s : State) (p : Nat) : State :=
  { s with
    queues := s.queues.filter fun e => !(e.1 / 4096 == p && decide (1024 ≤ e.1 % 4096))
    knots := s.knots.filter fun e => !(e.1 / 2 ^ 20 == p && decide (65536 ≤ e.1 % 2 ^ 20)) }

/-- The handshake's next phase (R378): the check; the rewriting of shape and interleave (log 32); the shoot-down, after which the resulting partitions run. -/
def State.mergeNext (s : State) : State :=
  let h := if s.dev.mrgPair then 1 else 0
  let lo := 2 * h
  if s.dev.mrgState = 1 then
    if s.mergeWhy = 0 then s.mergeTo 2 0 else (s.mergeTo 5 s.mergeWhy).mergeResume h
  else if s.dev.mrgState = 2 then
    match pairShape s.dev.shape h s.dev.mrgSplit with
    | none => (s.mergeTo 5 8).mergeResume h
    | some n =>
      let s1 := if s.dev.mrgSplit then s else s.dropPart (lo + 1)
      let s2 := { s1 with dev := { s1.dev with
        shape := n, ilv := if s1.dev.mrgSplit then cellPut s1.dev.ilv (lo + 1) (cellGet 4 s1.dev.ilv lo) else s1.dev.ilv } }
      (if s.dev.mrgSplit then (s2.trimPart lo).startPart (lo + 1) else s2).mergeTo 3 0
  else if s.dev.mrgState = 3 then
    (({ s with
      tlb := s.tlb.filter fun x => x.part / 2 != h
      walks := s.walks.filter fun x => x.part / 2 != h
      posted := s.posted.map fun (e : Nat × Posted) => if (s.team e.2.team).any (fun t : Team => t.part / 2 == h) then (e.1, { e.2 with tr := none }) else e }.releaseMigOf fun p _ => p / 2 == h).mergeTo 4 0).mergeResume h
  else s

/-- A step of MERGE or SPLIT: the go, or the next phase of the handshake that runs. -/
def State.handshake (s : State) (pair split : Bool) : State :=
  if 1 ≤ s.dev.mrgState ∧ s.dev.mrgState ≤ 3 then
    if s.dev.mrgPair = pair ∧ s.dev.mrgSplit = split then s.mergeNext else s
  else s.mergeGo pair split

/-- MERGE (R378). -/
def execMerge (pair : Bool) (s : State) : Host.Outcome State Fault Refusal := .next (if s.live then s.handshake pair false else s)
/-- SPLIT (R378). -/
def execSplit (pair : Bool) (s : State) : Host.Outcome State Fault Refusal := .next (if s.live then s.handshake pair true else s)

/-! ## Contexts (R403) -/

/-- The authority of a code of ctx.auth; 3 is reserved. -/
def authOf (n : Nat) : Option Auth := match n with
  | 0 => some .owner
  | 1 => some .operator
  | 2 => some .auditor
  | _ => none
/-- The code of an authority in ctx.auth. -/
def Auth.code : Auth → Nat
  | .owner => 0
  | .operator => 1
  | .auditor => 2

/-- A context that has just been created over what the operator wrote before (R403). -/
def Ctx.created (x : Ctx) (a : Auth) (key ringKey : Key) : Ctx :=
  { Ctx.none with
    en := true, auth := a, err := x.err, s2en := x.s2en, dbg := x.dbg, s2root := x.s2root, rten := x.rten, rtbase := x.rtbase,
    fabDev := x.fabDev, fabNdev := x.fabNdev, sched := x.sched, buckets := x.buckets, seq := (x.seq + 1) % 2 ^ 32, key := key, ringKey := ringKey }

/-- A context that has been removed: what the operator wrote stays, and its keys are new random ones (R403). -/
def Ctx.removed (x : Ctx) (key ringKey : Key) : Ctx :=
  { Ctx.none with
    auth := x.auth, err := x.err, s2en := x.s2en, dbg := x.dbg, s2root := x.s2root, rten := x.rten, rtbase := x.rtbase,
    fabDev := x.fabDev, fabNdev := x.fabNdev, sched := x.sched, buckets := x.buckets, seq := x.seq, key := key, ringKey := ringKey }

/-- The numbers of a kind that a context's handle table maps (R234). -/
def State.tableObjs (s : State) (p c : Nat) (kind : HKind) : List Nat :=
  let x := s.ctx p c
  (List.range x.htabSlots).filterMap fun n =>
    match s.agentRead p c 0 (x.htabBase + 16 * n) 16 with
    | .ok bs _ =>
      let ws := bytesWords 4 bs
      entryObj ws kind (bits ((ws[0]?).getD 0) 11 0)
    | _ => none

/-- What a context leaves behind is cleared (R403): its queues and knots as its handle table maps them (log 33), launches, inboxes, copies. -/
def State.clearCtx (s : State) (p c : Nat) : State :=
  let qs := (s.tableObjs p c .queue).map (queueKey p)
  let ks := (s.tableObjs p c .knot).map (knotKey p)
  let mine (q d : Nat) : Bool := q == p && d == c
  { s with
    queues := s.queues.filter fun e => !qs.contains e.1
    knots := s.knots.filter fun e => !ks.contains e.1
    grids := s.grids.filter fun e => !mine e.2.part e.2.ctx
    pleats := s.pleats.filter fun e => !mine e.2.part e.2.ctx
    pleatHomes := s.pleatHomes.filter fun h => !mine h.part h.ctx
    breaks := s.breaks.filter fun b => !mine b.part b.ctx
    migHeld := s.migHeld.map fun e => (e.1, e.2 && !e.1.of p c)
    hcopies := s.hcopies.filter fun x => !mine x.part x.ctx
    icache := s.icache.filter fun x => !mine x.part x.ctx }

/-- A context has an unacknowledged fault. -/
def State.faulted (s : State) (p c : Nat) : Bool := s.traps.any fun e => e.2.part == p && e.2.ctx == c

/-- A write of CTX_CTL that is dropped: ctx.err is set, and it is counted (R403). -/
def State.ctxDropped (s : State) (p c : Nat) : State := (s.setCtx p c { s.ctx p c with err := true }).count p c 0x100

/-- A write of CTX_CTL by the operator (R403). -/
def State.ctxCtl (s : State) (p c : Nat) (v : Word) : State :=
  let x := s.ctx p c
  match authOf (bits v 2 1) with
  | none => s.ctxDropped p c
  | some a =>
    let y := { x with err := x.err && !bit v 3 }
    if x.en then
      if a ≠ x.auth then s.ctxDropped p c
      else if bit v 0 then s.setCtx p c y
      else if x.fabNvd ≠ 0 ∨ x.sealed ∨ s.faulted p c then s.ctxDropped p c
      else
        let (k1, s1) := (s.clearCtx p c).newKey
        let (k2, s2) := s1.newKey
        s2.setCtx p c (y.removed k1 k2)
    else if bit v 0 then
      let (k1, s1) := s.newKey
      let (k2, s2) := s1.newKey
      s2.setCtx p c (y.created a k1 k2)
    else s.setCtx p c { y with auth := a }

/-- CONTEXT_CREATE (R403): the operator sets ctx.en with an authority. -/
def execContextCreate (part ctx : Nat) (auth : BitVec 2) (s : State) : Host.Outcome State Fault Refusal :=
  .next (if s.live && s.isPart part && decide (ctx < 64) then s.ctxCtl part ctx (BitVec.ofNat 32 (1 + 2 * auth.toNat)) else s)

/-- CONTEXT_REMOVE (R403): the operator clears ctx.en and leaves ctx.auth as it is. -/
def execContextRemove (part ctx : Nat) (s : State) : Host.Outcome State Fault Refusal :=
  .next (if s.live && s.isPart part && decide (ctx < 64) then s.ctxCtl part ctx (BitVec.ofNat 32 (2 * (s.ctx part ctx).auth.code)) else s)

/-! ## The registers of a partition function by name (R381) -/

/-- A register word: w is its number within its group of words. -/
inductive RegName where
  | s2root (c w : Nat)
  | lining (w : Nat)
  | ctxCtl (c : Nat)
  | bucket (c d w : Nat)
  | route (c w : Nat)
  | shared (c w : Nat)
  | keyCtl (c w : Nat)
  | ring (c w : Nat)
  | dbgStop (c : Nat)
  | queue (n w : Nat)
  deriving DecidableEq, Repr

/-- The entry and the word of an offset in an array of entries. -/
def inArray (off base count size : Nat) : Option (Nat × Nat) :=
  if base ≤ off ∧ off < base + count * size then some ((off - base) / size, (off - base) % size / 4) else none

/-- The register at an offset (R381), of a word that is aligned. -/
def regName (off : Nat) : Option RegName :=
  match inArray off 0x3000 64 8 with
  | some (c, w) => some (.s2root c w)
  | none =>
  match inArray off 0x3200 1 8 with
  | some (_, w) => some (.lining w)
  | none =>
  match inArray off 0x3400 64 4 with
  | some (c, _) => some (.ctxCtl c)
  | none =>
  match inArray off 0x8000 512 16 with
  | some (n, w) => some (.bucket (n / 8) (n % 8) w)
  | none =>
  match inArray off 0xA000 64 8 with
  | some (c, w) => some (.route c w)
  | none =>
  match inArray off 0x10000 64 16 with
  | some (c, w) => some (.shared c w)
  | none =>
  match inArray off 0x20400 64 16 with
  | some (c, w) => some (.keyCtl c w)
  | none =>
  match inArray off 0x20800 64 32 with
  | some (c, w) => some (.ring c w)
  | none =>
  match inArray off 0x21000 64 4 with
  | some (c, _) => some (.dbgStop c)
  | none =>
  match inArray off 0x30000 4096 16 with
  | some (n, w) => some (.queue n w)
  | none => none

/-- The context of a register. -/
def RegName.ctx : RegName → Option Nat
  | .s2root c _ => some c
  | .lining _ => none
  | .ctxCtl c => some c
  | .bucket c _ _ => some c
  | .route c _ => some c
  | .shared c _ => some c
  | .keyCtl c _ => some c
  | .ring c _ => some c
  | .dbgStop c => some c
  | .queue _ _ => none

/-- The partition has the register: a bucket of a die it owns (R320), a queue of its own (R140), words of a context that exists where only its owner has them. -/
def State.hasReg (s : State) (p : Nat) : RegName → Bool
  | .bucket _ d _ => (s.partDies p).contains d
  | .keyCtl c _ => (s.ctx p c).en
  | .ring c _ => (s.ctx p c).en
  | .dbgStop c => (s.ctx p c).en
  | .queue n _ => s.queueOk p n
  | _ => true

/-- A word with the fields that each authority may read and write. -/
structure RegView where
  value : Word
  named : Word
  opR : Word
  opW : Word
  ownR : Word
  ownW : Word
  deriving DecidableEq, Repr

/-- A word of the operator's alone. -/
def operWord (value named : Word) : RegView := { value := value, named := named, opR := named, opW := named, ownR := 0, ownW := 0 }
/-- A word of the owner's alone. -/
def ownWord (value read write : Word) : RegView := { value := value, named := read ||| write, opR := 0, opW := 0, ownR := read, ownW := write }
/-- A word with no field. -/
def noWord : RegView := operWord 0 0

/-- A flag as a number. -/
def b2n (b : Bool) : Nat := if b then 1 else 0

/-- key.state (R386). -/
def KeyState.code : KeyState → Nat
  | .random => 0
  | .imported => 1
  | .busy => 2
  | .badMeasure => 3
  | .badFormat => 4

/-- The tables of R140, R320, R344, R364, R382, R386, R388, R391, R401 and R403. DESIGN CHOICE: qd.held shows a larger count modulo 2^16 (log 99). -/
def State.regView (s : State) (p : Nat) : RegName → RegView
  | .s2root c w =>
    let x := s.ctx p c
    if w = 0 then
      { operWord (BitVec.ofNat 32 (b2n x.s2en + 2 * b2n x.dbg) ||| (loWord x.s2root &&& 0xFFFFF000)) 0xFFFFF003 with ownR := 2 }
    else operWord (hiWord x.s2root &&& 0x000FFFFF) 0x000FFFFF
  | .lining w =>
    let x := s.part p
    if w = 0 then operWord (BitVec.ofNat 32 (b2n x.linEn) ||| (loWord x.linBase &&& 0xFFFFF000)) 0xFFFFF001
    else operWord (hiWord x.linBase &&& 0x000FFFFF) 0x000FFFFF
  | .ctxCtl c =>
    let x := s.ctx p c
    operWord (BitVec.ofNat 32 (b2n x.en + 2 * x.auth.code + 8 * b2n x.err)) 0xF
  | .bucket c d w =>
    let b := s.bucket p c d
    if w = 0 then operWord (BitVec.ofNat 32 (b.share % 256 + 2 ^ 31 * b2n b.expert)) 0xFFFFFFFF
    else if w = 1 then operWord (BitVec.ofNat 32 (b.rate % 2 ^ 16 + 2 ^ 16 * b.depth)) 0xFFFFFFFF
    else if w = 2 then { operWord (BitVec.ofNat 32 b.stalls) 0xFFFFFFFF with opR := 0, opW := 0 }
    else noWord
  | .route c w =>
    let x := s.ctx p c
    if w = 0 then operWord (BitVec.ofNat 32 (b2n x.rten) ||| (loWord x.rtbase &&& 0xFFFFF000)) 0xFFFFF001
    else operWord (hiWord x.rtbase &&& 0x000FFFFF) 0x000FFFFF
  | .shared c w =>
    let x := s.ctx p c
    if w = 0 then { operWord (BitVec.ofNat 32 (x.fabDev % 512 + x.fabNdev % 1024 * 2 ^ 16)) 0x03FF01FF with ownR := 0x03FF01FF }
    else if w = 1 then { operWord (BitVec.ofNat 32 (x.sched % 4)) 3 with ownR := 3 }
    else noWord
  | .keyCtl c w =>
    let x := s.ctx p c
    if w = 0 then ownWord (loWord x.keyAddr) 0xFFFFFFFF 0xFFFFFFFF
    else if w = 1 then ownWord (hiWord x.keyAddr) 0xFFFFFFFF 0xFFFFFFFF
    else if w = 2 then ownWord (BitVec.ofNat 32 (2 * x.keyState.code)) 0xE 1
    else noWord
  | .ring c w =>
    let r := (s.ctx p c).ring
    if w = 0 then ownWord (loWord r.base) 0xFFFFFFC0 0xFFFFFFC0
    else if w = 1 then ownWord (hiWord r.base) 0xFFFFFFFF 0xFFFFFFFF
    else if w = 2 then ownWord (BitVec.ofNat 32 r.log) 0x1F 0x1F
    else if w = 3 then ownWord (BitVec.ofNat 32 r.tail) 0xFFFF 0xFFFF
    else if w = 4 then ownWord (BitVec.ofNat 32 r.head) 0xFFFF 0
    else if w = 6 then ownWord (loWord r.expect) 0xFFFFFFFF 0
    else if w = 7 then ownWord (hiWord r.expect) 0xFFFFFFFF 0
    else noWord
  | .dbgStop _ => ownWord 0 0 0xFF
  | .queue n w =>
    let k := queueKey p n
    let q := s.queue k
    if w = 0 then ownWord (loWord q.base) 0xFFFFFFE0 0xFFFFFFE0
    else if w = 1 then ownWord (BitVec.ofNat 32 (q.base / 2 ^ 32 % 2 ^ 25)) 0xFFFFFFFF 0xFFFFFFFF
    else if w = 2 then
      ownWord (BitVec.ofNat 32 (q.depth % 2 ^ 16 + q.radius % 16 * 2 ^ 16 + q.prio % 4 * 2 ^ 20 + 2 ^ 31 * b2n q.en)) 0xFFFFFFFF 0xFFFFFFFF
    else ownWord (BitVec.ofNat 32 (s.held k % 2 ^ 16 + 2 ^ 31 * b2n (s.queueBusy k))) 0x8000FFFF 0

/-! ## Refused accesses (R354, R336) -/

/-- The context to which a report of an access goes: the register's, or, of a register without one, the lowest that issues as owner (log 34). -/
def State.reportCtx (s : State) (p : Nat) (r : Option RegName) : Nat :=
  match r.bind (·.ctx) with
  | some c => c
  | none => ((List.range 64).find? fun c => (s.ctx p c).en && (s.ctx p c).auth == .owner).getD 0

/-- A refused access is counted and, where its class says so, reported once to the owner. -/
def State.refuseAccess (s : State) (p off : Nat) (report : Bool) : State :=
  let c := s.reportCtx p (regName off)
  let s1 := s.count p c 0x100
  if report && (s1.ctx p c).en then s1.noticeOwner p c .rights 0 off 0 0 0 else s1

/-- An offset lies in an OW page (R381). -/
def owPage (off : Nat) : Bool := decide (0x20000 ≤ off)

/-- A trusted access: its TLP carries the T bit, which is set only in the RUN state (R354, R383). -/
def State.trusts (s : State) (p : Nat) (trusted : Bool) : Bool := trusted && (s.part p).tdisp == .run

/-! ## Queue descriptors (R140, R141) -/

/-- A write of a word of a queue's descriptor by its owner (R141): base and depth stay while the queue is enabled or holds a record, and every write of them that is dropped is reported. -/
def State.writeQueue (s : State) (p n w off : Nat) (v : Word) : State :=
  let k := queueKey p n
  let q := s.queue k
  let fixed := q.en || decide (s.held k ≠ 0)
  let tell (s : State) : State := s.noticeOwner p (s.reportCtx p none) .rights 0 off 0 0 0
  if w = 0 then
    if fixed then tell s else s.setQueue k { q with base := q.base - q.base % 2 ^ 32 + (v &&& 0xFFFFFFE0).toNat }
  else if w = 1 then
    if fixed then tell s else s.setQueue k { q with base := q.base % 2 ^ 32 + bits v 24 0 * 2 ^ 32 }
  else if w = 2 then
    let s1 := s.setQueue k { q with
      depth := if fixed then q.depth else bits v 15 0, radius := bits v 19 16, prio := bits v 21 20, en := bit v 31 }
    if fixed then tell s1 else s1
  else s

/-! ## Keys (R386, R387) -/

/-- Byte run n of the plaintext of a key blob. -/
def blobPlain (blob : List Byte) (off n : Nat) : List Byte := (List.range n).map fun i => Config.decrypt blob (off + i)

/-- The blob decapsulates and decrypts, with the length and version that it must have (R386, R387). -/
def blobGood (blob : List Byte) : Bool :=
  blob.length == 1764 && bytesNat (blob.take 4) == 1764 && bytesNat ((blob.drop 4).take 4) == 1 && Config.verifies 0 blob

/-- A context's keys imported from a blob (R387); slot 0 is never imported (R384), so that an import of context 0 is refused as of a wrong format (log 35). -/
def State.importKey (s : State) (p c : Nat) (blob : List Byte) : State :=
  let x := { s.ctx p c with importing := none }
  if !blobGood blob ∨ c = 0 then s.setCtx p c { x with keyState := .badFormat }
  else if blobPlain blob 96 64 ≠ s.measure p then s.setCtx p c { x with keyState := .badMeasure }
  else s.setCtx p c { x with
    key := .imported (blobPlain blob 0 64), ringKey := .imported (blobPlain blob 64 32), keyState := .imported, ring := { x.ring with expect := 1 } }

/-- A key.go (R387): the blob is read and the import runs, and one that comes meanwhile is ignored. -/
def State.startImport (s : State) (p c : Nat) (blob : List Byte) : State :=
  let x := s.ctx p c
  if x.importing.isSome then s else s.setCtx p c { x with keyState := .busy, importing := some blob }

/-- The end of a key import (R387). -/
def execKeyImported (part ctx : Nat) (s : State) : Host.Outcome State Fault Refusal :=
  .next (match (s.ctx part ctx).importing with
    | some blob => s.importKey part ctx blob
    | none => s)

/-- KEY_IMPORT (R386, R387): only with the T bit. -/
def execKeyImport (part ctx : Nat) (trusted : Bool) (blob : List (BitVec 8)) (s : State) : Host.Outcome State Fault Refusal :=
  .next (if s.live && s.isPart part && decide (ctx < 64) then
      if !s.trusts part trusted then s.refuseAccess part (0x20408 + 16 * ctx) true
      else if (s.ctx part ctx).en then s.startImport part ctx blob else s
    else s)

/-! ## Rings (R388, R389) -/

/-- A doorbell (R388, R389): the device has the entries up to the new tail to read, one at a time. With it the driver may say what the entries from ring.head on now hold (log 77). -/
def State.doorbell (s : State) (p c tail : Nat) (given : List (List Byte)) : State :=
  let x := s.ctx p c
  (s.setCtx p c { x with ring := { x.ring with tail := tail, buffer := given ++ x.ring.buffer.drop given.length } }).ringRead p c

/-- RING_DOORBELL (R388, R389): the owner's write of ring.tail. -/
def execRingDoorbell (part ctx : Nat) (tail : BitVec 16) (entries : List (List (BitVec 8))) (s : State) : Host.Outcome State Fault Refusal :=
  .next (if s.live && s.isPart part && decide (ctx < 64) then
      if !s.trusts part true then s.refuseAccess part (0x2080C + 32 * ctx) true
      else if (s.ctx part ctx).en then s.doorbell part ctx tail.toNat entries else s
    else s)

/-! ## Debug stops (R391) -/

/-- The owner's write of dbg.stop: the teams and waves of a context on the virtual dies of a mask stop. -/
def State.stopDies (s : State) (p c : Nat) (m : Nat) : State :=
  if (s.ctx p c).dbg then
    { s with teams := s.teams.map fun e => if e.2.part == p && e.2.ctx == c && m.testBit e.2.vdie then (e.1, { e.2 with debug := true }) else e }
  else s.count p c 0x100

/-- DEBUG_STOP (R391). -/
def execDebugStop (part ctx : Nat) (mask : BitVec 8) (trusted : Bool) (s : State) : Host.Outcome State Fault Refusal :=
  .next (if s.live && s.isPart part && decide (ctx < 64) then
      if !s.trusts part trusted then s.refuseAccess part (0x21000 + 4 * ctx) true
      else if (s.ctx part ctx).en then s.stopDies part ctx mask.toNat else s
    else s)

/-- A debugger acts on a context with the owner's D right (R335, R337, R391): a trusted request, while s2r.dbg is 1. -/
def State.mayDebug (s : State) (p c : Nat) (trusted : Bool) : Bool := s.trusts p trusted && (s.ctx p c).dbg

/-- DEBUG_BREAK (R35): a breakpoint of a context set or taken away. -/
def execDebugBreak (part ctx : Nat) (addr : BitVec 32) (clause on trusted : Bool) (s : State) : Host.Outcome State Fault Refusal :=
  .next (if s.live && s.isPart part && decide (ctx < 64) && (s.ctx part ctx).en then
      if !s.mayDebug part ctx trusted then s.count part ctx 0x100
      else
        let b : Break := { part := part, ctx := ctx, addr := addr, clause := clause }
        let rest := s.breaks.filter (· != b)
        { s with breaks := if on then rest ++ [b] else rest }
    else s)

/-- DEBUG_HOLD (R366): one team stops between instructions. -/
def execDebugHold (team : Nat) (trusted : Bool) (s : State) : Host.Outcome State Fault Refusal :=
  .next (match s.team team with
    | some t =>
      if !s.live then s
      else if s.mayDebug t.part t.ctx trusted then s.setTeam team { t with debug := true }
      else s.count t.part t.ctx 0x100
    | none => s)

/-- A register of a team as a debugger reads it: 0 where the team has none of that number. -/
def Team.dbgWord (t : Team) : DbgReg → Word
  | .s n => t.s n
  | .v lane n => if lane < t.nlanes ∧ n < t.nregs then t.v lane n else 0
  | .m n word => if n < 8 ∧ word < 32 then BitVec.ofNat 32 ((t.m (BitVec.ofNat 3 n)).toNat / 2 ^ (32 * word)) else 0
  | .pc => t.pc
  | .mode => t.mode
  | .status => t.status

/-- DEBUG_READ (R334, R337, R391): the owner's debugger reads a team's register; of the operator it is refused and counted, and nothing is revealed. -/
def execDebugRead (team : Nat) (reg : DbgReg) (trusted : Bool) (s : State) : Host.Outcome State Fault Refusal :=
  .next (match s.team team with
    | some t =>
      if !s.live then s
      else if s.mayDebug t.part t.ctx trusted then { s with outputs := s.outputs ++ [Output.debugWord (t.dbgWord reg)] }
      else { s.count t.part t.ctx 0x100 with outputs := s.outputs ++ [Output.debugWord 0] }
    | none => s)

/-! ## Writes and reads of words -/

/-- A number with a 52-bit address's low word replaced. -/
def addrLo (n : Nat) (v : Word) : Nat := n - n % 2 ^ 32 + (v &&& 0xFFFFF000).toNat
/-- A number with a 52-bit address's high word replaced. -/
def addrHi (n : Nat) (v : Word) : Nat := n % 2 ^ 32 + (v &&& 0x000FFFFF).toNat * 2 ^ 32

/-- A bucket kept within its new depth (R321). -/
def Bucket.capped (b : Bucket) : Bucket := { b with tokens := min b.tokens b.cap }

/-- What a write does that an authority may make (R140, R320, R344, R364, R382, R386, R388, R391, R401, R403). -/
def State.regWrite (s : State) (p off : Nat) (v : Word) : RegName → State
  | .s2root c w =>
    let x := s.ctx p c
    if w ≠ 0 then s.setCtx p c { x with s2root := addrHi x.s2root v }
    else if bit v 1 && !x.dbg && s.importedKey p then s.count p c 0x100
    else s.setCtx p c { x with s2en := bit v 0, dbg := bit v 1, s2root := addrLo x.s2root v }
  | .lining w =>
    let x := s.part p
    if w ≠ 0 then s.setPart p { x with linBase := addrHi x.linBase v }
    else if bit v 0 != x.linEn && s.importedKey p then s.count p (s.reportCtx p none) 0x100
    else s.setPart p { x with linEn := bit v 0, linBase := addrLo x.linBase v }
  | .ctxCtl c => s.ctxCtl p c v
  | .bucket c d w =>
    let b := s.bucket p c d
    if w = 0 then s.setBucket p c d { b with share := bits v 7 0, expert := bit v 31 }.capped
    else if w = 1 then s.setBucket p c d { b with rate := bits v 15 0, depth := max 64 (bits v 31 16) }.capped
    else s
  | .route c w =>
    let x := s.ctx p c
    if w ≠ 0 then s.setCtx p c { x with rtbase := addrHi x.rtbase v } else s.setCtx p c { x with rten := bit v 0, rtbase := addrLo x.rtbase v }
  | .shared c w =>
    if w = 0 then s.setFab p c v
    else if w = 1 then s.setCtx p c { s.ctx p c with sched := bits v 1 0 }
    else s
  | .keyCtl c w =>
    let x := s.ctx p c
    if w = 0 then s.setCtx p c { x with keyAddr := withLo x.keyAddr 0xFFFFFFFF v }
    else if w = 1 then s.setCtx p c { x with keyAddr := withHi x.keyAddr 0xFFFFFFFF v }
    else if w = 2 && bit v 0 then s.startImport p c (s.hostBytes x.keyAddr 1764)
    else s
  | .ring c w =>
    let x := s.ctx p c
    let r := x.ring
    if w = 0 then s.setCtx p c { x with ring := { r with base := withLo r.base 0xFFFFFFC0 v, buffer := [] } }
    else if w = 1 then s.setCtx p c { x with ring := { r with base := withHi r.base 0xFFFFFFFF v, buffer := [] } }
    else if w = 2 then (s.setCtx p c { x with ring := { r with log := bits v 4 0 } }).ringRead p c
    else if w = 3 then s.doorbell p c (bits v 15 0) []
    else s
  | .dbgStop c => s.stopDies p c (bits v 7 0)
  | .queue n w => s.writeQueue p n w off v

/-- A host write of a word of a partition function's pages (R354). -/
def State.partWrite (s : State) (p off : Nat) (v : Word) (trusted : Bool) : State :=
  let own := s.trusts p trusted
  if owPage off && !own then s.refuseAccess p off true
  else
    match regName off with
    | none => s
    | some r =>
      if !s.hasReg p r then s
      else
        let x := s.regView p r
        if (if own then x.ownW else x.opW) ≠ 0 then s.regWrite p off v r
        else if x.named = 0 then s
        else s.refuseAccess p off (own && !owPage off)

/-- A host read of a word of a partition function's pages (R354): what it gives, and the state after it. -/
def State.partRead (s : State) (p off : Nat) (trusted : Bool) : Word × State :=
  let own := s.trusts p trusted
  if owPage off && !own then (0, s.refuseAccess p off true)
  else
    match regName off with
    | none => (0, s)
    | some r =>
      if !s.hasReg p r then (0, s)
      else
        let x := s.regView p r
        let may := if own then x.ownR else x.opR
        let all := may ||| (if own then x.ownW else x.opW)
        (x.value &&& may, if x.named &&& ~~~all = 0 then s else s.refuseAccess p off (own && !owPage off && may != 0))

/-- A word of the manager function's page (R375 to R378, R401). -/
def State.managerRead (s : State) (off : Nat) : Word :=
  let d := s.dev
  if off = 0 then BitVec.ofNat 32 (d.shape % 8 + 8 * b2n d.partErr)
  else if off = 0x10 then BitVec.ofNat 32 (b2n d.mrgPair + 2 * b2n d.mrgSplit + 16 * (d.mrgState % 8) + 256 * (d.mrgWhy % 16))
  else if off = 0x20 then BitVec.ofNat 32 (d.harvDie % 8 + 2 ^ 31 * b2n d.harvValid)
  else if off = 0x80 then BitVec.ofNat 32 (d.pkgId % 512 + 2 ^ 31 * b2n d.pkgValid)
  else
    match inArray off 0x40 4 4 with
    | some (q, _) => if s.isPart q then BitVec.ofNat 32 (cellGet 4 d.ilv q % 16) else 0
    | none => 0

/-- A write of a word of the manager function's page by the operator (R376 to R378). -/
def State.managerWrite (s : State) (off : Nat) (v : Word) : State :=
  if off = 0 then s.partCfg v
  else if off = 0x10 then
    if 1 ≤ s.dev.mrgState ∧ s.dev.mrgState ≤ 3 then s
    else if bit v 2 then s.mergeGo (bit v 0) (bit v 1)
    else { s with dev := { s.dev with mrgPair := bit v 0, mrgSplit := bit v 1 } }
  else
    match inArray off 0x40 4 4 with
    | some (q, _) => if s.isPart q && !s.holdsCtx q then { s with dev := { s.dev with ilv := cellPut s.dev.ilv q (bits v 3 0) } } else s
    | none => s

/-- QUEUE_DESCRIPTOR_WRITE (R140, R141, R354): a write at an offset of the descriptor page. -/
def execQueueDescriptorWrite (part off : Nat) (v : BitVec 32) (trusted : Bool) (s : State) : Host.Outcome State Fault Refusal :=
  .next (if s.live && s.isPart part && decide (off < 0x10000) then s.partWrite part (0x30000 + off - off % 4) v trusted else s)

end Sys2Proof.Machine
end

