-- ==== Sys2Proof/WellFormed.lean ====
section
/-! DEFINITION. WellFormed: which terms of Instr are steps of the part: a reserved selector names a reserved code, a reserved opcode is one of the 26 of R52, and the unit numbers of the other rows lie in the ranges of R1, R376 and R403. -/

namespace Sys2Proof

/-- The 26 opcodes that are not instructions (R52). -/
def reservedOpcode (op : Nat) : Bool :=
  op == 0x1E || op == 0x1F || (decide (0x76 ≤ op) && decide (op ≤ 0x7F)) || (decide (0x9D ≤ op) && decide (op ≤ 0x9F)) ||
  op == 0xAE || op == 0xAF || (decide (0xCC ≤ op) && decide (op ≤ 0xCF)) || (decide (0xDC ≤ op) && decide (op ≤ 0xDF)) || op == 0xFF

/-- A selector code the table of R39 reserves. -/
def reservedSel (b : Nat) : Bool := (decide (0xE8 ≤ b) && decide (b ≤ 0xEF)) || (decide (0xFA ≤ b) && decide (b ≤ 0xFF))

/-- A selector is well formed: the reserved ones name reserved codes. -/
def Sel.wf : Sel → Bool
  | .reserved b => reservedSel b.toNat
  | _ => true

/-- A package die, core, quarter, context, or engine of R1 exists. -/
def dieOk (d : Nat) : Bool := decide (d < 8)
/-- A core of the package (48 of each of 8 dies). -/
def coreOk (c : Nat) : Bool := decide (c < 384)
/-- A partition is named by its lowest quarter. -/
def partOk (p : Nat) : Bool := decide (p < 4)
/-- A context number. -/
def ctxOk (c : Nat) : Bool := decide (c < 64)

/-- The terms that are steps of the part. -/
def Instr.wf : Instr → Bool
  | .nop => true
  | .br b => b.wf
  | .brz a b => a.wf && b.wf
  | .brnz a b => a.wf && b.wf
  | .brmz a b => a.wf && b.wf
  | .brmnz a b => a.wf && b.wf
  | .jmp b => b.wf
  | .call d b => d.wf && b.wf
  | .yield => true
  | .exit => true
  | .setmode b => b.wf
  | .getmode d => d.wf
  | .mmov d a => d.wf && a.wf
  | .mand d a b => d.wf && a.wf && b.wf
  | .mor d a b => d.wf && a.wf && b.wf
  | .mxor d a b => d.wf && a.wf && b.wf
  | .mandn d a b => d.wf && a.wf && b.wf
  | .mnot d a => d.wf && a.wf
  | .mcnt d a => d.wf && a.wf
  | .mfirst d a => d.wf && a.wf
  | .msumw d a => d.wf && a.wf
  | .mgetw d a b => d.wf && a.wf && b.wf
  | .msetw d a b => d.wf && a.wf && b.wf
  | .mfromv d a => d.wf && a.wf
  | .vcmpeq d a b => d.wf && a.wf && b.wf
  | .vcmpne d a b => d.wf && a.wf && b.wf
  | .vcmplt d a b => d.wf && a.wf && b.wf
  | .vcmple d a b => d.wf && a.wf && b.wf
  | .vclass d a _ => d.wf && a.wf
  | .waitd b => b.wf
  | .illegalOpcode w => reservedOpcode (w.toNat >>> 24)
  | .smov d a => d.wf && a.wf
  | .sadd d a b => d.wf && a.wf && b.wf
  | .ssub d a b => d.wf && a.wf && b.wf
  | .smul d a b => d.wf && a.wf && b.wf
  | .smulh d a b => d.wf && a.wf && b.wf
  | .smulhn d a b => d.wf && a.wf && b.wf
  | .sand d a b => d.wf && a.wf && b.wf
  | .sor d a b => d.wf && a.wf && b.wf
  | .sxor d a b => d.wf && a.wf && b.wf
  | .sshl d a b => d.wf && a.wf && b.wf
  | .sshr d a b => d.wf && a.wf && b.wf
  | .ssra d a b => d.wf && a.wf && b.wf
  | .smin d a b => d.wf && a.wf && b.wf
  | .smax d a b => d.wf && a.wf && b.wf
  | .sminn d a b => d.wf && a.wf && b.wf
  | .smaxn d a b => d.wf && a.wf && b.wf
  | .scmpeq d a b => d.wf && a.wf && b.wf
  | .scmplt d a b => d.wf && a.wf && b.wf
  | .scmpltn d a b => d.wf && a.wf && b.wf
  | .sclz d a => d.wf && a.wf
  | .spopc d a => d.wf && a.wf
  | .sld d a b => d.wf && a.wf && b.wf
  | .sld2 d a b => d.wf && a.wf && b.wf
  | .sst d a b => d.wf && a.wf && b.wf
  | .sst2 d a b => d.wf && a.wf && b.wf
  | .sfadd d a b => d.wf && a.wf && b.wf
  | .sfmul d a b => d.wf && a.wf && b.wf
  | .sfma d a b => d.wf && a.wf && b.wf
  | .scvt d a _ => d.wf && a.wf
  | .sdivn d a b => d.wf && a.wf && b.wf
  | .sdiv d a b => d.wf && a.wf && b.wf
  | .srem d a b => d.wf && a.wf && b.wf
  | .vmov d a => d.wf && a.wf
  | .vadd d a b => d.wf && a.wf && b.wf
  | .vsub d a b => d.wf && a.wf && b.wf
  | .vmul d a b => d.wf && a.wf && b.wf
  | .vmulh d a b => d.wf && a.wf && b.wf
  | .vfma d a b => d.wf && a.wf && b.wf
  | .vfnma d a b => d.wf && a.wf && b.wf
  | .vmad d a b => d.wf && a.wf && b.wf
  | .vmin d a b => d.wf && a.wf && b.wf
  | .vmax d a b => d.wf && a.wf && b.wf
  | .vabs d a => d.wf && a.wf
  | .vneg d a => d.wf && a.wf
  | .vand d a b => d.wf && a.wf && b.wf
  | .vor d a b => d.wf && a.wf && b.wf
  | .vxor d a b => d.wf && a.wf && b.wf
  | .vnot d a => d.wf && a.wf
  | .vshl d a b => d.wf && a.wf && b.wf
  | .vshr d a b => d.wf && a.wf && b.wf
  | .vsra d a b => d.wf && a.wf && b.wf
  | .vrot d a b => d.wf && a.wf && b.wf
  | .vpopc d a => d.wf && a.wf
  | .vclz d a => d.wf && a.wf
  | .vbrev d a => d.wf && a.wf
  | .vsel d a b => d.wf && a.wf && b.wf
  | .vbcast d a b => d.wf && a.wf && b.wf
  | .vcvt d a _ => d.wf && a.wf
  | .vrcp d a => d.wf && a.wf
  | .vrsq d a => d.wf && a.wf
  | .vsqrt d a => d.wf && a.wf
  | .vexp2 d a => d.wf && a.wf
  | .vlog2 d a => d.wf && a.wf
  | .vsin d a => d.wf && a.wf
  | .vcos d a => d.wf && a.wf
  | .vtanh d a => d.wf && a.wf
  | .vrnd d a => d.wf && a.wf
  | .vfrc d a => d.wf && a.wf
  | .vldexp d a b => d.wf && a.wf && b.wf
  | .vcpsgn d a b => d.wf && a.wf && b.wf
  | .vdot4 d a b => d.wf && a.wf && b.wf
  | .vdot2 d a b => d.wf && a.wf && b.wf
  | .vshuf d a _ => d.wf && a.wf
  | .vperm d a b => d.wf && a.wf && b.wf
  | .vredadd d a => d.wf && a.wf
  | .vredmin d a => d.wf && a.wf
  | .vredmax d a => d.wf && a.wf
  | .vscan d a _ => d.wf && a.wf
  | .vscant d a _ => d.wf && a.wf
  | .vextr d a b => d.wf && a.wf && b.wf
  | .vins d a b => d.wf && a.wf && b.wf
  | .vpack d a b => d.wf && a.wf && b.wf
  | .vunpk d a b => d.wf && a.wf && b.wf
  | .vabsd d a b => d.wf && a.wf && b.wf
  | .vmovp d a => d.wf && a.wf
  | .vmsk d a => d.wf && a.wf
  | .vld1 d a b => d.wf && a.wf && b.wf
  | .vld2 d a b => d.wf && a.wf && b.wf
  | .vld4 d a b => d.wf && a.wf && b.wf
  | .vld8 d a b => d.wf && a.wf && b.wf
  | .vst1 d a b => d.wf && a.wf && b.wf
  | .vst2 d a b => d.wf && a.wf && b.wf
  | .vst4 d a b => d.wf && a.wf && b.wf
  | .vst8 d a b => d.wf && a.wf && b.wf
  | .pld1 d a b => d.wf && a.wf && b.wf
  | .pld2 d a b => d.wf && a.wf && b.wf
  | .pld4 d a b => d.wf && a.wf && b.wf
  | .pst1 d a b => d.wf && a.wf && b.wf
  | .pst2 d a b => d.wf && a.wf && b.wf
  | .pst4 d a b => d.wf && a.wf && b.wf
  | .cld d a b => d.wf && a.wf && b.wf
  | .smpl d a b => d.wf && a.wf && b.wf
  | .tlld d a b => d.wf && a.wf && b.wf
  | .pfence _ => true
  | .cpy d a b => d.wf && a.wf && b.wf
  | .cpyt d a b => d.wf && a.wf && b.wf
  | .cpyo d a b => d.wf && a.wf && b.wf
  | .pres a b => a.wf && b.wf
  | .pinv a b => a.wf && b.wf
  | .pref a b => a.wf && b.wf
  | .cflush a b => a.wf && b.wf
  | .cinv a b => a.wf && b.wf
  | .qbind d a _ => d.wf && a.wf
  | .qtry d a => d.wf && a.wf
  | .qfence a => a.wf
  | .tkinit a b => a.wf && b.wf
  | .tkarr a => a.wf
  | .tkwait a b => a.wf && b.wf
  | .tkaw a => a.wf
  | .tkexp a b => a.wf && b.wf
  | .fence => true
  | .rdand a b => a.wf && b.wf
  | .rdor a b => a.wf && b.wf
  | .rdxor a b => a.wf && b.wf
  | .dfadd d a b => d.wf && a.wf && b.wf
  | .dmin d a b => d.wf && a.wf && b.wf
  | .dmax d a b => d.wf && a.wf && b.wf
  | .dxchg d a b => d.wf && a.wf && b.wf
  | .chunk d a => d.wf && a.wf
  | .aadd d a b => d.wf && a.wf && b.wf
  | .afadd d a b => d.wf && a.wf && b.wf
  | .amin d a b => d.wf && a.wf && b.wf
  | .amax d a b => d.wf && a.wf && b.wf
  | .aand d a b => d.wf && a.wf && b.wf
  | .aor d a b => d.wf && a.wf && b.wf
  | .axor d a b => d.wf && a.wf && b.wf
  | .axchg d a b => d.wf && a.wf && b.wf
  | .acas d a b => d.wf && a.wf && b.wf
  | .acas2 d a b => d.wf && a.wf && b.wf
  | .acas4 d a b => d.wf && a.wf && b.wf
  | .rdadd a b => a.wf && b.wf
  | .rdfadd a b => a.wf && b.wf
  | .rdmin a b => a.wf && b.wf
  | .rdmax a b => a.wf && b.wf
  | .dadd d a b => d.wf && a.wf && b.wf
  | .enq d a => d.wf && a.wf
  | .deq d a => d.wf && a.wf
  | .deqtry d a b => d.wf && a.wf && b.wf
  | .knotinit a b => a.wf && b.wf
  | .knotadd a b => a.wf && b.wf
  | .knotdec a b => a.wf && b.wf
  | .knotbind d a b => d.wf && a.wf && b.wf
  | .launch a b => a.wf && b.wf
  | .rfsrc d a => d.wf && a.wf
  | .trace d a => d.wf && a.wf
  | .trstop a => a.wf
  | .qlen d a b => d.wf && a.wf && b.wf
  | .mma d a b => d.wf && a.wf && b.wf
  | .mloop d a => d.wf && a.wf
  | .mgrp d a b => d.wf && a.wf && b.wf
  | .swsel a => a.wf
  | .acwin d a => d.wf && a.wf
  | .aczero a b => a.wf && b.wf
  | .acrd d a b => d.wf && a.wf && b.wf
  | .acrdx d a b => d.wf && a.wf && b.wf
  | .acwr a b => a.wf && b.wf
  | .acadd a b => a.wf && b.wf
  | .qblk d a b => d.wf && a.wf && b.wf
  | .dqblk d a b => d.wf && a.wf && b.wf
  | .patld d a b => d.wf && a.wf && b.wf
  | .patst d a b => d.wf && a.wf && b.wf
  | .pataddr d a b => d.wf && a.wf && b.wf
  | .patinv a => a.wf
  | .patcf a b => a.wf && b.wf
  | .pleat d a b => d.wf && a.wf && b.wf
  | .plarg d => d.wf
  | .plreply a => a.wf
  | .pldone => true
  | .peerld d a b => d.wf && a.wf && b.wf
  | .peerst d a b => d.wf && a.wf && b.wf
  | .peeradd d a b => d.wf && a.wf && b.wf
  | .vdie d => d.wf
  | .hops d a b => d.wf && a.wf && b.wf
  | .fsdrain a b => a.wf && b.wf
  | .fsconf a b => a.wf && b.wf
  | .trap _ => true
  | .brk _ => true
  | .srd d _ => d.wf
  | .swr _ b => b.wf
  | .invpg d a b => d.wf && a.wf && b.wf
  | .invcf => true
  | .place a b => a.wf && b.wf
  | .preempt a => a.wf
  | .seal d a b => d.wf && a.wf && b.wf
  | .unseal d a => d.wf && a.wf
  | .audrd d a b => d.wf && a.wf && b.wf
  | .fltack a _ => a.wf
  | .resume a => a.wf
  | .discard d a b => d.wf && a.wf && b.wf
  | .attest d a b => d.wf && a.wf && b.wf
  | .clauseFetch _ => true
  | .clauseStart _ => true
  | .refillWake _ => true
  | .recordDelivery _ => true
  | .deqResume _ => true
  | .issuePick core slot => coreOk core && decide (slot < 4)
  | .operationComplete _ => true
  | .loadReturn _ _ => true
  | .storePerform _ => true
  | .postedDrain _ => true
  | .atomicPerform _ _ => true
  | .directedDelivery _ => true
  | .enqPublish _ => true
  | .knotOperation _ => true
  | .knotFireRetry part _ => partOk part
  | .clusterPlace _ vd _ => dieOk vd
  | .teamSpill _ => true
  | .teamRestore _ => true
  | .copyLineLand _ _ => true
  | .copyComplete _ => true
  | .presenceWake _ => true
  | .tackWake _ => true
  | .fifoPopWake _ => true
  | .engineRecordEntry _ _ => true
  | .engineCopyIn _ => true
  | .engineCopyOut _ => true
  | .engineGather _ => true
  | .engineReduce _ => true
  | .engineConvert _ => true
  | .engineCompletion _ => true
  | .engineRecordFault _ => true
  | .matrixStep _ _ => true
  | .tracerPush _ => true
  | .pleatInboxAccept _ => true
  | .waveStart _ => true
  | .pleatReply _ => true
  | .pleatResend _ => true
  | .unitSend _ => true
  | .bucketRefill part ctx die => partOk part && ctxOk ctx && dieOk die
  | .remoteAccess u => partOk u.part && ctxOk u.ctx
  | .planeFail plane => decide (plane < 36)
  | .faultPartEnqueue part ctx _ => partOk part && ctxOk ctx
  | .liningFlip core part ctx => coreOk core && partOk part && ctxOk ctx
  | .liningDrain core part ctx => coreOk core && partOk part && ctxOk ctx
  | .htabSync part ctx _ => partOk part && ctxOk ctx
  | .queueDescriptorWrite part _ _ _ => partOk part
  | .registerWrite _ _ _ _ => true
  | .partShapeWrite _ => true
  | .merge _ => true
  | .split _ => true
  | .contextCreate part ctx _ => partOk part && ctxOk ctx
  | .contextRemove part ctx => partOk part && ctxOk ctx
  | .keyImport part ctx _ _ => partOk part && ctxOk ctx
  | .ringDoorbell part ctx _ _ => partOk part && ctxOk ctx
  | .ringLaunch part ctx => partOk part && ctxOk ctx
  | .ringEnq part ctx => partOk part && ctxOk ctx
  | .ringKnotdec part ctx => partOk part && ctxOk ctx
  | .ringSwr part ctx => partOk part && ctxOk ctx
  | .debugStop part ctx _ _ => partOk part && ctxOk ctx
  | .hostMemoryAccess part _ _ _ => partOk part
  | .functionLevelReset _ => true
  | .linkTraining _ => true
  | .coreEnableBatch die => dieOk die
  | .dieIdle die => dieOk die
  | .matrixSleep core => coreOk core
  | .matrixWake die => dieOk die
  | .clockThrottle die => dieOk die
  | .clockRaise die => dieOk die
  | .thermalTrip => true
  | .patrolScrub _ => true
  | .bootVerify => true
  | .mgRec _ _ => true
  | .registerRead _ _ _ => true
  | .spdmRequest part _ => partOk part
  | .hostSnoop _ _ => true
  | .softError _ _ => true
  | .remoteDrainRequest r => partOk r.part && ctxOk r.ctx

end Sys2Proof
end

