-- ==== Sys2Proof/Decode.lean ====
section
/-! DEFINITION. Decode: from the 32-bit word of R37 to an instruction, total, and the encoder beside it. Fields no entry uses are ignored (R13) and encoded as 0xF0, as the assembler does. -/

namespace Sys2Proof

/-- The operand a selector byte names (R39, R40). -/
def selOf (b : BitVec 8) : Sel :=
  let n := b.toNat
  if n < 0x80 then .v (BitVec.ofNat 7 n)
  else if n < 0xC0 then .s (BitVec.ofNat 6 (n - 0x80))
  else if n < 0xD0 then .k (BitVec.ofNat 4 (n - 0xC0))
  else if n < 0xE0 then .q (BitVec.ofNat 4 (n - 0xD0))
  else if n < 0xE8 then .m (BitVec.ofNat 3 (n - 0xE0))
  else if n = 0xF0 then .sp .zero
  else if n = 0xF1 then .sp .ones
  else if n = 0xF2 then .sp .lid
  else if n = 0xF3 then .sp .gid
  else if n = 0xF4 then .sp .tid
  else if n = 0xF5 then .sp .cid
  else if n = 0xF6 then .sp .nlanes
  else if n = 0xF7 then .sp .nteams
  else if n = 0xF8 then .sp .vdieid
  else if n = 0xF9 then .sp .coreclk
  else .reserved b

/-- The code of a special (R40). -/
def specialByte : Special → BitVec 8
  | .zero => 0xF0 | .ones => 0xF1 | .lid => 0xF2 | .gid => 0xF3 | .tid => 0xF4
  | .cid => 0xF5 | .nlanes => 0xF6 | .nteams => 0xF7 | .vdieid => 0xF8 | .coreclk => 0xF9

/-- The selector byte of an operand (R39). -/
def selByte : Sel → BitVec 8
  | .v n => BitVec.ofNat 8 n.toNat
  | .s n => BitVec.ofNat 8 (0x80 + n.toNat)
  | .k n => BitVec.ofNat 8 (0xC0 + n.toNat)
  | .q n => BitVec.ofNat 8 (0xD0 + n.toNat)
  | .m n => BitVec.ofNat 8 (0xE0 + n.toNat)
  | .sp x => specialByte x
  | .reserved b => b

/-- The 16-bit number a pair of fields holds, high byte first (R54). -/
def pairNum (hi lo : BitVec 8) : BitVec 16 := BitVec.ofNat 16 (hi.toNat * 256 + lo.toNat)
/-- The high byte of a register number. -/
def numHi (n : BitVec 16) : BitVec 8 := BitVec.ofNat 8 (n.toNat / 256)
/-- The low byte of a register number. -/
def numLo (n : BitVec 16) : BitVec 8 := BitVec.ofNat 8 n.toNat

/-- The field of a word whose lowest bit is lo (R37). -/
def fieldAt (w : Word) (lo : Nat) : BitVec 8 := BitVec.ofNat 8 (w.toNat / 2 ^ lo)

/-- A word from its opcode and its three fields (R37). -/
def packWord (op : Nat) (d a b : BitVec 8) : Word :=
  BitVec.ofNat 32 (op * 2 ^ 24 + d.toNat * 2 ^ 16 + a.toNat * 2 ^ 8 + b.toNat)

/-- What the assembler writes into a field the entry does not use. -/
def unusedField : BitVec 8 := 0xF0

/-- Row 0x of the opcode map (R51). -/
def decodeRow0 (lo : Nat) (d a b : BitVec 8) (w : Word) : Instr :=
  match lo with
  | 0 => .nop
  | 1 => .br (selOf b)
  | 2 => .brz (selOf a) (selOf b)
  | 3 => .brnz (selOf a) (selOf b)
  | 4 => .brmz (selOf a) (selOf b)
  | 5 => .brmnz (selOf a) (selOf b)
  | 6 => .jmp (selOf b)
  | 7 => .call (selOf d) (selOf b)
  | 8 => .yield
  | 9 => .exit
  | 10 => .setmode (selOf b)
  | 11 => .getmode (selOf d)
  | 12 => .mmov (selOf d) (selOf a)
  | 13 => .mand (selOf d) (selOf a) (selOf b)
  | 14 => .mor (selOf d) (selOf a) (selOf b)
  | 15 => .mxor (selOf d) (selOf a) (selOf b)
  | _ => .illegalOpcode w

/-- Row 1x of the opcode map (R51). -/
def decodeRow1 (lo : Nat) (d a b : BitVec 8) (w : Word) : Instr :=
  match lo with
  | 0 => .mandn (selOf d) (selOf a) (selOf b)
  | 1 => .mnot (selOf d) (selOf a)
  | 2 => .mcnt (selOf d) (selOf a)
  | 3 => .mfirst (selOf d) (selOf a)
  | 4 => .msumw (selOf d) (selOf a)
  | 5 => .mgetw (selOf d) (selOf a) (selOf b)
  | 6 => .msetw (selOf d) (selOf a) (selOf b)
  | 7 => .mfromv (selOf d) (selOf a)
  | 8 => .vcmpeq (selOf d) (selOf a) (selOf b)
  | 9 => .vcmpne (selOf d) (selOf a) (selOf b)
  | 10 => .vcmplt (selOf d) (selOf a) (selOf b)
  | 11 => .vcmple (selOf d) (selOf a) (selOf b)
  | 12 => .vclass (selOf d) (selOf a) b
  | 13 => .waitd (selOf b)
  | _ => .illegalOpcode w

/-- Row 2x of the opcode map (R51). -/
def decodeRow2 (lo : Nat) (d a b : BitVec 8) (w : Word) : Instr :=
  match lo with
  | 0 => .smov (selOf d) (selOf a)
  | 1 => .sadd (selOf d) (selOf a) (selOf b)
  | 2 => .ssub (selOf d) (selOf a) (selOf b)
  | 3 => .smul (selOf d) (selOf a) (selOf b)
  | 4 => .smulh (selOf d) (selOf a) (selOf b)
  | 5 => .smulhn (selOf d) (selOf a) (selOf b)
  | 6 => .sand (selOf d) (selOf a) (selOf b)
  | 7 => .sor (selOf d) (selOf a) (selOf b)
  | 8 => .sxor (selOf d) (selOf a) (selOf b)
  | 9 => .sshl (selOf d) (selOf a) (selOf b)
  | 10 => .sshr (selOf d) (selOf a) (selOf b)
  | 11 => .ssra (selOf d) (selOf a) (selOf b)
  | 12 => .smin (selOf d) (selOf a) (selOf b)
  | 13 => .smax (selOf d) (selOf a) (selOf b)
  | 14 => .sminn (selOf d) (selOf a) (selOf b)
  | 15 => .smaxn (selOf d) (selOf a) (selOf b)
  | _ => .illegalOpcode w

/-- Row 3x of the opcode map (R51). -/
def decodeRow3 (lo : Nat) (d a b : BitVec 8) (w : Word) : Instr :=
  match lo with
  | 0 => .scmpeq (selOf d) (selOf a) (selOf b)
  | 1 => .scmplt (selOf d) (selOf a) (selOf b)
  | 2 => .scmpltn (selOf d) (selOf a) (selOf b)
  | 3 => .sclz (selOf d) (selOf a)
  | 4 => .spopc (selOf d) (selOf a)
  | 5 => .sld (selOf d) (selOf a) (selOf b)
  | 6 => .sld2 (selOf d) (selOf a) (selOf b)
  | 7 => .sst (selOf d) (selOf a) (selOf b)
  | 8 => .sst2 (selOf d) (selOf a) (selOf b)
  | 9 => .sfadd (selOf d) (selOf a) (selOf b)
  | 10 => .sfmul (selOf d) (selOf a) (selOf b)
  | 11 => .sfma (selOf d) (selOf a) (selOf b)
  | 12 => .scvt (selOf d) (selOf a) b
  | 13 => .sdivn (selOf d) (selOf a) (selOf b)
  | 14 => .sdiv (selOf d) (selOf a) (selOf b)
  | 15 => .srem (selOf d) (selOf a) (selOf b)
  | _ => .illegalOpcode w

/-- Row 4x of the opcode map (R51). -/
def decodeRow4 (lo : Nat) (d a b : BitVec 8) (w : Word) : Instr :=
  match lo with
  | 0 => .vmov (selOf d) (selOf a)
  | 1 => .vadd (selOf d) (selOf a) (selOf b)
  | 2 => .vsub (selOf d) (selOf a) (selOf b)
  | 3 => .vmul (selOf d) (selOf a) (selOf b)
  | 4 => .vmulh (selOf d) (selOf a) (selOf b)
  | 5 => .vfma (selOf d) (selOf a) (selOf b)
  | 6 => .vfnma (selOf d) (selOf a) (selOf b)
  | 7 => .vmad (selOf d) (selOf a) (selOf b)
  | 8 => .vmin (selOf d) (selOf a) (selOf b)
  | 9 => .vmax (selOf d) (selOf a) (selOf b)
  | 10 => .vabs (selOf d) (selOf a)
  | 11 => .vneg (selOf d) (selOf a)
  | 12 => .vand (selOf d) (selOf a) (selOf b)
  | 13 => .vor (selOf d) (selOf a) (selOf b)
  | 14 => .vxor (selOf d) (selOf a) (selOf b)
  | 15 => .vnot (selOf d) (selOf a)
  | _ => .illegalOpcode w

/-- Row 5x of the opcode map (R51). -/
def decodeRow5 (lo : Nat) (d a b : BitVec 8) (w : Word) : Instr :=
  match lo with
  | 0 => .vshl (selOf d) (selOf a) (selOf b)
  | 1 => .vshr (selOf d) (selOf a) (selOf b)
  | 2 => .vsra (selOf d) (selOf a) (selOf b)
  | 3 => .vrot (selOf d) (selOf a) (selOf b)
  | 4 => .vpopc (selOf d) (selOf a)
  | 5 => .vclz (selOf d) (selOf a)
  | 6 => .vbrev (selOf d) (selOf a)
  | 7 => .vsel (selOf d) (selOf a) (selOf b)
  | 8 => .vbcast (selOf d) (selOf a) (selOf b)
  | 9 => .vcvt (selOf d) (selOf a) b
  | 10 => .vrcp (selOf d) (selOf a)
  | 11 => .vrsq (selOf d) (selOf a)
  | 12 => .vsqrt (selOf d) (selOf a)
  | 13 => .vexp2 (selOf d) (selOf a)
  | 14 => .vlog2 (selOf d) (selOf a)
  | 15 => .vsin (selOf d) (selOf a)
  | _ => .illegalOpcode w

/-- Row 6x of the opcode map (R51). -/
def decodeRow6 (lo : Nat) (d a b : BitVec 8) (w : Word) : Instr :=
  match lo with
  | 0 => .vcos (selOf d) (selOf a)
  | 1 => .vtanh (selOf d) (selOf a)
  | 2 => .vrnd (selOf d) (selOf a)
  | 3 => .vfrc (selOf d) (selOf a)
  | 4 => .vldexp (selOf d) (selOf a) (selOf b)
  | 5 => .vcpsgn (selOf d) (selOf a) (selOf b)
  | 6 => .vdot4 (selOf d) (selOf a) (selOf b)
  | 7 => .vdot2 (selOf d) (selOf a) (selOf b)
  | 8 => .vshuf (selOf d) (selOf a) b
  | 9 => .vperm (selOf d) (selOf a) (selOf b)
  | 10 => .vredadd (selOf d) (selOf a)
  | 11 => .vredmin (selOf d) (selOf a)
  | 12 => .vredmax (selOf d) (selOf a)
  | 13 => .vscan (selOf d) (selOf a) b
  | 14 => .vscant (selOf d) (selOf a) b
  | 15 => .vextr (selOf d) (selOf a) (selOf b)
  | _ => .illegalOpcode w

/-- Row 7x of the opcode map (R51). -/
def decodeRow7 (lo : Nat) (d a b : BitVec 8) (w : Word) : Instr :=
  match lo with
  | 0 => .vins (selOf d) (selOf a) (selOf b)
  | 1 => .vpack (selOf d) (selOf a) (selOf b)
  | 2 => .vunpk (selOf d) (selOf a) (selOf b)
  | 3 => .vabsd (selOf d) (selOf a) (selOf b)
  | 4 => .vmovp (selOf d) (selOf a)
  | 5 => .vmsk (selOf d) (selOf a)
  | _ => .illegalOpcode w

/-- Row 8x of the opcode map (R51). -/
def decodeRow8 (lo : Nat) (d a b : BitVec 8) (w : Word) : Instr :=
  match lo with
  | 0 => .vld1 (selOf d) (selOf a) (selOf b)
  | 1 => .vld2 (selOf d) (selOf a) (selOf b)
  | 2 => .vld4 (selOf d) (selOf a) (selOf b)
  | 3 => .vld8 (selOf d) (selOf a) (selOf b)
  | 4 => .vst1 (selOf d) (selOf a) (selOf b)
  | 5 => .vst2 (selOf d) (selOf a) (selOf b)
  | 6 => .vst4 (selOf d) (selOf a) (selOf b)
  | 7 => .vst8 (selOf d) (selOf a) (selOf b)
  | 8 => .pld1 (selOf d) (selOf a) (selOf b)
  | 9 => .pld2 (selOf d) (selOf a) (selOf b)
  | 10 => .pld4 (selOf d) (selOf a) (selOf b)
  | 11 => .pst1 (selOf d) (selOf a) (selOf b)
  | 12 => .pst2 (selOf d) (selOf a) (selOf b)
  | 13 => .pst4 (selOf d) (selOf a) (selOf b)
  | 14 => .cld (selOf d) (selOf a) (selOf b)
  | 15 => .smpl (selOf d) (selOf a) (selOf b)
  | _ => .illegalOpcode w

/-- Row 9x of the opcode map (R51). -/
def decodeRow9 (lo : Nat) (d a b : BitVec 8) (w : Word) : Instr :=
  match lo with
  | 0 => .tlld (selOf d) (selOf a) (selOf b)
  | 1 => .pfence d
  | 2 => .cpy (selOf d) (selOf a) (selOf b)
  | 3 => .cpyt (selOf d) (selOf a) (selOf b)
  | 4 => .cpyo (selOf d) (selOf a) (selOf b)
  | 5 => .pres (selOf a) (selOf b)
  | 6 => .pinv (selOf a) (selOf b)
  | 7 => .pref (selOf a) (selOf b)
  | 8 => .cflush (selOf a) (selOf b)
  | 9 => .cinv (selOf a) (selOf b)
  | 10 => .qbind (selOf d) (selOf a) b
  | 11 => .qtry (selOf d) (selOf a)
  | 12 => .qfence (selOf a)
  | _ => .illegalOpcode w

/-- Row Ax of the opcode map (R51). -/
def decodeRowA (lo : Nat) (d a b : BitVec 8) (w : Word) : Instr :=
  match lo with
  | 0 => .tkinit (selOf a) (selOf b)
  | 1 => .tkarr (selOf a)
  | 2 => .tkwait (selOf a) (selOf b)
  | 3 => .tkaw (selOf a)
  | 4 => .tkexp (selOf a) (selOf b)
  | 5 => .fence
  | 6 => .rdand (selOf a) (selOf b)
  | 7 => .rdor (selOf a) (selOf b)
  | 8 => .rdxor (selOf a) (selOf b)
  | 9 => .dfadd (selOf d) (selOf a) (selOf b)
  | 10 => .dmin (selOf d) (selOf a) (selOf b)
  | 11 => .dmax (selOf d) (selOf a) (selOf b)
  | 12 => .dxchg (selOf d) (selOf a) (selOf b)
  | 13 => .chunk (selOf d) (selOf a)
  | _ => .illegalOpcode w

/-- Row Bx of the opcode map (R51). -/
def decodeRowB (lo : Nat) (d a b : BitVec 8) (w : Word) : Instr :=
  match lo with
  | 0 => .aadd (selOf d) (selOf a) (selOf b)
  | 1 => .afadd (selOf d) (selOf a) (selOf b)
  | 2 => .amin (selOf d) (selOf a) (selOf b)
  | 3 => .amax (selOf d) (selOf a) (selOf b)
  | 4 => .aand (selOf d) (selOf a) (selOf b)
  | 5 => .aor (selOf d) (selOf a) (selOf b)
  | 6 => .axor (selOf d) (selOf a) (selOf b)
  | 7 => .axchg (selOf d) (selOf a) (selOf b)
  | 8 => .acas (selOf d) (selOf a) (selOf b)
  | 9 => .acas2 (selOf d) (selOf a) (selOf b)
  | 10 => .acas4 (selOf d) (selOf a) (selOf b)
  | 11 => .rdadd (selOf a) (selOf b)
  | 12 => .rdfadd (selOf a) (selOf b)
  | 13 => .rdmin (selOf a) (selOf b)
  | 14 => .rdmax (selOf a) (selOf b)
  | 15 => .dadd (selOf d) (selOf a) (selOf b)
  | _ => .illegalOpcode w

/-- Row Cx of the opcode map (R51). -/
def decodeRowC (lo : Nat) (d a b : BitVec 8) (w : Word) : Instr :=
  match lo with
  | 0 => .enq (selOf d) (selOf a)
  | 1 => .deq (selOf d) (selOf a)
  | 2 => .deqtry (selOf d) (selOf a) (selOf b)
  | 3 => .knotinit (selOf a) (selOf b)
  | 4 => .knotadd (selOf a) (selOf b)
  | 5 => .knotdec (selOf a) (selOf b)
  | 6 => .knotbind (selOf d) (selOf a) (selOf b)
  | 7 => .launch (selOf a) (selOf b)
  | 8 => .rfsrc (selOf d) (selOf a)
  | 9 => .trace (selOf d) (selOf a)
  | 10 => .trstop (selOf a)
  | 11 => .qlen (selOf d) (selOf a) (selOf b)
  | _ => .illegalOpcode w

/-- Row Dx of the opcode map (R51). -/
def decodeRowD (lo : Nat) (d a b : BitVec 8) (w : Word) : Instr :=
  match lo with
  | 0 => .mma (selOf d) (selOf a) (selOf b)
  | 1 => .mloop (selOf d) (selOf a)
  | 2 => .mgrp (selOf d) (selOf a) (selOf b)
  | 3 => .swsel (selOf a)
  | 4 => .acwin (selOf d) (selOf a)
  | 5 => .aczero (selOf a) (selOf b)
  | 6 => .acrd (selOf d) (selOf a) (selOf b)
  | 7 => .acrdx (selOf d) (selOf a) (selOf b)
  | 8 => .acwr (selOf a) (selOf b)
  | 9 => .acadd (selOf a) (selOf b)
  | 10 => .qblk (selOf d) (selOf a) (selOf b)
  | 11 => .dqblk (selOf d) (selOf a) (selOf b)
  | _ => .illegalOpcode w

/-- Row Ex of the opcode map (R51). -/
def decodeRowE (lo : Nat) (d a b : BitVec 8) (w : Word) : Instr :=
  match lo with
  | 0 => .patld (selOf d) (selOf a) (selOf b)
  | 1 => .patst (selOf d) (selOf a) (selOf b)
  | 2 => .pataddr (selOf d) (selOf a) (selOf b)
  | 3 => .patinv (selOf a)
  | 4 => .patcf (selOf a) (selOf b)
  | 5 => .pleat (selOf d) (selOf a) (selOf b)
  | 6 => .plarg (selOf d)
  | 7 => .plreply (selOf a)
  | 8 => .pldone
  | 9 => .peerld (selOf d) (selOf a) (selOf b)
  | 10 => .peerst (selOf d) (selOf a) (selOf b)
  | 11 => .peeradd (selOf d) (selOf a) (selOf b)
  | 12 => .vdie (selOf d)
  | 13 => .hops (selOf d) (selOf a) (selOf b)
  | 14 => .fsdrain (selOf a) (selOf b)
  | 15 => .fsconf (selOf a) (selOf b)
  | _ => .illegalOpcode w

/-- Row Fx of the opcode map (R51). -/
def decodeRowF (lo : Nat) (d a b : BitVec 8) (w : Word) : Instr :=
  match lo with
  | 0 => .trap b
  | 1 => .brk b
  | 2 => .srd (selOf d) (pairNum a b)
  | 3 => .swr (pairNum d a) (selOf b)
  | 4 => .invpg (selOf d) (selOf a) (selOf b)
  | 5 => .invcf
  | 6 => .place (selOf a) (selOf b)
  | 7 => .preempt (selOf a)
  | 8 => .seal (selOf d) (selOf a) (selOf b)
  | 9 => .unseal (selOf d) (selOf a)
  | 10 => .audrd (selOf d) (selOf a) (selOf b)
  | 11 => .fltack (selOf a) b
  | 12 => .resume (selOf a)
  | 13 => .discard (selOf d) (selOf a) (selOf b)
  | 14 => .attest (selOf d) (selOf a) (selOf b)
  | _ => .illegalOpcode w

/-- The instruction of an opcode and its three fields. -/
def decodeFields (op : Nat) (d a b : BitVec 8) (w : Word) : Instr :=
  match op / 16 with
  | 0 => decodeRow0 (op % 16) d a b w
  | 1 => decodeRow1 (op % 16) d a b w
  | 2 => decodeRow2 (op % 16) d a b w
  | 3 => decodeRow3 (op % 16) d a b w
  | 4 => decodeRow4 (op % 16) d a b w
  | 5 => decodeRow5 (op % 16) d a b w
  | 6 => decodeRow6 (op % 16) d a b w
  | 7 => decodeRow7 (op % 16) d a b w
  | 8 => decodeRow8 (op % 16) d a b w
  | 9 => decodeRow9 (op % 16) d a b w
  | 10 => decodeRowA (op % 16) d a b w
  | 11 => decodeRowB (op % 16) d a b w
  | 12 => decodeRowC (op % 16) d a b w
  | 13 => decodeRowD (op % 16) d a b w
  | 14 => decodeRowE (op % 16) d a b w
  | _ => decodeRowF (op % 16) d a b w

/-- The instruction a word encodes (R37, R51, R52): every word is an instruction or a reserved opcode. -/
def decode (w : Word) : Instr :=
  decodeFields (w.toNat / 2 ^ 24) (fieldAt w 16) (fieldAt w 8) (fieldAt w 0) w

/-- Why bytes hold no instruction. -/
inductive DecodeError where
  /-- Fewer than four bytes are left. -/
  | truncated
  deriving DecidableEq, Repr

/-- The instruction at the head of a run of bytes, little-endian (R3, R37), with the rest of the run. -/
def decodeBytes : List Byte → Except DecodeError (Instr × List Byte)
  | b0 :: b1 :: b2 :: b3 :: rest =>
    .ok (decode (BitVec.ofNat 32 (b0.toNat + b1.toNat * 2 ^ 8 + b2.toNat * 2 ^ 16 + b3.toNat * 2 ^ 24)), rest)
  | _ => .error .truncated

/-- The bytes of a word as memory holds them. -/
def wordBytesLE (w : Word) : List Byte := [fieldAt w 0, fieldAt w 8, fieldAt w 16, fieldAt w 24]

/-- The word of an instruction; a row without an encoding has none. -/
def encode : Instr → Option Word
  | .nop => some (packWord 0x00 unusedField unusedField unusedField)
  | .br b => some (packWord 0x01 unusedField unusedField (selByte b))
  | .brz a b => some (packWord 0x02 unusedField (selByte a) (selByte b))
  | .brnz a b => some (packWord 0x03 unusedField (selByte a) (selByte b))
  | .brmz a b => some (packWord 0x04 unusedField (selByte a) (selByte b))
  | .brmnz a b => some (packWord 0x05 unusedField (selByte a) (selByte b))
  | .jmp b => some (packWord 0x06 unusedField unusedField (selByte b))
  | .call d b => some (packWord 0x07 (selByte d) unusedField (selByte b))
  | .yield => some (packWord 0x08 unusedField unusedField unusedField)
  | .exit => some (packWord 0x09 unusedField unusedField unusedField)
  | .setmode b => some (packWord 0x0A unusedField unusedField (selByte b))
  | .getmode d => some (packWord 0x0B (selByte d) unusedField unusedField)
  | .mmov d a => some (packWord 0x0C (selByte d) (selByte a) unusedField)
  | .mand d a b => some (packWord 0x0D (selByte d) (selByte a) (selByte b))
  | .mor d a b => some (packWord 0x0E (selByte d) (selByte a) (selByte b))
  | .mxor d a b => some (packWord 0x0F (selByte d) (selByte a) (selByte b))
  | .mandn d a b => some (packWord 0x10 (selByte d) (selByte a) (selByte b))
  | .mnot d a => some (packWord 0x11 (selByte d) (selByte a) unusedField)
  | .mcnt d a => some (packWord 0x12 (selByte d) (selByte a) unusedField)
  | .mfirst d a => some (packWord 0x13 (selByte d) (selByte a) unusedField)
  | .msumw d a => some (packWord 0x14 (selByte d) (selByte a) unusedField)
  | .mgetw d a b => some (packWord 0x15 (selByte d) (selByte a) (selByte b))
  | .msetw d a b => some (packWord 0x16 (selByte d) (selByte a) (selByte b))
  | .mfromv d a => some (packWord 0x17 (selByte d) (selByte a) unusedField)
  | .vcmpeq d a b => some (packWord 0x18 (selByte d) (selByte a) (selByte b))
  | .vcmpne d a b => some (packWord 0x19 (selByte d) (selByte a) (selByte b))
  | .vcmplt d a b => some (packWord 0x1A (selByte d) (selByte a) (selByte b))
  | .vcmple d a b => some (packWord 0x1B (selByte d) (selByte a) (selByte b))
  | .vclass d a b => some (packWord 0x1C (selByte d) (selByte a) b)
  | .waitd b => some (packWord 0x1D unusedField unusedField (selByte b))
  | .illegalOpcode w => some w
  | .smov d a => some (packWord 0x20 (selByte d) (selByte a) unusedField)
  | .sadd d a b => some (packWord 0x21 (selByte d) (selByte a) (selByte b))
  | .ssub d a b => some (packWord 0x22 (selByte d) (selByte a) (selByte b))
  | .smul d a b => some (packWord 0x23 (selByte d) (selByte a) (selByte b))
  | .smulh d a b => some (packWord 0x24 (selByte d) (selByte a) (selByte b))
  | .smulhn d a b => some (packWord 0x25 (selByte d) (selByte a) (selByte b))
  | .sand d a b => some (packWord 0x26 (selByte d) (selByte a) (selByte b))
  | .sor d a b => some (packWord 0x27 (selByte d) (selByte a) (selByte b))
  | .sxor d a b => some (packWord 0x28 (selByte d) (selByte a) (selByte b))
  | .sshl d a b => some (packWord 0x29 (selByte d) (selByte a) (selByte b))
  | .sshr d a b => some (packWord 0x2A (selByte d) (selByte a) (selByte b))
  | .ssra d a b => some (packWord 0x2B (selByte d) (selByte a) (selByte b))
  | .smin d a b => some (packWord 0x2C (selByte d) (selByte a) (selByte b))
  | .smax d a b => some (packWord 0x2D (selByte d) (selByte a) (selByte b))
  | .sminn d a b => some (packWord 0x2E (selByte d) (selByte a) (selByte b))
  | .smaxn d a b => some (packWord 0x2F (selByte d) (selByte a) (selByte b))
  | .scmpeq d a b => some (packWord 0x30 (selByte d) (selByte a) (selByte b))
  | .scmplt d a b => some (packWord 0x31 (selByte d) (selByte a) (selByte b))
  | .scmpltn d a b => some (packWord 0x32 (selByte d) (selByte a) (selByte b))
  | .sclz d a => some (packWord 0x33 (selByte d) (selByte a) unusedField)
  | .spopc d a => some (packWord 0x34 (selByte d) (selByte a) unusedField)
  | .sld d a b => some (packWord 0x35 (selByte d) (selByte a) (selByte b))
  | .sld2 d a b => some (packWord 0x36 (selByte d) (selByte a) (selByte b))
  | .sst d a b => some (packWord 0x37 (selByte d) (selByte a) (selByte b))
  | .sst2 d a b => some (packWord 0x38 (selByte d) (selByte a) (selByte b))
  | .sfadd d a b => some (packWord 0x39 (selByte d) (selByte a) (selByte b))
  | .sfmul d a b => some (packWord 0x3A (selByte d) (selByte a) (selByte b))
  | .sfma d a b => some (packWord 0x3B (selByte d) (selByte a) (selByte b))
  | .scvt d a b => some (packWord 0x3C (selByte d) (selByte a) b)
  | .sdivn d a b => some (packWord 0x3D (selByte d) (selByte a) (selByte b))
  | .sdiv d a b => some (packWord 0x3E (selByte d) (selByte a) (selByte b))
  | .srem d a b => some (packWord 0x3F (selByte d) (selByte a) (selByte b))
  | .vmov d a => some (packWord 0x40 (selByte d) (selByte a) unusedField)
  | .vadd d a b => some (packWord 0x41 (selByte d) (selByte a) (selByte b))
  | .vsub d a b => some (packWord 0x42 (selByte d) (selByte a) (selByte b))
  | .vmul d a b => some (packWord 0x43 (selByte d) (selByte a) (selByte b))
  | .vmulh d a b => some (packWord 0x44 (selByte d) (selByte a) (selByte b))
  | .vfma d a b => some (packWord 0x45 (selByte d) (selByte a) (selByte b))
  | .vfnma d a b => some (packWord 0x46 (selByte d) (selByte a) (selByte b))
  | .vmad d a b => some (packWord 0x47 (selByte d) (selByte a) (selByte b))
  | .vmin d a b => some (packWord 0x48 (selByte d) (selByte a) (selByte b))
  | .vmax d a b => some (packWord 0x49 (selByte d) (selByte a) (selByte b))
  | .vabs d a => some (packWord 0x4A (selByte d) (selByte a) unusedField)
  | .vneg d a => some (packWord 0x4B (selByte d) (selByte a) unusedField)
  | .vand d a b => some (packWord 0x4C (selByte d) (selByte a) (selByte b))
  | .vor d a b => some (packWord 0x4D (selByte d) (selByte a) (selByte b))
  | .vxor d a b => some (packWord 0x4E (selByte d) (selByte a) (selByte b))
  | .vnot d a => some (packWord 0x4F (selByte d) (selByte a) unusedField)
  | .vshl d a b => some (packWord 0x50 (selByte d) (selByte a) (selByte b))
  | .vshr d a b => some (packWord 0x51 (selByte d) (selByte a) (selByte b))
  | .vsra d a b => some (packWord 0x52 (selByte d) (selByte a) (selByte b))
  | .vrot d a b => some (packWord 0x53 (selByte d) (selByte a) (selByte b))
  | .vpopc d a => some (packWord 0x54 (selByte d) (selByte a) unusedField)
  | .vclz d a => some (packWord 0x55 (selByte d) (selByte a) unusedField)
  | .vbrev d a => some (packWord 0x56 (selByte d) (selByte a) unusedField)
  | .vsel d a b => some (packWord 0x57 (selByte d) (selByte a) (selByte b))
  | .vbcast d a b => some (packWord 0x58 (selByte d) (selByte a) (selByte b))
  | .vcvt d a b => some (packWord 0x59 (selByte d) (selByte a) b)
  | .vrcp d a => some (packWord 0x5A (selByte d) (selByte a) unusedField)
  | .vrsq d a => some (packWord 0x5B (selByte d) (selByte a) unusedField)
  | .vsqrt d a => some (packWord 0x5C (selByte d) (selByte a) unusedField)
  | .vexp2 d a => some (packWord 0x5D (selByte d) (selByte a) unusedField)
  | .vlog2 d a => some (packWord 0x5E (selByte d) (selByte a) unusedField)
  | .vsin d a => some (packWord 0x5F (selByte d) (selByte a) unusedField)
  | .vcos d a => some (packWord 0x60 (selByte d) (selByte a) unusedField)
  | .vtanh d a => some (packWord 0x61 (selByte d) (selByte a) unusedField)
  | .vrnd d a => some (packWord 0x62 (selByte d) (selByte a) unusedField)
  | .vfrc d a => some (packWord 0x63 (selByte d) (selByte a) unusedField)
  | .vldexp d a b => some (packWord 0x64 (selByte d) (selByte a) (selByte b))
  | .vcpsgn d a b => some (packWord 0x65 (selByte d) (selByte a) (selByte b))
  | .vdot4 d a b => some (packWord 0x66 (selByte d) (selByte a) (selByte b))
  | .vdot2 d a b => some (packWord 0x67 (selByte d) (selByte a) (selByte b))
  | .vshuf d a b => some (packWord 0x68 (selByte d) (selByte a) b)
  | .vperm d a b => some (packWord 0x69 (selByte d) (selByte a) (selByte b))
  | .vredadd d a => some (packWord 0x6A (selByte d) (selByte a) unusedField)
  | .vredmin d a => some (packWord 0x6B (selByte d) (selByte a) unusedField)
  | .vredmax d a => some (packWord 0x6C (selByte d) (selByte a) unusedField)
  | .vscan d a b => some (packWord 0x6D (selByte d) (selByte a) b)
  | .vscant d a b => some (packWord 0x6E (selByte d) (selByte a) b)
  | .vextr d a b => some (packWord 0x6F (selByte d) (selByte a) (selByte b))
  | .vins d a b => some (packWord 0x70 (selByte d) (selByte a) (selByte b))
  | .vpack d a b => some (packWord 0x71 (selByte d) (selByte a) (selByte b))
  | .vunpk d a b => some (packWord 0x72 (selByte d) (selByte a) (selByte b))
  | .vabsd d a b => some (packWord 0x73 (selByte d) (selByte a) (selByte b))
  | .vmovp d a => some (packWord 0x74 (selByte d) (selByte a) unusedField)
  | .vmsk d a => some (packWord 0x75 (selByte d) (selByte a) unusedField)
  | .vld1 d a b => some (packWord 0x80 (selByte d) (selByte a) (selByte b))
  | .vld2 d a b => some (packWord 0x81 (selByte d) (selByte a) (selByte b))
  | .vld4 d a b => some (packWord 0x82 (selByte d) (selByte a) (selByte b))
  | .vld8 d a b => some (packWord 0x83 (selByte d) (selByte a) (selByte b))
  | .vst1 d a b => some (packWord 0x84 (selByte d) (selByte a) (selByte b))
  | .vst2 d a b => some (packWord 0x85 (selByte d) (selByte a) (selByte b))
  | .vst4 d a b => some (packWord 0x86 (selByte d) (selByte a) (selByte b))
  | .vst8 d a b => some (packWord 0x87 (selByte d) (selByte a) (selByte b))
  | .pld1 d a b => some (packWord 0x88 (selByte d) (selByte a) (selByte b))
  | .pld2 d a b => some (packWord 0x89 (selByte d) (selByte a) (selByte b))
  | .pld4 d a b => some (packWord 0x8A (selByte d) (selByte a) (selByte b))
  | .pst1 d a b => some (packWord 0x8B (selByte d) (selByte a) (selByte b))
  | .pst2 d a b => some (packWord 0x8C (selByte d) (selByte a) (selByte b))
  | .pst4 d a b => some (packWord 0x8D (selByte d) (selByte a) (selByte b))
  | .cld d a b => some (packWord 0x8E (selByte d) (selByte a) (selByte b))
  | .smpl d a b => some (packWord 0x8F (selByte d) (selByte a) (selByte b))
  | .tlld d a b => some (packWord 0x90 (selByte d) (selByte a) (selByte b))
  | .pfence d => some (packWord 0x91 d unusedField unusedField)
  | .cpy d a b => some (packWord 0x92 (selByte d) (selByte a) (selByte b))
  | .cpyt d a b => some (packWord 0x93 (selByte d) (selByte a) (selByte b))
  | .cpyo d a b => some (packWord 0x94 (selByte d) (selByte a) (selByte b))
  | .pres a b => some (packWord 0x95 unusedField (selByte a) (selByte b))
  | .pinv a b => some (packWord 0x96 unusedField (selByte a) (selByte b))
  | .pref a b => some (packWord 0x97 unusedField (selByte a) (selByte b))
  | .cflush a b => some (packWord 0x98 unusedField (selByte a) (selByte b))
  | .cinv a b => some (packWord 0x99 unusedField (selByte a) (selByte b))
  | .qbind d a b => some (packWord 0x9A (selByte d) (selByte a) b)
  | .qtry d a => some (packWord 0x9B (selByte d) (selByte a) unusedField)
  | .qfence a => some (packWord 0x9C unusedField (selByte a) unusedField)
  | .tkinit a b => some (packWord 0xA0 unusedField (selByte a) (selByte b))
  | .tkarr a => some (packWord 0xA1 unusedField (selByte a) unusedField)
  | .tkwait a b => some (packWord 0xA2 unusedField (selByte a) (selByte b))
  | .tkaw a => some (packWord 0xA3 unusedField (selByte a) unusedField)
  | .tkexp a b => some (packWord 0xA4 unusedField (selByte a) (selByte b))
  | .fence => some (packWord 0xA5 unusedField unusedField unusedField)
  | .rdand a b => some (packWord 0xA6 unusedField (selByte a) (selByte b))
  | .rdor a b => some (packWord 0xA7 unusedField (selByte a) (selByte b))
  | .rdxor a b => some (packWord 0xA8 unusedField (selByte a) (selByte b))
  | .dfadd d a b => some (packWord 0xA9 (selByte d) (selByte a) (selByte b))
  | .dmin d a b => some (packWord 0xAA (selByte d) (selByte a) (selByte b))
  | .dmax d a b => some (packWord 0xAB (selByte d) (selByte a) (selByte b))
  | .dxchg d a b => some (packWord 0xAC (selByte d) (selByte a) (selByte b))
  | .chunk d a => some (packWord 0xAD (selByte d) (selByte a) unusedField)
  | .aadd d a b => some (packWord 0xB0 (selByte d) (selByte a) (selByte b))
  | .afadd d a b => some (packWord 0xB1 (selByte d) (selByte a) (selByte b))
  | .amin d a b => some (packWord 0xB2 (selByte d) (selByte a) (selByte b))
  | .amax d a b => some (packWord 0xB3 (selByte d) (selByte a) (selByte b))
  | .aand d a b => some (packWord 0xB4 (selByte d) (selByte a) (selByte b))
  | .aor d a b => some (packWord 0xB5 (selByte d) (selByte a) (selByte b))
  | .axor d a b => some (packWord 0xB6 (selByte d) (selByte a) (selByte b))
  | .axchg d a b => some (packWord 0xB7 (selByte d) (selByte a) (selByte b))
  | .acas d a b => some (packWord 0xB8 (selByte d) (selByte a) (selByte b))
  | .acas2 d a b => some (packWord 0xB9 (selByte d) (selByte a) (selByte b))
  | .acas4 d a b => some (packWord 0xBA (selByte d) (selByte a) (selByte b))
  | .rdadd a b => some (packWord 0xBB unusedField (selByte a) (selByte b))
  | .rdfadd a b => some (packWord 0xBC unusedField (selByte a) (selByte b))
  | .rdmin a b => some (packWord 0xBD unusedField (selByte a) (selByte b))
  | .rdmax a b => some (packWord 0xBE unusedField (selByte a) (selByte b))
  | .dadd d a b => some (packWord 0xBF (selByte d) (selByte a) (selByte b))
  | .enq d a => some (packWord 0xC0 (selByte d) (selByte a) unusedField)
  | .deq d a => some (packWord 0xC1 (selByte d) (selByte a) unusedField)
  | .deqtry d a b => some (packWord 0xC2 (selByte d) (selByte a) (selByte b))
  | .knotinit a b => some (packWord 0xC3 unusedField (selByte a) (selByte b))
  | .knotadd a b => some (packWord 0xC4 unusedField (selByte a) (selByte b))
  | .knotdec a b => some (packWord 0xC5 unusedField (selByte a) (selByte b))
  | .knotbind d a b => some (packWord 0xC6 (selByte d) (selByte a) (selByte b))
  | .launch a b => some (packWord 0xC7 unusedField (selByte a) (selByte b))
  | .rfsrc d a => some (packWord 0xC8 (selByte d) (selByte a) unusedField)
  | .trace d a => some (packWord 0xC9 (selByte d) (selByte a) unusedField)
  | .trstop a => some (packWord 0xCA unusedField (selByte a) unusedField)
  | .qlen d a b => some (packWord 0xCB (selByte d) (selByte a) (selByte b))
  | .mma d a b => some (packWord 0xD0 (selByte d) (selByte a) (selByte b))
  | .mloop d a => some (packWord 0xD1 (selByte d) (selByte a) unusedField)
  | .mgrp d a b => some (packWord 0xD2 (selByte d) (selByte a) (selByte b))
  | .swsel a => some (packWord 0xD3 unusedField (selByte a) unusedField)
  | .acwin d a => some (packWord 0xD4 (selByte d) (selByte a) unusedField)
  | .aczero a b => some (packWord 0xD5 unusedField (selByte a) (selByte b))
  | .acrd d a b => some (packWord 0xD6 (selByte d) (selByte a) (selByte b))
  | .acrdx d a b => some (packWord 0xD7 (selByte d) (selByte a) (selByte b))
  | .acwr a b => some (packWord 0xD8 unusedField (selByte a) (selByte b))
  | .acadd a b => some (packWord 0xD9 unusedField (selByte a) (selByte b))
  | .qblk d a b => some (packWord 0xDA (selByte d) (selByte a) (selByte b))
  | .dqblk d a b => some (packWord 0xDB (selByte d) (selByte a) (selByte b))
  | .patld d a b => some (packWord 0xE0 (selByte d) (selByte a) (selByte b))
  | .patst d a b => some (packWord 0xE1 (selByte d) (selByte a) (selByte b))
  | .pataddr d a b => some (packWord 0xE2 (selByte d) (selByte a) (selByte b))
  | .patinv a => some (packWord 0xE3 unusedField (selByte a) unusedField)
  | .patcf a b => some (packWord 0xE4 unusedField (selByte a) (selByte b))
  | .pleat d a b => some (packWord 0xE5 (selByte d) (selByte a) (selByte b))
  | .plarg d => some (packWord 0xE6 (selByte d) unusedField unusedField)
  | .plreply a => some (packWord 0xE7 unusedField (selByte a) unusedField)
  | .pldone => some (packWord 0xE8 unusedField unusedField unusedField)
  | .peerld d a b => some (packWord 0xE9 (selByte d) (selByte a) (selByte b))
  | .peerst d a b => some (packWord 0xEA (selByte d) (selByte a) (selByte b))
  | .peeradd d a b => some (packWord 0xEB (selByte d) (selByte a) (selByte b))
  | .vdie d => some (packWord 0xEC (selByte d) unusedField unusedField)
  | .hops d a b => some (packWord 0xED (selByte d) (selByte a) (selByte b))
  | .fsdrain a b => some (packWord 0xEE unusedField (selByte a) (selByte b))
  | .fsconf a b => some (packWord 0xEF unusedField (selByte a) (selByte b))
  | .trap b => some (packWord 0xF0 unusedField unusedField b)
  | .brk b => some (packWord 0xF1 unusedField unusedField b)
  | .srd d n => some (packWord 0xF2 (selByte d) (numHi n) (numLo n))
  | .swr n b => some (packWord 0xF3 (numHi n) (numLo n) (selByte b))
  | .invpg d a b => some (packWord 0xF4 (selByte d) (selByte a) (selByte b))
  | .invcf => some (packWord 0xF5 unusedField unusedField unusedField)
  | .place a b => some (packWord 0xF6 unusedField (selByte a) (selByte b))
  | .preempt a => some (packWord 0xF7 unusedField (selByte a) unusedField)
  | .seal d a b => some (packWord 0xF8 (selByte d) (selByte a) (selByte b))
  | .unseal d a => some (packWord 0xF9 (selByte d) (selByte a) unusedField)
  | .audrd d a b => some (packWord 0xFA (selByte d) (selByte a) (selByte b))
  | .fltack a b => some (packWord 0xFB unusedField (selByte a) b)
  | .resume a => some (packWord 0xFC unusedField (selByte a) unusedField)
  | .discard d a b => some (packWord 0xFD (selByte d) (selByte a) (selByte b))
  | .attest d a b => some (packWord 0xFE (selByte d) (selByte a) (selByte b))
  | .clauseFetch _ => none
  | .clauseStart _ => none
  | .refillWake _ => none
  | .recordDelivery _ => none
  | .deqResume _ => none
  | .issuePick _ _ => none
  | .operationComplete _ => none
  | .loadReturn _ _ => none
  | .storePerform _ => none
  | .postedDrain _ => none
  | .atomicPerform _ _ => none
  | .directedDelivery _ => none
  | .enqPublish _ => none
  | .knotOperation _ => none
  | .knotFireRetry _ _ => none
  | .clusterPlace _ _ _ => none
  | .teamSpill _ => none
  | .teamRestore _ => none
  | .copyLineLand _ _ => none
  | .copyComplete _ => none
  | .presenceWake _ => none
  | .tackWake _ => none
  | .fifoPopWake _ => none
  | .engineRecordEntry _ _ => none
  | .engineCopyIn _ => none
  | .engineCopyOut _ => none
  | .engineGather _ => none
  | .engineReduce _ => none
  | .engineConvert _ => none
  | .engineCompletion _ => none
  | .engineRecordFault _ => none
  | .matrixStep _ _ => none
  | .tracerPush _ => none
  | .pleatInboxAccept _ => none
  | .waveStart _ => none
  | .pleatReply _ => none
  | .pleatResend _ => none
  | .unitSend _ => none
  | .bucketRefill _ _ _ => none
  | .remoteAccess _ => none
  | .planeFail _ => none
  | .faultPartEnqueue _ _ _ => none
  | .liningFlip _ _ _ => none
  | .liningDrain _ _ _ => none
  | .htabSync _ _ _ => none
  | .queueDescriptorWrite _ _ _ _ => none
  | .registerWrite _ _ _ _ => none
  | .partShapeWrite _ => none
  | .merge _ => none
  | .split _ => none
  | .contextCreate _ _ _ => none
  | .contextRemove _ _ => none
  | .keyImport _ _ _ _ => none
  | .ringDoorbell _ _ _ _ => none
  | .ringLaunch _ _ => none
  | .ringEnq _ _ => none
  | .ringKnotdec _ _ => none
  | .ringSwr _ _ => none
  | .debugStop _ _ _ _ => none
  | .hostMemoryAccess _ _ _ _ => none
  | .functionLevelReset _ => none
  | .linkTraining _ => none
  | .coreEnableBatch _ => none
  | .dieIdle _ => none
  | .matrixSleep _ => none
  | .matrixWake _ => none
  | .clockThrottle _ => none
  | .clockRaise _ => none
  | .thermalTrip => none
  | .patrolScrub _ => none
  | .bootVerify => none
  | .mgRec _ _ => none
  | .registerRead _ _ _ => none
  | .spdmRequest _ _ => none
  | .hostSnoop _ _ => none
  | .softError _ _ => none
  | .remoteDrainRequest _ => none

/-- The instruction read from an instruction of nbits bits w, laid out as the hardware stores it. -/
def decodeTableWord (_nbits w : Nat) : Option Instr :=
  match decodeBytes (wordBytesLE (BitVec.ofNat 32 w)) with
  | .ok (i, _) => some i
  | .error _ => none

end Sys2Proof
end

