-- ==== Sys2Proof/Machine/Issue.lean ====
section
/-! DEFINITION. Issue: ISSUE_PICK (R160, R161): how a core notices which teams are ready, picks one, and what a picked team does first: the trap that waited for its next issue (R358), its replay (R332), and the words it has still to push (R238). -/

namespace Sys2Proof.Machine

open Sys2Proof

/-- The word at a team's pc: its clause was fetched whole (R42). A team whose clause has no such word runs a NOP (R44). -/
def Team.word (t : Team) : Word := (t.clause.instrs[t.idx]?).getD 0

/-! ## Readiness (R160, R161) -/

/-- A hold that ends here, where the team is not kept back. A read of another device's bytes keeps its hold until it is done again. -/
def State.holdEnds (s : State) (i : Nat) (t : Team) : Bool :=
  match t.hold with
  | none => false
  | some (.remoteRead ..) => t.stage != .run && s.holdOver i t
  | some h => s.holdClear i t h

/-- The core notices one team: its hold ends, or a read goes out to another device; a team that has become ready is stamped (R160), and one that is not ready is timed (R162). -/
def State.notice (s : State) (i clk : Nat) : State :=
  match s.team i with
  | none => s
  | some t =>
    let going := !t.halted && !t.debug && t.trap.isNone
    let ready := s.wouldRun i t
    let t1 := if going && s.holdEnds i t then { t with hold := none } else t
    let s1 := match t1.hold with
      | some (.remoteRead dev va n) => if s.replyIn i va then s else s.ask dev (remoteTag i va) 0 va n
      | _ => s
    if ready then
      if t.idle = 0 then s1.setTeam i t1 else s1.bump.setTeam i { t1 with idle := 0, age := s1.stamp, passed := 0 }
    else s1.setTeam i { t1 with idle := if t.idle = 0 then clk + 1 else t.idle }

/-- A placed team can be picked: nothing keeps it back, and it has an instruction to issue or something left to do first. -/
def State.pickable (s : State) (i : Nat) (t : Team) : Bool :=
  t.going && t.trap.isNone && (t.pendDue || s.redoDue i t || (t.stage == .run && match t.hold with
    | none => true
    | some (.remoteRead _ va _) => s.replyIn i va
    | _ => false))

/-- A team's sub-priority (R159). -/
def State.subPrio (s : State) (t : Team) : Nat :=
  match t.refill with
  | some (k, _) => (s.queue k).prio
  | none => 0

/-- The order of picks (R160): class, teams passed over 64 times first, sub-priority, age. -/
def State.pickKey (s : State) (t : Team) : List Nat :=
  let aged := decide (64 ≤ t.passed)
  [(s.ctx t.part t.ctx).sched % 4, if aged then 0 else 1, if aged then 0 else s.subPrio t, t.age]

/-- A list of numbers comes before another. -/
def before : List Nat → List Nat → Bool
  | a :: as, b :: bs => decide (a < b) || (a == b && before as bs)
  | _, _ => false

/-- The team that comes first (R160). -/
def State.firstPick (s : State) : List (Nat × Team) → Option (Nat × Team)
  | [] => none
  | e :: es =>
    match s.firstPick es with
    | none => some e
    | some f => if before (s.pickKey f.2) (s.pickKey e.2) then some f else some e

/-- A pick: older teams of the class have been passed over once more, and the picked one is stamped (R160). -/
def State.stampPick (s : State) (i : Nat) (t : Team) (cands : List (Nat × Team)) : State :=
  let cls (y : Team) : Nat := (s.ctx y.part y.ctx).sched % 4
  let s1 := cands.foldl (fun s e =>
    if e.1 != i && cls e.2 == cls t && decide (e.2.age < t.age) then s.modTeam e.1 fun y => { y with passed := y.passed + 1 } else s) s
  (s1.modTeam i fun y => { y with age := s.stamp, passed := 0 }).bump

/-! ## The picked team -/

/-- The trap that waited for its team's next issue is raised (R211, R218, R241, R307, R358). -/
def State.raisePend (s : State) (i : Nat) (t : Team) : State :=
  match t.pend with
  | [] => s
  | p :: ps =>
    let t1 := { t with pend := ps }
    let info := match p.redo, p.faults with
      | .posted e, f :: _ => { postedInfo i t1 e f with pc := p.pc }
      | _, _ => lanesInfo i t1 p.pc p.scalar p.faults p.redo
    (s.setTeam i t1).takeTrap info

/-- A breakpoint of the team's context stands where the team is to issue next, and has not stopped it there yet (R35; log 89). -/
def State.breaksAt (s : State) (t : Team) : Bool :=
  (s.ctx t.part t.ctx).dbg && t.stopAt != some t.pc && s.breaks.any fun b =>
    b.part == t.part && b.ctx == t.ctx && (if b.clause then t.idx == 0 && b.addr == t.base else b.addr == t.pc)

/-- A picked team issues its next instruction, unless a breakpoint stops it there (R35; log 89). -/
def State.issueNext (s : State) (i : Nat) (t : Team) : State :=
  if s.breaksAt t then s.setTeam i { t with debug := true, stopAt := some t.pc }
  else { s.setTeam i { t with stopAt := if t.stopAt == some t.pc then t.stopAt else none } with cur := some i }

/-- What a picked team does: its waiting trap, its replay, the words it has still to push, or its next instruction. -/
def State.pickTeam (s : State) (i : Nat) (t : Team) : State :=
  let asked := match t.hold with
    | some (.remoteRead ..) => true
    | _ => false
  let s1 := if asked then s else s.dropReplies i
  if t.pendDue then s1.raisePend i t
  else if s.redoDue i t then s1.redoNow i { t with hold := keptHold t.hold }
  else
    match t.pushing with
    | some (q, ws) => (s1.setTeam i { t with hold := none }).pushGo i (BitVec.ofNat 4 q) ws
    | none => s1.issueNext i { t with hold := none }

/-- A core's clock goes on (R8, R40): by a free number of cycles (log 13); what R392 and R393 time is noted. -/
def State.runClock (s : State) (core : Nat) : State :=
  let c := s.core core
  let clk := c.clk + 1 + Config.cycles s.tick
  let loops := s.ops.any fun o => o.2.core == core && match o.2.kind with
    | .loop _ => true
    | _ => false
  { s.setCore core { c with
      clk := clk, lastTeam := if (s.teamsOn core).isEmpty then c.lastTeam else clk, lastLoop := if loops then clk else c.lastLoop } with
    tick := s.tick + 1 }

/-- ISSUE_PICK (R66, R160, R161): a free issue slot of a core picks the first of its ready teams. An instruction is one step here, so every slot is free. -/
def execIssuePick (core slot : Nat) (s : State) : Host.Outcome State Fault Refusal :=
  if 4 ≤ slot ∨ !(s.core core).enabled then .next s
  else
    let s1 := s.runClock core
    let s2 := (s1.teamsOn core).foldl (fun s e => s.notice e.1 (s1.core core).clk) s1
    let cands := (s2.teamsOn core).filter fun e => s2.pickable e.1 e.2
    match s2.firstPick cands with
    | none => .next s2
    | some (i, t) =>
      let s3 := s2.stampPick i t cands
      match s3.team i with
      | none => .next s3
      | some y => .next (s3.pickTeam i y)

end Sys2Proof.Machine
end

