-- ==== Sys2Proof/Machine/Lanes.lean ====
section
/-! DEFINITION. Lanes: compares and classification (R95 to R97), and the instructions that read other lanes (R125 to R131). -/

namespace Sys2Proof.Machine

open Sys2Proof

/-! ## Compares (R19, R95 to R97) -/

/-- The types a compare takes (R95). -/
def Ty.compares (y : Ty) : Bool := y.isInt || y.isFloat || y == .b32

/-- A mask or V register as the result of a compare (R95). -/
def cmpDst (t : Team) (d : Sel) : Bool :=
  match d with
  | .m _ => true
  | .v r => t.vOk r 1
  | _ => false

/-- The result of a compare written (R19, R95): a mask bit for each active lane that holds and every other bit clear, or all ones or zeros in each active lane. -/
def putCompare (i : Nat) (t : Team) (s : State) (d : Sel) (rs : List (Nat × Bool)) : Res :=
  match d with
  | .v r => .ok (s.setTeam i (rs.foldl (fun t x => t.setV x.1 r.toNat (if x.2 then 0xFFFFFFFF else 0)) t))
  | _ => .ok (s.setTeam i (t.putMask d (maskOf ((rs.filter (·.2)).map (·.1)))))

/-- A compare (R95, R96): `i` on integers; `f` on float values, with st.inv for a quiet NaN where `ordered`. -/
def compareOp (s : State) (d a b : Sel) (ordered : Bool) (fi : Int → Int → Bool) (ff : Val → Val → Bool) : Host.Outcome State Fault Refusal :=
  sweep s (fun t _ => [need (cmpDst t d && t.elemSrc t.ty a && t.elemSrc t.ty b) .illegalOperand, need t.ty.compares .illegalOperand])
    [(0, a), (1, b)] fun i t q s1 =>
      let y := if t.ty = .b32 then .n32 else t.ty
      let one (l : Nat) : Bool × Nat :=
        let x0 := s1.elem t y a l (q 0 l)
        let x1 := s1.elem t y b l (q 1 l)
        match fmtOf y with
        | none => (fi (y.int x0) (y.int x1), 0)
        | some f =>
          let v0 := f.input t.flush x0
          let v1 := f.input t.flush x1
          (ff v0 v1, if anySignalling [v0, v1] || (ordered && anyNan [v0, v1]) then stInv else 0)
      let rs := t.active.map fun l => (l, one l)
      putCompare i (t.addStatus (rs.foldl (fun acc r => acc ||| r.2.2) 0)) s1 d (rs.map fun r => (r.1, r.2.1))

/-- VCMPEQ (R95). -/
def execVcmpeq (d a b : Sel) (s : State) : Host.Outcome State Fault Refusal :=
  compareOp s d a b false (fun x y => decide (x = y)) fun x y => x.eq y
/-- VCMPNE (R95): holds for a NaN operand. -/
def execVcmpne (d a b : Sel) (s : State) : Host.Outcome State Fault Refusal :=
  compareOp s d a b false (fun x y => decide (x ≠ y)) fun x y => !x.eq y
/-- VCMPLT (R95). -/
def execVcmplt (d a b : Sel) (s : State) : Host.Outcome State Fault Refusal :=
  compareOp s d a b true (fun x y => decide (x < y)) fun x y => x.lt y
/-- VCMPLE (R95). -/
def execVcmple (d a b : Sel) (s : State) : Host.Outcome State Fault Refusal :=
  compareOp s d a b true (fun x y => decide (x ≤ y)) fun x y => x.lt y || x.eq y

/-- The class of a code, as the bit of R97 it answers to; flush does not apply. -/
def classBit (f : Fmt) (x : Nat) : Nat :=
  match f.val x with
  | .nan _ => 0
  | .inf true => 1
  | .inf false => 7
  | .fin neg m _ =>
    if m = 0 then 4
    else if f.subnormal x then (if neg then 3 else 5)
    else if neg then 2 else 6

/-- VCLASS (R97). -/
def execVclass (d a : Sel) (b : BitVec 8) (s : State) : Host.Outcome State Fault Refusal :=
  sweep s (fun t _ => [need (cmpDst t d && t.vectorSrc a) .illegalOperand, need (fmtOf t.ty).isSome .illegalOperand]) [(0, a)]
    fun i t q s1 =>
      let f := (fmtOf t.ty).getD fmtF32
      putCompare i t s1 d (t.active.map fun l => (l, b.toNat.testBit (classBit f ((s1.src t a l (q 0 l)).toNat % 2 ^ f.width))))

/-! ## Across lanes (R125 to R131) -/

/-- A V register of a lane as other lanes read it: 0 where the lane does not exist. -/
def Team.other (t : Team) (a : Sel) (l : Nat) : Word :=
  match a with
  | .v r => if l < t.nlanes then t.v l r.toNat else 0
  | _ => 0

/-- The source position of a shuffle pattern (R125). -/
def shufflePos (c p : Nat) : Nat :=
  if c < 0x20 then p ^^^ c
  else if c < 0x40 then (p + (c - 0x20)) % 32
  else if c < 0x60 then (if p + (c - 0x40) < 32 then p + (c - 0x40) else p)
  else if c - 0x60 ≤ p then p - (c - 0x60) else p

/-- VSHUF (R125). -/
def execVshuf (d a : Sel) (b : BitVec 8) (s : State) : Host.Outcome State Fault Refusal :=
  sweep s (fun t _ => [need (t.vectorDst d && isV a && t.vectorSrc a && decide (b.toNat < 0x80)) .illegalOperand, t.pushCheck d]) []
    fun i t _ s1 => putLanes i t s1 d (t.active.map fun l => (l, t.other a (l - l % 32 + shufflePos b.toNat (l % 32))))

/-- VPERM (R126). -/
def execVperm (d a b : Sel) (s : State) : Host.Outcome State Fault Refusal :=
  sweep s (fun t _ => [need (t.vectorDst d && isV a && t.vectorSrc a && t.vectorSrc b) .illegalOperand, t.pushCheck d]) [(1, b)]
    fun i t q s1 => putLanes i t s1 d (t.active.map fun l => (l, t.other a (s1.src t b l (q 1 l)).toNat))

/-- The combinations of R127 and R128. -/
inductive Comb where
  | add | min | max
  deriving DecidableEq, Repr

/-- One step of a reduction or scan: rounded or fitted (R127). -/
def combine (c : Comb) (y : Ty) (rm : Rnd) (flush sat : Bool) (a b : Nat) : Nat × Nat :=
  match c with
  | .add => elAdd y rm flush sat a b
  | .min => elMinmax y flush false a b
  | .max => elMinmax y flush true a b

/-- An element as a reduction reads it (R127): flushed, a NaN canonical, a signalling NaN with st.inv; an integer extended. -/
def enter (y : Ty) (flush : Bool) (x : Nat) : Nat × Nat :=
  match fmtOf y with
  | none => (y.extend (y.int x), 0)
  | some f =>
    match f.input flush x with
    | .nan sg => f.nanOut sg
    | _ => (f.flushIn flush x, 0)

/-- The running combinations of a list of elements, first to last, with their bits (R127, R128). -/
def scanList (c : Comb) (y : Ty) (rm : Rnd) (flush sat : Bool) : Option Nat → List (Nat × Nat) → List (Nat × Nat × Nat)
  | _, [] => []
  | none, (l, x) :: xs =>
    let e := enter y flush x
    (l, e) :: scanList c y rm flush sat (some e.1) xs
  | some acc, (l, x) :: xs =>
    let e := enter y flush x
    let r := combine c y rm flush sat acc e.1
    (l, r.1, r.2 ||| e.2) :: scanList c y rm flush sat (some r.1) xs

/-- Lanes by group, the groups that have any, ascending. -/
def byGroup (ls : List (Nat × Nat)) : List (List (Nat × Nat)) :=
  ((List.range 32).map fun g => ls.filter (·.1 / 32 == g)).filter (!·.isEmpty)

/-- Types of VADD, VMIN and VMAX. -/
def redTypes (y : Ty) : Bool := y.arith

/-- A reduction (R127): per group into a V register, over the team into an S register. DESIGN CHOICE: into ZERO, per group (log 98). -/
def reduceOp (s : State) (d a : Sel) (c : Comb) : Host.Outcome State Fault Refusal :=
  sweep s (fun t _ => [need (match d with
      | .v _ => t.elemDst t.ty d
      | .s n => !t.ty.wide || n.toNat % 2 == 0
      | .sp .zero => true
      | _ => false) .illegalOperand, need (t.elemSrc t.ty a) .illegalOperand, need (redTypes t.ty) .illegalOperand]) [(0, a)]
    fun i t q s1 =>
      let xs := t.active.map fun l => (l, s1.elem t t.ty a l (q 0 l))
      let whole := scanList c t.ty t.rnd t.flush t.sat none xs
      match d with
      | .s n =>
        let r := match whole.getLast? with
          | some x => x.2.1
          | none => 0
        let t1 := t.addStatus (orBits whole)
        let t2 := t1.setS n (BitVec.ofNat 32 r)
        .ok (s1.setTeam i (if t.ty.wide then t2.setS (n + 1) (BitVec.ofNat 32 (r / 2 ^ 32)) else t2))
      | _ =>
        let gs := (byGroup xs).map fun g => scanList c t.ty t.rnd t.flush t.sat none g
        let rs := (gs.map fun g => match g.getLast? with
          | some x => g.map fun e => (e.1, x.2.1)
          | none => []).flatten
        putElems i (t.addStatus (orBits gs.flatten)) s1 t.ty d rs

/-- VREDADD (R127). -/
def execVredadd (d a : Sel) (s : State) : Host.Outcome State Fault Refusal := reduceOp s d a .add
/-- VREDMIN (R127). -/
def execVredmin (d a : Sel) (s : State) : Host.Outcome State Fault Refusal := reduceOp s d a .min
/-- VREDMAX (R127). -/
def execVredmax (d a : Sel) (s : State) : Host.Outcome State Fault Refusal := reduceOp s d a .max

/-- The operation of a scan's sub-code (R54, R128). -/
def scanComb (b : BitVec 8) : Option Comb :=
  if b = 0 then some .add else if b = 1 then some .min else if b = 2 then some .max else none

/-- An inclusive scan (R128), restarting at each group or carried across the team. -/
def scanOp (s : State) (d a : Sel) (b : BitVec 8) (team : Bool) : Host.Outcome State Fault Refusal :=
  sweep s (fun t _ => [need (isV d && t.elemDst t.ty d && t.elemSrc t.ty a && (scanComb b).isSome) .illegalOperand,
      need (redTypes t.ty) .illegalOperand]) [(0, a)] fun i t q s1 =>
    let xs := t.active.map fun l => (l, s1.elem t t.ty a l (q 0 l))
    let c := (scanComb b).getD .add
    let rs := if team then scanList c t.ty t.rnd t.flush t.sat none xs
      else ((byGroup xs).map fun g => scanList c t.ty t.rnd t.flush t.sat none g).flatten
    putElems i (t.addStatus (orBits rs)) s1 t.ty d (rs.map fun r => (r.1, r.2.1))

/-- VSCAN (R128). -/
def execVscan (d a : Sel) (b : BitVec 8) (s : State) : Host.Outcome State Fault Refusal := scanOp s d a b false
/-- VSCANT (R128). -/
def execVscant (d a : Sel) (b : BitVec 8) (s : State) : Host.Outcome State Fault Refusal := scanOp s d a b true

/-- VEXTR (R129). -/
def execVextr (d a b : Sel) (s : State) : Host.Outcome State Fault Refusal :=
  once s (fun t _ => [need (scalarDst d && isV a && t.vectorSrc a && t.scalarSrc b) .illegalOperand, t.pushCheck d]) [(1, b)]
    fun i t q s1 => putScalar i t s1 d (t.other a (s1.scalar t b (q 1)).toNat)

/-- VINS (R129). -/
def execVins (d a b : Sel) (s : State) : Host.Outcome State Fault Refusal :=
  once s (fun t _ => [need (isV d && t.vectorSrc d && t.scalarSrc a && t.scalarSrc b) .illegalOperand]) [(0, a), (1, b)]
    fun i t q s1 =>
      let l := (s1.scalar t b (q 1)).toNat
      match d with
      | .v r => .ok (s1.setTeam i (if l < t.nlanes then t.setV l r.toNat (s1.scalar t a (q 0)) else t))
      | _ => .check .illegalOperand true s1

/-- The types of VPACK and VUNPK (R130). -/
def Ty.packs : Ty → Bool
  | .i8 | .n8 | .i16 | .n16 | .f16 | .bf16 | .e4m3 | .e5m2 => true
  | _ => false

/-- The 32-bit type that a packed type narrows from and widens to (R130). -/
def Ty.wide32 (y : Ty) : Ty := if (fmtOf y).isSome then .f32 else if y.signed then .i32 else .n32

/-- VPACK (R130): the low w bits of each narrowed value. -/
def execVpack (d a b : Sel) (s : State) : Host.Outcome State Fault Refusal :=
  laneOpD s d [(0, a), (1, b)] Ty.packs fun t y x =>
    let na := convert y.wide32 y t.rnd t.flush t.sat (x 0)
    let nb := convert y.wide32 y t.rnd t.flush t.sat (x 1)
    let w := 2 ^ y.width
    if y.width = 16 then (na.1 % w + nb.1 % w * 2 ^ 16, na.2 ||| nb.2)
    else (x 2 / 2 ^ 16 + na.1 % w * 2 ^ 16 + nb.1 % w * 2 ^ 24, na.2 ||| nb.2)

/-- VUNPK (R130). -/
def execVunpk (d a b : Sel) (s : State) : Host.Outcome State Fault Refusal :=
  laneOp s d [(0, a), (1, b)] Ty.packs fun t y x =>
    convert y y.wide32 t.rnd t.flush t.sat (slice (x 0) y.width (x 1 % (32 / y.width)))

/-- VMOVP (R131): the active lanes' values packed into lanes 0 onwards, whatever those lanes' own state. -/
def execVmovp (d a : Sel) (s : State) : Host.Outcome State Fault Refusal :=
  sweep s (fun t _ => [need (isV d && t.vectorSrc d && isV a && t.vectorSrc a) .illegalOperand]) [] fun i t _ s1 =>
    putLanes i t s1 d ((List.range t.active.length).zip (t.active.map (t.other a)))

/-- VMSK (R131): the set bits of the mask below each lane. -/
def execVmsk (d a : Sel) (s : State) : Host.Outcome State Fault Refusal :=
  sweep s (fun t _ => [need (t.vectorDst d && maskSrc a) .illegalOperand, t.pushCheck d]) [] fun i t _ s1 =>
    putLanes i t s1 d (t.active.map fun l => (l, BitVec.ofNat 32 (popCount (t.mask a).toNat l)))

end Sys2Proof.Machine
end

