-- ==== Sys2Proof/Machine/Masks.lean ====
section
/-! DEFINITION. Masks: mask logic, mask to scalar, MSETW and MFROMV (R91 to R94). -/

namespace Sys2Proof.Machine

open Sys2Proof

/-- A mask instruction of one or two sources (R91): whole sources are read before the destination is written. -/
def maskOp (d : Sel) (ss : List Sel) (f : Team → Mask) (s : State) : Host.Outcome State Fault Refusal :=
  once s (fun _ _ => [need (maskDst d && ss.all maskSrc) .illegalOperand]) [] fun i t _ s1 => .ok (s1.setTeam i (t.putMask d (f t)))

/-- MMOV (R91). -/
def execMmov (d a : Sel) (s : State) : Host.Outcome State Fault Refusal := maskOp d [a] (fun t => t.mask a) s
/-- MAND (R91). -/
def execMand (d a b : Sel) (s : State) : Host.Outcome State Fault Refusal := maskOp d [a, b] (fun t => t.mask a &&& t.mask b) s
/-- MOR (R91). -/
def execMor (d a b : Sel) (s : State) : Host.Outcome State Fault Refusal := maskOp d [a, b] (fun t => t.mask a ||| t.mask b) s
/-- MXOR (R91). -/
def execMxor (d a b : Sel) (s : State) : Host.Outcome State Fault Refusal := maskOp d [a, b] (fun t => t.mask a ^^^ t.mask b) s
/-- MANDN (R91). -/
def execMandn (d a b : Sel) (s : State) : Host.Outcome State Fault Refusal := maskOp d [a, b] (fun t => t.mask a &&& ~~~t.mask b) s
/-- MNOT (R91). -/
def execMnot (d a : Sel) (s : State) : Host.Outcome State Fault Refusal := maskOp d [a] (fun t => ~~~t.mask a) s

/-- A mask read into a scalar destination (R92). -/
def maskToScalar (d a : Sel) (f : Mask → Word) (s : State) : Host.Outcome State Fault Refusal :=
  once s (fun t _ => [need (scalarDst d && maskSrc a) .illegalOperand, t.pushCheck d]) [] fun i t _ s1 => putScalar i t s1 d (f (t.mask a))

/-- MCNT (R92). -/
def execMcnt (d a : Sel) (s : State) : Host.Outcome State Fault Refusal :=
  maskToScalar d a (fun m => BitVec.ofNat 32 (popCount m.toNat 1024)) s
/-- MFIRST (R92). -/
def execMfirst (d a : Sel) (s : State) : Host.Outcome State Fault Refusal :=
  maskToScalar d a (fun m => match (lanesBelow m 1024).head? with
    | some l => BitVec.ofNat 32 l
    | none => 0xFFFFFFFF) s
/-- MSUMW (R92). -/
def execMsumw (d a : Sel) (s : State) : Host.Outcome State Fault Refusal := maskToScalar d a maskSummary s

/-- MGETW (R92). -/
def execMgetw (d a b : Sel) (s : State) : Host.Outcome State Fault Refusal :=
  once s (fun t _ => [need (scalarDst d && maskSrc a && t.scalarSrc b) .illegalOperand, t.pushCheck d]) [(1, b)] fun i t q s1 =>
    putScalar i t s1 d (maskWord (t.mask a) (bits (s1.scalar t b (q 1)) 4 0))

/-- MSETW (R93). -/
def execMsetw (d a b : Sel) (s : State) : Host.Outcome State Fault Refusal :=
  once s (fun t _ => [need ((match d with | .m _ => true | _ => false) && t.scalarSrc a && t.scalarSrc b) .illegalOperand])
    [(0, a), (1, b)] fun i t q s1 =>
    match d with
    | .m n => .ok (s1.setTeam i (t.setM n (maskSetWord (t.m n) (bits (s1.scalar t a (q 0)) 4 0) (s1.scalar t b (q 1)))))
    | _ => .check .illegalOperand true s1

/-- MFROMV (R94). -/
def execMfromv (d a : Sel) (s : State) : Host.Outcome State Fault Refusal :=
  sweep s (fun t _ => [need (maskDst d && t.vectorSrc a) .illegalOperand]) [(0, a)] fun i t q s1 =>
    .ok (s1.setTeam i (t.putMask d (maskOf (t.active.filter fun l => s1.src t a l (q 0 l) ≠ 0))))

end Sys2Proof.Machine
end

