-- ==== Sys2Proof/Machine/Platform.lean ====
section
/-! DEFINITION. Platform: REGISTER_WRITE and REGISTER_READ over all functions (R354, R380, R381, R398), host memory accesses, snoops and SPDM (R383, R384), FUNCTION_LEVEL_RESET (R390), link training (R401), cores and matrix units that come and go (R392, R393), clocks and the trip (R394, R395), soft errors and the scrubber (R396, R397), firmware (R399, R400). -/

namespace Sys2Proof.Machine

open Sys2Proof

/-! ## Firmware (R399, R400) -/

/-- An image verifies: its signature is good and its version is not below the fuses' (R399). -/
def State.imageGood (s : State) (bs : List Byte) : Bool := Config.verifies 1 bs && decide (s.dev.minver ≤ Config.version bs)

/-- A good image runs: every partition starts. -/
def State.runImage (s : State) (bs : List Byte) : State :=
  { s with dev := { s.dev with fw := 1, image := bs, fwver := Config.version bs % 2 ^ 32, recovery := [] } }.startParts

/-- BOOT_VERIFY (R399, R400): the boot ROM verifies the stored image, which runs, or the device stays in recovery. -/
def execBootVerify (s : State) : Host.Outcome State Fault Refusal :=
  .next (if s.dev.fw ≠ 0 then s else if s.imageGood s.dev.image then s.runImage s.dev.image else { s with dev := { s.dev with fw := 2 } })

/-- A word of an image that the host writes (R400): verified with its last byte; in recovery a good one runs at once, and a bad one is discarded; while the device runs, a good one waits for the next cold reset (R399). -/
def State.imageWord (s : State) (v : Word) (last : Bool) : State :=
  let bs := s.dev.recovery ++ natBytes v.toNat 4
  let set (r n : List Byte) : State := { s with dev := { s.dev with recovery := r, next := n } }
  if s.dev.fw = 0 then s
  else if !last then set bs s.dev.next
  else if !s.imageGood bs then set [] s.dev.next
  else if s.dev.fw = 2 then s.runImage bs
  else set [] bs

/-- MG_REC (R398, R400). -/
def execMgRec (v : BitVec 32) (last : Bool) (s : State) : Host.Outcome State Fault Refusal := .next (s.imageWord v last)

/-! ## Clocks and heat (R394, R395) -/

/-- Steps of 125 MHz from 1,250 MHz down to 625 MHz (R1, R394). -/
def clockSteps : Nat := 5
/-- Steps by which a die is throttled. -/
def State.throttle (s : State) (die : Nat) : Nat := cellGet 0 s.dev.clock die
/-- The state with a die's throttling changed. -/
def State.setThrottle (s : State) (die n : Nat) : State :=
  { s with dev := { s.dev with clock := if n = 0 then cellDel s.dev.clock die else cellPut s.dev.clock die n } }

/-- CLOCK_THROTTLE (R394): one step down, to 625 MHz at least. It changes no result. -/
def execClockThrottle (die : Nat) (s : State) : Host.Outcome State Fault Refusal :=
  .next (if decide (die < Config.dies) && s.dieWorks die && decide (s.throttle die < clockSteps) then s.setThrottle die (s.throttle die + 1) else s)

/-- CLOCK_RAISE (R394): one step up. -/
def execClockRaise (die : Nat) (s : State) : Host.Outcome State Fault Refusal := .next (s.setThrottle die (s.throttle die - 1))

/-- What stays of the device without power: the fuses and the stored images (R375, R395, R399), and the counts by which nothing random comes twice. -/
def Dev.unpowered (d : Dev) : Dev :=
  { Dev.reset with
    harvDie := d.harvDie, harvValid := d.harvValid, minver := d.minver, image := d.image, next := d.next, attests := d.attests, seals := d.seals,
    keys := d.keys }

/-- The machine without what its power holds, and with a device. -/
def State.powerLost (s : State) (d : Dev) : State :=
  { State.reset with dev := d, tick := s.tick, stamp := s.stamp, inputs := s.inputs, outputs := s.outputs }

/-- THERMAL_TRIP (R395): every core halts, memory and SRAM are lost, and mg.trip stands until the next cold reset. -/
def execThermalTrip (s : State) : Host.Outcome State Fault Refusal := .next (s.powerLost { s.dev.unpowered with trip := true })

/-- A cold reset (R395, R399): an image that was loaded while the device ran is the stored one from now on, which the boot ROM verifies next. -/
def execColdReset (s : State) : Host.Outcome State Fault Refusal :=
  let d := s.dev.unpowered
  .next (s.powerLost { d with image := if d.next.isEmpty then d.image else d.next, next := [] })

/-! ## The management port (R398) -/

/-- A register of the management port; the readings of its sensors are free (log 7). -/
def State.portRead (s : State) (off : Nat) : Word × State :=
  if off = 0 then (BitVec.ofNat 32 (s.dev.fw % 4 + 4 * b2n (!s.dev.clock.isEmpty) + 8 * b2n s.dev.trip), s)
  else if off = 4 then
    let v := (Config.freeByte s.tick 0).toNat
    (BitVec.ofNat 32 v, { s with tick := s.tick + 1, dev := { s.dev with tmax := v } })
  else if off = 8 then
    let v := ((Config.freeByte s.tick 0).toNat + 256 * (Config.freeByte s.tick 1).toNat) % 4096
    (BitVec.ofNat 32 v, { s with tick := s.tick + 1, dev := { s.dev with power := v } })
  else if off = 12 then (BitVec.ofNat 32 s.dev.fwver, s)
  else (0, s)

/-! ## Register accesses by function (R354, R380) -/

/-- What a function is (R380); the management port counts as function 9 here (R398). -/
inductive Func where
  | manager
  | part (p : Nat)
  | audit (p : Nat)
  | port
  deriving DecidableEq, Repr

/-- The function of a number. -/
def funcOf (n : Nat) : Option Func :=
  if n = 0 then some .manager else if n < 5 then some (.part (n - 1)) else if n < 9 then some (.audit (n - 5)) else if n = 9 then some .port else none

/-- REGISTER_WRITE (R336, R354, R380, R381): of the manager function by the operator alone; a write of an audit function's page is dropped. Each refused one is counted (log 34). -/
def execRegisterWrite (fn off : Nat) (v : BitVec 32) (trusted : Bool) (s : State) : Host.Outcome State Fault Refusal :=
  .next (match funcOf fn with
    | some .port => if off - off % 4 = 0x10 then s.imageWord v false else s
    | some .manager => if !s.live then s else if trusted then s.count 0 (s.reportCtx 0 none) 0x100 else s.managerWrite (off - off % 4) v
    | some (.part p) => if s.live && s.isPart p then s.partWrite p (off - off % 4) v trusted else s
    | some (.audit p) => if s.live && s.isPart p then s.count p (s.reportCtx p none) 0x100 else s
    | none => s)

/-- A read's answer to the host. -/
def State.answerHost (s : State) (w : Word) : State := { s with outputs := s.outputs ++ [Output.hostReg w] }

/-- REGISTER_READ (R336, R354, R380, R381): an audit function's page reads zero; a function without a partition does not answer. Each refused one is counted (log 34). -/
def execRegisterRead (fn off : Nat) (trusted : Bool) (s : State) : Host.Outcome State Fault Refusal :=
  .next (match funcOf fn with
    | some .port =>
      let r := s.portRead (off - off % 4)
      r.2.answerHost r.1
    | some .manager => if !s.live then s else if trusted then (s.count 0 (s.reportCtx 0 none) 0x100).answerHost 0 else s.answerHost (s.managerRead (off - off % 4))
    | some (.part p) =>
      if s.live && s.isPart p then
        let r := s.partRead p (off - off % 4) trusted
        r.2.answerHost r.1
      else s
    | some (.audit p) => if s.live && s.isPart p then (s.count p (s.reportCtx p none) 0x100).answerHost 0 else s
    | none => s)

/-! ## Memory and messages of the host (R383, R384) -/

/-- A run of bytes lies in the window of a partition function's HDM-DB decoder, and in the partition's LPDDR6 share (R383). -/
def State.exposed (s : State) (p ma n : Nat) : Bool :=
  (s.part p).hdm.any (fun w => decide (w.1 ≤ ma) && decide (ma + n ≤ w.1 + w.2)) && s.backed p 1 ma && s.backed p 1 (ma + n - 1)

/-- The operator's setting of an HDM-DB decoder (R383). The spec gives it no register, and no window at reset (log 111). -/
def execHdmWindow (part : Nat) (window : Option (Nat × Nat)) (s : State) : Host.Outcome State Fault Refusal :=
  .next (if s.live && s.isPart part then s.setPart part { s.part part with hdm := window } else s)

/-- HOST_MEMORY_ACCESS (R383, R384): an HDM access to the window of the partition's LPDDR6 share under key slot 0. A read that meets an uncorrectable error gets no data (log 36). -/
def execHostMemoryAccess (part ma : Nat) (data : Option (List (BitVec 8))) (n : Nat) (s : State) : Host.Outcome State Fault Refusal :=
  let len := match data with
    | some bs => bs.length
    | none => n
  let key := memKey 1 ma
  .next (if !(s.live && s.isPart part && s.exposed part ma len) then s
    else
      match data with
      | some bs => if s.writeMeetsBad key len then s.count part 0 0x104 else s.homeWrite (s.ctxMemKey part 0) key bs
      | none =>
        if s.rangeBad key len then { s.count part 0 0x104 with outputs := s.outputs ++ [Output.hostData []] }
        else { s with outputs := s.outputs ++ [Output.hostData (s.homeBytes (s.ctxMemKey part 0) key len)] })

/-- HOST_SNOOP (R230, R383): the home L2 gives up its data of a 64-byte line of host memory, encrypted as it leaves (R384); after a snoop for ownership the line is the host's to write, and what it then holds is free (log 37). -/
def execHostSnoop (ma : Nat) (write : Bool) (s : State) : Host.Outcome State Fault Refusal :=
  let key := memKey 2 (ma % 2 ^ 52 - ma % 64)
  .next (if !s.live then s
    else
      let s1 := { s with outputs := s.outputs ++ [Output.hostData (s.homeBytes .none key 64)] }
      if write then { s1.homeWrite .none key ((List.range 64).map (Config.freeByte s.tick)) with tick := s.tick + 1 } else s1)

/-- A TDISP message's move of an interface (R383); a message out of place changes nothing. -/
def Tdisp.move (t : Tdisp) : SpdmReq → Tdisp
  | .ideKey _ => t
  | .lock => if t = .unlocked then .locked else t
  | .start => if t = .locked then .run else t
  | .stop => .unlocked
  | .error => .error

/-- SPDM_REQUEST (R383): IDE keys, or a move of a partition's TDISP interface. -/
def execSpdmRequest (part : Nat) (req : SpdmReq) (s : State) : Host.Outcome State Fault Refusal :=
  .next (if !(s.live && s.isPart part) then s
    else
      match req with
      | .ideKey k => { s with dev := { s.dev with ideKeys := cellPut s.dev.ideKeys part k } }
      | r => s.setPart part { s.part part with tdisp := (s.part part).tdisp.move r })

/-! ## FUNCTION_LEVEL_RESET (R379, R380, R390) -/

/-- A key of HBM beside a die of a list. -/
def hbmOf (dies : List Nat) (key : Nat) : Bool := keyTier key == 0 && dies.contains (keyMa key / 2 ^ 36)

/-- A partition's tenant erased (R390): its records, its HBM, its keys; counts go on (R368), and so does the sealing key. -/
def State.erase (s : State) (p : Nat) : State :=
  let dies := s.partDies p
  let old := s.part p
  let s1 := s.dropPart p
  let s2 := { s1 with
    mem := s1.mem.filter fun c => !hbmOf dies c.1
    bad := s1.bad.filter fun g => !hbmOf dies (32 * g) }
  let (k, s3) := s2.newKey
  (s3.setPart p { Part.fresh with counts := old.counts, sealKey := old.sealKey }).setCtx p 0 { Ctx.none with key := k, seq := (s3.ctx p 0).seq }

/-- FUNCTION_LEVEL_RESET (R379, R380, R390): of a partition function; function 0 refuses it, and an audit function has no more than its configuration. One that comes before the shoot-down of a handshake ends it; a later one waits for its end and then acts on the resulting partition, which after a merge is the lower function's. -/
def execFunctionLevelReset (fn : Nat) (s : State) : Host.Outcome State Fault Refusal :=
  .next (match funcOf fn with
    | some (.part p) =>
      if !s.live then s
      else if s.merging p && s.dev.mrgState == 3 then
        { s with inputs := s.inputs ++ [Event.functionLevelReset (if s.dev.mrgSplit then fn else 1 + 2 * (p / 2))] }
      else if !s.isPart p then s
      else if s.merging p then ((s.mergeTo 5 4).erase p).mergeResume (if s.dev.mrgPair then 1 else 0)
      else s.erase p
    | _ => s)

/-- LINK_TRAINING (R401): the package learns its number. -/
def execLinkTraining (pkg : BitVec 9) (s : State) : Host.Outcome State Fault Refusal :=
  .next { s with dev := { s.dev with pkgId := pkg.toNat, pkgValid := true } }

/-! ## Cores that come and go (R392, R393) -/

/-- The cores of a die in mesh order. -/
def dieCores (die : Nat) : List Nat := (List.range Config.coresPerDie).map (die * Config.coresPerDie + ·)

/-- A placement reaches a die: a cluster, a returning team or a wave is to be placed there. -/
def State.placementAt (s : State) (die : Nat) : Bool :=
  (s.grids.any fun g => !g.2.waiting && decide (g.2.next < g.2.size) && (s.ctx g.2.part g.2.ctx).runs && (s.ctx g.2.part g.2.ctx).vdmap.contains die)
  || (s.teams.any fun e => coreDie e.2.core == die && (s.wantsBack e.1 e.2 || e.2.place == .sealed))
  || (s.pleats.any fun r => coreDie (s.waitCore r.2) == die && r.2.stage == .inbox)

/-- The next cores that a die enables, eight at most, in ascending mesh order (R392): at power-up, and, once a placement has reached an idle die, until all are on. -/
def State.nextCores (s : State) (die : Nat) : List Nat :=
  let off := (dieCores die).filter fun k => !(s.core k).enabled
  if off.any (fun k => (recFind s.cores k).isNone) || (dieCores die).any (fun k => (s.core k).enabled) || s.placementAt die then off.take 8 else []

/-- CORE_ENABLE_BATCH (R392). -/
def execCoreEnableBatch (die : Nat) (s : State) : Host.Outcome State Fault Refusal :=
  .next (if decide (die < Config.dies) && s.dieWorks die then
      (s.nextCores die).foldl (fun s k => s.setCore k { s.core k with enabled := true, lastTeam := (s.core k).clk, lastLoop := (s.core k).clk }) s
    else s)

/-- A die is idle (R392): no core has held a team for 100,000 of its cycles. A core that is off holds none. -/
def State.dieIdle (s : State) (die : Nat) : Bool :=
  (dieCores die).all fun k => (s.teamsOn k).isEmpty && (!(s.core k).enabled || decide ((s.core k).lastTeam + Config.idleCycles ≤ (s.core k).clk))

/-- DIE_IDLE (R392): the cores of an idle die are enabled again when a placement reaches it. -/
def execDieIdle (die : Nat) (s : State) : Host.Outcome State Fault Refusal :=
  .next (if decide (die < Config.dies) && s.dieIdle die && !s.placementAt die then
      (dieCores die).foldl (fun s k => s.setCore k { s.core k with enabled := false }) s
    else s)

/-- A loop of a core has steps to do. -/
def State.loopOn (s : State) (core : Nat) : Bool := s.ops.any fun o => o.2.core == core && match o.2.kind with
  | .loop l => !l.finished
  | _ => false

/-- MATRIX_SLEEP (R393): a unit without a loop for 10,000 cycles of its core. -/
def execMatrixSleep (core : Nat) (s : State) : Host.Outcome State Fault Refusal :=
  let c := s.core core
  .next (if c.enabled && !c.asleep && !s.loopOn core && decide (c.lastLoop + Config.sleepCycles ≤ c.clk) then s.setCore core { c with asleep := true } else s)

/-- The stamp at which a team asked for the sleeping unit of its core. -/
def Team.asksUnit (t : Team) (core : Nat) : Option Nat :=
  match t.hold with
  | some (.unitAsleep n) => if t.core == core && t.place == .placed then some n else none
  | _ => none

/-- The stamp of the first request for a core's unit. -/
def State.firstAsk (s : State) (core : Nat) : Option Nat := (s.teams.filterMap fun e => e.2.asksUnit core).min?

/-- The sleeping unit of a die that was asked for first. -/
def State.nextWake (s : State) : List Nat → Option (Nat × Nat)
  | [] => none
  | k :: ks =>
    let rest := s.nextWake ks
    if (s.core k).asleep then
      match s.firstAsk k, rest with
      | none, r => r
      | some o, none => some (o, k)
      | some o, some r => if o < r.1 then some (o, k) else some r
    else rest

/-- MATRIX_WAKE (R393): the die wakes one sleeping unit, in the order of their requests. -/
def execMatrixWake (die : Nat) (s : State) : Host.Outcome State Fault Refusal :=
  .next (match s.nextWake (dieCores die) with
    | some (_, k) => s.setCore k { s.core k with asleep := false, lastLoop := (s.core k).clk }
    | none => s)

/-! ## Errors (R396, R397) -/

/-- The partition that owns a key of memory, for its counters. -/
def State.ownerPart (s : State) (key : Nat) : Option Nat :=
  (List.range 4).find? fun p => s.isPart p && decide (keyTier key < 2) && s.backed p (keyTier key) (keyMa key)

/-- A soft error corrected, counted for the partition it lies in (R368, R396). -/
def State.countSoft (s : State) (p : Option Nat) (n : Nat) : State := match p with
  | some p => s.count p 0 n
  | none => s

/-- PATROL_SCRUB (R396, R397): an uncorrectable granule is counted and left as it is; any other is written back as it reads. -/
def execPatrolScrub (granule : Nat) (s : State) : Host.Outcome State Fault Refusal :=
  .next (if s.bad.contains granule then s.countSoft (s.ownerPart (32 * granule)) 0x104 else s)

/-- The team and lane group whose window holds a row of a core, and its row in it. -/
def State.rowOwner (s : State) (core row : Nat) : Option (Nat × Nat × Nat) :=
  (s.teamsOn core).findSome? fun e => (List.range 32).findSome? fun g =>
    let ps := (e.2.win g).places
    if ps.contains row then some (e.1, g, ps.idxOf row) else none

/-- The partition of a core's die. -/
def State.corePart (s : State) (core : Nat) : Option Nat := (List.range 4).find? fun p => (s.partDies p).contains (coreDie core)

/-- The path of a number, as the bits of PFENCE number them (R54). -/
def pathOf (n : Nat) : Path := if n = 1 then .const else if n = 2 then .sampler else if n = 3 then .tile else .loadStore

/-- The partition of a site. -/
def State.sitePart (s : State) : ErrSite → Option Nat
  | .dram g => s.ownerPart (32 * g)
  | .vreg t _ _ => (s.team t).map (·.part)
  | .sreg t _ => (s.team t).map (·.part)
  | .mreg t _ => (s.team t).map (·.part)
  | .qreg t _ => (s.team t).map (·.part)
  | .scratch c _ => (recFind s.clusters c).map (·.part)
  | .acc core _ => s.corePart core
  | .l1 core _ _ => s.corePart core
  | .l2 g => s.ownerPart (32 * g)
  | .keyStore p => if s.isPart p then some p else none

/-- A granule's bytes at their home hold an uncorrectable error. -/
def State.spoilHome (s : State) (g : Nat) : State := { s with bad := if s.bad.contains g then s.bad else g :: s.bad }

/-- A register of a team, by its key, holds an uncorrectable error. -/
def State.spoilReg (s : State) (i key : Nat) : State := s.modTeam i fun t => { t with spoilt := key :: t.spoilt }

/-- An uncorrectable error at a site (R397). One in the key store is met by no access that R397 names (log 38), and one in a row of no window by none until the row is allotted anew. -/
def State.spoil (s : State) : ErrSite → State
  | .dram g => s.spoilHome g
  | .sreg t n => if n < 64 then s.spoilReg t (skey n) else s
  | .mreg t n => if n < 8 then s.spoilReg t (mkey n) else s
  | .qreg t n => if n < 16 then s.spoilReg t (qkey n) else s
  | .l1 core path key =>
    { s with lines := s.lines.map fun x =>
        if x.core = core ∧ x.path = pathOf path ∧ x.key = key - key % 128 then { x with bad := key / 32 :: x.bad } else x }
  | .l2 g => s.spoilHome g
  | .keyStore _ => s
  | .vreg t lane reg => s.modTeam t fun x => if lane < x.nlanes ∧ reg < x.nregs then { x with spoilt := vkey lane reg :: x.spoilt } else x
  | .scratch c key =>
    match recFind s.clusters c with
    | some x => { s with clusters := cellPut s.clusters c { x with spoiled := key / 32 :: x.spoiled } }
    | none => s
  | .acc core row =>
    match s.rowOwner core row with
    | some (i, g, r) => { s with soft := accKey i g r 0 :: s.soft }
    | none => s

/-- SOFT_ERROR (R368, R396, R397): a correctable one is corrected and counted; an uncorrectable one stays with its granule, row, register or cached line until it is met or written over. -/
def execSoftError (site : ErrSite) (correctable : Bool) (s : State) : Host.Outcome State Fault Refusal :=
  .next (if correctable then
      s.countSoft (s.sitePart site) (match site with
        | .dram g => if keyTier (32 * g) = 0 then 0x102 else 0x103
        | _ => 0x101)
    else s.spoil site)

end Sys2Proof.Machine
end

