-- ==== Sys2Proof/Machine/Scalar.lean ====
section
/-! DEFINITION. Scalar: the scalar integer instructions (R99 to R102). -/

namespace Sys2Proof.Machine

open Sys2Proof

/-- A scalar instruction of one source (R99). -/
def scalar1 (d a : Sel) (f : Word → Word) (s : State) : Host.Outcome State Fault Refusal :=
  once s (fun t _ => [need (scalarDst d && t.scalarSrc a) .illegalOperand, t.pushCheck d]) [(0, a)] fun i t q s1 =>
    putScalar i t s1 d (f (s1.scalar t a (q 0)))

/-- A scalar instruction of two sources (R100). -/
def scalar2 (d a b : Sel) (f : Word → Word → Word) (s : State) : Host.Outcome State Fault Refusal :=
  once s (fun t _ => [need (scalarDst d && t.scalarSrc a && t.scalarSrc b) .illegalOperand, t.pushCheck d]) [(0, a), (1, b)] fun i t q s1 =>
    putScalar i t s1 d (f (s1.scalar t a (q 0)) (s1.scalar t b (q 1)))

/-- SMOV (R99). -/
def execSmov (d a : Sel) (s : State) : Host.Outcome State Fault Refusal := scalar1 d a (fun x => x) s
/-- SCLZ (R99). -/
def execSclz (d a : Sel) (s : State) : Host.Outcome State Fault Refusal := scalar1 d a (fun x => BitVec.ofNat 32 (leadingZeros x.toNat 32)) s
/-- SPOPC (R99). -/
def execSpopc (d a : Sel) (s : State) : Host.Outcome State Fault Refusal := scalar1 d a (fun x => BitVec.ofNat 32 (popCount x.toNat 32)) s
/-- SADD (R100). -/
def execSadd (d a b : Sel) (s : State) : Host.Outcome State Fault Refusal := scalar2 d a b (fun x y => x + y) s
/-- SSUB (R100). -/
def execSsub (d a b : Sel) (s : State) : Host.Outcome State Fault Refusal := scalar2 d a b (fun x y => x - y) s
/-- SMUL (R100). -/
def execSmul (d a b : Sel) (s : State) : Host.Outcome State Fault Refusal := scalar2 d a b (fun x y => x * y) s
/-- SMULH (R100): the high half of the signed product. -/
def execSmulh (d a b : Sel) (s : State) : Host.Outcome State Fault Refusal :=
  scalar2 d a b (fun x y => BitVec.ofInt 32 (x.toInt * y.toInt / 2 ^ 32)) s
/-- SMULHN (R100): the high half of the unsigned product. -/
def execSmulhn (d a b : Sel) (s : State) : Host.Outcome State Fault Refusal :=
  scalar2 d a b (fun x y => BitVec.ofNat 32 (x.toNat * y.toNat / 2 ^ 32)) s
/-- SAND (R100). -/
def execSand (d a b : Sel) (s : State) : Host.Outcome State Fault Refusal := scalar2 d a b (fun x y => x &&& y) s
/-- SOR (R100). -/
def execSor (d a b : Sel) (s : State) : Host.Outcome State Fault Refusal := scalar2 d a b (fun x y => x ||| y) s
/-- SXOR (R100). -/
def execSxor (d a b : Sel) (s : State) : Host.Outcome State Fault Refusal := scalar2 d a b (fun x y => x ^^^ y) s
/-- SSHL (R101): the count is the whole of B. -/
def execSshl (d a b : Sel) (s : State) : Host.Outcome State Fault Refusal :=
  scalar2 d a b (fun x y => if 32 ≤ y.toNat then 0 else x <<< y.toNat) s
/-- SSHR (R101). -/
def execSshr (d a b : Sel) (s : State) : Host.Outcome State Fault Refusal :=
  scalar2 d a b (fun x y => if 32 ≤ y.toNat then 0 else x >>> y.toNat) s
/-- SSRA (R101). -/
def execSsra (d a b : Sel) (s : State) : Host.Outcome State Fault Refusal :=
  scalar2 d a b (fun x y => if 32 ≤ y.toNat then (if x.msb then 0xFFFFFFFF else 0) else x.sshiftRight y.toNat) s
/-- SMIN (R100). -/
def execSmin (d a b : Sel) (s : State) : Host.Outcome State Fault Refusal := scalar2 d a b (fun x y => if x.toInt ≤ y.toInt then x else y) s
/-- SMAX (R100). -/
def execSmax (d a b : Sel) (s : State) : Host.Outcome State Fault Refusal := scalar2 d a b (fun x y => if x.toInt ≤ y.toInt then y else x) s
/-- SMINN (R100). -/
def execSminn (d a b : Sel) (s : State) : Host.Outcome State Fault Refusal := scalar2 d a b (fun x y => if x.toNat ≤ y.toNat then x else y) s
/-- SMAXN (R100). -/
def execSmaxn (d a b : Sel) (s : State) : Host.Outcome State Fault Refusal := scalar2 d a b (fun x y => if x.toNat ≤ y.toNat then y else x) s
/-- SCMPEQ (R100). -/
def execScmpeq (d a b : Sel) (s : State) : Host.Outcome State Fault Refusal := scalar2 d a b (fun x y => if x = y then 1 else 0) s
/-- SCMPLT (R100). -/
def execScmplt (d a b : Sel) (s : State) : Host.Outcome State Fault Refusal := scalar2 d a b (fun x y => if x.toInt < y.toInt then 1 else 0) s
/-- SCMPLTN (R100). -/
def execScmpltn (d a b : Sel) (s : State) : Host.Outcome State Fault Refusal := scalar2 d a b (fun x y => if x.toNat < y.toNat then 1 else 0) s
/-- SDIVN (R102): by zero, all ones. -/
def execSdivn (d a b : Sel) (s : State) : Host.Outcome State Fault Refusal :=
  scalar2 d a b (fun x y => if y = 0 then 0xFFFFFFFF else BitVec.ofNat 32 (x.toNat / y.toNat)) s
/-- SDIV (R102): truncating; by zero, all ones; the most negative by -1 wraps to itself. -/
def execSdiv (d a b : Sel) (s : State) : Host.Outcome State Fault Refusal :=
  scalar2 d a b (fun x y => if y = 0 then 0xFFFFFFFF else BitVec.ofInt 32 (x.toInt.tdiv y.toInt)) s
/-- SREM (R102): the sign of A; by zero, A. -/
def execSrem (d a b : Sel) (s : State) : Host.Outcome State Fault Refusal :=
  scalar2 d a b (fun x y => if y = 0 then x else BitVec.ofInt 32 (x.toInt.tmod y.toInt)) s

end Sys2Proof.Machine
end

