-- ==== Sys2Proof/Machine/Dispatch.lean ====
section
/-! DEFINITION. Dispatch: one arm per constructor of Instr, each a direct call of that step's meaning. -/

namespace Sys2Proof.Machine

open Sys2Proof

def exec (i : Instr) (s : State) : Host.Outcome State Fault Refusal :=
  match i with
  | .nop => Sys2Proof.Machine.execNop s
  | .br b => Sys2Proof.Machine.execBr b s
  | .brz a b => Sys2Proof.Machine.execBrz a b s
  | .brnz a b => Sys2Proof.Machine.execBrnz a b s
  | .brmz a b => Sys2Proof.Machine.execBrmz a b s
  | .brmnz a b => Sys2Proof.Machine.execBrmnz a b s
  | .jmp b => Sys2Proof.Machine.execJmp b s
  | .call d b => Sys2Proof.Machine.execCall d b s
  | .yield => Sys2Proof.Machine.execYield s
  | .exit => Sys2Proof.Machine.execExit s
  | .setmode b => Sys2Proof.Machine.execSetmode b s
  | .getmode d => Sys2Proof.Machine.execGetmode d s
  | .mmov d a => Sys2Proof.Machine.execMmov d a s
  | .mand d a b => Sys2Proof.Machine.execMand d a b s
  | .mor d a b => Sys2Proof.Machine.execMor d a b s
  | .mxor d a b => Sys2Proof.Machine.execMxor d a b s
  | .mandn d a b => Sys2Proof.Machine.execMandn d a b s
  | .mnot d a => Sys2Proof.Machine.execMnot d a s
  | .mcnt d a => Sys2Proof.Machine.execMcnt d a s
  | .mfirst d a => Sys2Proof.Machine.execMfirst d a s
  | .msumw d a => Sys2Proof.Machine.execMsumw d a s
  | .mgetw d a b => Sys2Proof.Machine.execMgetw d a b s
  | .msetw d a b => Sys2Proof.Machine.execMsetw d a b s
  | .mfromv d a => Sys2Proof.Machine.execMfromv d a s
  | .vcmpeq d a b => Sys2Proof.Machine.execVcmpeq d a b s
  | .vcmpne d a b => Sys2Proof.Machine.execVcmpne d a b s
  | .vcmplt d a b => Sys2Proof.Machine.execVcmplt d a b s
  | .vcmple d a b => Sys2Proof.Machine.execVcmple d a b s
  | .vclass d a b => Sys2Proof.Machine.execVclass d a b s
  | .waitd b => Sys2Proof.Machine.execWaitd b s
  | .illegalOpcode w => Sys2Proof.Machine.execIllegalOpcode w s
  | .smov d a => Sys2Proof.Machine.execSmov d a s
  | .sadd d a b => Sys2Proof.Machine.execSadd d a b s
  | .ssub d a b => Sys2Proof.Machine.execSsub d a b s
  | .smul d a b => Sys2Proof.Machine.execSmul d a b s
  | .smulh d a b => Sys2Proof.Machine.execSmulh d a b s
  | .smulhn d a b => Sys2Proof.Machine.execSmulhn d a b s
  | .sand d a b => Sys2Proof.Machine.execSand d a b s
  | .sor d a b => Sys2Proof.Machine.execSor d a b s
  | .sxor d a b => Sys2Proof.Machine.execSxor d a b s
  | .sshl d a b => Sys2Proof.Machine.execSshl d a b s
  | .sshr d a b => Sys2Proof.Machine.execSshr d a b s
  | .ssra d a b => Sys2Proof.Machine.execSsra d a b s
  | .smin d a b => Sys2Proof.Machine.execSmin d a b s
  | .smax d a b => Sys2Proof.Machine.execSmax d a b s
  | .sminn d a b => Sys2Proof.Machine.execSminn d a b s
  | .smaxn d a b => Sys2Proof.Machine.execSmaxn d a b s
  | .scmpeq d a b => Sys2Proof.Machine.execScmpeq d a b s
  | .scmplt d a b => Sys2Proof.Machine.execScmplt d a b s
  | .scmpltn d a b => Sys2Proof.Machine.execScmpltn d a b s
  | .sclz d a => Sys2Proof.Machine.execSclz d a s
  | .spopc d a => Sys2Proof.Machine.execSpopc d a s
  | .sld d a b => Sys2Proof.Machine.execSld d a b s
  | .sld2 d a b => Sys2Proof.Machine.execSld2 d a b s
  | .sst d a b => Sys2Proof.Machine.execSst d a b s
  | .sst2 d a b => Sys2Proof.Machine.execSst2 d a b s
  | .sfadd d a b => Sys2Proof.Machine.execSfadd d a b s
  | .sfmul d a b => Sys2Proof.Machine.execSfmul d a b s
  | .sfma d a b => Sys2Proof.Machine.execSfma d a b s
  | .scvt d a b => Sys2Proof.Machine.execScvt d a b s
  | .sdivn d a b => Sys2Proof.Machine.execSdivn d a b s
  | .sdiv d a b => Sys2Proof.Machine.execSdiv d a b s
  | .srem d a b => Sys2Proof.Machine.execSrem d a b s
  | .vmov d a => Sys2Proof.Machine.execVmov d a s
  | .vadd d a b => Sys2Proof.Machine.execVadd d a b s
  | .vsub d a b => Sys2Proof.Machine.execVsub d a b s
  | .vmul d a b => Sys2Proof.Machine.execVmul d a b s
  | .vmulh d a b => Sys2Proof.Machine.execVmulh d a b s
  | .vfma d a b => Sys2Proof.Machine.execVfma d a b s
  | .vfnma d a b => Sys2Proof.Machine.execVfnma d a b s
  | .vmad d a b => Sys2Proof.Machine.execVmad d a b s
  | .vmin d a b => Sys2Proof.Machine.execVmin d a b s
  | .vmax d a b => Sys2Proof.Machine.execVmax d a b s
  | .vabs d a => Sys2Proof.Machine.execVabs d a s
  | .vneg d a => Sys2Proof.Machine.execVneg d a s
  | .vand d a b => Sys2Proof.Machine.execVand d a b s
  | .vor d a b => Sys2Proof.Machine.execVor d a b s
  | .vxor d a b => Sys2Proof.Machine.execVxor d a b s
  | .vnot d a => Sys2Proof.Machine.execVnot d a s
  | .vshl d a b => Sys2Proof.Machine.execVshl d a b s
  | .vshr d a b => Sys2Proof.Machine.execVshr d a b s
  | .vsra d a b => Sys2Proof.Machine.execVsra d a b s
  | .vrot d a b => Sys2Proof.Machine.execVrot d a b s
  | .vpopc d a => Sys2Proof.Machine.execVpopc d a s
  | .vclz d a => Sys2Proof.Machine.execVclz d a s
  | .vbrev d a => Sys2Proof.Machine.execVbrev d a s
  | .vsel d a b => Sys2Proof.Machine.execVsel d a b s
  | .vbcast d a b => Sys2Proof.Machine.execVbcast d a b s
  | .vcvt d a b => Sys2Proof.Machine.execVcvt d a b s
  | .vrcp d a => Sys2Proof.Machine.execVrcp d a s
  | .vrsq d a => Sys2Proof.Machine.execVrsq d a s
  | .vsqrt d a => Sys2Proof.Machine.execVsqrt d a s
  | .vexp2 d a => Sys2Proof.Machine.execVexp2 d a s
  | .vlog2 d a => Sys2Proof.Machine.execVlog2 d a s
  | .vsin d a => Sys2Proof.Machine.execVsin d a s
  | .vcos d a => Sys2Proof.Machine.execVcos d a s
  | .vtanh d a => Sys2Proof.Machine.execVtanh d a s
  | .vrnd d a => Sys2Proof.Machine.execVrnd d a s
  | .vfrc d a => Sys2Proof.Machine.execVfrc d a s
  | .vldexp d a b => Sys2Proof.Machine.execVldexp d a b s
  | .vcpsgn d a b => Sys2Proof.Machine.execVcpsgn d a b s
  | .vdot4 d a b => Sys2Proof.Machine.execVdot4 d a b s
  | .vdot2 d a b => Sys2Proof.Machine.execVdot2 d a b s
  | .vshuf d a b => Sys2Proof.Machine.execVshuf d a b s
  | .vperm d a b => Sys2Proof.Machine.execVperm d a b s
  | .vredadd d a => Sys2Proof.Machine.execVredadd d a s
  | .vredmin d a => Sys2Proof.Machine.execVredmin d a s
  | .vredmax d a => Sys2Proof.Machine.execVredmax d a s
  | .vscan d a b => Sys2Proof.Machine.execVscan d a b s
  | .vscant d a b => Sys2Proof.Machine.execVscant d a b s
  | .vextr d a b => Sys2Proof.Machine.execVextr d a b s
  | .vins d a b => Sys2Proof.Machine.execVins d a b s
  | .vpack d a b => Sys2Proof.Machine.execVpack d a b s
  | .vunpk d a b => Sys2Proof.Machine.execVunpk d a b s
  | .vabsd d a b => Sys2Proof.Machine.execVabsd d a b s
  | .vmovp d a => Sys2Proof.Machine.execVmovp d a s
  | .vmsk d a => Sys2Proof.Machine.execVmsk d a s
  | .vld1 d a b => Sys2Proof.Machine.execVld1 d a b s
  | .vld2 d a b => Sys2Proof.Machine.execVld2 d a b s
  | .vld4 d a b => Sys2Proof.Machine.execVld4 d a b s
  | .vld8 d a b => Sys2Proof.Machine.execVld8 d a b s
  | .vst1 d a b => Sys2Proof.Machine.execVst1 d a b s
  | .vst2 d a b => Sys2Proof.Machine.execVst2 d a b s
  | .vst4 d a b => Sys2Proof.Machine.execVst4 d a b s
  | .vst8 d a b => Sys2Proof.Machine.execVst8 d a b s
  | .pld1 d a b => Sys2Proof.Machine.execPld1 d a b s
  | .pld2 d a b => Sys2Proof.Machine.execPld2 d a b s
  | .pld4 d a b => Sys2Proof.Machine.execPld4 d a b s
  | .pst1 d a b => Sys2Proof.Machine.execPst1 d a b s
  | .pst2 d a b => Sys2Proof.Machine.execPst2 d a b s
  | .pst4 d a b => Sys2Proof.Machine.execPst4 d a b s
  | .cld d a b => Sys2Proof.Machine.execCld d a b s
  | .smpl d a b => Sys2Proof.Machine.execSmpl d a b s
  | .tlld d a b => Sys2Proof.Machine.execTlld d a b s
  | .pfence d => Sys2Proof.Machine.execPfence d s
  | .cpy d a b => Sys2Proof.Machine.execCpy d a b s
  | .cpyt d a b => Sys2Proof.Machine.execCpyt d a b s
  | .cpyo d a b => Sys2Proof.Machine.execCpyo d a b s
  | .pres a b => Sys2Proof.Machine.execPres a b s
  | .pinv a b => Sys2Proof.Machine.execPinv a b s
  | .pref a b => Sys2Proof.Machine.execPref a b s
  | .cflush a b => Sys2Proof.Machine.execCflush a b s
  | .cinv a b => Sys2Proof.Machine.execCinv a b s
  | .qbind d a b => Sys2Proof.Machine.execQbind d a b s
  | .qtry d a => Sys2Proof.Machine.execQtry d a s
  | .qfence a => Sys2Proof.Machine.execQfence a s
  | .tkinit a b => Sys2Proof.Machine.execTkinit a b s
  | .tkarr a => Sys2Proof.Machine.execTkarr a s
  | .tkwait a b => Sys2Proof.Machine.execTkwait a b s
  | .tkaw a => Sys2Proof.Machine.execTkaw a s
  | .tkexp a b => Sys2Proof.Machine.execTkexp a b s
  | .fence => Sys2Proof.Machine.execFence s
  | .rdand a b => Sys2Proof.Machine.execRdand a b s
  | .rdor a b => Sys2Proof.Machine.execRdor a b s
  | .rdxor a b => Sys2Proof.Machine.execRdxor a b s
  | .dfadd d a b => Sys2Proof.Machine.execDfadd d a b s
  | .dmin d a b => Sys2Proof.Machine.execDmin d a b s
  | .dmax d a b => Sys2Proof.Machine.execDmax d a b s
  | .dxchg d a b => Sys2Proof.Machine.execDxchg d a b s
  | .chunk d a => Sys2Proof.Machine.execChunk d a s
  | .aadd d a b => Sys2Proof.Machine.execAadd d a b s
  | .afadd d a b => Sys2Proof.Machine.execAfadd d a b s
  | .amin d a b => Sys2Proof.Machine.execAmin d a b s
  | .amax d a b => Sys2Proof.Machine.execAmax d a b s
  | .aand d a b => Sys2Proof.Machine.execAand d a b s
  | .aor d a b => Sys2Proof.Machine.execAor d a b s
  | .axor d a b => Sys2Proof.Machine.execAxor d a b s
  | .axchg d a b => Sys2Proof.Machine.execAxchg d a b s
  | .acas d a b => Sys2Proof.Machine.execAcas d a b s
  | .acas2 d a b => Sys2Proof.Machine.execAcas2 d a b s
  | .acas4 d a b => Sys2Proof.Machine.execAcas4 d a b s
  | .rdadd a b => Sys2Proof.Machine.execRdadd a b s
  | .rdfadd a b => Sys2Proof.Machine.execRdfadd a b s
  | .rdmin a b => Sys2Proof.Machine.execRdmin a b s
  | .rdmax a b => Sys2Proof.Machine.execRdmax a b s
  | .dadd d a b => Sys2Proof.Machine.execDadd d a b s
  | .enq d a => Sys2Proof.Machine.execEnq d a s
  | .deq d a => Sys2Proof.Machine.execDeq d a s
  | .deqtry d a b => Sys2Proof.Machine.execDeqtry d a b s
  | .knotinit a b => Sys2Proof.Machine.execKnotinit a b s
  | .knotadd a b => Sys2Proof.Machine.execKnotadd a b s
  | .knotdec a b => Sys2Proof.Machine.execKnotdec a b s
  | .knotbind d a b => Sys2Proof.Machine.execKnotbind d a b s
  | .launch a b => Sys2Proof.Machine.execLaunch a b s
  | .rfsrc d a => Sys2Proof.Machine.execRfsrc d a s
  | .trace d a => Sys2Proof.Machine.execTrace d a s
  | .trstop a => Sys2Proof.Machine.execTrstop a s
  | .qlen d a b => Sys2Proof.Machine.execQlen d a b s
  | .mma d a b => Sys2Proof.Machine.execMma d a b s
  | .mloop d a => Sys2Proof.Machine.execMloop d a s
  | .mgrp d a b => Sys2Proof.Machine.execMgrp d a b s
  | .swsel a => Sys2Proof.Machine.execSwsel a s
  | .acwin d a => Sys2Proof.Machine.execAcwin d a s
  | .aczero a b => Sys2Proof.Machine.execAczero a b s
  | .acrd d a b => Sys2Proof.Machine.execAcrd d a b s
  | .acrdx d a b => Sys2Proof.Machine.execAcrdx d a b s
  | .acwr a b => Sys2Proof.Machine.execAcwr a b s
  | .acadd a b => Sys2Proof.Machine.execAcadd a b s
  | .qblk d a b => Sys2Proof.Machine.execQblk d a b s
  | .dqblk d a b => Sys2Proof.Machine.execDqblk d a b s
  | .patld d a b => Sys2Proof.Machine.execPatld d a b s
  | .patst d a b => Sys2Proof.Machine.execPatst d a b s
  | .pataddr d a b => Sys2Proof.Machine.execPataddr d a b s
  | .patinv a => Sys2Proof.Machine.execPatinv a s
  | .patcf a b => Sys2Proof.Machine.execPatcf a b s
  | .pleat d a b => Sys2Proof.Machine.execPleat d a b s
  | .plarg d => Sys2Proof.Machine.execPlarg d s
  | .plreply a => Sys2Proof.Machine.execPlreply a s
  | .pldone => Sys2Proof.Machine.execPldone s
  | .peerld d a b => Sys2Proof.Machine.execPeerld d a b s
  | .peerst d a b => Sys2Proof.Machine.execPeerst d a b s
  | .peeradd d a b => Sys2Proof.Machine.execPeeradd d a b s
  | .vdie d => Sys2Proof.Machine.execVdie d s
  | .hops d a b => Sys2Proof.Machine.execHops d a b s
  | .fsdrain a b => Sys2Proof.Machine.execFsdrain a b s
  | .fsconf a b => Sys2Proof.Machine.execFsconf a b s
  | .trap b => Sys2Proof.Machine.execTrap b s
  | .brk b => Sys2Proof.Machine.execBrk b s
  | .srd d n => Sys2Proof.Machine.execSrd d n s
  | .swr n b => Sys2Proof.Machine.execSwr n b s
  | .invpg d a b => Sys2Proof.Machine.execInvpg d a b s
  | .invcf => Sys2Proof.Machine.execInvcf s
  | .place a b => Sys2Proof.Machine.execPlace a b s
  | .preempt a => Sys2Proof.Machine.execPreempt a s
  | .seal d a b => Sys2Proof.Machine.execSeal d a b s
  | .unseal d a => Sys2Proof.Machine.execUnseal d a s
  | .audrd d a b => Sys2Proof.Machine.execAudrd d a b s
  | .fltack a b => Sys2Proof.Machine.execFltack a b s
  | .resume a => Sys2Proof.Machine.execResume a s
  | .discard d a b => Sys2Proof.Machine.execDiscard d a b s
  | .attest d a b => Sys2Proof.Machine.execAttest d a b s
  | .clauseFetch t => Sys2Proof.Machine.execClauseFetch t s
  | .clauseStart t => Sys2Proof.Machine.execClauseStart t s
  | .refillWake t => Sys2Proof.Machine.execRefillWake t s
  | .recordDelivery o => Sys2Proof.Machine.execRecordDelivery o s
  | .deqResume t => Sys2Proof.Machine.execDeqResume t s
  | .issuePick core slot => Sys2Proof.Machine.execIssuePick core slot s
  | .operationComplete o => Sys2Proof.Machine.execOperationComplete o s
  | .loadReturn o k => Sys2Proof.Machine.execLoadReturn o k s
  | .storePerform w => Sys2Proof.Machine.execStorePerform w s
  | .postedDrain e => Sys2Proof.Machine.execPostedDrain e s
  | .atomicPerform o k => Sys2Proof.Machine.execAtomicPerform o k s
  | .directedDelivery o => Sys2Proof.Machine.execDirectedDelivery o s
  | .enqPublish o => Sys2Proof.Machine.execEnqPublish o s
  | .knotOperation o => Sys2Proof.Machine.execKnotOperation o s
  | .knotFireRetry part n => Sys2Proof.Machine.execKnotFireRetry part n s
  | .clusterPlace g vd origin => Sys2Proof.Machine.execClusterPlace g vd origin s
  | .teamSpill t => Sys2Proof.Machine.execTeamSpill t s
  | .teamRestore t => Sys2Proof.Machine.execTeamRestore t s
  | .copyLineLand o k => Sys2Proof.Machine.execCopyLineLand o k s
  | .copyComplete o => Sys2Proof.Machine.execCopyComplete o s
  | .presenceWake t => Sys2Proof.Machine.execPresenceWake t s
  | .tackWake t => Sys2Proof.Machine.execTackWake t s
  | .fifoPopWake t => Sys2Proof.Machine.execFifoPopWake t s
  | .engineRecordEntry t q => Sys2Proof.Machine.execEngineRecordEntry t q s
  | .engineCopyIn o => Sys2Proof.Machine.execEngineCopyIn o s
  | .engineCopyOut o => Sys2Proof.Machine.execEngineCopyOut o s
  | .engineGather e => Sys2Proof.Machine.execEngineGather e s
  | .engineReduce e => Sys2Proof.Machine.execEngineReduce e s
  | .engineConvert e => Sys2Proof.Machine.execEngineConvert e s
  | .engineCompletion e => Sys2Proof.Machine.execEngineCompletion e s
  | .engineRecordFault e => Sys2Proof.Machine.execEngineRecordFault e s
  | .matrixStep o g => Sys2Proof.Machine.execMatrixStep o g s
  | .tracerPush o => Sys2Proof.Machine.execTracerPush o s
  | .pleatInboxAccept o => Sys2Proof.Machine.execPleatInboxAccept o s
  | .waveStart x => Sys2Proof.Machine.execWaveStart x s
  | .pleatReply k => Sys2Proof.Machine.execPleatReply k s
  | .pleatResend k => Sys2Proof.Machine.execPleatResend k s
  | .unitSend o => Sys2Proof.Machine.execUnitSend o s
  | .bucketRefill part ctx die => Sys2Proof.Machine.execBucketRefill part ctx die s
  | .remoteAccess u => Sys2Proof.Machine.execRemoteAccess u s
  | .planeFail plane => Sys2Proof.Machine.execPlaneFail plane s
  | .faultPartEnqueue part ctx oper => Sys2Proof.Machine.execFaultPartEnqueue part ctx oper s
  | .liningFlip core part ctx => Sys2Proof.Machine.execLiningFlip core part ctx s
  | .liningDrain core part ctx => Sys2Proof.Machine.execLiningDrain core part ctx s
  | .htabSync part ctx slot => Sys2Proof.Machine.execHtabSync part ctx slot s
  | .queueDescriptorWrite part off v trusted => Sys2Proof.Machine.execQueueDescriptorWrite part off v trusted s
  | .registerWrite fn off v trusted => Sys2Proof.Machine.execRegisterWrite fn off v trusted s
  | .partShapeWrite v => Sys2Proof.Machine.execPartShapeWrite v s
  | .merge pair => Sys2Proof.Machine.execMerge pair s
  | .split pair => Sys2Proof.Machine.execSplit pair s
  | .contextCreate part ctx auth => Sys2Proof.Machine.execContextCreate part ctx auth s
  | .contextRemove part ctx => Sys2Proof.Machine.execContextRemove part ctx s
  | .keyImport part ctx trusted blob => Sys2Proof.Machine.execKeyImport part ctx trusted blob s
  | .ringDoorbell part ctx tail entries => Sys2Proof.Machine.execRingDoorbell part ctx tail entries s
  | .ringLaunch part ctx => Sys2Proof.Machine.execRingLaunch part ctx s
  | .ringEnq part ctx => Sys2Proof.Machine.execRingEnq part ctx s
  | .ringKnotdec part ctx => Sys2Proof.Machine.execRingKnotdec part ctx s
  | .ringSwr part ctx => Sys2Proof.Machine.execRingSwr part ctx s
  | .debugStop part ctx mask trusted => Sys2Proof.Machine.execDebugStop part ctx mask trusted s
  | .hostMemoryAccess part ma data n => Sys2Proof.Machine.execHostMemoryAccess part ma data n s
  | .functionLevelReset fn => Sys2Proof.Machine.execFunctionLevelReset fn s
  | .linkTraining pkg => Sys2Proof.Machine.execLinkTraining pkg s
  | .coreEnableBatch die => Sys2Proof.Machine.execCoreEnableBatch die s
  | .dieIdle die => Sys2Proof.Machine.execDieIdle die s
  | .matrixSleep core => Sys2Proof.Machine.execMatrixSleep core s
  | .matrixWake die => Sys2Proof.Machine.execMatrixWake die s
  | .clockThrottle die => Sys2Proof.Machine.execClockThrottle die s
  | .clockRaise die => Sys2Proof.Machine.execClockRaise die s
  | .thermalTrip => Sys2Proof.Machine.execThermalTrip s
  | .patrolScrub granule => Sys2Proof.Machine.execPatrolScrub granule s
  | .bootVerify => Sys2Proof.Machine.execBootVerify s
  | .mgRec v last => Sys2Proof.Machine.execMgRec v last s
  | .registerRead fn off trusted => Sys2Proof.Machine.execRegisterRead fn off trusted s
  | .spdmRequest part req => Sys2Proof.Machine.execSpdmRequest part req s
  | .hostSnoop ma write => Sys2Proof.Machine.execHostSnoop ma write s
  | .softError site correctable => Sys2Proof.Machine.execSoftError site correctable s
  | .remoteDrainRequest u => Sys2Proof.Machine.execRemoteDrainRequest u s

end Sys2Proof.Machine
end

