-- ==== Sys2Proof/Machine/Enabled.lean ====
section
/-! DEFINITION. Enabled: the meaning of a step that no word encodes (Event.run), which such steps are due in a state, the fetching of the next instruction's word for a picked team, and the placing of a program of one word (log 3). -/

namespace Sys2Proof.Machine

open Sys2Proof

/-- The meaning of a step that no word encodes: that of its constructor of Instr. -/
def Event.run (e : Event) (s : State) : Host.Outcome State Fault Refusal :=
  match e with
  | .clauseFetch t => Sys2Proof.Machine.execClauseFetch t s
  | .clauseStart t => Sys2Proof.Machine.execClauseStart t s
  | .refillWake t => Sys2Proof.Machine.execRefillWake t s
  | .recordDelivery o => Sys2Proof.Machine.execRecordDelivery o s
  | .deqResume t => Sys2Proof.Machine.execDeqResume t s
  | .issuePick core slot => Sys2Proof.Machine.execIssuePick core slot s
  | .operationComplete o => Sys2Proof.Machine.execOperationComplete o s
  | .loadReturn o k => Sys2Proof.Machine.execLoadReturn o k s
  | .storePerform w => Sys2Proof.Machine.execStorePerform w s
  | .postedDrain e => Sys2Proof.Machine.execPostedDrain e s
  | .atomicPerform o k => Sys2Proof.Machine.execAtomicPerform o k s
  | .directedDelivery o => Sys2Proof.Machine.execDirectedDelivery o s
  | .enqPublish o => Sys2Proof.Machine.execEnqPublish o s
  | .knotOperation o => Sys2Proof.Machine.execKnotOperation o s
  | .knotFireRetry part n => Sys2Proof.Machine.execKnotFireRetry part n s
  | .clusterPlace g vd origin => Sys2Proof.Machine.execClusterPlace g vd origin s
  | .teamSpill t => Sys2Proof.Machine.execTeamSpill t s
  | .teamRestore t => Sys2Proof.Machine.execTeamRestore t s
  | .copyLineLand o k => Sys2Proof.Machine.execCopyLineLand o k s
  | .copyComplete o => Sys2Proof.Machine.execCopyComplete o s
  | .presenceWake t => Sys2Proof.Machine.execPresenceWake t s
  | .tackWake t => Sys2Proof.Machine.execTackWake t s
  | .fifoPopWake t => Sys2Proof.Machine.execFifoPopWake t s
  | .engineRecordEntry t q => Sys2Proof.Machine.execEngineRecordEntry t q s
  | .engineCopyIn o => Sys2Proof.Machine.execEngineCopyIn o s
  | .engineCopyOut o => Sys2Proof.Machine.execEngineCopyOut o s
  | .engineGather e => Sys2Proof.Machine.execEngineGather e s
  | .engineReduce e => Sys2Proof.Machine.execEngineReduce e s
  | .engineConvert e => Sys2Proof.Machine.execEngineConvert e s
  | .engineCompletion e => Sys2Proof.Machine.execEngineCompletion e s
  | .engineRecordFault e => Sys2Proof.Machine.execEngineRecordFault e s
  | .matrixStep o g => Sys2Proof.Machine.execMatrixStep o g s
  | .tracerPush o => Sys2Proof.Machine.execTracerPush o s
  | .pleatInboxAccept o => Sys2Proof.Machine.execPleatInboxAccept o s
  | .waveStart x => Sys2Proof.Machine.execWaveStart x s
  | .pleatReply k => Sys2Proof.Machine.execPleatReply k s
  | .pleatResend k => Sys2Proof.Machine.execPleatResend k s
  | .unitSend o => Sys2Proof.Machine.execUnitSend o s
  | .bucketRefill part ctx die => Sys2Proof.Machine.execBucketRefill part ctx die s
  | .remoteAccess u => Sys2Proof.Machine.execRemoteAccess u s
  | .planeFail plane => Sys2Proof.Machine.execPlaneFail plane s
  | .faultPartEnqueue part ctx oper => Sys2Proof.Machine.execFaultPartEnqueue part ctx oper s
  | .liningFlip core part ctx => Sys2Proof.Machine.execLiningFlip core part ctx s
  | .liningDrain core part ctx => Sys2Proof.Machine.execLiningDrain core part ctx s
  | .htabSync part ctx slot => Sys2Proof.Machine.execHtabSync part ctx slot s
  | .queueDescriptorWrite part off v trusted => Sys2Proof.Machine.execQueueDescriptorWrite part off v trusted s
  | .registerWrite fn off v trusted => Sys2Proof.Machine.execRegisterWrite fn off v trusted s
  | .partShapeWrite v => Sys2Proof.Machine.execPartShapeWrite v s
  | .merge pair => Sys2Proof.Machine.execMerge pair s
  | .split pair => Sys2Proof.Machine.execSplit pair s
  | .contextCreate part ctx auth => Sys2Proof.Machine.execContextCreate part ctx auth s
  | .contextRemove part ctx => Sys2Proof.Machine.execContextRemove part ctx s
  | .keyImport part ctx trusted blob => Sys2Proof.Machine.execKeyImport part ctx trusted blob s
  | .ringDoorbell part ctx tail entries => Sys2Proof.Machine.execRingDoorbell part ctx tail entries s
  | .ringLaunch part ctx => Sys2Proof.Machine.execRingLaunch part ctx s
  | .ringEnq part ctx => Sys2Proof.Machine.execRingEnq part ctx s
  | .ringKnotdec part ctx => Sys2Proof.Machine.execRingKnotdec part ctx s
  | .ringSwr part ctx => Sys2Proof.Machine.execRingSwr part ctx s
  | .debugStop part ctx mask trusted => Sys2Proof.Machine.execDebugStop part ctx mask trusted s
  | .hostMemoryAccess part ma data n => Sys2Proof.Machine.execHostMemoryAccess part ma data n s
  | .functionLevelReset fn => Sys2Proof.Machine.execFunctionLevelReset fn s
  | .linkTraining pkg => Sys2Proof.Machine.execLinkTraining pkg s
  | .coreEnableBatch die => Sys2Proof.Machine.execCoreEnableBatch die s
  | .dieIdle die => Sys2Proof.Machine.execDieIdle die s
  | .matrixSleep core => Sys2Proof.Machine.execMatrixSleep core s
  | .matrixWake die => Sys2Proof.Machine.execMatrixWake die s
  | .clockThrottle die => Sys2Proof.Machine.execClockThrottle die s
  | .clockRaise die => Sys2Proof.Machine.execClockRaise die s
  | .thermalTrip => Sys2Proof.Machine.execThermalTrip s
  | .patrolScrub granule => Sys2Proof.Machine.execPatrolScrub granule s
  | .bootVerify => Sys2Proof.Machine.execBootVerify s
  | .mgRec v last => Sys2Proof.Machine.execMgRec v last s
  | .registerRead fn off trusted => Sys2Proof.Machine.execRegisterRead fn off trusted s
  | .spdmRequest part req => Sys2Proof.Machine.execSpdmRequest part req s
  | .hostSnoop ma write => Sys2Proof.Machine.execHostSnoop ma write s
  | .softError site correctable => Sys2Proof.Machine.execSoftError site correctable s
  | .remoteDrainRequest r => Sys2Proof.Machine.execRemoteDrainRequest r s
  | .debugBreak part ctx addr clause on trusted => Sys2Proof.Machine.execDebugBreak part ctx addr clause on trusted s
  | .debugHold team trusted => Sys2Proof.Machine.execDebugHold team trusted s
  | .debugRead team reg trusted => Sys2Proof.Machine.execDebugRead team reg trusted s
  | .keyImported part ctx => Sys2Proof.Machine.execKeyImported part ctx s
  | .hdmWindow part window => Sys2Proof.Machine.execHdmWindow part window s
  | .coldReset => Sys2Proof.Machine.execColdReset s

/-! ## Steps that are due -/

/-- The steps that may be due for a team. A step that is not due changes nothing. -/
def teamEvents (t : Nat) : List Event :=
  [.clauseFetch t, .clauseStart t, .refillWake t, .deqResume t, .teamSpill t, .teamRestore t, .presenceWake t, .tackWake t, .fifoPopWake t]
    ++ (List.range 16).map fun q => .engineRecordEntry t (BitVec.ofNat 4 q)

/-- The steps of an operation, by its kind. -/
def opEvents (o : Nat) (x : Op) : List Event :=
  let each (f : Nat → Event) : List Event := (List.range x.accs.length).map f
  [.operationComplete o, .unitSend o] ++ match x.kind with
    | .loop l => l.groups.map fun g => .matrixStep o g.g
    | .deq .. => [.recordDelivery o]
    | .enq _ => [.enqPublish o]
    | .knot .. => [.knotOperation o]
    | .knotbind .. => [.knotOperation o]
    | .gridDone .. => [.knotOperation o]
    | .copy .. => each (.copyLineLand o) ++ [.copyComplete o]
    | .recCopy .. => [.engineCopyIn o, .engineCopyOut o, .engineCompletion o, .engineRecordFault o]
    | .engine .. => [.engineGather o, .engineReduce o, .engineConvert o, .engineCompletion o, .engineRecordFault o]
    | .trace .. => [.tracerPush o]
    | .pleat .. => [.pleatInboxAccept o, .pleatReply o, .pleatResend o]
    | .atomic .. => each (.atomicPerform o) ++ [.directedDelivery o]
    | .chunk _ => each (.atomicPerform o)
    | _ => each (.loadReturn o)

/-- Whether a knot has a firing that has not finished. -/
def Knot.pending (k : Knot) : Bool := !k.firing.isEmpty

/-- The places where the next cluster of a grid may go. -/
def State.gridEvents (s : State) (g : Nat) (x : Grid) : List Event :=
  ((List.range (s.ctx x.part x.ctx).vdmap.length).map fun vd => (List.range 48).map fun o => Event.clusterPlace g vd o).flatten

/-- The steps of a context: its bucket on each die, its fault records, its ring's command, its key import, its state's way off its cores. -/
def State.ctxEvents (s : State) (p c : Nat) (x : Ctx) : List Event :=
  (if x.en then (List.range Config.dies).map fun d => Event.bucketRefill p c d else [])
    ++ (if x.ownParts.isEmpty then [] else [Event.faultPartEnqueue p c false])
    ++ (if x.ring.cmd.isSome then [Event.ringLaunch p c, Event.ringEnq p c, Event.ringKnotdec p c, Event.ringSwr p c] else [])
    ++ (if x.importing.isSome then [Event.keyImported p c] else [])
    ++ (if x.preempted then (s.cores.map fun k => [Event.liningFlip k.1 p c, Event.liningDrain k.1 p c]).flatten else [])

/-- The copies of a handle-table slot that a team waits to be dropped (R235). -/
def syncEvents (t : Team) : List Event :=
  match t.hold with
  | some (.sync slot) => [.htabSync t.part t.ctx slot]
  | _ => []

/-- The steps of a die and its cores. -/
def State.dieEvents (s : State) (die : Nat) : List Event :=
  [.coreEnableBatch die, .dieIdle die, .matrixWake die]
    ++ (s.cores.filter fun k => coreDie k.1 == die).map fun k => Event.matrixSleep k.1

/-- The steps that the machine itself may take next. -/
def State.ownEvents (s : State) : List Event :=
  (if s.dev.fw = 0 then [.bootVerify] else [])
    ++ (s.cores.filter fun k => k.2.enabled).map (fun k => Event.issuePick k.1 0)
    ++ (s.teams.map fun e => teamEvents e.1 ++ syncEvents e.2).flatten
    ++ (s.ops.map fun o => opEvents o.1 o.2).flatten
    ++ s.stores.map (fun w => Event.storePerform w.1)
    ++ s.posted.map (fun e => Event.postedDrain e.1)
    ++ (s.knots.filter fun k => k.2.pending).map (fun k => Event.knotFireRetry (k.1 / 2 ^ 20) (k.1 % 2 ^ 20))
    ++ (s.grids.map fun g => s.gridEvents g.1 g.2).flatten
    ++ (s.pleats.map fun r => [Event.waveStart r.1, Event.pleatReply r.1, Event.pleatResend r.1]).flatten
    ++ (s.ctxs.map fun x => s.ctxEvents (x.1 / 64) (x.1 % 64) x.2).flatten
    ++ (s.parts.filter fun x => !x.2.opParts.isEmpty).map (fun x => Event.faultPartEnqueue x.1 0 true)
    ++ (if 1 ≤ s.dev.mrgState ∧ s.dev.mrgState ≤ 3 then [if s.dev.mrgSplit then .split s.dev.mrgPair else .merge s.dev.mrgPair] else [])
    ++ ((List.range Config.dies).map s.dieEvents).flatten
    ++ s.bad.map Event.patrolScrub

/-- Where a step that is due comes from: the machine itself, the outside, or another device's request of number k whose walk held (R347). -/
inductive Source where
  | own | outside | held (k : Nat)
  deriving DecidableEq, Repr

/-- The requests of other devices whose walks may start again (R347, R350), by number. -/
def State.freed (s : State) : List (Event × Source) :=
  (s.migHeld.zipIdx.filter fun e => !e.1.2).map fun e => (e.1.1, .held e.2)

/-- The steps that may come next, each with its source: the machine's own, the first that the outside has sent, and what held and may start again. -/
def State.enabled (s : State) : List (Event × Source) :=
  s.ownEvents.map (fun e => (e, .own)) ++ ((s.inputs.take 1).map fun e => (e, .outside)) ++ s.freed

/-- An event taken: one that the outside sent has gone, and one that held has, unless it holds again in its place. -/
def Event.take (e : Event × Source) (s : State) : Host.Outcome State Fault Refusal :=
  match e.2 with
  | .own => e.1.run s
  | .outside => e.1.run { s with inputs := s.inputs.drop 1 }
  | .held k =>
    match e.1.run { s with migHeld := s.migHeld.take k } with
    | .next t => .next { t with migHeld := t.migHeld ++ s.migHeld.drop (k + 1) }
    | r => r

/-- After a thermal trip (R395) the supplies are down: of what the outside sends, reads of the management port are answered (R398), so that mg.trip can be read, a cold reset starts the device again, and the rest is lost. -/
def State.tripped (s : State) : Host.Outcome State Fault Refusal :=
  match s.inputs with
  | [] => .fault .poweredOff
  | .registerRead 9 off trusted :: es => Event.run (.registerRead 9 off trusted) { s with inputs := es }
  | .coldReset :: es => Event.run .coldReset { s with inputs := es }
  | _ :: es => .next { s with inputs := es }

/-! ## Fetching -/

/-- The instruction that the picked team's next word encodes (R37). -/
def State.fetched (s : State) (i : Nat) : Option Instr :=
  match s.team i with
  | none => none
  | some t => some (decode t.word)

/-- The number a placed program's team takes. -/
def State.nextTeam (s : State) : Nat := listMax (recKeys s.teams) + 1

/-- A context of partition 0 that is placed on die 0, and its one team of 32 lanes on core 0, which has just fetched a clause of one instruction word. -/
def State.place1 (s : State) (w : Word) : State :=
  let c := s.ctx 0 0
  let t := Team.fresh 0 0 0 0 0 0 0 0 1 32 32 0 0 0x8000 s.stamp
  let t1 : Team := { t with pc := 0x8004, base := 0x8000, stage := .run, clause := { header := 0x000FF078, instrs := [w], lits := List.replicate 15 0 } }
  let s1 := s.setCtx 0 0 { c with en := true, vdmap := [0], fabNvd := 1 }
  { s1.setTeam s.nextTeam t1 with cur := some s.nextTeam }

end Sys2Proof.Machine
end

