-- ==== Sys2Proof/Machine/Reads.lean ====
section
/-! DEFINITION. Reads: the registers that an instruction reads, and the fault of one that reads a register with an uncorrectable error (R397), after its checks (R55). -/

namespace Sys2Proof.Machine

open Sys2Proof

/-- The vector base (R132). -/
def vecBase : List (Sel × Nat) := [(.s 62, 2)]

/-- The registers that an instruction reads, in each active lane or once, by first register and count. A pattern's coordinates and a pleat's arguments, whose number a record gives, count by their first. -/
def reads (x : Instr) (t : Team) : List (Sel × Nat) :=
  let e := if t.ty.wide then 2 else 1
  match x with
  | .brz a _ | .brnz a _ | .brmz a _ | .brmnz a _ | .fltack a _ => [(a, 1)]
  | .jmp b | .setmode b | .waitd b => [(b, 1)]
  | .call _ b | .swr _ b => [(b, 1)]
  | .mmov _ a | .mnot _ a | .mcnt _ a | .mfirst _ a | .msumw _ a | .mfromv _ a | .smov _ a | .sclz _ a | .spopc _ a | .vnot _ a
  | .vpopc _ a | .vclz _ a | .vbrev _ a | .vrcp _ a | .vrsq _ a | .vsqrt _ a | .vexp2 _ a | .vlog2 _ a | .vsin _ a | .vcos _ a | .vtanh _ a
  | .vrnd _ a | .vfrc _ a | .vmovp _ a | .vmsk _ a | .deq _ a | .rfsrc _ a | .trace _ a | .acwin _ a => [(a, 1)]
  | .mand _ a b | .mor _ a b | .mxor _ a b | .mandn _ a b | .mgetw _ a b | .sadd _ a b | .ssub _ a b | .smul _ a b | .smulh _ a b
  | .smulhn _ a b | .sand _ a b | .sor _ a b | .sxor _ a b | .sshl _ a b | .sshr _ a b | .ssra _ a b | .smin _ a b | .smax _ a b
  | .sminn _ a b | .smaxn _ a b | .scmpeq _ a b | .scmplt _ a b | .scmpltn _ a b | .sfadd _ a b | .sfmul _ a b | .sdivn _ a b | .sdiv _ a b
  | .srem _ a b | .vand _ a b | .vor _ a b | .vxor _ a b | .vldexp _ a b | .vcpsgn _ a b | .vins _ a b | .vunpk _ a b | .pld1 _ a b
  | .pld2 _ a b | .pld4 _ a b | .qlen _ a b | .dqblk _ a b | .pleat _ a b | .hops _ a b | .audrd _ a b => [(a, 1), (b, 1)]
  | .msetw d a b | .sfma d a b | .vdot4 d a b | .vdot2 d a b | .vpack d a b => [(a, 1), (b, 1), (d, 1)]
  | .vcmpeq _ a b | .vcmpne _ a b | .vcmplt _ a b | .vcmple _ a b | .vadd _ a b | .vsub _ a b | .vmul _ a b | .vmulh _ a b | .vmin _ a b
  | .vmax _ a b | .vsel _ a b | .vabsd _ a b => [(a, e), (b, e)]
  | .vclass _ a _ | .scvt _ a _ | .vcvt _ a _ | .qbind _ a _ | .deqtry _ a _ => [(a, 1)]
  | .sld _ a b | .sld2 _ a b => [(a, 2), (b, 1)]
  | .sst d a b | .invpg d a b | .discard d a b => [(a, 2), (b, 1), (d, 1)]
  | .sst2 d a b => [(a, 2), (b, 1), (d, 2)]
  | .vmov _ a | .vabs _ a | .vneg _ a | .vredadd _ a | .vredmin _ a | .vredmax _ a => [(a, e)]
  | .vfma d a b | .vfnma d a b | .vmad d a b => [(a, e), (b, e), (d, e)]
  | .vshl _ a b | .vshr _ a b | .vsra _ a b | .vrot _ a b => [(a, e), (b, 1)]
  | .vbcast _ _ b | .vperm _ _ b | .vextr _ _ b => [(b, 1)]
  | .vscan _ a _ | .vscant _ a _ => [(a, e)]
  | .vld1 _ a b | .vld2 _ a b | .vld4 _ a b | .vld8 _ a b | .cld _ a b | .patld _ a b | .pataddr _ a b | .peerld _ a b => [(a, 1), (b, 1)] ++ vecBase
  | .vst1 d a b | .patst d a b | .peerst d a b => [(a, 1), (d, 1), (b, 1)] ++ vecBase
  | .vst2 d a b => [(a, 1), (d, 2), (b, 1)] ++ vecBase
  | .vst4 d a b => [(a, 1), (d, 4), (b, 1)] ++ vecBase
  | .vst8 d a b => [(a, 1), (d, 8), (b, 1)] ++ vecBase
  | .pst1 d a b => [(a, 1), (d, 1), (b, 1)]
  | .pst2 d a b => [(a, 1), (d, 2), (b, 1)]
  | .pst4 d a b => [(a, 1), (d, 4), (b, 1)]
  | .smpl _ a b | .tlld _ a b => [(a, 2), (b, 1)] ++ vecBase
  | .cpy d a b | .cpyt d a b | .cpyo d a b => (d, 2) :: (a, 1) :: (b, 1) :: vecBase
  | .pres a b | .pinv a b | .tkinit a b | .tkwait a b | .tkexp a b | .knotinit a b | .aczero a b | .patcf a b | .place a b => [(a, 1), (b, 1)]
  | .pref a b | .cflush a b | .cinv a b | .launch a b => [(a, 1), (b, 1)] ++ vecBase
  | .qfence a | .tkarr a | .tkaw a | .swsel a | .patinv a | .preempt a | .resume a => [(a, 1)]
  | .rdand a b | .rdor a b | .rdxor a b | .rdadd a b | .rdfadd a b | .rdmin a b | .rdmax a b => [(a, 1), (b, e)] ++ vecBase
  | .dfadd d a b | .dmin d a b | .dmax d a b | .dxchg d a b | .dadd d a b => [(a, 1), (b, e), (d, 1)] ++ vecBase
  | .chunk _ a => [(a, 2)]
  | .aadd _ a b | .afadd _ a b | .amin _ a b | .amax _ a b | .aand _ a b | .aor _ a b | .axor _ a b | .axchg _ a b => [(a, 1), (b, e)] ++ vecBase
  | .acas d a b => [(a, 1), (b, 1), (d, 1)] ++ vecBase
  | .acas2 d a b => [(a, 1), (b, 2), (d, 2)] ++ vecBase
  | .acas4 d a b => [(a, 1), (b, 4), (d, 4)] ++ vecBase
  | .enq d a => [(d, 8), (a, 1)]
  | .knotadd a b | .knotdec a b => [(b, 1), (a, 1)]
  | .knotbind d a b => [(a, 1), (b, 2), (d, 1)]
  | .mma _ _ _ => vecBase
  | .mloop _ a => (a, 1) :: vecBase
  | .mgrp _ a b => (a, 1) :: (b, 1) :: vecBase
  | .acrd _ a b | .acrdx _ a b => [(a, 1), (b, 2)]
  | .acwr a b | .acadd a b => [(a, 1), (b, 2)]
  | .qblk _ a b => [(a, 8), (b, 1)]
  | .peeradd d a b => [(a, 1), (d, e), (b, 1)] ++ vecBase
  | .fsdrain a b | .fsconf a b => [(a, 2), (b, 1)]
  | .seal d a b => [(a, 1), (b, 1), (d, 2)]
  | .unseal d a => [(a, 1), (d, 2)]
  | .attest d a b => (a, 1) :: (b, 1) :: (d, 2) :: vecBase
  | .exit => [(.m 0, 1), (.m (BitVec.ofNat 3 t.guard), 1)]
  | .plreply a => match t.waveObj with
    | some (_, y) => [(a, y.nrep)]
    | none => []
  | _ => []

/-- The instructions that sweep the effective mask (R63). The others execute once. -/
def sweeps (x : Instr) : Bool :=
  match x with
  | .mfromv .. | .vcmpeq .. | .vcmpne .. | .vcmplt .. | .vcmple .. | .vclass .. | .vmov .. | .vadd .. | .vsub .. | .vmul .. | .vmulh ..
  | .vfma .. | .vfnma .. | .vmad .. | .vmin .. | .vmax .. | .vabs .. | .vneg .. | .vand .. | .vor .. | .vxor .. | .vnot .. | .vshl ..
  | .vshr .. | .vsra .. | .vrot .. | .vpopc .. | .vclz .. | .vbrev .. | .vsel .. | .vbcast .. | .vcvt .. | .vrcp .. | .vrsq .. | .vsqrt ..
  | .vexp2 .. | .vlog2 .. | .vsin .. | .vcos .. | .vtanh .. | .vrnd .. | .vfrc .. | .vldexp .. | .vcpsgn .. | .vdot4 .. | .vdot2 ..
  | .vshuf .. | .vperm .. | .vredadd .. | .vredmin .. | .vredmax .. | .vscan .. | .vscant .. | .vpack .. | .vunpk .. | .vabsd ..
  | .vmovp .. | .vmsk .. | .vld1 .. | .vld2 .. | .vld4 .. | .vld8 .. | .vst1 .. | .vst2 .. | .vst4 .. | .vst8 .. | .pld1 .. | .pld2 ..
  | .pld4 .. | .pst1 .. | .pst2 .. | .pst4 .. | .cld .. | .smpl .. | .tlld .. | .pref .. | .cflush .. | .cinv .. | .rdand .. | .rdor ..
  | .rdxor .. | .dfadd .. | .dmin .. | .dmax .. | .dxchg .. | .chunk .. | .aadd .. | .afadd .. | .amin .. | .amax .. | .aand .. | .aor ..
  | .axor .. | .axchg .. | .acas .. | .acas2 .. | .acas4 .. | .rdadd .. | .rdfadd .. | .rdmin .. | .rdmax .. | .dadd .. | .enq ..
  | .knotadd .. | .knotdec .. | .launch .. | .mma .. | .acrd .. | .acrdx .. | .acwr .. | .acadd .. | .qblk .. | .dqblk .. | .patld ..
  | .patst .. | .pataddr .. | .pleat .. | .plreply .. | .peerld .. | .peerst .. | .peeradd .. => true
  | _ => false

/-- A run of registers, of a lane where they are vector registers, holds an uncorrectable error. -/
def Team.runSpoilt (t : Team) (lane : Nat) (f : Sel × Nat) : Bool :=
  match f.1 with
  | .v r => (List.range f.2).any fun k => t.spoilt.contains (vkey lane (r.toNat + k))
  | .s n => (List.range f.2).any fun k => t.spoilt.contains (skey (n.toNat + k))
  | .m n => t.spoilt.contains (mkey n.toNat)
  | .q n => t.spoilt.contains (qkey n.toNat)
  | _ => false

/-- An active lane of an instruction that reads other lanes' registers meets one with an uncorrectable error (R118, R125, R126, R196). -/
def State.crossSpoilt (s : State) (x : Instr) (t : Team) (l : Nat) : Bool :=
  match x with
  | .vshuf _ a b => t.runSpoilt (l - l % 32 + shufflePos b.toNat (l % 32)) (a, 1)
  | .vperm _ a b => t.runSpoilt (s.src t b l 0).toNat (a, 1)
  | .vbcast _ a b => t.runSpoilt (s.scalar t b 0).toNat (a, if t.ty.wide then 2 else 1)
  | .vextr _ a b => t.runSpoilt (s.scalar t b 0).toNat (a, 1)
  | .mma _ a b => (List.range 32).any fun p => t.runSpoilt (l - l % 32 + p) (a, 16) || t.runSpoilt (l - l % 32 + p) (b, 16)
  | _ => false

/-- The active lanes whose registers make an instruction fault with MEM_UNCORR (R397): every one for a mask register that the effective mask rests on (R49); lane 0 stands for an instruction that executes once. -/
def State.spoiltLanes (s : State) (x : Instr) (t : Team) : List Nat :=
  if t.spoilt.isEmpty then []
  else
    let meets (l : Nat) : Bool := (reads x t).any (t.runSpoilt l) || s.crossSpoilt x t l
    if sweeps x then
      t.active.filter fun l => t.runSpoilt l (.m 0, 1) || t.runSpoilt l (.m (BitVec.ofNat 3 t.guard), 1) || meets l
    else if meets 0 then [0] else []

/-- A hold that comes before all the checks of R55 have been made: the instruction has read no register for its effect. -/
def Hold.checking : Hold → Bool
  | .fifoEmpty _ => true
  | .flagFull _ => true
  | .walkMig => true
  | .drainGone _ => true
  | .remoteRead .. => true
  | .patDrain _ => true
  | _ => false

/-- An instruction of a team has failed a check of R55, a scalar access or a drain that it needs, or has still to make its checks. -/
def State.stopped (s : State) (i : Nat) : Bool :=
  match s.team i with
  | none => false
  | some t =>
    match t.trap.bind (recFind s.traps) with
    | some r => r.faults.isEmpty || r.scalar
    | none => match t.hold with
      | some h => h.checking && t.stage == .run
      | none => false

/-- What an instruction of team i comes to where it reads a register with an uncorrectable error (R397): the fault of its checks (R55), or else MEM_UNCORR in those lanes, with no effect. `r` is what it comes to otherwise. -/
def State.settled (s : State) (i : Nat) (x : Instr) (r : Host.Outcome State Fault Refusal) : Host.Outcome State Fault Refusal :=
  match s.team i with
  | none => r
  | some t =>
    match s.spoiltLanes x t, r with
    | [], _ => r
    | ls, .next s1 =>
      if s1.stopped i then r
      else .next ({ s with cur := none }.takeTrap (lanesInfo i t t.pc.toNat (!sweeps x) (ls.map fun l => plainFault l 0 .memUncorr) .whole))
    | _, _ => r

end Sys2Proof.Machine
end

