-- ==== Sys2Proof/Machine/Step.lean ====
section
/-! DEFINITION. Step: one indivisible step of the machine, and the placing of an instruction where the next step fetches it. -/

namespace Sys2Proof.Machine

open Sys2Proof

/-- One step: the picked team's fetched instruction, which faults where it reads a register with an uncorrectable error (R397), or else one of the steps that are due, by a free choice (log 2); with none due, only the choice counter moves. After a thermal trip nothing of the machine moves (R395). -/
def step (s : State) : Host.Outcome State Fault Refusal :=
  if s.dev.trip then s.tripped
  else
    match s.cur with
    | some i =>
      match s.fetched i with
      | some x => s.settled i x (exec x s)
      | none => .refused .noTeam
    | none =>
      match s.enabled with
      | [] => .next { s with tick := s.tick + 1 }
      | e :: es => Event.take (((e :: es)[(s.choose (e :: es).length).1]?).getD e) (s.choose (e :: es).length).2

/-- The state with the instruction whose bits are w placed as the picked team's next word (log 3): its word stands in the team's fetched clause. -/
def State.withFetchWord (s : State) (_nbits w : Nat) : State := s.place1 (BitVec.ofNat 32 w)

end Sys2Proof.Machine
end

