-- ==== Sys2Proof/Safety.lean ====
section
/-! DEFINITION. Safety: the words in which claims about a run are made: a team that issues, the state after an instruction that changed its team alone, what an instruction read from its operands, and the invariant that every step keeps. -/

namespace Sys2Proof.Machine

open Sys2Proof

/-- Team i, whose record is t, has been picked and issues (R66). -/
def Issues (s : State) (i : Nat) (t : Team) : Prop := s.cur = some i ∧ s.team i = some t

/-- A step answers a next state. -/
def Answers (r : Host.Outcome State Fault Refusal) : Prop := ∃ u, r = .next u

/-- The state in which team i's instruction has issued and nothing but the team's record has changed: to t, past the instruction. -/
def State.done (s : State) (i : Nat) (t : Team) : State := { s with cur := none }.setTeam i t.finish.next

/-- State s with team i's record set to u, past its instruction. -/
def State.ends (s : State) (i : Nat) (u : Team) : State := s.setTeam i u.finish.next

/-- The same for an instruction that goes on at a clause. -/
def State.gone (s : State) (i : Nat) (t : Team) (a : Word) : State := { s with cur := none }.setTeam i (t.finish.goto a)

/-- What an instruction reads from queue registers: nothing, or one FIFO entry for each pop, taken from the team's FIFOs (R83, R237). `u` is the team with the entries taken, `q` the word popped for a field and lane. -/
def Reads (t : Team) (pops : List Pop) (u : Team) (q : Nat → Nat → Word) : Prop :=
  if pops = [] then u = t ∧ q = fun _ _ => 0
  else t.popAll (pops.drop t.popped.length) = (.ok (), u) ∧ q = poppedFor pops u.popped

/-- A queue register that the instruction names is bound to a private FIFO for a source (R237). -/
def Team.readable (t : Team) (a : Sel) : Prop := t.popCheck a = none

/-- A destination that takes a word: an S register, ZERO, or a queue register on a private FIFO with room (R80, R237). -/
def Team.takes (t : Team) (d : Sel) : Prop :=
  match d with
  | .s _ => True
  | .sp .zero => True
  | .q n => (t.qregs[n.toNat]).bind = .fifo ∧ (t.qregs[n.toNat]).fifo.length < Config.fifoDepth ∧ t.pushing = none ∧ t.pushBad = [] ∧ t.pass = 0
  | _ => False

/-- The team with a word written to a scalar destination: the register, the FIFO's end, or nowhere for ZERO (R80, R238). -/
def Team.put (t : Team) (d : Sel) (w : Word) : Team :=
  match d with
  | .s n => t.setS n w
  | .q n => { t with qregs := t.qregs.set n.toNat { (t.qregs[n.toNat]) with fifo := (t.qregs[n.toNat]).fifo ++ [w] } n.isLt }
  | _ => t

/-- A vector destination that takes n words: a V register, ZERO, or a queue register on a private FIFO with room for them (R107, R237, R238). -/
def Team.takesAll (t : Team) (d : Sel) (n : Nat) : Prop :=
  match d with
  | .v _ => True
  | .sp .zero => True
  | .q m => (t.qregs[m.toNat]).bind = .fifo ∧ (t.qregs[m.toNat]).fifo.length + n ≤ Config.fifoDepth ∧ t.pushing = none ∧ t.pushBad = [] ∧ t.pass = 0
  | _ => False

/-- The team with words pushed, in order, into a private FIFO (R238). -/
def Team.pushWords (t : Team) (n : BitVec 4) (ws : List Word) : Team :=
  { t with qregs := t.qregs.set n.toNat { (t.qregs[n.toNat]) with fifo := (t.qregs[n.toNat]).fifo ++ ws } n.isLt }

/-- The team with one word for each lane of a list written to a vector destination: the lane's V register, the FIFO's end, or nowhere for ZERO (R107, R238). -/
def Team.putV (t : Team) (d : Sel) (ws : List (Nat × Word)) : Team :=
  match d with
  | .v r => ws.foldl (fun t x => t.setV x.1 r.toNat x.2) t
  | .q n => t.pushWords n (ws.map (·.2))
  | _ => t

/-- The team with one element of a type for each lane of a list written to a vector destination: a 64-bit element takes the register and the next (R108). -/
def Team.putE (t : Team) (y : Ty) (d : Sel) (ws : List (Nat × Nat)) : Team :=
  if y.wide then
    match d with
    | .v r => ws.foldl (fun t x => t.setVs x.1 r.toNat [BitVec.ofNat 32 x.2, BitVec.ofNat 32 (x.2 / 2 ^ 32)]) t
    | .q n => t.pushWords n (ws.map fun x => BitVec.ofNat 32 x.2)
    | _ => t
  else t.putV d (ws.map fun x => (x.1, BitVec.ofNat 32 x.2))

/-- The team with an element f gives (its bits, and the status bits it sets) written for each active lane: the status bits of all lanes stick (R63, R110, R183). -/
def Team.putF (t : Team) (d : Sel) (f : Nat → Nat × Nat) : Team :=
  let rs := t.active.map fun l => (l, f l)
  (t.addStatus (orBits rs)).putE t.ty d (rs.map fun r => (r.1, r.2.1))

/-- The same for a word of each active lane, with its status bits. -/
def Team.putW (t : Team) (d : Sel) (f : Nat → Word × Nat) : Team :=
  let rs := t.active.map fun l => (l, f l)
  (t.addStatus (rs.foldl (fun a x => a ||| x.2.2) 0)).putV d (rs.map fun r => (r.1, r.2.1))

/-- The team with the result of a compare (and the status bits it sets) written for each active lane: a mask holds exactly the active lanes for which it holds, a V register all ones or zeros (R19, R95). -/
def Team.putCmp (t : Team) (d : Sel) (f : Nat → Bool × Nat) : Team :=
  let u := t.addStatus (t.active.foldl (fun a l => a ||| (f l).2) 0)
  match d with
  | .v r => u.putV (.v r) (t.active.map fun l => (l, if (f l).1 then 0xFFFFFFFF else 0))
  | _ => u.putMask d (maskOf (t.active.filter fun l => (f l).1))

/-- Elements combined from the first to the last, each read by R127, with the status bits of every step. -/
def combineAll (c : Comb) (y : Ty) (rm : Rnd) (flush sat : Bool) : List Nat → Nat × Nat
  | [] => (0, 0)
  | x :: xs => xs.foldl (fun a z => ((combine c y rm flush sat a.1 (enter y flush z).1).1,
      a.2 ||| (combine c y rm flush sat a.1 (enter y flush z).1).2 ||| (enter y flush z).2)) (enter y flush x)

/-- The state in which an instruction of team i that has read its operands takes effect: its popped words are out of the FIFOs of `u` (R83). -/
def State.after (s : State) (i : Nat) (u : Team) (pops : List Pop) : State :=
  if pops = [] then { s with cur := none } else ({ s with cur := none } : State).setTeam i u

/-- The register that a returning atomic writes (R265). -/
def atomReg (fam : Family) (d : Sel) : Option Nat :=
  match fam, d with
  | .ret, .v r => some r.toNat
  | _, _ => none

/-- The bytes that a lane of an atomic sends: its operand, or for a compare and swap the values to compare with and to store (R271); w is a word popped for b. -/
def State.atomBytes (s : State) (t : Team) (fn : AtomFn) (d b : Sel) (l : Nat) (w : Word) : List Byte :=
  if fn.casWords = 0 then natBytes (s.elem t t.ty b l w) (fn.size t.ty)
  else wordsBytes (t.vs l (vNum d) fn.casWords) ++ wordsBytes (t.vs l (vNum b) fn.casWords)

/-- An instruction's accesses start, in pass order: those under way are `good`, those that fault `bad` (R55, R134, R137). -/
def Starts (s : State) (i : Nat) (u : Team) (k : Access) (accs good : List Acc) (bad : List (LaneFault × Acc)) (s2 : State) : Prop :=
  (s.setTeam i u).startAll i u k accs = .ok good bad s2

/-- The posted entries that a store of team i needs out first have drained: all of them where it is a release (R281, R284). -/
def DrainedFor (s : State) (i : Nat) (u : Team) (s1 : State) : Prop :=
  if u.releases.isSome then (s.setTeam i u).drainAll i = .ok s1 else s1 = s.setTeam i u

/-- What an instruction that starts an operation leaves: the operation in flight on its flag, its team past it (R45). -/
def State.started (s : State) (i : Nat) (u : Team) (x : Op) (bad : List (LaneFault × Acc)) : State :=
  (s.enterOp i u x bad).modTeam i fun t => t.finish.next

/-- Runs (group, row, count) of rows that an instruction of team i may use: inside the groups' windows, and no earlier loop has them unretired (R170, R189, R191). -/
def RowsFree (s : State) (i : Nat) (u : Team) (runs : List (Nat × Nat × Nat)) : Prop :=
  runs.find? u.outside = none ∧ (runs.any fun r => s.rowsBusy i s.stamp r.1 r.2.1 r.2.2) = false

/-- The swatch of a team is read and valid (R195): its record's words are `ws`, and s1 the state after the read. -/
def SwatchRead (s : State) (i : Nat) (u : Team) (ws : List Word) (s1 : State) : Prop :=
  ∃ va bs sw, u.swatch = some va ∧ s.record i u va 32 32 = .ok bs s1 ∧ bytesWords 8 bs = ws ∧ swatchOf ws = some sw

/-- A loop may issue: its flag has room, the team and core have room for it (R192), and the core's matrix unit is awake (R393). -/
def LoopRoom (s : State) (i : Nat) (u : Team) (l : Loop) : Prop :=
  u.flagFull (u.setFlag true) = false ∧ (l.total = 0 ∨ s.loopRoom i u.core = true) ∧ (s.core u.core).asleep = false

/-- A store to named devices, entered (R313, R315): where a lane goes to a device below the own one, the own lanes wait for their turn; else they are posted, or sent at once where the store is a release (R284). -/
def State.namedOut (s : State) (i : Nat) (u : Team) (fl slot : Option Nat) (ws : List Acc) (bad : List (LaneFault × Acc)) : State :=
  let s1 := s.enterOp i u { opOf i u s fl .store with accs := ws, rel := u.releases, pat := slot } bad
  if ws.any fun x => x.remoteDev.any fun d => decide (d < (s.ctx u.part u.ctx).fabDev) then s1
  else match u.releases with
    | none => s1.postOwn i s.stamp (ws.zipIdx.map fun a => (a.2, a.1))
    | some sc => s1.sendAll i u s.stamp sc 0 ws

/-- A state in which the team's instruction has issued: the team goes on to the next word. -/
def State.issued (s : State) (i : Nat) : State := s.modTeam i fun t => t.finish.next

end Sys2Proof.Machine
end

