-- ==== Sys2Proof/Certificates/Slice0/Obligations.lean ====
section
/-! DEFINITION. Obligations: the statements of this row, for the provers. -/

open Sys2Proof Sys2Proof.Machine

/-- R99 to R102: the scalar integer instructions, and SMOV, SCLZ (leading zeros) and SPOPC (ones), write the value that their rule gives, of sources of every form (register, literal, special, or a popped queue entry), to a destination of every form (S register, ZERO, or a pushed FIFO), and change nothing but their team's record, past the instruction. -/
def Obligations.ScalarIntegerResult : Prop :=
  ∀ (s : State) (i : Nat) (t u : Team) (q : Nat → Nat → Word) (d a b : Sel), Issues s i t →
    t.scalarSrc a = true → t.readable a → t.pushCheck d = none → u.takes d →
    let x := s.scalar u a (q 0 0)
    let y := s.scalar u b (q 1 0)
    let fin (w : Word) : Host.Outcome State Fault Refusal := .next (s.done i (u.put d w))
    (t.scalarSrc b = true → t.readable b → Reads t (popsOnce [(0, a), (1, b)]) u q →
      exec (.sadd d a b) s = fin (x + y) ∧
      exec (.ssub d a b) s = fin (x - y) ∧
      exec (.smul d a b) s = fin (x * y) ∧
      exec (.smulh d a b) s = fin (BitVec.ofInt 32 (x.toInt * y.toInt / 2 ^ 32)) ∧
      exec (.smulhn d a b) s = fin (BitVec.ofNat 32 (x.toNat * y.toNat / 2 ^ 32)) ∧
      exec (.sand d a b) s = fin (x &&& y) ∧
      exec (.sor d a b) s = fin (x ||| y) ∧
      exec (.sxor d a b) s = fin (x ^^^ y) ∧
      exec (.sshl d a b) s = fin (x <<< y.toNat) ∧
      exec (.sshr d a b) s = fin (x >>> y.toNat) ∧
      exec (.ssra d a b) s = fin (x.sshiftRight y.toNat) ∧
      exec (.smin d a b) s = fin (if x.toInt ≤ y.toInt then x else y) ∧
      exec (.smax d a b) s = fin (if x.toInt ≤ y.toInt then y else x) ∧
      exec (.sminn d a b) s = fin (if x.toNat ≤ y.toNat then x else y) ∧
      exec (.smaxn d a b) s = fin (if x.toNat ≤ y.toNat then y else x) ∧
      exec (.scmpeq d a b) s = fin (if x = y then 1 else 0) ∧
      exec (.scmplt d a b) s = fin (if x.toInt < y.toInt then 1 else 0) ∧
      exec (.scmpltn d a b) s = fin (if x.toNat < y.toNat then 1 else 0) ∧
      exec (.sdivn d a b) s = fin (if y = 0 then 0xFFFFFFFF else x / y) ∧
      exec (.sdiv d a b) s = fin (if y = 0 then 0xFFFFFFFF else x.sdiv y) ∧
      exec (.srem d a b) s = fin (if y = 0 then x else x.srem y)) ∧
    (Reads t (popsOnce [(0, a)]) u q →
      exec (.smov d a) s = fin x ∧
      (∀ n : Nat, n ≤ 32 → (∀ k, 32 - n ≤ k → k < 32 → x.getLsbD k = false) → (n = 32 ∨ x.getLsbD (31 - n) = true) →
        exec (.sclz d a) s = fin (BitVec.ofNat 32 n)) ∧
      exec (.spopc d a) s = fin (BitVec.ofNat 32 ((List.range 32).countP fun k => x.getLsbD k)))

/-- R103 and R104: scalar F32 arithmetic rounds once under MODE, sets the sticky bits of its result, and SFMA adds the product to D; SCVT converts as VCVT does. -/
def Obligations.ScalarFloatResult : Prop :=
  ∀ (s : State) (i : Nat) (t u : Team) (q : Nat → Nat → Word) (d a b : Sel), Issues s i t →
    t.scalarSrc a = true → t.scalarSrc b = true → t.readable a → t.readable b → t.pushCheck d = none →
    Reads t (popsOnce [(0, a), (1, b)]) u q → u.takes d →
    let x := (s.scalar u a (q 0 0)).toNat
    let y := (s.scalar u b (q 1 0)).toNat
    let fin (r : Nat × Nat) : Host.Outcome State Fault Refusal := .next (s.done i ((u.addStatus r.2).put d (BitVec.ofNat 32 r.1)))
    exec (.sfadd d a b) s = fin (fmtF32.add u.rnd u.flush x y) ∧
    exec (.sfmul d a b) s = fin (fmtF32.mul u.rnd u.flush x y) ∧
    (∀ n : BitVec 6, d = .s n → exec (.sfma d a b) s = fin (fmtF32.fma u.rnd u.flush false x y (u.s n).toNat)) ∧
    (∀ (c : BitVec 8) (y' : Ty) (v : Team) (q' : Nat → Nat → Word), Reads t (popsOnce [(0, a)]) v q' → v.takes d → convertCode c = some y' →
      t.ty.converts = true →
      let r := convert v.ty y' v.rnd v.flush v.sat (s.scalar v a (q' 0 0)).toNat
      exec (.scvt d a c) s = .next (s.done i ((v.addStatus r.2).put d (BitVec.ofNat 32 r.1))))

/-- R91: the mask instructions write the function of their whole sources to D, and nothing where D is ZERO; MaskWriteRule says which bits a write leaves. -/
def Obligations.MaskLogicResult : Prop :=
  ∀ (s : State) (i : Nat) (t : Team) (d a b : Sel), Issues s i t → maskDst d = true → maskSrc a = true → maskSrc b = true →
    let fin (x : Mask) : Host.Outcome State Fault Refusal := .next (s.done i (t.putMask d x))
    exec (.mmov d a) s = fin (t.mask a) ∧
    exec (.mand d a b) s = fin (t.mask a &&& t.mask b) ∧
    exec (.mor d a b) s = fin (t.mask a ||| t.mask b) ∧
    exec (.mxor d a b) s = fin (t.mask a ^^^ t.mask b) ∧
    exec (.mandn d a b) s = fin (t.mask a &&& ~~~t.mask b) ∧
    exec (.mnot d a) s = fin (~~~t.mask a)

/-- R81: a mask register written holds the bits of the lanes that exist, and M0 only those of live lanes (M1 to M7 keep those of vacant lanes as written); its summary word (R64) has exactly the bits of its words that are not zero; the other mask registers keep theirs. -/
def Obligations.MaskWriteRule : Prop :=
  ∀ (t : Team) (n m : BitVec 3) (x : Mask) (l : Nat), t.nlanes ≤ 1024 →
    ((t.setM n x).m n).getLsbD l = (x.getLsbD l && decide (l < t.nlanes) && (n != 0 || t.live.getLsbD l)) ∧
    (∀ g < 32, (maskSummary ((t.setM n x).m n)).getLsbD g = decide (maskWord ((t.setM n x).m n) g ≠ 0)) ∧
    (m ≠ n → (t.setM n x).m m = t.m m)

/-- R64, R92 to R94: what the instructions that read or build masks write: MCNT counts, MFIRST names the lowest lane (all ones where there is none), MSUMW has bit g set exactly where word g is not zero, MGETW reads and MSETW replaces one word of 32 lanes, MFROMV sets exactly the active lanes whose source is not zero. -/
def Obligations.MaskReadResult : Prop :=
  (∀ (m : Mask) (w k : Nat) (x : Word) (l : Nat), w < 32 → k < 32 → l < 1024 →
    (maskWord m w).getLsbD k = m.getLsbD (32 * w + k) ∧
    (maskSummary m).getLsbD w = decide (maskWord m w ≠ 0) ∧
    (maskSetWord m w x).getLsbD l = (if 32 * w ≤ l ∧ l < 32 * w + 32 then x.getLsbD (l - 32 * w) else m.getLsbD l)) ∧
  ∀ (s : State) (i : Nat) (t : Team) (d a : Sel), Issues s i t →
    (maskSrc a = true → t.pushCheck d = none → t.takes d →
      let fin (w : Word) : Host.Outcome State Fault Refusal := .next (s.done i (t.put d w))
      exec (.mcnt d a) s = fin (BitVec.ofNat 32 ((List.range 1024).countP fun l => (t.mask a).getLsbD l)) ∧
      (∀ l, l < 1024 → (t.mask a).getLsbD l = true → (∀ k, k < l → (t.mask a).getLsbD k = false) → exec (.mfirst d a) s = fin (BitVec.ofNat 32 l)) ∧
      (t.mask a = 0 → exec (.mfirst d a) s = fin 0xFFFFFFFF) ∧
      exec (.msumw d a) s = fin (maskSummary (t.mask a))) ∧
    (∀ (b : Sel) (u : Team) (q : Nat → Nat → Word), maskSrc a = true → t.pushCheck d = none → t.scalarSrc b = true → t.readable b →
      Reads t (popsOnce [(1, b)]) u q → u.takes d →
      exec (.mgetw d a b) s = .next (s.done i (u.put d (maskWord (u.mask a) ((s.scalar u b (q 1 0)).toNat % 32))))) ∧
    (∀ (n : BitVec 3) (b : Sel) (u : Team) (q : Nat → Nat → Word), t.scalarSrc a = true → t.scalarSrc b = true → t.readable a → t.readable b →
      Reads t (popsOnce [(0, a), (1, b)]) u q →
      exec (.msetw (.m n) a b) s =
        .next (s.done i (u.setM n (maskSetWord (u.m n) ((s.scalar u a (q 0 0)).toNat % 32) (s.scalar u b (q 1 0)))))) ∧
    (∀ (u : Team) (q : Nat → Nat → Word), maskDst d = true → t.vectorSrc a = true → t.readable a → t.active.isEmpty = false →
      Reads t (popsLanes t.active [(0, a)]) u q →
      exec (.mfromv d a) s = .next (s.done i (u.putMask d (maskOf (u.active.filter fun l => s.src u a l (q 0 l) ≠ 0)))))

/-- R48, R85, R86, R90, R98, R284: NOP and YIELD, SETMODE of a legal value and GETMODE, and WAITD past flags that are clear; with bit 12 it drains the team's posted entries and goes on when no unflagged operation that it has issued is left. -/
def Obligations.ControlResult : Prop :=
  ∀ (s : State) (i : Nat) (t u : Team) (q : Nat → Nat → Word) (d b : Sel), Issues s i t →
    exec .nop s = .next (s.done i t) ∧
    exec .yield s = .next (s.bump.done i { t with age := s.stamp, passed := 0 }) ∧
    (t.pushCheck d = none → t.takes d → exec (.getmode d) s = .next (s.done i (t.put d t.mode))) ∧
    (t.scalarSrc b = true → t.readable b → Reads t (popsOnce [(1, b)]) u q →
      let v := s.scalar u b (q 1 0)
      (modeOk v = true → exec (.setmode b) s = .next (s.done i { u with mode := v })) ∧
      (v.toNat < 2 ^ 12 → (∀ n (h : n < 12), v.getLsbD n = true → u.flags[n] = 0) →
        exec (.waitd b) s = .next (s.done i u))) ∧
    (∀ u : State, t.scalarSrc b = true → isQ b = false →
      let v := s.scalar t b 0
      2 ^ 12 ≤ v.toNat → v.toNat < 2 ^ 13 → ({ s with cur := none } : State).drainAll i = .ok u →
      (∀ n (h : n < 12), v.getLsbD n = true → t.flags[n] = 0) → (∀ o ∈ u.ops, o.2.team = some i → o.2.flag = none → o.2.kind.fromPush = false → u.stamp ≤ o.1) →
      exec (.waitd b) s = .next (u.modTeam i fun t => t.finish.next))

/-- R46, R87 and R88: a branch in a clause's last place goes on at its aligned target where it is taken, else at the fall-through clause; CALL reads its target before it writes the fall-through address to D; a branch taken to a misaligned target (a literal's or a register's) raises ALIGN at the branch and has no effect of its own; one not taken goes on whatever its target is. -/
def Obligations.BranchResult : Prop :=
  ∀ (s : State) (i : Nat) (t u : Team) (q : Nat → Nat → Word) (a b : Sel), Issues s i t → t.isLast = true →
    (t.slotOk b = true → (s.scalar t b 0).toNat % 4 = 0 →
      let target := s.scalar t b 0
      exec (.br b) s = .next (s.gone i t target) ∧
      (t.scalarSrc a = true → t.readable a → Reads t (popsOnce [(0, a)]) u q →
        exec (.brz a b) s = .next (s.gone i u (if s.scalar u a (q 0 0) = 0 then target else t.fall)) ∧
        exec (.brnz a b) s = .next (s.gone i u (if s.scalar u a (q 0 0) = 0 then t.fall else target))) ∧
      (maskSrc a = true →
        exec (.brmz a b) s = .next (s.gone i t (if t.mask a = 0 then target else t.fall)) ∧
        exec (.brmnz a b) s = .next (s.gone i t (if t.mask a = 0 then t.fall else target))) ∧
      exec (.call (.sp .zero) b) s = .next (s.gone i t target) ∧
      (∀ n : BitVec 6, exec (.call (.s n) b) s = .next (s.gone i (t.setS n t.fall) target))) ∧
    (∀ n : BitVec 6, (t.s n).toNat % 4 = 0 →
      exec (.jmp (.s n)) s = .next (s.gone i t (t.s n)) ∧
      exec (.call (.sp .zero) (.s n)) s = .next (s.gone i t (t.s n)) ∧
      (∀ m : BitVec 6, exec (.call (.s m) (.s n)) s = .next (s.gone i (t.setS m t.fall) (t.s n)))) ∧
    (let trap (s : State) : Host.Outcome State Fault Refusal := .next (s.takeTrap (checkInfo i t true .align 0 .whole))
     let s0 : State := { s with cur := none }
     (t.slotOk b = true → (s.scalar t b 0).toNat % 4 ≠ 0 →
       exec (.br b) s = trap s0 ∧
       (t.scalarSrc a = true → t.readable a → Reads t (popsOnce [(0, a)]) u q →
         let s1 := s.after i u (popsOnce [(0, a)])
         exec (.brz a b) s = (if s.scalar u a (q 0 0) = 0 then trap s1 else .next (s.gone i u t.fall)) ∧
         exec (.brnz a b) s = (if s.scalar u a (q 0 0) = 0 then .next (s.gone i u t.fall) else trap s1)) ∧
       (maskSrc a = true →
         exec (.brmz a b) s = (if t.mask a = 0 then trap s0 else .next (s.gone i t t.fall)) ∧
         exec (.brmnz a b) s = (if t.mask a = 0 then .next (s.gone i t t.fall) else trap s0)) ∧
       ∀ d : Sel, isS d = true ∨ d = .sp .zero → exec (.call d b) s = trap s0) ∧
     ∀ n : BitVec 6, (t.s n).toNat % 4 ≠ 0 →
       exec (.jmp (.s n)) s = trap s0 ∧ ∀ d : Sel, isS d = true ∨ d = .sp .zero → exec (.call d (.s n)) s = trap s0)

/-- R15, R16, R89: EXIT takes the effective lanes out of the live set and of M0; it ends a team with no live lane, no refill source and nothing in flight. -/
def Obligations.ExitResult : Prop :=
  ∀ (s : State) (i : Nat) (t : Team), Issues s i t → ({ s with cur := none } : State).regPending i t.eff = false →
    let t1 : Team := { t with live := t.live &&& ~~~t.eff }
    let t2 := t1.setM 0 (t.m 0)
    (t1.live ≠ 0 ∨ t.refill ≠ none → exec .exit s = .next (s.done i t2)) ∧
    (t1.live = 0 → t.refill = none →
      let s1 := ({ s with cur := none } : State).setTeam i t2
      s1.postedOf i = [] → s1.teamIdle i = true → s1.waveReleases i = true → exec .exit s = .next (s1.endTeam i))

/-- R111, R171, R172, R178, R182: arithmetic on numbers. An integer result is kept modulo 2^w, or with mode.sat clamped to the type's range with st.sat where the clamp changed it. A rounding to a multiple of 2^q takes the neighbour that its mode names, and says whether it was exact. Every finite value of a format rounds to its own code, in every mode, and sets no status bit. -/
def Obligations.NumberRule : Prop :=
  (∀ (y : Ty) (x : Int), y.isInt = true →
    ((y.store false x).2 = 0 ∧ (2 ^ y.width : Int) ∣ y.int (y.store false x).1 - x ∧
      y.lo ≤ y.int (y.store false x).1 ∧ y.int (y.store false x).1 ≤ y.hi) ∧
    (y.lo ≤ x → x ≤ y.hi → y.int (y.store true x).1 = x ∧ (y.store true x).2 = 0) ∧
    (x < y.lo → y.int (y.store true x).1 = y.lo ∧ (y.store true x).2 = stSat) ∧
    (y.hi < x → y.int (y.store true x).1 = y.hi ∧ (y.store true x).2 = stSat)) ∧
  (∀ (rm : Rnd) (neg : Bool) (m : Nat) (e q : Int), e < q →
    let k := 2 ^ (q - e).toNat
    let n := (roundAt rm neg m e q).1
    ((roundAt rm neg m e q).2 = true ↔ k ∣ m) ∧ (k ∣ m → n * k = m) ∧
    (rm = .rz ∨ (rm = .ru ∧ neg = true) ∨ (rm = .rd ∧ neg = false) → n * k ≤ m ∧ m < n * k + k) ∧
    ((rm = .ru ∧ neg = false) ∨ (rm = .rd ∧ neg = true) → m ≤ n * k ∧ n * k < m + k) ∧
    (rm = .rne ∨ rm = .rna → 2 * (n * k) ≤ 2 * m + k ∧ 2 * m ≤ 2 * (n * k) + k) ∧
    (rm = .rne → 2 * (n * k) = 2 * m + k ∨ 2 * m = 2 * (n * k) + k → n % 2 = 0) ∧
    (rm = .rna → 2 * m ≠ 2 * (n * k) + k)) ∧
  (∀ (y : Ty) (f : Fmt) (rm : Rnd) (x : Nat) (neg : Bool) (m : Nat) (e : Int), fmtOf y = some f → x < 2 ^ f.width →
    f.val x = .fin neg m e → f.round rm false false neg m e = (x, 0))

/-- R65, R107, R110, R113, R114, R116, R123, R130: the two-source lane instructions give each active lane the element their rule names, of sources of every form, to a destination of every form (V register, ZERO, or one pushed entry a lane); status bits stick, and nothing but the team's record changes; with no lane active nothing is read or written, and the team goes on. What `store` and `round` give is NumberRule's matter; the other operations on elements are the model's own. -/
def Obligations.LaneArithmeticResult : Prop :=
  ∀ (s : State) (i : Nat) (t u : Team) (q : Nat → Nat → Word) (d a b : Sel), Issues s i t →
    t.elemDst t.ty d = true → t.elemSrc t.ty a = true → t.elemSrc t.ty b = true → t.readable a → t.readable b → t.pushCheck d = none →
    Reads t (popsLanes t.active [(0, a), (1, b)]) u q → u.takesAll d t.active.length →
    let y := t.ty
    let x (l : Nat) := s.elem t y a l (q 0 l)
    let z (l : Nat) := s.elem t y b l (q 1 l)
    let fin (f : Nat → Nat × Nat) : Host.Outcome State Fault Refusal := .next (s.done i (u.putF d f))
    (y.isInt = true →
      exec (.vadd d a b) s = fin (fun l => y.store t.sat (y.int (x l) + y.int (z l))) ∧
      exec (.vsub d a b) s = fin (fun l => y.store t.sat (y.int (x l) - y.int (z l))) ∧
      exec (.vmul d a b) s = fin (fun l => y.store t.sat (y.int (x l) * y.int (z l))) ∧
      (y.wide = false → exec (.vmulh d a b) s = fin (fun l => (y.extend (y.int (x l) * y.int (z l) / 2 ^ y.width), 0))) ∧
      exec (.vmin d a b) s = fin (fun l => (y.extend (min (y.int (x l)) (y.int (z l))), 0)) ∧
      exec (.vmax d a b) s = fin (fun l => (y.extend (max (y.int (x l)) (y.int (z l))), 0)) ∧
      exec (.vabsd d a b) s = fin (fun l => y.store t.sat ((y.int (x l) - y.int (z l)).natAbs : Int))) ∧
    (∀ f, fmtOf y = some f → y.isFloat = true →
      exec (.vadd d a b) s = fin (fun l => f.add t.rnd t.flush (x l) (z l)) ∧
      exec (.vsub d a b) s = fin (fun l => f.sub t.rnd t.flush (x l) (z l)) ∧
      exec (.vmul d a b) s = fin (fun l => f.mul t.rnd t.flush (x l) (z l)) ∧
      exec (.vmin d a b) s = fin (fun l => f.minmax t.flush false (x l) (z l)) ∧
      exec (.vmax d a b) s = fin (fun l => f.minmax t.flush true (x l) (z l)) ∧
      exec (.vabsd d a b) s = fin (fun l => elAbsd y t.rnd t.flush t.sat (x l) (z l)) ∧
      exec (.vcpsgn d a b) s = fin (fun l => (f.signed (f.neg (z l)) (f.mag (x l)), 0)) ∧
      (∃ g : Nat → Nat × Nat, exec (.vldexp d a b) s = fin g ∧ ∀ l neg m e, f.input t.flush (x l) = .fin neg m e →
        -1000 ≤ signedOf 32 (z l) → signedOf 32 (z l) ≤ 1000 → g l = f.round t.rnd t.flush false neg m (e + signedOf 32 (z l)))) ∧
    (y.packs = true →
      exec (.vunpk d a b) s = fin (fun l => convert y y.wide32 t.rnd t.flush t.sat (slice (x l) y.width (z l % (32 / y.width)))))

/-- R65, R113, R114, R116, R119, R120, R123: the one-source lane instructions, likewise, also with no lane active. -/
def Obligations.LaneUnaryResult : Prop :=
  ∀ (s : State) (i : Nat) (t u : Team) (q : Nat → Nat → Word) (d a : Sel), Issues s i t →
    t.elemDst t.ty d = true → t.elemSrc t.ty a = true → t.readable a → t.pushCheck d = none →
    Reads t (popsLanes t.active [(0, a)]) u q → u.takesAll d t.active.length →
    let y := t.ty
    let x (l : Nat) := s.elem t y a l (q 0 l)
    let fin (f : Nat → Nat × Nat) : Host.Outcome State Fault Refusal := .next (s.done i (u.putF d f))
    exec (.vmov d a) s = fin (fun l => (x l, 0)) ∧
    (y.isInt = true → y.signed = true →
      exec (.vabs d a) s = fin (fun l => y.store t.sat ((y.int (x l)).natAbs : Int)) ∧
      exec (.vneg d a) s = fin (fun l => y.store t.sat (-(y.int (x l))))) ∧
    (∀ f, fmtOf y = some f → y.isFloat = true →
      exec (.vabs d a) s = fin (fun l => (f.mag (x l), 0)) ∧
      exec (.vneg d a) s = fin (fun l => (f.signed (!f.neg (x l)) (f.mag (x l)), 0)) ∧
      exec (.vrnd d a) s = fin (fun l => elRnd f t.rnd t.flush (x l)) ∧
      exec (.vfrc d a) s = fin (fun l => elFrc f t.rnd t.flush (x l)) ∧
      exec (.vrcp d a) s = fin (fun l => elemFn .rcp y t.rnd t.flush (x l)) ∧
      exec (.vrsq d a) s = fin (fun l => elemFn .rsq y t.rnd t.flush (x l)) ∧
      exec (.vsqrt d a) s = fin (fun l => elemFn .sqrt y t.rnd t.flush (x l)) ∧
      exec (.vexp2 d a) s = fin (fun l => elemFn .exp2 y t.rnd t.flush (x l)) ∧
      exec (.vlog2 d a) s = fin (fun l => elemFn .log2 y t.rnd t.flush (x l)) ∧
      exec (.vsin d a) s = fin (fun l => elemFn .sin y t.rnd t.flush (x l)) ∧
      exec (.vcos d a) s = fin (fun l => elemFn .cos y t.rnd t.flush (x l)) ∧
      exec (.vtanh d a) s = fin (fun l => elemFn .tanh y t.rnd t.flush (x l))) ∧
    (y.shifts = true →
      exec (.vpopc d a) s = fin (fun l => (y.extend (((List.range y.width).countP fun k => (x l).testBit k : Nat) : Int), 0)) ∧
      (∃ g : Nat → Nat, exec (.vclz d a) s = fin (fun l => (y.extend ((g l : Nat) : Int), 0)) ∧ ∀ l, g l ≤ y.width ∧
        (∀ k, y.width - g l ≤ k → k < y.width → (x l).testBit k = false) ∧ (g l < y.width → (x l).testBit (y.width - 1 - g l) = true)) ∧
      (∃ g : Nat → Nat, exec (.vbrev d a) s = fin (fun l => (y.extend ((g l : Nat) : Int), 0)) ∧
        ∀ l k, (g l).testBit k = (decide (k < y.width) && (x l).testBit (y.width - 1 - k))))

/-- R18, R65, R113, R114, R124, R130: the lane instructions that also read D, which is a V register, likewise, also with no lane active. -/
def Obligations.LaneAccumulateResult : Prop :=
  ∀ (s : State) (i : Nat) (t u : Team) (q : Nat → Nat → Word) (r : BitVec 7) (a b : Sel), Issues s i t →
    t.elemDst t.ty (.v r) = true → t.elemSrc t.ty a = true → t.elemSrc t.ty b = true → t.readable a → t.readable b →
    Reads t (popsLanes t.active [(0, a), (1, b)]) u q →
    let y := t.ty
    let x (l : Nat) := s.elem t y a l (q 0 l)
    let z (l : Nat) := s.elem t y b l (q 1 l)
    let w (l : Nat) := (t.v l r.toNat).toNat
    let fin (f : Nat → Nat × Nat) : Host.Outcome State Fault Refusal := .next (s.done i (u.putF (.v r) f))
    (∀ f, fmtOf y = some f → y.isFloat = true →
      exec (.vfma (.v r) a b) s = fin (fun l => f.fma t.rnd t.flush false (x l) (z l) (w l)) ∧
      exec (.vfnma (.v r) a b) s = fin (fun l => f.fma t.rnd t.flush true (x l) (z l) (w l))) ∧
    (y.isInt = true → y.wide = false →
      exec (.vmad (.v r) a b) s = fin (fun l => y.store t.sat (y.int (x l) * y.int (z l) + y.int (w l)))) ∧
    (y = .i8 ∨ y = .n8 → exec (.vdot4 (.v r) a b) s = fin (fun l =>
      let o : Ty := if y = .i8 then .i32 else .n32
      o.store t.sat (o.int (w l) + y.int (slice (x l) 8 0) * y.int (slice (z l) 8 0) + y.int (slice (x l) 8 1) * y.int (slice (z l) 8 1) +
        y.int (slice (x l) 8 2) * y.int (slice (z l) 8 2) + y.int (slice (x l) 8 3) * y.int (slice (z l) 8 3)))) ∧
    (y = .i16 ∨ y = .n16 → exec (.vdot2 (.v r) a b) s = fin (fun l =>
      let o : Ty := if y = .i16 then .i32 else .n32
      o.store t.sat (o.int (w l) + y.int (slice (x l) 16 0) * y.int (slice (z l) 16 0) + y.int (slice (x l) 16 1) * y.int (slice (z l) 16 1)))) ∧
    (∀ f, fmtOf y = some f → y = .f16 ∨ y = .bf16 → exec (.vdot2 (.v r) a b) s = fin (fun l => floatDot2 f t.rnd t.flush (x l) (z l) (w l))) ∧
    (y.packs = true → exec (.vpack (.v r) a b) s = fin (fun l =>
      let m := convert y.wide32 y t.rnd t.flush t.sat (x l)
      let n := convert y.wide32 y t.rnd t.flush t.sat (z l)
      (if y.width = 16 then m.1 % 2 ^ 16 + n.1 % 2 ^ 16 * 2 ^ 16 else w l / 2 ^ 16 + m.1 % 2 ^ 8 * 2 ^ 16 + n.1 % 2 ^ 8 * 2 ^ 24, m.2 ||| n.2)))

/-- R65, R115, R116: (over no lane, too) the bitwise instructions act on all 32 bits; a shift or rotate takes a 32-bit count, and a count of the width or more leaves 0 (VSRA: the sign). -/
def Obligations.LaneBitsResult : Prop :=
  ∀ (s : State) (i : Nat) (t u : Team) (q : Nat → Nat → Word) (d a b : Sel), Issues s i t →
    t.readable a → t.readable b → t.pushCheck d = none → u.takesAll d t.active.length →
    let y := t.ty
    (t.vectorDst d = true → t.vectorSrc a = true →
      let x (l : Nat) := s.src t a l (q 0 l)
      let z (l : Nat) := s.src t b l (q 1 l)
      let fin (f : Nat → Word) : Host.Outcome State Fault Refusal := .next (s.done i (u.putV d (t.active.map fun l => (l, f l))))
      (t.vectorSrc b = true → Reads t (popsLanes t.active [(0, a), (1, b)]) u q →
        exec (.vand d a b) s = fin (fun l => x l &&& z l) ∧
        exec (.vor d a b) s = fin (fun l => x l ||| z l) ∧
        exec (.vxor d a b) s = fin (fun l => x l ^^^ z l)) ∧
      (Reads t (popsLanes t.active [(0, a)]) u q → exec (.vnot d a) s = fin (fun l => ~~~x l))) ∧
    (t.elemDst y d = true → t.elemSrc y a = true → t.vectorSrc b = true → y.shifts = true → Reads t (popsLanes t.active [(0, a), (1, b)]) u q →
      let x (l : Nat) := s.elem t y a l (q 0 l) % 2 ^ y.width
      let c (l : Nat) := (s.src t b l (q 1 l)).toNat
      let fin (f : Nat → Int) : Host.Outcome State Fault Refusal := .next (s.done i (u.putE y d (t.active.map fun l => (l, y.extend (f l)))))
      exec (.vshl d a b) s = fin (fun l => if y.width ≤ c l then 0 else ((x l * 2 ^ c l : Nat) : Int)) ∧
      exec (.vshr d a b) s = fin (fun l => ((x l / 2 ^ c l : Nat) : Int)) ∧
      exec (.vsra d a b) s = fin (fun l => signedOf y.width (x l) / 2 ^ (min (c l) y.width)) ∧
      (∃ g : Nat → Nat, exec (.vrot d a b) s = fin (fun l => ((g l : Nat) : Int)) ∧
        ∀ l k, k < y.width → (g l).testBit ((k + c l) % y.width) = (x l).testBit k))

/-- R65, R117 to R119: VSEL takes A where the guard holds, else B, over the lanes of M0; VBCAST reads one lane; VCVT converts every active lane; with none they do nothing. -/
def Obligations.LaneSelectResult : Prop :=
  ∀ (s : State) (i : Nat) (t u : Team) (q : Nat → Nat → Word) (d a b : Sel), Issues s i t → t.readable a → t.readable b → t.pushCheck d = none →
    let y := t.ty
    (t.elemDst y d = true → t.elemSrc y a = true → t.elemSrc y b = true → t.guard ≠ 0 → (lanesBelow (t.m 0) t.nlanes).isEmpty = false →
      Reads t (popsLanes (lanesBelow (t.m 0) t.nlanes) [(0, a), (1, b)]) u q → u.takesAll d (lanesBelow (t.m 0) t.nlanes).length →
      exec (.vsel d a b) s = .next (s.done i (u.putE y d ((lanesBelow (t.m 0) t.nlanes).map fun l =>
        (l, if (t.guardMask).getLsbD l then s.elem t y a l (q 0 l) else s.elem t y b l (q 1 l)))))) ∧
    (∀ (r : BitVec 7), t.vectorDst d = true → t.vOk r 1 = true → t.scalarSrc b = true → (t.active.isEmpty = true → exec (.vbcast d (.v r) b) s = .next (s.done i t)) ∧
      (t.active.isEmpty = false → Reads t (popsOnce [(1, b)]) u q → u.takesAll d t.active.length →
      let n := (s.scalar t b (q 1 0)).toNat
      exec (.vbcast d (.v r) b) s = .next (s.done i (u.putV d (t.active.map fun l => (l, if n < t.nlanes then t.v n r.toNat else 0)))))) ∧
    (∀ (c : BitVec 8) (o : Ty), convertCode c = some o → y.converts = true → t.vectorDst d = true → t.vectorSrc a = true →
      Reads t (popsLanes t.active [(0, a)]) u q → u.takesAll d t.active.length →
      exec (.vcvt d a c) s = .next (s.done i (u.putW d fun l =>
        let r := convert y o t.rnd t.flush t.sat (s.src t a l (q 0 l)).toNat
        (BitVec.ofNat 32 r.1, r.2))))
/-- R19, R65, R95 to R97: what a compare finds of each active lane, and where it writes it (with no lane active it writes nothing): a mask D has exactly the lanes that hold, a V register all ones or zeros, and the status bit of an invalid operation sticks. -/
def Obligations.CompareResult : Prop :=
  ∀ (s : State) (i : Nat) (t u : Team) (q : Nat → Nat → Word) (d a b : Sel), Issues s i t → cmpDst t d = true →
    t.readable a → t.readable b →
    let none1 (x : Instr) : Prop := exec x s = .next (s.done i t)
    (t.active.isEmpty = true →
      (t.elemSrc t.ty a = true → t.elemSrc t.ty b = true → t.ty.compares = true →
        none1 (.vcmpeq d a b) ∧ none1 (.vcmpne d a b) ∧ none1 (.vcmplt d a b) ∧ none1 (.vcmple d a b)) ∧
      (∀ c : BitVec 8, (fmtOf t.ty).isSome = true → t.vectorSrc a = true → none1 (.vclass d a c))) ∧ (t.active.isEmpty = false →
    let y := if t.ty = .b32 then .n32 else t.ty
    let fin (f : Nat → Bool × Nat) : Host.Outcome State Fault Refusal := .next (s.done i (u.putCmp d f))
    (t.elemSrc t.ty a = true → t.elemSrc t.ty b = true → Reads t (popsLanes t.active [(0, a), (1, b)]) u q →
      let x (l : Nat) := s.elem t y a l (q 0 l)
      let z (l : Nat) := s.elem t y b l (q 1 l)
      (y.isInt = true →
        exec (.vcmpeq d a b) s = fin (fun l => (decide (y.int (x l) = y.int (z l)), 0)) ∧
        exec (.vcmpne d a b) s = fin (fun l => (decide (y.int (x l) ≠ y.int (z l)), 0)) ∧
        exec (.vcmplt d a b) s = fin (fun l => (decide (y.int (x l) < y.int (z l)), 0)) ∧
        exec (.vcmple d a b) s = fin (fun l => (decide (y.int (x l) ≤ y.int (z l)), 0))) ∧
      (∀ f, fmtOf y = some f → y.isFloat = true →
        let v (l : Nat) := f.input t.flush (x l)
        let w (l : Nat) := f.input t.flush (z l)
        let sig (l : Nat) := if anySignalling [v l, w l] then stInv else 0
        let bad (l : Nat) := if anyNan [v l, w l] then stInv else 0
        exec (.vcmpeq d a b) s = fin (fun l => ((v l).eq (w l), sig l)) ∧
        exec (.vcmpne d a b) s = fin (fun l => (!(v l).eq (w l), sig l)) ∧
        exec (.vcmplt d a b) s = fin (fun l => ((v l).lt (w l), bad l)) ∧
        exec (.vcmple d a b) s = fin (fun l => ((v l).lt (w l) || (v l).eq (w l), bad l)))) ∧
    (∀ (c : BitVec 8) f, fmtOf t.ty = some f → t.vectorSrc a = true → Reads t (popsLanes t.active [(0, a)]) u q →
      exec (.vclass d a c) s = fin (fun l => (c.getLsbD (classBit f ((s.src t a l (q 0 l)).toNat % 2 ^ f.width)), 0))))

/-- R125, R126, R129, R131: what the instructions that read other lanes' registers write; a lane that does not exist gives 0. -/
def Obligations.CrossLaneResult : Prop :=
  ∀ (s : State) (i : Nat) (t u : Team) (q : Nat → Nat → Word) (d b : Sel) (r : BitVec 7), Issues s i t → t.vOk r 1 = true →
    let other (l : Nat) : Word := if l < t.nlanes then t.v l r.toNat else 0
    (t.active.isEmpty = false → t.vectorDst d = true → t.pushCheck d = none → u.takesAll d t.active.length →
      let fin (f : Nat → Word) : Host.Outcome State Fault Refusal := .next (s.done i (u.putV d (t.active.map fun l => (l, f l))))
      (∀ c : BitVec 8, u = t → c.toNat < 0x80 →
        exec (.vshuf d (.v r) c) s = fin (fun l => other (l - l % 32 +
          (if c.toNat < 0x20 then l % 32 ^^^ c.toNat
           else if c.toNat < 0x40 then (l % 32 + c.toNat - 0x20) % 32
           else if c.toNat < 0x60 then (if l % 32 + c.toNat - 0x40 < 32 then l % 32 + c.toNat - 0x40 else l % 32)
           else if c.toNat ≤ l % 32 + 0x60 then l % 32 + 0x60 - c.toNat else l % 32)))) ∧
      (t.vectorSrc b = true → t.readable b → Reads t (popsLanes t.active [(1, b)]) u q →
        exec (.vperm d (.v r) b) s = fin (fun l => other (s.src t b l (q 1 l)).toNat)) ∧
      (u = t → maskSrc b = true →
        exec (.vmsk d b) s = fin (fun l => BitVec.ofNat 32 ((List.range l).countP fun k => (t.mask b).getLsbD k)))) ∧
    (t.active.isEmpty = false → ∀ e : BitVec 7, t.vOk e 1 = true →
      exec (.vmovp (.v e) (.v r)) s =
        .next (s.done i (t.putV (.v e) ((List.range t.active.length).map fun k => (k, other ((t.active[k]?).getD 0)))))) ∧
    (t.pushCheck d = none → t.scalarSrc b = true → t.readable b → Reads t (popsOnce [(1, b)]) u q → u.takes d →
      exec (.vextr d (.v r) b) s = .next (s.done i (u.put d (other (s.scalar t b (q 1 0)).toNat)))) ∧
    (∀ a : Sel, t.scalarSrc a = true → t.readable a → t.scalarSrc b = true → t.readable b → Reads t (popsOnce [(0, a), (1, b)]) u q →
      let l := (s.scalar t b (q 1 0)).toNat
      exec (.vins (.v r) a b) s = .next (s.done i (if l < t.nlanes then u.setV l r.toNat (s.scalar t a (q 0 0)) else u)))

/-- R65, R127, R128: reductions and scans combine the active lanes' elements in ascending lane order from the first: over a group into every active lane of it, over the team into S registers, or up to each lane; with D ZERO only the status bits are left; with no lane active nothing is written. The model's choice, which no rule states: with D ZERO the scope is the lane group, as for a V register (log 98). -/
def Obligations.ReductionResult : Prop :=
  ∀ (s : State) (i : Nat) (t u : Team) (q : Nat → Nat → Word) (a : Sel), Issues s i t → t.ty.arith = true →
    t.elemSrc t.ty a = true → t.readable a →
    (t.active.isEmpty = true → ∀ d, d = .sp .zero ∨ (∃ r, d = .v r ∧ t.elemDst t.ty d = true) ∨ (∃ n : BitVec 6, d = .s n ∧ (t.ty.wide = false ∨ n.toNat % 2 = 0)) →
      exec (.vredadd d a) s = .next (s.done i t) ∧ exec (.vredmin d a) s = .next (s.done i t) ∧ exec (.vredmax d a) s = .next (s.done i t)) ∧
    (t.active.isEmpty = false → Reads t (popsLanes t.active [(0, a)]) u q →
    let fold (c : Comb) (ls : List Nat) := combineAll c t.ty t.rnd t.flush t.sat (ls.map fun l => s.elem t t.ty a l (q 0 l))
    let group (l : Nat) := t.active.filter fun k => k / 32 == l / 32
    let upTo (ls : List Nat) (l : Nat) := ls.filter fun k => decide (k ≤ l)
    let none0 (f : Nat → Nat × Nat) : Host.Outcome State Fault Refusal := .next (s.done i (u.putF (.sp .zero) f))
    (∀ r : BitVec 7, t.elemDst t.ty (.v r) = true →
      let fin (f : Nat → Nat × Nat) : Host.Outcome State Fault Refusal := .next (s.done i (u.putF (.v r) f))
      exec (.vredadd (.v r) a) s = fin (fun l => fold .add (group l)) ∧
      exec (.vredmin (.v r) a) s = fin (fun l => fold .min (group l)) ∧
      exec (.vredmax (.v r) a) s = fin (fun l => fold .max (group l)) ∧
      (∀ (b : BitVec 8) (c : Comb), scanComb b = some c →
        exec (.vscan (.v r) a b) s = fin (fun l => fold c (upTo (group l) l)) ∧
        exec (.vscant (.v r) a b) s = fin (fun l => fold c (upTo t.active l)))) ∧
    (exec (.vredadd (.sp .zero) a) s = none0 (fun l => fold .add (group l)) ∧
      exec (.vredmin (.sp .zero) a) s = none0 (fun l => fold .min (group l)) ∧
      exec (.vredmax (.sp .zero) a) s = none0 (fun l => fold .max (group l))) ∧
    (∀ n : BitVec 6, t.ty.wide = false ∨ n.toNat % 2 = 0 →
      let fin (r : Nat × Nat) : Host.Outcome State Fault Refusal :=
        let v := (u.addStatus r.2).setS n (BitVec.ofNat 32 r.1)
        .next (s.done i (if t.ty.wide then v.setS (n + 1) (BitVec.ofNat 32 (r.1 / 2 ^ 32)) else v))
      exec (.vredadd (.s n) a) s = fin (fold .add t.active) ∧
      exec (.vredmin (.s n) a) s = fin (fold .min t.active) ∧
      exec (.vredmax (.s n) a) s = fin (fold .max t.active)))

/-- R173 to R177, R208, R209: QBLK quantises eight registers of each active lane to a word of Q4X codes under a scale, DQBLK decodes a word to eight F32 registers. -/
def Obligations.BlockQuantResult : Prop :=
  ∀ (s : State) (i : Nat) (t u : Team) (q : Nat → Nat → Word) (d a b : Sel) (r : BitVec 7), Issues s i t → t.active.isEmpty = false →
    t.vOk r 8 = true → t.vectorSrc b = true → t.readable b →
    (∀ f, fmtOf t.ty = some f → t.ty.isFloat = true → t.vectorDst d = true → t.pushCheck d = none →
      Reads t (popsLanes t.active [(1, b)]) u q → u.takesAll d t.active.length →
      exec (.qblk d (.v r) b) s = .next (s.done i (u.putW d fun l =>
        let w := q4Word f t.rnd t.flush ((s.src t b l (q 1 l)).toNat % 256) ((List.range 8).map fun k => (t.v l (r.toNat + k)).toNat % 2 ^ f.width)
        (BitVec.ofNat 32 w.1, w.2)))) ∧
    (t.vectorSrc a = true → t.readable a → Reads t (popsLanes t.active [(0, a), (1, b)]) u q →
      let e (l k : Nat) := dq4Elem t.flush ((s.src t b l (q 1 l)).toNat % 256) (s.src t a l (q 0 l)).toNat k
      let v := u.addStatus (t.active.foldl (fun x l => (List.range 8).foldl (fun x k => x ||| (e l k).2) x) 0)
      exec (.dqblk (.v r) a b) s = .next (s.done i (t.active.foldl (fun v l => v.setVs l r.toNat ((List.range 8).map fun k => BitVec.ofNat 32 (e l k).1)) v)))
/-- R67, R105, R106: SLD and SLD2 start one access of 4 or 8 bytes at the pair plus B sign-extended, modulo 2^64, for the register or pair D, on the done flag of class A; a fault of it is a scalar record and starts nothing. The model's choice, which no rule states: SLD, which loads one register, takes an odd D too (log 107). -/
def Obligations.ScalarLoadResult : Prop :=
  ∀ (s s2 : State) (i : Nat) (t u : Team) (q : Nat → Nat → Word) (r n : BitVec 6) (b : Sel), Issues s i t → n.toNat % 2 = 0 →
    t.scalarSrc b = true → t.readable b → Reads t (popsOnce [(1, b)]) u q → u.flagFull (t.setFlag false) = false →
    let acc (size : Nat) := Acc.new 0 ((t.pair n + sext64 (s.scalar t b (q 1 0))) % 2 ^ 64) size size r.toNat []
    let start (size : Nat) := ((s.after i u (popsOnce [(1, b)])).setTeam i u).startMem i u .read (acc size)
    let fin (x : Acc) : Host.Outcome State Fault Refusal :=
      .next (s2.started i u { opOf i u s2 (t.setFlag false) (.load .loadStore true 32 false) with accs := [x], acq := t.acqScope, mask := 0 } [])
    let trap (f : LaneFault) : Host.Outcome State Fault Refusal := .next ((s2.setTeam i u).takeTrap (lanesInfo i u t.pc.toNat true [f] .whole))
    (∀ x, start 4 = (.ok x, s2) → exec (.sld (.s r) (.s n) b) s = fin x) ∧
    (∀ f, start 4 = (.fault f, s2) → exec (.sld (.s r) (.s n) b) s = trap f) ∧
    (r.toNat % 2 = 0 →
      (∀ x, start 8 = (.ok x, s2) → exec (.sld2 (.s r) (.s n) b) s = fin x) ∧
      (∀ f, start 8 = (.fault f, s2) → exec (.sld2 (.s r) (.s n) b) s = trap f))

/-- R105, R135, R281, R284: SST and SST2 (plain, and of their own device) post D's 4 or 8 bytes, least significant first, at the pair plus B: one posted entry, newest of the team; memory keeps every byte until it drains. Their release form drains the team's posted entries and sends the bytes on, under its scope; a plain store to another device is on its way there. -/
def Obligations.ScalarStoreResult : Prop :=
  ∀ (s s1 s2 : State) (i : Nat) (t u : Team) (q : Nat → Nat → Word) (n : BitVec 6) (b : Sel), Issues s i t → n.toNat % 2 = 0 →
    t.scalarSrc b = true → t.readable b → Reads t (popsOnce [(1, b)]) u q → u.flagFull (t.setFlag true) = false →
    let va := (t.pair n + sext64 (s.scalar t b (q 1 0))) % 2 ^ 64
    let start (size v : Nat) := ((s.after i u (popsOnce [(1, b)])).setTeam i u).startMem i u .write (Acc.new 0 va size size 0 (natBytes v size))
    let out (r : Option Nat) (x : Acc) : State := s2.enterOp i u { opOf i u s2 (t.setFlag true) .store with mask := 0, accs := [x], rel := r } []
    let away (x : Acc) : Host.Outcome State Fault Refusal := .next ((out none x).issued i)
    let sent (sc : Nat) (x : Acc) : Host.Outcome State Fault Refusal := .next (((out (some sc) x).sendAll i u s2.stamp sc 0 [x]).issued i)
    let goes (size v : Nat) (x : Acc) : Prop := (∃ x0 s3, start size v = (.ok x0, s3)) ∧ DrainedFor (s.after i u (popsOnce [(1, b)])) i u s1 ∧
      s1.startMem i u .write (Acc.new 0 va size size 0 (natBytes v size)) = (.ok x, s2)
    let fin (x : Acc) : Host.Outcome State Fault Refusal :=
      let s3 := s2.enterOp i u { opOf i u s2 (t.setFlag true) .store with mask := 0, accs := [] } []
      .next ((({ s3.bump with posted := cellPut s3.posted s3.stamp { team := i, op := s2.stamp, lane := 0, va := va, data := x.data, tr := some (x.tr.shift 0), held := none, sent := false, mig := false } } : State)).issued i)
    (t.releases = none →
      (∀ r x, x.remoteDev = none → start 4 (t.s r).toNat = (.ok x, s2) → exec (.sst (.s r) (.s n) b) s = fin x) ∧
      (∀ x, x.remoteDev = none → start 4 0 = (.ok x, s2) → exec (.sst (.sp .zero) (.s n) b) s = fin x) ∧
      (∀ r x, r.toNat % 2 = 0 → x.remoteDev = none → start 8 (t.pair r) = (.ok x, s2) → exec (.sst2 (.s r) (.s n) b) s = fin x) ∧
      (∀ r x, x.remoteDev.isSome = true → start 4 (t.s r).toNat = (.ok x, s2) → exec (.sst (.s r) (.s n) b) s = away x) ∧
      (∀ r x, r.toNat % 2 = 0 → x.remoteDev.isSome = true → start 8 (t.pair r) = (.ok x, s2) → exec (.sst2 (.s r) (.s n) b) s = away x)) ∧
    (∀ sc, t.releases = some sc →
      (∀ r x, goes 4 (t.s r).toNat x → exec (.sst (.s r) (.s n) b) s = sent sc x) ∧
      (∀ x, goes 4 0 x → exec (.sst (.sp .zero) (.s n) b) s = sent sc x) ∧
      (∀ r x, r.toNat % 2 = 0 → goes 8 (t.pair r) x → exec (.sst2 (.s r) (.s n) b) s = sent sc x))

/-- R65, R132, R134, R137, R253: the vector loads, which do nothing with no lane active, start one access for each active lane, of the form's width, at S63:S62 plus A plus B modulo 2^64; the accesses that start are in flight, and the faulting lanes are kept with their operation. -/
def Obligations.VectorLoadResult : Prop :=
  ∀ (s s2 : State) (i : Nat) (t u : Team) (q : Nat → Nat → Word) (r : BitVec 7) (a b : Sel) (good : List Acc) (bad : List (LaneFault × Acc)), Issues s i t →
    t.vectorSrc a = true → t.scalarSrc b = true → t.readable a → t.readable b →
    (t.active.isEmpty = true →
      let none1 (x : Instr) : Prop := exec x s = .next (s.done i t)
      (t.vOk r 1 = true → t.ty.loads = true → none1 (.vld1 (.v r) a b)) ∧ (t.vOk r 2 = true → none1 (.vld2 (.v r) a b)) ∧
      (t.vOk r 4 = true → none1 (.vld4 (.v r) a b)) ∧ (t.vOk r 8 = true → none1 (.vld8 (.v r) a b)) ∧ (t.vOk r 1 = true → none1 (.cld (.v r) a b))) ∧
    (t.active.isEmpty = false → Reads t (popsVS t a b) u q → u.flagFull (t.setFlag false) = false →
    let starts (size : Nat) : Prop := Starts (s.after i u (popsVS t a b)) i u .read (t.active.map fun l =>
      Acc.new l ((t.pair 62 + (s.src t a l (q 0 l)).toNat + (s.scalar t b (q 1 0)).toNat) % 2 ^ 64) size size r.toNat []) good bad s2
    let fin (p : Path) (bits : Nat) (sign : Bool) (acq : Option Nat) : Host.Outcome State Fault Refusal :=
      .next (s2.started i u { opOf i u s2 (t.setFlag false) (.load p false bits sign) with accs := good, acq := acq } bad)
    (t.vOk r 1 = true → t.ty.loads = true → starts (t.ty.width / 8) → exec (.vld1 (.v r) a b) s = fin .loadStore t.ty.width t.ty.signed t.acqScope) ∧
    (t.vOk r 2 = true → starts 8 → exec (.vld2 (.v r) a b) s = fin .loadStore 32 false t.acqScope) ∧
    (t.vOk r 4 = true → starts 16 → exec (.vld4 (.v r) a b) s = fin .loadStore 32 false t.acqScope) ∧
    (t.vOk r 8 = true → starts 32 → exec (.vld8 (.v r) a b) s = fin .loadStore 32 false t.acqScope) ∧
    (t.vOk r 1 = true → Starts (s.after i u (popsVS t a b)) i u .read (t.active.map fun l =>
      { Acc.new l ((t.pair 62 + (s.src t a l (q 0 l)).toNat + (s.scalar t b (q 1 0)).toNat) % 2 ^ 64) 4 4 r.toNat [] with tied := oneSource a }) good bad s2 →
      exec (.cld (.v r) a b) s = fin .const 32 false none))

/-- R65, R132, R134 to R137, R281, R284: the vector stores without a release post their lanes' bytes, the last of the lanes that write one place alone; a release drains the team's posted entries first and sends its lanes' bytes on under its scope; with no lane active they do nothing. -/
def Obligations.VectorStoreResult : Prop :=
  ∀ (s s1 s2 : State) (i : Nat) (t u : Team) (q : Nat → Nat → Word) (a b : Sel) (good : List Acc) (bad : List (LaneFault × Acc)), Issues s i t →
    t.vectorSrc a = true → t.scalarSrc b = true → t.readable a → t.readable b →
    (t.active.isEmpty = true →
      let none1 (x : Instr) : Prop := exec x s = .next (s.done i t)
      ∀ r, (t.vOk r 1 = true → t.ty.loads = true → none1 (.vst1 (.v r) a b)) ∧ (t.vOk r 2 = true → none1 (.vst2 (.v r) a b)) ∧
        (t.vOk r 4 = true → none1 (.vst4 (.v r) a b)) ∧ (t.vOk r 8 = true → none1 (.vst8 (.v r) a b))) ∧
    (t.active.isEmpty = false → Reads t (popsVS t a b) u q → u.flagFull (t.setFlag true) = false →
      DrainedFor (s.after i u (popsVS t a b)) i u s1 →
    let starts (size : Nat) (data : Nat → List Byte) : Prop := s1.startAll i u .write (t.active.map fun l =>
      Acc.new l ((t.pair 62 + (s.src t a l (q 0 l)).toNat + (s.scalar t b (q 1 0)).toNat) % 2 ^ 64) size size 0 (data l)) = .ok good bad s2
    let ws := lastWriters good
    let fin : Host.Outcome State Fault Refusal := match t.releases with
      | none => .next (((s2.enterOp i u { opOf i u s2 (t.setFlag true) .store with accs := ws.filter (·.remoteDev.isSome) } bad).postAll i s2.stamp
        (ws.filter (·.remoteDev.isNone))).issued i)
      | some sc => .next (((s2.enterOp i u { opOf i u s2 (t.setFlag true) .store with accs := ws, rel := some sc } bad).sendAll i u s2.stamp sc 0 ws).issued i)
    let one (w : Word) := natBytes w.toNat (t.ty.width / 8)
    (t.ty.loads = true →
      (∀ r, t.vOk r 1 = true → starts (t.ty.width / 8) (fun l => one (t.v l r.toNat)) → exec (.vst1 (.v r) a b) s = fin) ∧
      (∀ n, starts (t.ty.width / 8) (fun _ => one (t.s n)) → exec (.vst1 (.s n) a b) s = fin) ∧
      (∀ k, t.litOk k = true → starts (t.ty.width / 8) (fun _ => one ((t.lit k).getD 0)) → exec (.vst1 (.k k) a b) s = fin) ∧
      (starts (t.ty.width / 8) (fun _ => natBytes 0 (t.ty.width / 8)) → exec (.vst1 (.sp .zero) a b) s = fin)) ∧
    (∀ r, t.vOk r 2 = true → starts 8 (fun l => wordsBytes (t.vs l r.toNat 2)) → exec (.vst2 (.v r) a b) s = fin) ∧
    (∀ r, t.vOk r 4 = true → starts 16 (fun l => wordsBytes (t.vs l r.toNat 4)) → exec (.vst4 (.v r) a b) s = fin) ∧
    (∀ r, t.vOk r 8 = true → starts 32 (fun l => wordsBytes (t.vs l r.toNat 8)) → exec (.vst8 (.v r) a b) s = fin))

/-- R345, R348: a translation changes nothing of the machine but what the walkers cache and the free choices made. -/
def Obligations.TranslationFrame : Prop :=
  ∀ (s : State) (p c die va : Nat) (core team lane : Option Nat) (k : Kind),
    ∃ tlb walks tick, (s.translate p c core die team lane va k).2 = { s with tlb := tlb, walks := walks, tick := tick }

/-- R215, R217, R248: the scratch loads and stores start one access of each active lane at A plus B modulo 2^32 in the team's cluster, and are served in pass order up to the first absent line. The model's choice, which no rule states: the accesses of lines that are present are served in the step that issues them (log 47). -/
def Obligations.ScratchResult : Prop :=
  ∀ (s s2 : State) (i : Nat) (t u : Team) (q : Nat → Nat → Word) (a b : Sel) (good : List Acc) (bad : List (LaneFault × Acc)), Issues s i t →
    t.active.isEmpty = false → t.vectorSrc a = true → t.scalarSrc b = true → t.readable a → t.readable b → Reads t (popsVS t a b) u q →
    let starts (size reg : Nat) (data : Nat → List Byte) : Prop := Starts (s.after i u (popsVS t a b)) i u .scratch (t.active.map fun l =>
      Acc.new l (s.src t a l (q 0 l) + s.scalar t b (q 1 0)).toNat size size reg (data l)) good bad s2
    (u.flagFull (t.setFlag false) = false → s.orderedBehind i false = none →
      let fin (bits : Nat) (sign : Bool) : Host.Outcome State Fault Refusal :=
        .next (((s2.enterOp i u { opOf i u s2 (t.setFlag false) (.pload bits sign) with accs := good } bad).serveOp s2.stamp i).issued i)
      (∀ r, t.vOk r 1 = true → t.ty.loads = true → starts (t.ty.width / 8) r.toNat (fun _ => []) → exec (.pld1 (.v r) a b) s = fin t.ty.width t.ty.signed) ∧
      (∀ r, t.vOk r 2 = true → starts 8 r.toNat (fun _ => []) → exec (.pld2 (.v r) a b) s = fin 32 false) ∧
      (∀ r, t.vOk r 4 = true → starts 16 r.toNat (fun _ => []) → exec (.pld4 (.v r) a b) s = fin 32 false)) ∧
    (u.flagFull (t.setFlag true) = false → s.orderedBehind i true = none →
      let fin : Host.Outcome State Fault Refusal :=
        .next (((s2.enterOp i u { opOf i u s2 (t.setFlag true) .pstore with accs := lastWriters good } bad).serveOp s2.stamp i).issued i)
      (t.ty.loads = true →
        (∀ r, t.vOk r 1 = true → starts (t.ty.width / 8) 0 (fun l => natBytes (t.v l r.toNat).toNat (t.ty.width / 8)) → exec (.pst1 (.v r) a b) s = fin) ∧
        (∀ n, starts (t.ty.width / 8) 0 (fun _ => natBytes (t.s n).toNat (t.ty.width / 8)) → exec (.pst1 (.s n) a b) s = fin) ∧
        (∀ k, t.litOk k = true → starts (t.ty.width / 8) 0 (fun _ => natBytes ((t.lit k).getD 0).toNat (t.ty.width / 8)) → exec (.pst1 (.k k) a b) s = fin) ∧
        (starts (t.ty.width / 8) 0 (fun _ => natBytes 0 (t.ty.width / 8)) → exec (.pst1 (.sp .zero) a b) s = fin)) ∧
      (∀ r, t.vOk r 2 = true → starts 8 0 (fun l => wordsBytes (t.vs l r.toNat 2)) → exec (.pst2 (.v r) a b) s = fin) ∧
      (∀ r, t.vOk r 4 = true → starts 16 0 (fun l => wordsBytes (t.vs l r.toNat 4)) → exec (.pst4 (.v r) a b) s = fin))

/-- R134, R137, R215, R224: a misaligned access raises ALIGN before anything is translated, and changes nothing; a scratch address runs into the cluster's shape and share, or the lane takes SCRATCH_BOUNDS (ALIGN before it). -/
def Obligations.AccessCheckRule : Prop :=
  ∀ (s : State) (i : Nat) (t : Team) (k : Kind) (a : Acc) (c : Cluster), recFind s.clusters t.cluster = some c →
    let good := a.va < 2 ^ 24 ∧ a.va / 2 ^ 20 < c.h * c.w ∧ a.va % 2 ^ 20 + a.size ≤ c.share
    (a.va % a.align ≠ 0 → s.startMem i t k a = (.fault (plainFault a.lane a.va .align), s)) ∧
    (a.va % a.align ≠ 0 → s.startScratch t a = .fault (plainFault a.lane a.va .align)) ∧
    (a.va % a.align = 0 → ¬good → s.startScratch t a = .fault (plainFault a.lane a.va .scratchBounds)) ∧
    (a.va % a.align = 0 → good → c.spoiled = [] →
      s.startScratch t a = .ok { a with tr := { place := .scratch t.cluster (a.va % 2 ^ 24), pa := 0, nodes := [] } })

/-- R254 to R256: SMPL and TLLD resolve their handle and read its record at issue, then start the lanes' accesses: of each texel with a weight, of each element inside the layout (a lane outside it gets 0). -/
def Obligations.SampledLoadResult : Prop :=
  ∀ (s s1 s2 s3 : State) (i : Nat) (t u : Team) (q : Nat → Nat → Word) (r n : BitVec 7) (b : Sel) (va : Nat) (bs : List Byte) (good : List Acc)
    (bad : List (LaneFault × Acc)), Issues s i t → t.active.isEmpty = false → t.vOk r 1 = true → t.vOk n 2 = true → t.scalarSrc b = true →
    t.readable b → Reads t (popsOnce [(1, b)]) u q → u.flagFull (t.setFlag false) = false → s1.record i u va 16 16 = .ok bs s2 →
    let h := s.scalar t b (q 1 0)
    let s0 := s.after i u (popsOnce [(1, b)])
    (∀ x, s0.handle i u h .sampler = .ok (some va) s1 → samplerOf (bytesWords 4 bs) = some x →
      let cs := t.active.map fun l => (l, t.v l n.toNat, t.v l (n.toNat + 1))
      Starts s2 i u .read ((cs.map fun c => x.accs u c.1 c.2.1 c.2.2 t.flush).flatten) good bad s3 →
      exec (.smpl (.v r) (.v n) b) s =
        .next (s3.started i u { opOf i u s3 (t.setFlag false) (.sample (bytesWords 4 bs) t.flush r.toNat cs) with accs := good } bad)) ∧
    (∀ y, s0.handle i u h .tile = .ok (some va) s1 → tileOf (bytesWords 4 bs) = some y →
      let row (l : Nat) := (t.v l n.toNat).toNat
      let col (l : Nat) := (t.v l (n.toNat + 1)).toNat
      let inside (l : Nat) := decide (row l < y.rows) && decide (col l < y.cols)
      Starts s2 i u .read ((t.active.filter inside).map fun l => Acc.new l ((t.pair 62 + y.addr (row l) (col l)) % 2 ^ 64) 4 4 r.toNat []) good bad s3 →
      exec (.tlld (.v r) (.v n) b) s =
        .next (((s3.enterOp i u { opOf i u s3 (t.setFlag false) (.load .tile false 32 false) with accs := good } bad).modTeam i fun t' =>
          (t'.active.filter (!inside ·)).foldl (fun t' l => t'.setV l r.toNat 0) t').issued i))

/-- R258, R257: PREF, CFLUSH and CINV act on the 128-byte lines of their lanes' addresses; PFENCE enters the machine with its path set. -/
def Obligations.CacheOpResult : Prop :=
  ∀ (s s2 : State) (i : Nat) (t u : Team) (q : Nat → Nat → Word) (a b : Sel), Issues s i t → u.flagFull (t.setFlag true) = false →
    (t.active.isEmpty = false → t.vectorSrc a = true → t.scalarSrc b = true → t.readable a → t.readable b → Reads t (popsVS t a b) u q →
      let va (l : Nat) := (t.pair 62 + (s.src t a l (q 0 l)).toNat + (s.scalar t b (q 1 0)).toNat) % 2 ^ 64
      let accs := t.active.map fun l => Acc.new l (va l - va l % 128) 128 1 0 []
      let s0 := s.after i u (popsVS t a b)
      (s2 = (s0.setTeam i u).prefetch i u accs → exec (.pref a b) s = .next (s2.started i u (opOf i u s2 (t.setFlag true) .done) [])) ∧
      (∀ good bad, Starts s0 i u .look accs good bad s2 →
        exec (.cflush a b) s = .next (s2.started i u { opOf i u s2 (t.setFlag true) (.flush false) with accs := good } bad) ∧
        exec (.cinv a b) s = .next (s2.started i u { opOf i u s2 (t.setFlag true) (.flush true) with accs := good } bad))) ∧
    (u = t → ∀ d : BitVec 8, d.toNat < 16 → 2 ≤ popCount d.toNat 4 →
      let s0 := ({ s with cur := none } : State).setTeam i t
      (if d.getLsbD 0 then s0.drainAll i = .ok s2 else s2 = s0) →
      exec (.pfence d) s = .next (s2.started i t { opOf i t s2 (t.setFlag true) (.pfence d.toNat) with mask := 0 } []))
/-- R214, R218, R249, R251: CPY, CPYO and CPYT check their addresses, translate every line, clear (inwards) the presence bits of their scratch lines and enter the copy queue; PINV and PRES act on the lines of their range, PRES as a release. -/
def Obligations.CopyResult : Prop :=
  ∀ (s s1 s2 s3 s4 : State) (i : Nat) (t u : Team) (q : Nat → Nat → Word) (n : BitVec 6) (a b : Sel), Issues s i t →
    t.scalarSrc a = true → t.scalarSrc b = true → t.readable a → t.readable b → Reads t (popsOnce [(0, a), (1, b)]) u q →
    u.flagFull (t.setFlag true) = false →
    let fl := t.setFlag true
    let s0 := s.after i u (popsOnce [(0, a), (1, b)])
    let x := s.scalar t a (q 0 0)
    let y := s.scalar t b (q 1 0)
    let runs (s1 : State) (inn : Bool) (dst va len : Nat) (tk : Word) (as : List Acc) : Prop :=
      dst % 128 = 0 ∧ va % 128 = 0 ∧ len % 128 = 0 ∧ s1.rangeFault u dst len = none ∧
      (s1.setTeam i u).lineTrs i u (if inn then .read else .write) (copyLines va (scratchKey dst) len) = .ok as s3 ∧
      (∀ z, tackOf tk = some z → (s3.tackCheck u z).1 = none) ∧ s3.drainAll i = .ok s4
    let fin (inn tile : Bool) (dst len : Nat) (tk : Word) (as : List Acc) : Host.Outcome State Fault Refusal :=
      let s5 := if inn then s4.clearPresence u.cluster (linesOf (scratchKey dst) len) else s4
      .next (s5.started i u { opOf i u s5 fl (.copy inn tile ((tackOf tk).map scratchKey)) with accs := as, mask := 0 } [])
    (∀ as, n.toNat ≤ 62 →
      let dst := (t.s n).toNat
      let va := (t.pair 62 + (t.s (n + 1)).toNat) % 2 ^ 64
      (runs s0 true dst va x.toNat y as → exec (.cpy (.s n) a b) s = fin true false dst x.toNat y as) ∧
      (runs s0 false dst va x.toNat y as → exec (.cpyo (.s n) a b) s = fin false false dst x.toNat y as)) ∧
    (∀ as va bs z, n.toNat ≤ 61 → s0.handle i u (t.s (n + 1)) .tile = .ok (some va) s1 → s1.record i u va 16 16 = .ok bs s2 →
      tileOf (bytesWords 4 bs) = some z →
      let first := (t.s (n + 2)).toNat
      let count := (s2.scalar u a (q 0 0)).toNat
      first + count ≤ z.tiles → count ≤ 16 →
      runs s2 true (t.s n).toNat ((t.pair 62 + z.base + first * 4096) % 2 ^ 64) (count * 4096) (s2.scalar u b (q 1 0)) as →
      exec (.cpyt (.s n) a b) s = fin true true (t.s n).toNat (count * 4096) (s2.scalar u b (q 1 0)) as) ∧
    (s0.rangeFault u x.toNat y.toNat = none →
      let ls := linesOf (scratchKey x.toNat) y.toNat
      let s5 := (s0.setTeam i u).clearPresence u.cluster ls
      (s.orderedBehind i true = none → exec (.pinv a b) s = .next (s5.started i u (opOf i u s5 fl .done) [])) ∧
      ((s0.setTeam i u).drainAll i = .ok s4 → exec (.pres a b) s = .next (s4.started i u (opOf i u s4 fl (.pres ls)) [])))

/-- R219, R220, R252: an arrival counts a tack's remaining arrivals down, is refused at 0, and at the last flips the phase and starts the expected count again. The tack instructions on a word that is present: TKINIT sets it, TKEXP raises its count, TKWAIT goes on (an acquire) or holds on the phase, TKARR and TKAW arrive once their team's writes are visible. -/
def Obligations.TackResult : Prop :=
  (∀ (phase expect remain : Nat), phase < 2 → expect < 2 ^ 15 → remain < 2 ^ 16 →
    let w := tackWord phase expect remain
    (tackPhase w = phase ∧ bits w 30 16 = expect ∧ bits w 15 0 = remain) ∧
    (remain = 0 → tackArrive w = none) ∧
    (remain = 1 → tackArrive w = some (tackWord (1 - phase) expect expect)) ∧
    (2 ≤ remain → tackArrive w = some (tackWord phase expect (remain - 1)))) ∧
  ∀ (s : State) (i : Nat) (t u : Team) (q : Nat → Nat → Word) (a b : Sel), Issues s i t → t.scalarSrc a = true → t.readable a →
    s.orderedBehind i true = none →
    let x := s.scalar t a (q 0 0)
    let key := scratchKey x.toNat
    (t.scalarSrc b = true → t.readable b → Reads t (popsOnce [(0, a), (1, b)]) u q →
      let s0 := s.after i u (popsOnce [(0, a), (1, b)])
      let n := (s.scalar t b (q 1 0)).toNat
      let w := s0.scratchWord u.cluster key
      let put (v : Word) : Host.Outcome State Fault Refusal :=
        .next (((s0.setTeam i u).scratchWrite u.cluster key (natBytes v.toNat 4)).issued i)
      s0.tackCheck u x.toNat = (none, true) →
      (1 ≤ n → n ≤ 32767 → exec (.tkinit a b) s = put (tackWord 0 n n)) ∧
      (bits w 15 0 + n ≤ 65535 → exec (.tkexp a b) s = put (tackWord (tackPhase w) (bits w 30 16) (bits w 15 0 + n))) ∧
      (tackPhase w = n % 2 → exec (.tkwait a b) s = .next ((s0.setTeam i { u with hold := some (.tack key (n % 2)) }).issued i)) ∧
      (tackPhase w ≠ n % 2 → exec (.tkwait a b) s = .next (((s0.setTeam i u).tackAcquire i).issued i))) ∧
    (Reads t (popsOnce [(0, a)]) u q →
      let s0 := s.after i u (popsOnce [(0, a)])
      ∀ s1 v, s0.tackCheck u x.toNat = (none, true) → (s0.setTeam i u).drainAll i = .ok s1 → s1.coveredAt 2 (some i) (s1.dom u) s1.stamp = true →
        tackArrive (s1.scratchWord u.cluster key) = some v →
        let ph := tackPhase (s1.scratchWord u.cluster key)
        let s2 := s1.scratchWrite u.cluster key (natBytes v.toNat 4)
        exec (.tkarr a) s = .next (s2.issued i) ∧
        (tackPhase (s2.scratchWord u.cluster key) = ph → exec (.tkaw a) s =
          .next ((s2.modTeam i fun t => { t with hold := some (.tack key ph) }).issued i)) ∧
        (tackPhase (s2.scratchWord u.cluster key) ≠ ph → exec (.tkaw a) s = .next ((s2.tackAcquire i).issued i)))

/-- R283: FENCE waits (as an acquire) for the team's reads, then an acquire alone is done, a release at TEAM scope orders nothing more, and a wider one is outstanding on its flag with its scope. -/
def Obligations.FenceResult : Prop :=
  ∀ (s : State) (i : Nat) (t : Team), Issues s i t → t.order ≠ 0 → t.flagFull (t.setFlag true) = false →
    let s0 : State := { s with cur := none }
    (t.acqScope.isSome = true → s0.readsDone i s.stamp = true) →
    let wide := t.acqScope.isSome = true ∧ t.scope ≠ 0
    let u : Team := if wide then { t with acq := s0.acquireAt t t.scope } else t
    let s2 := (if wide then s0.bump else s0).setTeam i u
    (t.relScope = none → exec .fence s = .next (s2.issued i)) ∧
    (t.relScope = some 0 → exec .fence s = .next (s2.started i u (opOf i u s2 (t.setFlag true) .done) [])) ∧
    (∀ sc s3, sc ≠ 0 → t.relScope = some sc → s2.drainAll i = .ok s3 →
      exec .fence s = .next (s3.started i u { opOf i u s3 (t.setFlag true) .fence with rel := some sc, acq := t.acqScope, mask := 0 } []))

/-- R158, R259, R263, R264, R267, R272, R273: an atomic starts one access of the type's width for each active lane once the posted entries it needs have drained: a returning form on a flag of class A, as an acquire where the scope says so; a reduction or directed form on one of class B; CHUNK one of the counter for each lane. -/
def Obligations.AtomicResult : Prop :=
  ∀ (s s1 s2 : State) (i : Nat) (t u : Team) (q : Nat → Nat → Word) (d a b : Sel) (good : List Acc) (bad : List (LaneFault × Acc)), Issues s i t →
    t.active.isEmpty = false →
    let drained (k : Access) (s0 : State) (accs : List Acc) : Prop :=
      (if u.releases.isSome then (s0.setTeam i u).drainAll i else (s0.setTeam i u).drainOver i (accs.map fun x => (x.va, x.size))) = .ok s1 ∧
      Starts s1 i u k accs good bad s2
    (t.readable a → t.readable b → Reads t (popsLanes t.active [(0, a), (1, b)]) u q →
      ∀ (x : Instr) (fn : AtomFn) (fam : Family), (x, fn, fam) ∈ [(Instr.aadd d a b, AtomFn.add, Family.ret), (.afadd d a b, .fadd, .ret),
        (.amin d a b, .min, .ret), (.amax d a b, .max, .ret), (.aand d a b, .and, .ret), (.aor d a b, .or, .ret), (.axor d a b, .xor, .ret),
        (.axchg d a b, .xchg, .ret), (.acas d a b, .cas, .ret), (.acas2 d a b, .cas2, .ret), (.acas4 d a b, .cas4, .ret),
        (.dadd d a b, .add, .dir), (.dfadd d a b, .fadd, .dir), (.dmin d a b, .min, .dir), (.dmax d a b, .max, .dir), (.dxchg d a b, .xchg, .dir)]
        ++ (if d = .sp .zero then [(Instr.rdadd a b, AtomFn.add, Family.red), (.rdfadd a b, .fadd, .red), (.rdmin a b, .min, .red),
          (.rdmax a b, .max, .red), (.rdand a b, .and, .red), (.rdor a b, .or, .red), (.rdxor a b, .xor, .red)] else []) →
      atomOperands t fn fam d a b = true → fn.types fam t.ty = true →
      let size := fn.size t.ty
      u.flagFull (t.setFlag (fam != .ret)) = false →
      drained (if fam = .dir then .directed else .write) (s.after i u (popsLanes t.active [(0, a), (1, b)])) (t.active.map fun l =>
        Acc.new l ((t.pair 62 + (s.src t a l (q 0 l)).toNat) % 2 ^ 64) size size (if fam = .dir then (t.v l (vNum d)).toNat else 0) (s.atomBytes t fn d b l (q 1 l))) →
      exec x s = .next (s2.started i u
        { opOf i u s2 (t.setFlag (fam != .ret)) (.atomic fn t.ty (atomReg fam d) (fam == .dir) (fam == .ret)) with
          accs := good, acq := if fam = .ret then t.acqScope else none, rel := t.releases } bad)) ∧
    (u = t → ∀ r n, d = .v r → t.vOk r 2 = true → a = .s n → n.toNat % 2 = 0 → t.flagFull (t.setFlag false) = false →
      drained .chunk { s with cur := none } (t.active.map fun l => Acc.new l (t.pair n) 32 32 0 []) →
      exec (.chunk d a) s = .next (s2.started i t
        { opOf i t s2 (t.setFlag false) (.chunk r.toNat) with accs := good, acq := t.acqScope, rel := t.releases } bad))

/-- R237 to R240, R247, R397: QBIND binds its queue register, empty, to the port it names (which ends an uncorrectable error there); QTRY pops an entry (and 1) or gives 0 and 0; QFENCE puts one join in every queue that the mask names. -/
def Obligations.QueueRegisterResult : Prop :=
  ∀ (s : State) (i : Nat) (t u : Team) (q : Nat → Nat → Word) (n : BitVec 4) (a : Sel) (b : BitVec 8), Issues s i t →
    let clean (p : QPort) : Prop := p.partial' = false ∧ p.whole = false
    let bound (v : Team) (k : QBind) : Team := { v.mend (qkey n.toNat) with qregs := v.qregs.set n.toNat { bind := k, fifo := [], staged := [] } n.isLt }
    (b.toNat < 3 → clean t.qregs[n.toNat] → ({ s with cur := none } : State).walkInto i n.toNat = false →
      exec (.qbind (.q n) a b) s = .next (s.done i (bound t (if b = 0 then .unbound else if b = 1 then .fifo else .copy)))) ∧
    (0x10 ≤ b.toNat → b.toNat < 0x40 → t.scalarSrc a = true → t.readable a → Reads t (popsOnce [(0, a)]) u q →
      let v := (s.scalar t a (q 0 0)).toNat
      let s0 := s.after i u (popsOnce [(0, a)])
      (s0.physDie t.part t.ctx v).isSome = true → clean u.qregs[n.toNat] → s0.walkInto i n.toNat = false →
      exec (.qbind (.q n) a b) s = .next (s.done i (bound u (.engine v (b.toNat / 16 - 1) (b.toNat % 16))))) ∧
    (∀ r : BitVec 6, r.toNat % 2 = 0 → t.readable (.q n) →
      (t.qregs[n.toNat].fifo = [] → exec (.qtry (.s r) (.q n)) s = .next (s.done i ((t.setS r 0).setS (r + 1) 0))) ∧
      (∀ w ws, t.qregs[n.toNat].fifo = w :: ws → exec (.qtry (.s r) (.q n)) s =
        .next (s.done i (({ t with qregs := t.qregs.set n.toNat { (t.qregs[n.toNat]) with fifo := ws } n.isLt }.setS r w).setS (r + 1) 1)))) ∧
    (t.scalarSrc a = true → t.readable a → Reads t (popsOnce [(0, a)]) u q →
      let s0 := s.after i u (popsOnce [(0, a)])
      let m := (s.scalar t a (q 0 0)).toNat
      let ps := namedPorts u m
      m < 2 ^ 16 → (∀ p ∈ ps, clean p ∧ p.bind ≠ .fifo ∧ p.bind ≠ .unbound) → u.flagFull (t.setFlag true) = false →
      exec (.qfence a) s = .next ((s0.setTeam i u).started i u
        { opOf i u s0 (t.setFlag true) (.join (ps.filterMap fun p => s0.portQueue i u p.bind)) with mask := 0 } []))

/-- R14, R143 to R146, R148: ENQ claims a slot for every lane and enqueues its registers; DEQ claims what it can and holds; DEQTRY claims what there is and says so in its mask; QLEN counts; RFSRC sets the refill source. -/
def Obligations.QueueResult : Prop :=
  ∀ (s s1 : State) (i : Nat) (t u : Team) (q : Nat → Nat → Word) (n : Nat) (r : BitVec 7) (a b d : Sel), Issues s i t →
    t.scalarSrc a = true → t.readable a →
    let k := queueKey t.part n
    (t.active.isEmpty = false → Reads t (popsOnce [(0, a)]) u q → t.vOk r 8 = true → s1.queueOk t.part n = true →
      (s.after i u (popsOnce [(0, a)])).handle i u (s.scalar t a (q 0 0)) .queue = .ok (some n) s1 →
      (∀ s2 s3 got, ((s1.queue k).en = true ∨ t.claimed ≠ []) → u.flagFull (t.setFlag true) = false →
        (if t.releases.isSome then (s1.setTeam i u).drainAll i = .ok s2 else s2 = s1.setTeam i u) →
        s2.claimSlots t.part t.ctx k t.vdie t.claimed t.active = (got, true, s3) →
        exec (.enq (.v r) a) s = .next (s3.started i u { opOf i u s3 (t.setFlag true) (.enq k) with
          accs := got.map fun g => { Acc.new g.1 ((s3.queue k).recAddr g.2.1 g.2.2) 32 32 g.2.2 (wordsBytes (t.vs g.1 r.toNat 8)) with aux := g.2.1 },
          rel := t.releases } [])) ∧
      ((s1.queue k).en = true →
        let x := { opOf i u s1 none (.deq k r.toNat t.active false) with acq := t.acqScope }
        exec (.deq (.v r) a) s = .next ((((s1.enterOp i u x []).modTeam i fun t => { t with hold := some (.opDone s1.stamp) }).claimNext s1.stamp
          { x with units := [] }).issued i) ∧
        (∀ m as s2, u.flagFull (t.setFlag false) = false → s1.claimRecords t.part t.ctx k t.vdie t.active = (as, s2) →
          let v := u.setM m ((t.m m &&& ~~~t.eff) ||| maskOf (as.map (·.lane)))
          exec (.deqtry (.v r) a (.m m)) s = .next (s2.started i v
            { opOf i u s2 (t.setFlag false) (.deq k r.toNat [] false) with accs := as, acq := t.acqScope } [])))) ∧
    (t.scalarSrc b = true → t.readable b → t.pushCheck d = none → Reads t (popsOnce [(0, a), (1, b)]) u q → u.takes d → s1.queueOk t.part n = true →
      (s.after i u (popsOnce [(0, a), (1, b)])).handle i u (s.scalar t a (q 0 0)) .queue = .ok (some n) s1 →
      let v := s1.scalar u b (q 1 0)
      exec (.qlen d a b) s = .next (s1.ends i (u.put d (BitVec.ofNat 32 (if v = 0xFFFFFFFF then s1.held k
        else if v.toNat < (s1.ctx t.part t.ctx).vdmap.length then s1.heldIn k v.toNat else 0))))) ∧
    (t.vOk r 8 = true → t.wave = none → ∀ m, a = .s m →
      (t.s m = 0 → exec (.rfsrc (.v r) a) s = .next (s.done i { t with refill := none })) ∧
      (t.s m ≠ 0 → s1.queueOk t.part n = true → (s1.queue k).en = true → ({ s with cur := none } : State).handle i t (t.s m) .queue = .ok (some n) s1 →
        exec (.rfsrc (.v r) a) s = .next (s1.ends i { t with refill := some (k, r.toNat) })))

/-- R21, R75, R151, R154: the knot instructions reach their knot's unit as operations on a flag of class B, releases where the ordering says so, one count operation for each active lane of KNOTADD and KNOTDEC; LAUNCH creates its lanes' launches at issue. The model's choice, which no rule states: KNOTINIT and KNOTBIND release too, as KNOTDEC does (log 60). -/
def Obligations.KnotLaunchResult : Prop :=
  ∀ (s s1 s2 : State) (i : Nat) (t u : Team) (q : Nat → Nat → Word) (n : Nat) (a b d : Sel), Issues s i t → u.flagFull (t.setFlag true) = false →
    let fl := t.setFlag true
    let k := knotKey t.part n
    let released (s1 s2 : State) : Prop := if t.releases.isSome then (s1.setTeam i u).drainAll i = .ok s2 else s2 = s1.setTeam i u
    let one (l v : Nat) : Acc := { Acc.new l 0 0 1 0 [] with aux := v }
    (t.scalarSrc a = true → t.readable a → s1.knotOk t.part n = true → released s1 s2 →
      (t.scalarSrc b = true → t.readable b → Reads t (popsOnce [(0, a), (1, b)]) u q →
        (s.after i u (popsOnce [(0, a), (1, b)])).handle i u (s.scalar t a (q 0 0)) .knot = .ok (some n) s1 →
        exec (.knotinit a b) s = .next (s2.started i u { opOf i u s2 fl (.knot 0 k t.vdie (s2.scalar u a (q 0 0)).toNat) with
          accs := [one 0 (s2.scalar u b (q 1 0)).toNat], rel := t.releases, mask := 0 } [])) ∧
      (t.active.isEmpty = false → t.vectorSrc b = true → t.readable b → Reads t (popsOnce [(0, a)] ++ popsLanes t.active [(1, b)]) u q →
        (s.after i u (popsOnce [(0, a)] ++ popsLanes t.active [(1, b)])).handle i u (s.scalar t a (q 0 0)) .knot = .ok (some n) s1 →
        let fin (fn : Nat) : Host.Outcome State Fault Refusal :=
          .next (s2.started i u { opOf i u s2 fl (.knot fn k t.vdie (s2.scalar u a (q 0 0)).toNat) with
            accs := t.active.map fun l => one l (s2.src u b l (q 1 l)).toNat, rel := t.releases } [])
        exec (.knotadd a b) s = fin 1 ∧ exec (.knotdec a b) s = fin 2)) ∧
    (∀ m, b = .s m → m.toNat % 2 = 0 → t.pair m % 32 = 0 → t.scalarSrc a = true → t.readable a → t.scalarSrc d = true → t.readable d →
      Reads t (popsOnce [(0, a), (2, d)]) u q → s1.knotOk t.part n = true →
      (s.after i u (popsOnce [(0, a), (2, d)])).handle i u (s.scalar t a (q 0 0)) .knot = .ok (some n) s1 →
      let fin (qk : Option Nat) : Host.Outcome State Fault Refusal :=
        .next (s2.started i u { opOf i u s2 fl (.knotbind k (t.pair m) qk) with accs := [one 0 0], rel := t.releases, mask := 0 } [])
      (s1.scalar u d (q 2 0) = 0 → released s1 s2 → exec (.knotbind d a b) s = fin none) ∧
      (∀ x s3, s1.scalar u d (q 2 0) ≠ 0 → s1.handle i u (s1.scalar u d (q 2 0)) .queue = .ok (some x) s3 → s3.queueOk t.part x = true →
        (s3.queue (queueKey t.part x)).en = true → released s3 s2 → exec (.knotbind d a b) s = fin (some (queueKey t.part x)))) ∧
    (t.active.isEmpty = false → t.vectorSrc a = true → t.scalarSrc b = true → t.readable a → t.readable b → Reads t (popsVS t a b) u q →
      let s0 := s.after i u (popsVS t a b)
      released s0 s1 → (t.releases.isSome = true → s1.coveredAt (t.releases.getD 0) (some i) (s1.dom u) s1.stamp = true) →
      ∀ bad v, s1.launchLanes i u [] (t.active.map fun l =>
          Acc.new l ((t.pair 62 + (s.src t a l (q 0 l)).toNat + (s.scalar t b (q 1 0)).toNat) % 2 ^ 64) 64 64 0 []) = (.ok bad, s2) →
        s2.team i = some v → exec (.launch a b) s = .next (s2.started i v { opOf i v s2 fl .launch with rel := t.releases } bad))

/-- R210 to R212: TRACE starts a walk over the box of its record into its queue register; TRSTOP with no walk left there does nothing, and with one stops it and holds for the end token. -/
def Obligations.TracerResult : Prop :=
  ∀ (s : State) (i : Nat) (t u : Team) (q : Nat → Nat → Word) (n : BitVec 4) (a : Sel), Issues s i t →
    (∀ s1 s2 va bs, t.scalarSrc a = true → t.readable a → t.pushCheck (.q n) = none → Reads t (popsOnce [(0, a)]) u q →
      (s.after i u (popsOnce [(0, a)])).handle i u (s.scalar t a (q 0 0)) .tracer = .ok (some va) s1 → s1.record i u va 32 32 = .ok bs s2 →
      s2.walkInto i n.toNat = false → u.flagFull (t.setFlag true) = false →
      let w : Word := ((bytesWords 8 bs)[0]?).getD 0
      exec (.trace (.q n) a) s = .next ((s2.setTeam i u).started i u
        { opOf i u s2 (t.setFlag true) (.trace n.toNat (bits w 10 0) (bits w 21 11) (bits w 31 22) [] false) with mask := 0 } [])) ∧
    (({ s with cur := none } : State).walkInto i n.toNat = false → exec (.trstop (.q n)) s = .next (s.done i t)) ∧
    (({ s with cur := none } : State).walkInto i n.toNat = true → exec (.trstop (.q n)) s =
      .next (((({ s with cur := none } : State).stopWalks i n.toNat).setTeam i t).modTeam i fun t => { t with hold := some (.walkEnd n.toNat) }))
/-- R200, R201, R205 to R207, R199: the accumulator instructions: ACWIN gives a lane group a window of zeros as soon as the core has that many free rows (at the lowest free run where there is one), ACZERO clears rows, ACRD and ACRDX read elements (ACRD times its factors, in F32), ACWR and ACADD write and add columns, SWSEL selects a swatch. The model's choice, which no rule states: a new window lies at the lowest free run, or is an allotment of the lowest free rows where there is no run (log 43). -/
def Obligations.AccumulatorResult : Prop :=
  ∀ (s : State) (i : Nat) (t u : Team) (q : Nat → Nat → Word) (d a b : Sel), Issues s i t → t.active.isEmpty = false →
    (t.scalarSrc d = true → t.scalarSrc a = true → t.readable a → t.readable d → t.wave = none → t.actGroups.all (· == 0) = true →
      Reads t (popsOnce [(0, a), (2, d)]) u q →
      let g := (s.scalar t d (q 2 0)).toNat
      let n := (s.scalar t a (q 0 0)).toNat
      let s0 := s.after i u (popsOnce [(0, a), (2, d)])
      let v := u.setWin g { base := 0, rows := 0 }
      let s1 := (s0.setTeam i v).clearRows i g 0 Config.accRows
      g < t.groups → n + t.otherRows g ≤ Config.accRows → s0.rowsBusy i s0.stamp g 0 Config.accRows = false →
      (∀ k, s1.freeRun t.core (i, g) n = some k →
        exec (.acwin d a) s = .next (s1.ends i (v.setWin g { base := if n = 0 then 0 else k, rows := n }))) ∧
      (n ≤ (s1.freeRows t.core (i, g)).length →
        ∃ w, s1.allot t.core (i, g) n = some w ∧ w.rows = n ∧ exec (.acwin d a) s = .next (s1.ends i (v.setWin g w)))) ∧
    (Reads t (popsOnce [(0, a), (1, b)]) u q → t.readable a → t.readable b →
      let s0 := s.after i u (popsOnce [(0, a), (1, b)])
      let rowAt (l : Nat) : Nat := rowOf t s a q (l / 32)
      let runs := t.actGroups.map fun g => (g, rowOf t s a q g, 1)
      let clean (runs : List (Nat × Nat × Nat)) : Prop := RowsFree s0 i u runs ∧ ∀ r ∈ runs, s0.rowsSpoilt i r = false
      (t.scalarSrc a = true → t.scalarSrc b = true →
        let row := (s.scalar t a (q 0 0)).toNat
        let n := (s.scalar t b (q 1 0)).toNat
        (RowsFree s0 i u (t.actGroups.map fun g => (g, row, n)) →
          exec (.aczero a b) s = .next ((t.actGroups.foldl (fun s g => s.clearRows i g row n) (s0.setTeam i u)).issued i)) ∧
        (∀ r, t.vOk r 1 = true → clean (t.active.map fun l => (l / 32, row + l % 32, 1)) →
          exec (.acrdx (.v r) a b) s =
            .next (s0.ends i (t.active.foldl (fun v l => v.setV l r.toNat (s.accAt i (l / 32) (row + l % 32) (n % 64))) u)))) ∧
      (t.vectorSrc a = true → t.pairSrc b = true → clean runs →
        (∀ r, t.vOk r 2 = true →
          let x (l : Nat) := fmtF32.mul .rne t.flush (s.accAt i (l / 32) (rowAt l) (l % 32)).toNat (pairAt t s b q l).1.toNat
          let y (l : Nat) := fmtF32.mul .rne t.flush (s.accAt i (l / 32) (rowAt l) (32 + l % 32)).toNat (pairAt t s b q l).2.toNat
          exec (.acrd (.v r) a b) s = .next (s0.ends i (t.active.foldl (fun v l =>
            (v.setVs l r.toNat [BitVec.ofNat 32 (x l).1, BitVec.ofNat 32 (y l).1]).addStatus ((x l).2 ||| (y l).2)) u))) ∧
        (let cols := (t.active.map fun l =>
            [(l / 32, rowAt l, l % 32, (pairAt t s b q l).1), (l / 32, rowAt l, 32 + l % 32, (pairAt t s b q l).2)]).flatten
         let fin (f : Word → Word → Word × Nat) : Host.Outcome State Fault Refusal :=
          let r := (s0.setTeam i u).writeCols i f cols
          .next (r.1.ends i (u.addStatus r.2))
         exec (.acwr a b) s = fin (fun _ w => (w, 0)) ∧ exec (.acadd a b) s = fin (accAdd t.flush)))) ∧
    (t.scalarSrc a = true → t.readable a → Reads t (popsOnce [(0, a)]) u q →
      let h := s.scalar t a (q 0 0)
      (h = 0 → exec (.swsel a) s = .next (s.done i { u with swatch := none })) ∧
      (∀ va s1, h ≠ 0 → (s.after i u (popsOnce [(0, a)])).handle i u h .swatch = .ok (some va) s1 →
        exec (.swsel a) s = .next (s1.ends i { u with swatch := some va })))

/-- R165, R166, R192, R195 to R197, R202 to R204: MMA, MLOOP and MGRP complete: they read their swatch, check their rows (and images) and enter the matrix unit as loops: MMA of one step over the fragments it reads from registers, MLOOP and MGRP of the steps of their record. With no lane active, MMA and MLOOP make their checks and do nothing more (R65). The loops enter a unit that is awake (loopRoom says so: R393 holds a loop at issue while its unit sleeps). The model's choice, which no rule states: the words of a group table that passes offset 2^32 go on past it (log 100). -/
def Obligations.LoopResult : Prop :=
  ∀ (s s1 : State) (i : Nat) (t : Team) (n : BitVec 6) (a b : Sel) (va : Nat) (bs : List Byte) (sw : Swatch), Issues s i t → t.swatch = some va →
    swatchOf (bytesWords 8 bs) = some sw →
    let ws := bytesWords 8 bs
    let roomFor (s1 : State) (l : Loop) : Prop := LoopRoom s1 i t l
    let windows (row : Nat) : Prop := (t.actGroups.map fun g => (g, row, 64)).find? t.outside = none
    (∀ ra rb, n.toNat ≤ 62 → t.vOk ra 16 = true → t.vOk rb 16 = true → ({ s with cur := none } : State).record i t va 32 32 = .ok bs s1 →
      (t.eff = 0 → exec (.mma (.s n) (.v ra) (.v rb)) s = .next (s1.ends i t)) ∧
      (t.active.isEmpty = false → windows (t.s n).toNat →
        let l : Loop :=
          { fn := 0, sw := ws, flush := t.flush, vbase := t.pair 62, record := [], row := (t.s n).toNat, offs := [0, 64], stride := 0,
            step0 := (t.s (n + 1)).toNat, st := 0, groups := t.newGroups fun g => fragRegs t s1 g ra.toNat ++ fragRegs t s1 g rb.toNat }
        roomFor s1 l → exec (.mma (.s n) (.v ra) (.v rb)) s =
          .next ((s1.setTeam i t).started i t (opOf i t s1 (t.setFlag true) (.loop l)) []))) ∧
    (n.toNat ≤ 58 → t.scalarSrc a = true → t.readable a → recOk t (loopRec t n) = true → recAligned t (loopRec t n) = true →
      (isQ a = false → t.eff = 0 → ({ s with cur := none } : State).record i t va 32 32 = .ok bs s1 →
        exec (.mloop (.s n) a) s = .next (s1.ends i t)) ∧
      (t.active.isEmpty = false → ∀ u q, Reads t (popsOnce [(0, a)]) u q → (s.after i u (popsOnce [(0, a)])).record i u va 32 32 = .ok bs s1 →
        let row := (s1.scalar u a (q 0 0)).toNat
        let l : Loop :=
          { fn := 1, sw := ws, flush := t.flush, vbase := t.pair 62, record := loopRec t n, row := row, offs := [0, 64], stride := 0,
            step0 := 0, st := 0, groups := t.newGroups fun _ => [] }
        windows row → roomFor s1 l → exec (.mloop (.s n) a) s =
          .next ((s1.setTeam i u).started i u (opOf i u s1 (t.setFlag true) (.loop l)) [])) ∧
      (t.active.isEmpty = false → t.scalarSrc b = true → t.readable b → ∀ u q, Reads t (popsOnce [(0, a), (1, b)]) u q →
        (s.after i u (popsOnce [(0, a), (1, b)])).record i u va 32 32 = .ok bs s1 →
        let base := (t.pair 62 + (s1.scalar u a (q 0 0)).toNat) % 2 ^ 64
        ∀ head tab s2 s3, s1.recordWords i u base 1 = .ok head s2 → 1 ≤ recNum head 0 → recNum head 0 ≤ 64 →
          s2.recordWords i u ((base + 4) % 2 ^ 64) (recNum head 0 + 2) = .ok tab s3 →
          let row := (s3.scalar u b (q 1 0)).toNat
          let offs := (tab.take (recNum head 0 + 1)).map (·.toNat)
          let stride := recNum tab (recNum head 0 + 1)
          offsOk offs = true → stride % 128 = 0 → (∀ g ∈ t.actGroups, row + (offs.getLast?).getD 0 ≤ (t.win g).rows) →
          let l : Loop :=
            { fn := 2, sw := ws, flush := t.flush, vbase := t.pair 62, record := loopRec t n, row := row, offs := offs, stride := stride,
              step0 := 0, st := 0, groups := t.newGroups fun _ => [] }
          roomFor s3 l → exec (.mgrp (.s n) a b) s = .next ((s3.setTeam i u).started i u (opOf i u s3 (t.setFlag true) (.loop l)) [])))

/-- R294, R310, R312, R313: PATLD, PATST and PATADDR resolve their lanes' coordinates through the record of their handle: PATLD's accesses are in flight, PATST's are posted, sent as a release or on their way (those of its own device after those of the devices below it), and PATADDR writes device and offset of the lanes whose device can be reached. -/
def Obligations.PatternResult : Prop :=
  ∀ (s s1 s2 s3 s4 : State) (i : Nat) (t u : Team) (q : Nat → Nat → Word) (r n : BitVec 7) (b : Sel) (va : Nat) (bs : List Byte) (pt : Pattern)
    (good : List Acc) (bad : List (LaneFault × Acc)), Issues s i t → t.active.isEmpty = false → t.vOk r 1 = true → t.vOk n 1 = true →
    t.scalarSrc b = true → t.readable b → Reads t (popsOnce [(1, b)]) u q →
    let h := s.scalar t b (q 1 0)
    let slot := some (hSlot h)
    (s.after i u (popsOnce [(1, b)])).handle i u h .pattern = .ok (some va) s1 → s1.record i u va 64 64 = .ok bs s2 →
    patternOf (bytesWords 16 bs) = some pt → s2.patDraining.contains (t.part, t.ctx, hSlot h) = false →
    (patFits t (.v r) (.v n) false pt = true → u.flagFull (t.setFlag false) = false →
      s2.patLanes i u va pt r.toNat (patCoords t n.toNat pt fun _ => []) = .ok good bad s3 →
      ∀ good1 bad1, Starts s3 i u .read good good1 bad1 s4 → exec (.patld (.v r) (.v n) b) s = .next (s4.started i u
        { opOf i u s4 (t.setFlag false) (.load .loadStore false (8 * min 4 pt.esize) false) with
          accs := good1, acq := t.acqScope, pat := slot } (bad ++ bad1))) ∧
    (patFits t (.v r) (.v n) false pt = true → u.flagFull (t.setFlag true) = false → ∀ s5, DrainedFor s2 i u s5 →
      s5.patLanes i u va pt 0 (patCoords t n.toNat pt fun l =>
        (wordsBytes (t.vs l r.toNat (if pt.esize = 8 then 2 else 1))).take pt.esize) = .ok good bad s3 →
      ∀ good1 bad1, Starts s3 i u .write good good1 bad1 s4 →
        exec (.patst (.v r) (.v n) b) s = .next ((s4.namedOut i u (t.setFlag true) slot (lastWriters good1) (bad ++ bad1)).issued i)) ∧
    (patFits t (.v r) (.v n) true pt = true → s2.patLanes i u va pt r.toNat (patCoords t n.toNat pt fun _ => []) = .ok good bad s3 →
      let near := (s3.reached u good).1
      let out := bad ++ (s3.reached u good).2
      let v := near.foldl (fun v x => v.setVs x.lane r.toNat [BitVec.ofNat 32 (x.remoteDev.getD (s3.ctx t.part t.ctx).fabDev),
        BitVec.ofNat 32 (x.va + 2 ^ 64 - t.pair 62)]) u
      (out = [] → exec (.pataddr (.v r) (.v n) b) s = .next (s3.ends i v)) ∧
      (out ≠ [] → exec (.pataddr (.v r) (.v n) b) s = .next (s3.started i v { opOf i v s3 none .pataddr with pat := slot } out)))

/-- R295, R314, R323: the job-wide instructions send one request to every other device of the job: PATINV puts its entry in draining state, PATCF ends a drain as a release at FABRIC scope, FSDRAIN makes a page revoking and drops the copies of its lines, FSCONF ends that. -/
def Obligations.JobResult : Prop :=
  ∀ (s s1 s2 s3 : State) (i : Nat) (t u : Team) (q : Nat → Nat → Word) (a b : Sel), Issues s i t → u.flagFull (t.setFlag true) = false →
    let fl := t.setFlag true
    let p := t.part
    let c := t.ctx
    let enters (s1 : State) (fn x y phase va : Nat) (rel : Option Nat) : Host.Outcome State Fault Refusal :=
      .next ((s1.enterJob i u { opOf i u s1 fl (.job fn x y phase) with
        rel := rel, accs := jobAccs (s1.others p c) va }).issued i)
    (t.scalarSrc a = true → t.readable a → Reads t (popsOnce [(0, a)]) u q →
      let h := s.scalar t a (q 0 0)
      ∀ va, (s.after i u (popsOnce [(0, a)])).handle i u h .pattern = .ok (some va) s1 → s1.patDraining.contains (p, c, hSlot h) = false →
        exec (.patinv a) s = enters { s1 with patDraining := (p, c, hSlot h) :: s1.patDraining } 0 h.toNat 0 0 0 none) ∧
    (t.scalarSrc a = true → t.scalarSrc b = true → t.readable a → t.readable b → Reads t (popsOnce [(0, a), (1, b)]) u q →
      let h := s.scalar t a (q 0 0)
      let k := s.scalar t b (q 1 0)
      ∀ va vb, (s.after i u (popsOnce [(0, a), (1, b)])).handle i u h .pattern = .ok (some va) s1 → s1.handle i u k .pattern = .ok (some vb) s2 →
        s2.patDraining.contains (p, c, hSlot h) = true → (s2.setTeam i u).drainAll i = .ok s3 →
        exec (.patcf a b) s = enters s3 1 h.toNat k.toNat 1 0 (some 5)) ∧
    (s.auth t = .owner → t.scalarSrc b = true → t.readable b → Reads t (popsOnce [(1, b)]) u q →
      ∀ (n : BitVec 6) tr, a = .s n → n.toNat % 2 = 0 →
        let code := (s.scalar t b (q 1 0)).toNat
        let va := t.pair n % 2 ^ 57
        let size := codeSize code
        code ≤ 3 → t.pair n % size = 0 →
        (s.after i u (popsOnce [(1, b)])).translate p c (some t.core) (coreDie t.core) (some i) none (t.pair n) .none = (.ok tr, s1) →
        (s1.revokes p c va = false → exec (.fsdrain a b) s = enters (s1.revoke p c va size none) 2 va size 0 va none) ∧
        (s1.revoking.contains (p, c, va, size, none) = true → s1.pageDraining p c va = false →
          exec (.fsconf a b) s = enters (s1.unrevoke p c va size none) 3 va size 0 va none))

/-- R315, R316: PEERLD, PEERST and PEERADD name device B of the job: their accesses, at S63:S62 plus A there, start as a load, as posted bytes (or requests on their way), or as additions at the homes. -/
def Obligations.PeerResult : Prop :=
  ∀ (s s1 s2 : State) (i : Nat) (t u : Team) (q : Nat → Nat → Word) (d a b : Sel) (good : List Acc) (bad : List (LaneFault × Acc)), Issues s i t →
    t.active.isEmpty = false → t.vectorSrc a = true → t.scalarSrc b = true → t.readable a → t.readable b →
    let size := t.ty.width / 8
    let dev := (s.scalar t b (q 1 0)).toNat
    let accs (reg : Nat) (data : Nat → List Byte) := t.active.map fun l =>
      namedAcc (s.ctx t.part t.ctx).fabDev dev l ((t.pair 62 + (s.src t a l (q 0 l)).toNat) % 2 ^ 64) size size reg (data l)
    (Reads t (popsVS t a b) u q → t.ty.loads = true →
      let s0 := s.after i u (popsVS t a b)
      (∀ r, t.vOk r 1 = true → u.flagFull (t.setFlag false) = false → Starts s0 i u .read (accs r.toNat fun _ => []) good bad s2 →
        exec (.peerld (.v r) a b) s = .next (s2.started i u
          { opOf i u s2 (t.setFlag false) (.load .loadStore false t.ty.width t.ty.signed) with accs := good, acq := t.acqScope } bad)) ∧
      (u.flagFull (t.setFlag true) = false → ∀ data : Nat → Word, ∀ s3, DrainedFor s0 i u s3 →
        ((∃ r, d = .v r ∧ t.vOk r 1 = true ∧ data = fun l => t.v l r.toNat) ∨ (∃ n, d = .s n ∧ data = fun _ => t.s n) ∨
          (∃ k, d = .k k ∧ t.litOk k = true ∧ data = fun _ => (t.lit k).getD 0) ∨ (d = .sp .zero ∧ data = fun _ => 0)) →
        Starts s3 i u .write (accs 0 fun l => natBytes (data l).toNat size) good bad s2 →
        exec (.peerst d a b) s = .next ((s2.namedOut i u (t.setFlag true) none (lastWriters good) bad).issued i))) ∧
    (t.elemSrc t.ty d = true → t.readable d → (t.ty = .i32 ∨ t.ty = .n32 ∨ t.ty = .i64 ∨ t.ty = .n64 ∨ t.ty = .f32) →
      u.flagFull (t.setFlag true) = false →
      let pops := popsLanes t.active [(0, a)] ++ popsOnce [(1, b)] ++ popsLanes t.active [(2, d)]
      Reads t pops u q →
      let s0 := (s.after i u pops).setTeam i u
      let as := accs 0 fun l => natBytes (s.elem t t.ty d l (q 2 l)) size
      (if t.releases.isSome then s0.drainAll i = .ok s1 else if dev = (s.ctx t.part t.ctx).fabDev then s0.drainOver i (as.map fun x => (x.va, x.size)) = .ok s1
        else s1 = s0) →
      Starts s1 i u .write as good bad s2 →
      exec (.peeradd d a b) s = .next (s2.started i u
        { opOf i u s2 (t.setFlag true) (.atomic (if t.ty = .f32 then .fadd else .add) t.ty none false false) with accs := good, rel := t.releases } bad))

/-- R292, R293, R300, R304, R305: PLEAT sends its lanes' requests as releases and holds until the last is sent; PLARG gives a wave's arguments, PLREPLY keeps its replies, and PLDONE ends the wave once nothing of it is outstanding and its release is complete. -/
def Obligations.PleatResult : Prop :=
  ∀ (s s1 s2 s3 : State) (i : Nat) (t u : Team) (q : Nat → Nat → Word) (r : BitVec 7) (d b : Sel), Issues s i t →
    (t.active.isEmpty = false → (isV d || d == .sp .zero) = true → t.vOk r 1 = true → t.vectorSrc b = true → t.readable b →
      Reads t (popsLanes t.active [(1, b)]) u q → u.flagFull (t.setFlag false) = false →
      let s0 := s.after i u (popsLanes t.active [(1, b)])
      let reg := vNum d
      ∀ obj : Option Nat, (if isVec b then obj = none ∧ s1 = s0 else obj.isSome = true ∧ s0.handle i u (s.scalar t b 0) .pleat = .ok obj s1) →
      ∀ xs, s1.pleatLanes i u obj reg (t.active.map fun l => (l, s1.src u b l (q 1 l), wordsBytes ((List.range 4).map fun k =>
          if r.toNat + k < t.nregs then t.v l (r.toNat + k) else 0))) = .ok xs s2 →
        (∀ a ob, PleatLane.ok a ob ∈ xs → pleatFits t d (.v r) ob = true) → (s2.setTeam i u).drainAll i = .ok s3 →
        let gb := s3.pleatSplit u xs
        exec (.pleat d (.v r) b) s = .next (((s3.enterOp i u { opOf i u s3 (t.setFlag false) (.pleat reg []) with
          accs := gb.1, rel := some (pleatScope gb.1) } gb.2).pleatOut s3.stamp).issued i)) ∧
    (∀ w x, t.waveObj = some (w, x) → t.active.isEmpty = false →
      (t.vOk r (max 1 x.nargs) = true → exec (.plarg (.v r)) s =
        .next (s.done i (t.active.foldl (fun v l => v.setVs l r.toNat (((w.args[l]?).getD []).take x.nargs)) t))) ∧
      (t.vOk r (max 1 x.nrep) = true → exec (.plreply (.v r)) s = .next (s.done i { t with wave := some { w with
        replies := w.replies.zipIdx.map fun p => if t.active.contains p.2 then some (t.vs p.2 r.toNat x.nrep) else p.1 } }))) ∧
    (t.wave.isSome = true → (({ s with cur := none } : State).setTeam i t).drainAll i = .ok s1 → s1.teamIdle i = true → s1.waveReleases i = true →
      exec .pldone s = .next (s1.endTeam i))
/-- R324, R325, R365, R367, R368: VDIE, HOPS, SRD and AUDRD write what their registers and counters hold to their destination (HOPS: the rows and columns between the dies bound to A and B, added, or all ones where one is not bound); SWR writes a register that its authority may write, and for htab.sync holds its team until the dies have dropped their copies. -/
def Obligations.SystemRegisterResult : Prop :=
  ∀ (s : State) (i : Nat) (t u : Team) (q : Nat → Nat → Word) (d a b : Sel) (n : BitVec 16), Issues s i t →
    (t.takes d → t.pushCheck d = none →
      exec (.vdie d) s = .next (s.done i (t.put d (BitVec.ofNat 32 (t.vdie % 8 + 2 ^ 16 * (s.ctx t.part t.ctx).fabNvd)))) ∧
      (∀ w, s.readCheck t n.toNat = none → s.sysRead t n.toNat = .value w → exec (.srd d n) s = .next (s.done i (t.put d w)))) ∧
    (t.scalarSrc a = true → t.scalarSrc b = true → t.readable a → t.readable b → Reads t (popsOnce [(0, a), (1, b)]) u q →
      let x := s.scalar t a (q 0 0)
      let y := s.scalar t b (q 1 0)
      (t.pushCheck d = none → u.takes d → exec (.hops d a b) s =
        .next (s.done i (u.put d (((s.hops t.part t.ctx x.toNat y.toNat).map (BitVec.ofNat 32)).getD 0xFFFFFFFF)))) ∧
      (∀ j k, s.physDie t.part t.ctx x.toNat = some j → s.physDie t.part t.ctx y.toNat = some k →
        s.hops t.part t.ctx x.toNat y.toNat = some (((j / 4 : Nat) - (k / 4 : Nat) : Int).natAbs + ((j % 4 : Nat) - (k % 4 : Nat) : Int).natAbs)) ∧
      (s.physDie t.part t.ctx x.toNat = none ∨ s.physDie t.part t.ctx y.toNat = none → s.hops t.part t.ctx x.toNat y.toNat = none) ∧
      (∀ r : BitVec 6, r.toNat % 2 = 0 → s.auth t = .auditor → counterOk x.toNat = true →
        (counterByCtx x.toNat = false ∨ y = 0xFFFFFFFF ∨ (y.toNat < 64 ∧ (s.ctx t.part y.toNat).en = true)) →
        let v := s.counter t.part x.toNat y.toNat
        exec (.audrd (.s r) a b) s = .next (s.done i ((u.setS r (BitVec.ofNat 32 v)).setS (r + 1) (BitVec.ofNat 32 (v / 2 ^ 32)))))) ∧
    (t.scalarSrc b = true → t.readable b → ({ s with cur := none } : State).writeCheck t n.toNat = none → Reads t (popsOnce [(1, b)]) u q →
      let s0 := (s.after i u (popsOnce [(1, b)])).setTeam i u
      (∀ s1, s0.sysWrite i u n.toNat (s.scalar t b (q 1 0)) = .done s1 → exec (.swr n b) s = .next (s1.issued i)) ∧
      (∀ slot s1, s0.sysWrite i u n.toNat (s.scalar t b (q 1 0)) = .sync slot s1 →
        exec (.swr n b) s = .next ((s1.modTeam i fun t => { t with hold := some (.sync slot) }).issued i)))

/-- R52, R359, R366: TRAP and BRK have completed when they raise their cause, whose code is their field; BRK in a context with debug enabled stops its team instead, with a notice to the owner; a reserved opcode raises ILLEGAL_OPCODE at the instruction. -/
def Obligations.TrapResult : Prop :=
  ∀ (s : State) (i : Nat) (t : Team) (b : BitVec 8) (w : BitVec 32), Issues s i t →
    let s0 : State := { s with cur := none }
    let past := s0.setTeam i t.finish.next
    exec (.trap b) s = .next (past.takeTrap (checkInfo i t true .trap b.toNat .none)) ∧
    ((s.ctx t.part t.ctx).dbg = false → exec (.brk b) s = .next (past.takeTrap (checkInfo i t true .brk b.toNat .none))) ∧
    ((s.ctx t.part t.ctx).dbg = true → exec (.brk b) s =
      .next ((s0.setTeam i { t.finish.next with debug := true }).tellOwner t.part t.ctx (coreDie t.core)
        [(checkInfo i t true .brk b.toNat .none).ownerPart 0 true])) ∧
    exec (.illegalOpcode w) s = .next (s0.takeTrap (checkInfo i t true .illegalOpcode 0 .whole))

/-- R324, R330, R361, R371: in an operator context PLACE binds a context's virtual dies and fixes the homes of its objects (as far as their tables read: log 27), PREEMPT halts a context's teams, or those of every other placed context, and RESUME lets a context's teams run on; in an owner context RESUME ends the debug stops of its own context. -/
def Obligations.ManagementResult : Prop :=
  ∀ (s : State) (i : Nat) (t u : Team) (q : Nat → Nat → Word) (a b : Sel), Issues s i t → t.scalarSrc a = true → t.readable a →
    let c := (s.scalar t a (q 0 0)).toNat
    (s.auth t = .operator → t.scalarSrc b = true → t.readable b → Reads t (popsOnce [(0, a), (1, b)]) u q →
      let m := s.scalar t b (q 1 0)
      let s0 := (s.after i u (popsOnce [(0, a), (1, b)])).setTeam i u
      s.isCtx t.part c = true → (s.ctx t.part c).fabNvd = 0 → s.mapOk t.part m = true →
      exec (.place a b) s = .next (((((s0.dropHomes t.part c).setCtx t.part c { s.ctx t.part c with vdmap := mapDies m, fabNvd := bits m 27 24 }).moveParts
        t.part c fun d => if 16 ≤ d then ((mapDies m)[d - 16]?).getD 0 else d).fixHomes t.part c).issued i)) ∧
    (Reads t (popsOnce [(0, a)]) u q →
      let s0 := (s.after i u (popsOnce [(0, a)])).setTeam i u
      (s.auth t = .operator → (s.part t.part).linEn = true →
        (c = 0xFFFFFFFF ∨ (s.isCtx t.part c = true ∧ c ≠ t.ctx ∧ (s.ctx t.part c).sealed = false)) →
        exec (.preempt a) s = .next (((s.preemptSet t.part t.ctx c).foldl (fun s k => s.halt t.part k true) s0).issued i)) ∧
      (s.auth t = .operator → s.isCtx t.part c = true → (s.ctx t.part c).sealed = false →
        exec (.resume a) s = .next (((s0.resumeTeams t.part c).halt t.part c false).issued i)) ∧
      (s.auth t = .owner → s.isCtx t.part c = true → c = t.ctx → exec (.resume a) s = .next ((s0.undebug t.part c).issued i)))

/-- R330, R331, R372, R374: SEAL writes the blob of a wholly halted context at the pair and releases its resources; UNSEAL of the one blob that holds it, byte for byte but for its reserved words, places it again; ATTEST writes a report over the challenge, and the device counts it. The model's choices, which no rule states: what is quiet, and that a blob verifies where it is the one written but for its reserved words (log 71); the nonce is the device's counter, and the ciphertext and the report's digests are free (log 7). -/
def Obligations.SealResult : Prop :=
  ∀ (s s1 s2 : State) (i : Nat) (t u : Team) (q : Nat → Nat → Word) (r : BitVec 6) (a b : Sel) (as : List Acc), Issues s i t → r.toNat % 2 = 0 →
    t.scalarSrc a = true → t.readable a →
    let p := t.part
    let c := (s.scalar t a (q 0 0)).toNat
    let x := s.ctx p c
    (t.scalarSrc b = true → t.readable b → Reads t (popsOnce [(0, a), (1, b)]) u q →
      let s0 := s.after i u (popsOnce [(0, a), (1, b)])
      (s.auth t = .operator → s.isCtx p c = true → x.fabNvd ≠ 0 → s0.wholeHalt p c = true → s0.ctxQuiet p c = true →
        let len := 64 + sealBody (s.dev.seals + 1) (s0.ctxTeams p c).length
        len ≤ (s.scalar t b (q 1 0)).toNat → (s0.setTeam i u).clearOver i [(t.pair r, len)] = .ok s1 → s1.placeRun i u (t.pair r) len = .ok as s2 →
        ∀ s3, s2.putRun u (t.pair r) (blobBytes (s2.part p).sealKey c len ((x.seq + 1) % 2 ^ 32) x.fabNvd (s2.dev.seals + 1)) as = .ok () s3 →
          exec (.seal (.s r) a b) s = .next ((s3.sealAway p c len).issued i)) ∧
      (s.auth t ≠ .auditor →
        let va := t.pair r
        let ca := (t.pair 62 + (s.scalar t a (q 0 0)).toNat) % 2 ^ 64
        ∀ chal s3 s4, 4883 ≤ (s.scalar t b (q 1 0)).toNat → va % 64 = 0 → ca % 64 = 0 → (s0.setTeam i u).clearOver i [(va, 4883)] = .ok s1 →
          s1.record i u ca 64 64 = .ok chal s2 → s2.placeRun i u va 4883 = .ok as s3 →
          s3.putRun u va (s3.report p t.ctx chal) as = .ok () s4 →
          exec (.attest (.s r) a b) s = .next (State.issued { s4 with dev := { s4.dev with attests := s4.dev.attests + 1 } } i))) ∧
    (Reads t (popsOnce [(0, a)]) u q → s.auth t = .operator → s.isCtx p c = true → x.sealed = true → x.fabNvd ≠ 0 →
      let s0 := s.after i u (popsOnce [(0, a)])
      ∀ n len head bs s3 s4, x.blob = some (n, len, x.fabNvd) → (s0.setTeam i u).readRun i u (piecesOf (t.pair r) 64) = .ok head s1 →
        sealedHeader head = sealedHeader (blobHeader (s1.part p).sealKey c len x.seq x.fabNvd n) →
        s1.readRun i u (piecesOf (t.pair r) len) = .ok bs s2 →
        bs.drop 64 = (blobBytes (s2.part p).sealKey c len x.seq x.fabNvd n).drop 64 →
        s2.rehome p c (s2.pleats.filter fun r => r.2.part == p && r.2.ctx == c && (r.2.stage == .inbox || r.2.stage == .wave)) = .ok () s3 →
        s3.unsealAll p c = some s4 → exec (.unseal (.s r) a) s = .next (s4.issued i))

/-- R349 to R351, R332, R373: INVPG begins the drain of its page (an owner in its own stage 1, an operator in the stage 2 of context D); INVCF is outstanding on its flag as a release at DEVICE scope; FLTACK's action is recorded once the issuer's writes are visible; DISCARD goes through its pages in order. -/
def Obligations.InvalidateResult : Prop :=
  ∀ (s s1 : State) (i : Nat) (t u : Team) (q : Nat → Nat → Word) (d a b : Sel), Issues s i t →
    (∀ n : BitVec 6, n.toNat % 2 = 0 → t.scalarSrc b = true → t.readable b → u.flagFull (t.setFlag true) = false →
      let fin (pops : List Pop) (c stage space : Nat) : Prop :=
        let s0 := (s.after i u pops).setTeam i u
        let code := (s.scalar t b (q 1 0)).toNat
        let addr := t.pair n
        let go (base size : Nat) : Prop :=
          let s2 := s0.beginDrain { team := i, part := t.part, ctx := c, stage := stage, base := base, size := size }
          exec (.invpg d (.s n) b) s = .next (s2.started i u (opOf i u s2 (t.setFlag true) .done) [])
        (code = 4 → go 0 space) ∧
        (code < 4 → addr % codeSize code = 0 → (if stage = 2 then addr < 2 ^ 52 else canonical addr = true) → go (addr % space) (codeSize code))
      (s.auth t = .owner → Reads t (popsOnce [(1, b)]) u q → fin (popsOnce [(1, b)]) t.ctx 1 (2 ^ 57)) ∧
      (s.auth t = .operator → t.scalarSrc d = true → t.readable d → Reads t (popsOnce [(1, b), (2, d)]) u q →
        let c := (s.scalar t d (q 2 0)).toNat
        c < 64 → (s.ctx t.part c).en = true → fin (popsOnce [(1, b), (2, d)]) c 2 (2 ^ 52))) ∧
    (s.auth t ≠ .auditor → t.flagFull (t.setFlag true) = false → (({ s with cur := none } : State).setTeam i t).drainAll i = .ok s1 →
      exec .invcf s = .next (s1.started i t { opOf i t s1 (t.setFlag true) .invcf with rel := some 4, mask := 0 } [])) ∧
    (t.scalarSrc a = true → t.readable a → Reads t (popsOnce [(0, a)]) u q → ∀ k : BitVec 8, k.toNat < 2 →
      let id := (s.scalar t a (q 0 0)).toNat
      let s0 := s.after i u (popsOnce [(0, a)])
      ∀ r, s.auth t ≠ .auditor → s0.unacked t id = some r → (if s.auth t = .operator then r.actOp = true else r.actOwn = true) →
        (s0.setTeam i u).drainAll i = .ok s1 → s1.covered (some i) (s1.dom u) s1.stamp = true →
        exec (.fltack a k) s = .next ((s1.recordAck id r (s.auth t == .operator) (k == 1)).issued i)) ∧
    (∀ n : BitVec 6, n.toNat % 2 = 0 → s.auth t = .owner → t.scalarSrc b = true → t.readable b → t.scalarSrc d = true → t.readable d →
      Reads t (popsOnce [(1, b), (2, d)]) u q → t.claimed = [] →
      let m := (s.scalar t d (q 2 0)).toNat
      let code := (s.scalar t b (q 1 0)).toNat
      1 ≤ m → m ≤ 512 → code ≤ 3 → t.pair n % codeSize code = 0 →
      ((s.after i u (popsOnce [(1, b), (2, d)])).setTeam i u).drainAll i = .ok s1 → s1.covered (some i) (s1.dom u) s1.stamp = true →
      ∀ s2, s1.discardFrom i u (t.pair n) (codeSize code) 0 none m = .ok s2 → exec (.discard d (.s n) b) s = .next (s2.issued i))

/-- R17, R35, R42 to R45, R66, R160, R217, R235, R238, R252: the steps that move a team on: its clause is fetched and starts, its refill claims the first record and ends, its core picks it and it issues, or stops at a breakpoint that has not stopped it there; an operation whose accesses are performed completes; a team goes on when what it waits for has come. The model's choices, which no rule states: what a breakpoint does to a pick (log 89); which copy of a clause a fetch uses, the cached one or memory's, is free (log 53), and a header that changed under way is fetched again (log 21). -/
def Obligations.SequencingResult : Prop :=
  ∀ (s s1 : State) (i : Nat) (x : Team), s.team i = some x →
    (x.free = true → x.stage = .reach → x.base.toNat % 4 = 0 →
      ∀ bs ks h s2, s.fetchPieces i x [(x.base.toNat, 4)] = .ok (bs, ks) s1 →
        ((s1.iclause x ((ks.head?).getD 0) = none ∧ h = bytesWord bs ∧ s2 = s1) ∨
          (∃ c, s1.iclause x ((ks.head?).getD 0) = some c ∧ s2 = (s1.choose 2).2 ∧ h = if (s1.choose 2).1 = 0 then c.clause.header else bytesWord bs)) →
        (headerOk x.base h = true →
          exec (.clauseFetch i) s = .next ((s2.dropReplies i).setTeam i { x with clause := { header := h, instrs := [], lits := [] }, stage := .waiting })) ∧
        (headerOk x.base h = false → exec (.clauseFetch i) s = .next ((s2.dropReplies i).takeTrap (checkInfo i x false .illegalHeader 0 .fetch)))) ∧
    (x.free = true → x.stage = .waiting → x.waitClear = true →
      ∀ bs ks, s.fetchPieces i x (linePieces x.base.toNat (4 * (1 + clauseBody x.clause.header)) 4) = .ok (bs, ks) s1 →
        s1.iclause x ((ks.head?).getD 0) = none →
        let c := clauseOf (bytesWords (1 + clauseBody x.clause.header) bs)
        let copy : IClause := { core := x.core, part := x.part, ctx := x.ctx, va := x.base.toNat, keys := ks, clause := c }
        let s3 : State := { s1.dropReplies i with icache := copy :: s1.icache.filter fun y => !(y.core == x.core && y.part == x.part && y.ctx == x.ctx && y.va == x.base.toNat) }
        c.header = x.clause.header →
          (bit c.header 2 = false ∨ x.refill = none →
            exec (.clauseStart i) s = .next (s3.setTeam i { x with clause := c, stage := .run, pc := x.base + 4, hold := none })) ∧
          (bit c.header 2 = true → ∀ k r l ls v, x.refill = some (k, r) → (s3.queue k).en = true → x.vacant = l :: ls →
            s3.firstRecord x.part x.ctx k x.vdie = some v →
            let t1 := { x with clause := c, stage := Stage.refill }
            let s4 := (s3.enterOp i t1 { opOf i t1 s3 none (.deq k r (l :: ls) true) with acq := some 4 } []).modTeam i
              fun t => { t with hold := some (.opDone s3.stamp) }
            exec (.clauseStart i) s = .next ((s4.claimHead k v).2.setOp s3.stamp { opOf i t1 s3 none (.deq k r ls true) with
              acq := some 4, accs := [claimAcc (s3.queue k) l v ((s3.queue k).ring v).head] }))) ∧
    (x.stage = .refill → x.hold = none → x.free = true → x.live ≠ 0 →
      exec (.refillWake i) s = .next (s.setTeam i { x with stage := .run, pc := x.base + 4 })) ∧
    (∀ core slot, slot < 4 → (s.core core).enabled = true →
      let sr := s.runClock core
      let s2 := (sr.teamsOn core).foldl (fun s e => s.notice e.1 (sr.core core).clk) sr
      let cands := (s2.teamsOn core).filter fun e => s2.pickable e.1 e.2
      (s2.firstPick cands = none → exec (.issuePick core slot) s = .next s2) ∧
      (∀ j t y, s2.firstPick cands = some (j, t) → (s2.stampPick j t cands).team j = some y →
        let s3 := s2.stampPick j t cands
        let s4 : State := { s3 with fabIn := s3.fabIn.filter fun r => r.op / 2 ^ 64 != j + 1 }
        y.pend = [] → y.redo = .none → y.pushing = none → y.hold = none →
          (s4.breaksAt y = true → exec (.issuePick core slot) s = .next (s4.setTeam j { y with debug := true, stopAt := some y.pc })) ∧
          (s4.breaksAt y = false → exec (.issuePick core slot) s =
            .next { s4.setTeam j { y with stopAt := if y.stopAt == some y.pc then y.stopAt else none } with cur := some j }))) ∧
    (∀ o z y, s.op o = some z → s.answered o z = (s1, y) →
      ((y.kind = .done ∨ y.kind = .store ∨ y.kind = .pstore ∨ y.kind = .launch ∨ y.kind = .pataddr ∨ (∃ p sc n sg, y.kind = .load p sc n sg)) →
        y.allDone = true → y.units = [] → y.failed = [] → y.refail = [] → exec (.operationComplete o) s = .next (s1.endOp o y)) ∧
      (y.kind = .fence → exec (.operationComplete o) s = .next (if s1.coveredAt (y.rel.getD 5) y.team y.dom o then s1.endOp o y else s1)) ∧
      (∀ qs, y.kind = .join qs → s1.ops.all (fun e => !(decide (e.1 < o) && qs.any fun k => e.2.inQueue k)) = true →
        exec (.operationComplete o) s = .next (s1.endOp o y))) ∧
    (∀ q p, x.qregs[q]? = some p →
      (x.hold = some (.fifoEmpty q) → p.fifo ≠ [] → exec (.fifoPopWake i) s = .next (s.setTeam i { x with hold := none })) ∧
      (x.hold = some (.fifoFull q) → p.bind = .fifo → p.fifo.length < Config.fifoDepth →
        exec (.fifoPopWake i) s = .next (s.setTeam i { x with hold := none }))) ∧
    (∀ key c, x.halted = false → x.debug = false → x.hold = some (.absent key) → s.cluster x.cluster = some c → c.present key = true →
      exec (.presenceWake i) s = .next (s.setTeam i { x with hold := none })) ∧
    (x.halted = false → x.debug = false → x.hold = some .tackDone →
      let y := { x with hold := none }
      exec (.tackWake i) s = .next { s.setTeam i { y with acq := (s.setTeam i y).acquireAt y 2 } with stamp := s.stamp + 1 }) ∧
    (∀ part ctx slot, exec (.htabSync part ctx slot) s = .next { s with
      hcopies := s.hcopies.filter fun y => !(y.part == part && y.ctx == ctx && y.slot == slot)
      teams := s.teams.map fun e =>
        if e.2.part == part && e.2.ctx == ctx && e.2.hold == some (.sync slot) then (e.1, { e.2 with hold := none }) else e })

/-- R67, R134, R217, R218, R230 to R232, R253, R265, R273, R276, R281, R284, R321: the steps in which accesses are performed: a load's bytes come back to its registers, a store's and a drained entry's bytes reach the L1 and their home, an atomic request reads, acts for its lanes in order and writes, an old value goes to its recipient and its tack, a copy's line moves and the copy ends. The model's choices, which no rule states: inj.stalls counts modulo 2^32 (log 62), and bytes of scratch are read when their load is served (log 47). -/
def Obligations.PerformResult : Prop :=
  ∀ (s : State),
    (∀ o k x a, s.op o = some x → x.accs[k]? = some a → a.done = false →
      (∀ p sc n sg, x.kind = .load p sc n sg → a.data = [] → s.loadReady o x k a = true → (∀ dev, a.tr.place ≠ .remote dev) →
        let bad := s.readMeets x a p
        (bad.1 = true → exec (.loadReturn o k) s = .next (bad.2.setOp o (x.failAll .memUncorr (x.servedWith k a)))) ∧
        (bad.1 = false →
        let r := bad.2.readFor o x a p
        let ws := loadWords n sg r.1
        (a.tied = false → sc = false ∨ ws.length < 2 → exec (.loadReturn o k) s = .next ((r.2.setOp o (x.markDone k)).deliver x a sc ws)) ∧
        (a.tied = false → sc = true → 2 ≤ ws.length →
          let full := 2 ^ ws.length - 1
          let m := (r.2.choose (full + 1)).1
          let s1 := (r.2.choose (full + 1)).2.deliverSome x a ws (m &&& (full ^^^ a.got))
          exec (.loadReturn o k) s = .next (if m = full then s1.setOp o (x.markDone k)
            else s1.setOp o { x with accs := x.accs.modify k fun a => { a with got := m, data := r.1 } })) ∧
        (a.tied = true → exec (.loadReturn o k) s = .next (r.2.returnAll o r.1 ((List.range x.accs.length).filter fun j => match x.accs[j]? with
          | some b => !b.done && b.tied
          | none => false))))) ∧
      (∀ n sg, x.kind = .pload n sg → a.data ≠ [] →
        exec (.loadReturn o k) s = .next ((s.setOp o (x.markDone k)).deliver x a false (loadWords n sg a.data))) ∧
      (∀ fn y dst dir ret key, x.kind = .atomic fn y dst dir ret → a.tr.place = .mem key → x.unsent k = false → x.earlierPass a = false →
        s.homeReady o x a key a.size = true → s.rangeBad key a.size = false →
          let mk := s.ctxMemKey x.part x.ctx
          let r := s.atomLanes o fn y dst dir (bytesNat (s.homeBytes mk key a.size)) (x.group k)
          exec (.atomicPerform o k) s = .next ((r.1.homeWrite mk key (natBytes r.2 a.size)).dropLines x.dom .loadStore key a.size)) ∧
      (∀ fn y dst ret cl key, x.kind = .atomic fn y dst true ret → s.deliverable x = some k → a.tr.place = .scratch cl key →
        exec (.directedDelivery o) s = .next (((s.setOp o (x.markDone k)).scratchWrite cl key (a.data.take 4)).arrive cl (key + 4))) ∧
      (∀ i t tile tack key c, x.team = some i → s.team i = some t → s.cluster t.cluster = some c → s.copyTurn i o = true → a.tr.place = .mem key →
        (x.kind = .copy true false tack → s.rangeBad key 128 = false →
          exec (.copyLineLand o k) s =
            .next (((s.setOp o (x.markDone k)).scratchWrite t.cluster a.reg (s.homeBytes (s.ctxMemKey x.part x.ctx) key 128)).setPresence t.cluster [lineOf a.reg])) ∧
        (x.kind = .copy false tile tack → c.present a.reg = true → (∀ j < 4, c.spoiled.contains (a.reg / 32 + j) = false) →
          let s1 := s.setOp o (x.markDone k)
          exec (.copyLineLand o k) s =
            .next ((s1.homeWrite (s1.ctxMemKey x.part x.ctx) key (c.bytes a.reg 128)).dropLines x.dom .loadStore key (c.bytes a.reg 128).length)))) ∧
    (∀ w y, recFind s.stores w = some y → s.storeReady w y = true →
      let s1 : State := { s with stores := cellDel s.stores w }.homeWrite (s.ctxMemKey y.part y.ctx) y.key y.data
      let s2 := if y.rel.isSome then s1.updateL1 y.dom y.key (s1.underPlain y.dom y.key y.data) else s1
      (y.op = none → exec (.storePerform w) s = .next s2) ∧
      (∀ o k x, y.op = some (o, k) → s2.op o = some x → exec (.storePerform w) s = .next (s2.setOp o (x.markDone k)))) ∧
    (∀ n e t tr s1 key, recFind s.posted n = some e → e.sent = false → s.drainReady n e = true → s.team e.team = some t → e.held = none →
      e.mig = false → s.postedTr t e.team e = (.ok tr, s1) → tr.place = .mem key → (s1.wholeGranule n key e).2 = e →
        s1.fenced (some e.team) n = false → s1.blocked (some e.team) n key e.data.length = false → s1.readAway n e = false →
        let s2 := (s1.wholeGranule n key e).1
        s2.meetsBad e.team true key e.data.length = false →
        let s3 := s2.updateL1 (s2.dom t) key e.data
        let w : StoreReq :=
          { team := some e.team, dom := s2.dom t, part := t.part, ctx := t.ctx, key := key, va := e.va, data := e.data, pa := tr.pa, nodes := tr.nodes,
            seq := n, rel := none, op := e.lands }
        exec (.postedDrain n) s = .next { s3.bump with posted := cellDel s3.posted n, stores := cellPut s3.stores s3.stamp w }) ∧
    (∀ p i t inn tile tack z, s.op p = some z → z.kind = .copy inn tile tack → z.team = some i → s.team i = some t → z.allDone = true → z.refail = [] →
      s.copyLast i p = true → s.writesHome (some i) p = true → s.coveredAt 2 (some i) z.dom p = true →
        (tack = none → exec (.copyComplete p) s = .next (s.endOp p z)) ∧
        (∀ key c v, tack = some key → s.cluster t.cluster = some c → c.present key = true → tackArrive (s.scratchWord t.cluster key) = some v →
          exec (.copyComplete p) s = .next ((s.scratchWrite t.cluster key (natBytes v.toNat 4)).endOp p z))) ∧
    (∀ o x u us, s.op o = some x → x.units = u :: us → s.unitsGo x = true → u.dev ≠ (s.ctx x.part x.ctx).fabDev → s.reaches x.part x.ctx u.dev = true → s.unitWaits o x u = false →
      let die := coreDie x.core
      let b := s.bucket x.part x.ctx die
      (u.cost ≤ b.tokens → exec (.unitSend o) s =
        .next ((((s.setBucket x.part x.ctx die { b with tokens := b.tokens - u.cost }).sendUnit o x u).setOp o { x with units := us }).unitsOver o)) ∧
      (b.tokens < u.cost → u.stalled = false → exec (.unitSend o) s =
        .next (((s.setBucket x.part x.ctx die { b with stalls := (b.stalls + 1) % 2 ^ 32 }).count x.part x.ctx 0x110).setOp o
          { x with units := { u with stalled := true } :: us }))) ∧
    (∀ p c die, c < 64 → die < 8 → let b := s.bucket p c die
      0 < b.gain → b.tokens < b.cap → exec (.bucketRefill p c die) s = .next (s.setBucket p c die { b with tokens := b.tokens + 1 }))

/-- R17, R60 to R62, R72, R143, R145, R149 to R153, R162, R326, R357, R363, R364: the steps of queues, knots, launches and places: claimed records are written, published, read and delivered; counts change and a knot at zero fires; a cluster is placed whole; teams leave their core and come back; a fault record enters its queue. The model's choices, which no rule states: the length and the bytes of a save area are free (log 7), a team comes back with what it left (log 70), and a lining's save area stands in tier 0 (log 20). -/
def Obligations.TaskResult : Prop :=
  ∀ (s : State),
    (∀ o x q r todo refill k a bs s1, s.op o = some x → x.kind = .deq q r todo refill → s.deliverableRecord q x = some k → x.accs[k]? = some a →
      x.mig = false → s.acquires x.team o = false → s.agentRead x.part x.ctx (coreDie x.core) a.va 32 = .ok bs s1 →
        exec (.recordDelivery o) s = .next ((s1.forget.giveRecord o x k r a refill bs).unpublish q a.aux a.reg)) ∧
    (∀ i t o x q r l ls v, s.team i = some t → t.hold = some (.opDone o) → s.op o = some x → t.place = .placed → t.halted = false → t.trap = none →
      x.kind = .deq q r (l :: ls) false → x.team = some i → x.allDone = true → x.failed = [] → x.refail = [] → (s.queue q).en = true → s.firstRecord t.part t.ctx q t.vdie = some v →
        let head := ((s.queue q).ring v).head
        let s1 := s.setQueue q ((s.queue q).setRing v { (s.queue q).ring v with head := head + 1 })
        exec (.deqResume i) s = .next (s1.setOp o { x with kind := .deq q r ls false, accs := x.accs ++ [claimAcc (s.queue q) l v head] })) ∧
    (∀ o x q k a s1, s.op o = some x → x.kind = .enq q → x.accs[k]? = some a → a.done = false → (∀ j < k, ∀ b, x.accs[j]? = some b → b.done = true) →
      x.mig = false → s.writeHeld o x = false → s.writeRecord x.part x.ctx (coreDie x.core) a.va a.data = .ok () s1 →
        exec (.enqPublish o) s = .next ((s1.setOp o (x.markDone k)).publish q a.aux a.reg)) ∧
    (∀ o x, s.op o = some x → s.writeHeld o x = false →
      (∀ fn key vdie obj k a, x.kind = .knot fn key vdie obj → (x.accs.zipIdx.find? fun a => !a.1.done && a.1.size == 0) = some (a, k) →
        let n := s.knot key
        let s1 := s.setOp o (x.markDone k)
        (fn = 0 → exec (.knotOperation o) s = .next (s1.setKnot key { n with count := a.aux })) ∧
        (fn = 1 → n.count + a.aux < 2 ^ 32 → exec (.knotOperation o) s = .next (s1.setKnot key { n with count := n.count + a.aux })) ∧
        (fn = 2 → a.aux ≠ 0 → a.aux < n.count → exec (.knotOperation o) s = .next (s1.setKnot key { n with count := n.count - a.aux })) ∧
        (fn = 2 → a.aux ≠ 0 → a.aux = n.count → exec (.knotOperation o) s =
          .next (((s.setOp o { x with accs := x.accs.modify k fun a => { a with size := 1 } }).setKnot key { n with count := 0 }).fire key x.part x.ctx vdie
            obj (some (.lane o a.lane)))) ∧
        (n.count < a.aux → fn = 2 → exec (.knotOperation o) s = .next (s.setOp o (x.failLane k a .knotUnderflow)))) ∧
      (∀ key rec1 qk k a, x.kind = .knotbind key rec1 qk → x.firstOpen = some (k, a) → exec (.knotOperation o) s =
        .next ((s.setOp o (x.markDone k)).setKnot key { s.knot key with record := rec1, queue := qk }))) ∧
    (∀ p n f rest bs v s2, (s.knot (knotKey p n)).firing = f :: rest → f.held = false → f.mig = false → f.claim = none → f.data = some bs →
      (∀ g ∈ rest, g.op = none) → (s.queue f.queue).en = true → s.firstRoom f.part f.ctx f.queue f.vdie = some v →
      let slot := ((s.queue f.queue).ring v).tail
      let s1 := ((s.setKnot (knotKey p n) (s.knot (knotKey p n))).claimTail f.queue v).2.fireReleases f
      s1.writeRecord f.part f.ctx (s1.fireDie f) ((s1.queue f.queue).recAddr v slot) bs = .ok () s2 →
        exec (.knotFireRetry p n) s =
          .next ((s2.forget.setKnot (knotKey p n) { s2.knot (knotKey p n) with firing := rest }).publish f.queue v slot)) ∧
    (∀ g vd origin x h w die, recFind s.grids g = some x → shapeOf x.shape = some (h, w) → s.physDie x.part x.ctx vd = some die →
      s.clusterFits x die (origin / 8) (origin % 8) h w = true →
        let cores := rectCores die (origin / 8) (origin % 8) h w
        let c : Cluster :=
          { grid := g, part := x.part, ctx := x.ctx, cid := x.next, die := die, row := origin / 8, col := origin % 8, h := h, w := w,
            share := 128 * ceilDiv x.scratch (h * w), fuse := x.fuse && decide (1 < h * w), cells := [], absent := [], spoiled := [], away := [] }
        let s1 := cores.foldl (fun s k => s.carveTo k x.carve) { s with stamp := s.stamp + 1 }
        let s2 : State := { s1 with clusters := cellPut s1.clusters s.stamp c, grids := cellPut s1.grids g { x with next := x.next + 1, running := x.running + 1 } }
        exec (.clusterPlace g vd origin) s =
          .next (s2.placeTeams x x.next s.stamp vd (h * w) cores ((teamRoles x.roles).zipIdx.map fun r => (r.2, r.1)))) ∧
    (∀ i t s1, s.team i = some t →
      (t.place = .placed → t.halted = false → t.debug = false → t.mayLeave = true → s.wouldRun i t = false → t.idle ≠ 0 →
        t.idle + Config.spillCycles ≤ (s.core t.core).clk + 1 → s.noClaim i = true → s.tokenWait t = false → s.spillHelps i t = true →
        let va := s.saveSlot t
        let bs := (List.range (Config.sealLen s.stamp % 0x180001)).map fun k => Config.freeByte s.stamp k
        s.agentPut t.part t.ctx (coreDie t.core) none va bs (piecesOf va bs.length) = .ok () s1 →
          exec (.teamSpill i) s = .next ((s1.leaveL1 t).bump.setTeam i { t with place := .spilled })) ∧
      (s.wantsBack i t = true → s.backHome i t = some s1 →
        exec (.teamRestore i) s = .next (s1.modTeam i fun y => { y with idle := 0, age := s.stamp, passed := 0 }).bump)) ∧
    (∀ core p c, s.flips p c = true → s.flipDue core p c = true → s.mmaDue core p c = false →
      (∀ d < 64, d ≠ c → s.liningHeld core p d = false) →
      let s1 := ((s.teamsOn core).filter fun (e : Nat × Team) => e.2.part == p && e.2.ctx == c).foldl (fun (s : State) (e : Nat × Team) => s.leaveL1 e.2) s
      exec (.liningFlip core p c) s = .next { s1 with
        teams := s1.teams.map fun (e : Nat × Team) =>
          if e.2.core == core && e.2.part == p && e.2.ctx == c then
            (if e.2.place == .placed then (e.1, { e.2 with place := .lining })
             else if e.2.rowsOn && e.2.rowsAway.isNone then (e.1, { e.2 with rowsAway := some false }) else e)
          else e
        clusters := s1.clusters.map fun (e : Nat × Cluster) =>
          if e.2.part == p && e.2.ctx == c && e.2.cores.contains core && !(e.2.away.any fun a => a.1 == core) then
            (e.1, { e.2 with away := (core, false) :: e.2.away }) else e }) ∧
    (∀ core p c, s.liningHeld core p c = true →
      let bs := (List.range (Config.sealLen s.stamp % 0x1C1001)).map fun k => Config.cipher (2 * s.stamp + 1) k
      let key := s.liningSlot p c core
      let s1 := if s.backed p 0 key then s.bump.homeWrite .none (memKey 0 key) bs else s.bump
      exec (.liningDrain core p c) s = .next { s1 with
        teams := s1.teams.map fun (e : Nat × Team) =>
          if e.2.core == core && e.2.part == p && e.2.ctx == c then
            (e.1, { e.2 with place := if e.2.place = .lining then .slot else e.2.place, rowsAway := e.2.rowsAway.map fun _ => true }) else e
        clusters := s1.clusters.map fun (e : Nat × Cluster) =>
          if e.2.part == p && e.2.ctx == c then (e.1, { e.2 with away := e.2.away.map fun a => if a.1 == core then (core, true) else a }) else e }) ∧
    (∀ p c d r rs bs s1 k,
      ((s.ctx p c).ownParts = (r :: rs) :: bs → (s.ctx p c).ownMig = false → s.enqueueFault (ctxKey p c) p c (s.ctx p c).fqOwn r = (s1, .queue k) →
        exec (.faultPartEnqueue p c false) s = .next (s1.setCtx p c { s1.ctx p c with
          ownParts := dropRecord ((r :: rs) :: bs), ownOpen := if blockLeft (r :: rs) then some k else none })) ∧
      (s.operatorCtx p = some d → (s.part p).opParts = (r :: rs) :: bs → (s.part p).opMig ≠ some d →
        s.enqueueFault (ctxKey 4 0) p d (s.part p).fqOp r = (s1, .queue k) →
        exec (.faultPartEnqueue p c true) s = .next (s1.setPart p { s1.part p with opParts := dropRecord ((r :: rs) :: bs) })))

/-- R211, R238, R241 to R246: the steps of the engines: a record staged whole enters its queue; the record at the head moves a line, or does an output row, an element or a group of elements; with every unit done it completes; a fault stops its queue and is reported; a tracer walk pushes its next tile, or its end token. The model's choices, which no rule states: the fields of a fault that carry the port, the queue and the record's first address (log 23), a scale code of 255 in a conversion (log 57), and the reduction of one source (log 106). -/
def Obligations.EngineResult : Prop :=
  ∀ (s s1 s2 s3 : State),
    (∀ (i : Nat) (t : Team) (q : BitVec 4) v kind n die, s.team i = some t → (t.qregs[q.toNat]).whole = true →
      s.writesHome (some i) (t.qregs[q.toNat]).since = true → (t.qregs[q.toNat]).bind = .engine v kind n → s.physDie t.part t.ctx v = some die →
      s.queued (engineQueue die kind n) < Config.engineDepth → t.stagedBefore (t.qregs[q.toNat]) = false →
        let port := t.qregs[q.toNat]
        let s1 := s.setTeam i { t with qregs := t.qregs.set q.toNat { port with staged := [] } q.isLt }
        let op : Op := { opOf i t s none .done with mask := 0 }
        exec (.engineRecordEntry i q) s =
          .next { s1.bump with ops := cellPut s1.ops s1.stamp { op with kind := .engine (engineQueue die kind n) v t.cluster port.staged 0 false } }) ∧
    (∀ o x ws pos i t, s.op o = some x → x.kind = .recCopy ws pos → x.team = some i → s.team i = some t → x.mig = false → x.failed = [] → x.rel = none →
      s.copyTurn i o = true → pos < recLines ws → (pos = 0 → s.copyBody t.cluster ws = none) →
        let va := (recLine ws pos).1
        let key := scratchKey (recLine ws pos).2
        (∀ bs, bits ((ws[0]?).getD 0) 7 0 = 1 → s.agentGet x.part x.ctx (coreDie x.core) (piecesOf va 128) = .ok bs s1 → s1.op o = some x →
          exec (.engineCopyIn o) s =
            .next (((s1.setOp o { x with kind := .recCopy ws (pos + 1) }).scratchWrite t.cluster key bs).setPresence t.cluster [lineOf key])) ∧
        (∀ c, bits ((ws[0]?).getD 0) 7 0 = 2 → s.cluster t.cluster = some c → c.present key = true → (∀ j < 4, c.spoiled.contains (key / 32 + j) = false) →
          s.agentPut x.part x.ctx (coreDie x.core) (some x.dom) va (c.bytes key 128) (piecesOf va 128) = .ok () s1 → s1.op o = some x →
            exec (.engineCopyOut o) s = .next (s1.setOp o { x with kind := .recCopy ws (pos + 1) }))) ∧
    (∀ e x k v cl ws pos, s.op e = some x → x.kind = .engine k v cl ws pos false → x.mig = false → x.failed = [] → s.engineTurn e k = true →
      (pos < engineUnits (queueKind k) ws → (pos = 0 → engineBody (queueKind k) ws = none ∧ s.targetOk cl ws = none) → s3.op e = some x →
        let die := k / 2 / 64
        let go : State := s3.forget.setOp e { x with kind := .engine k v cl ws (pos + 1) false }
        (∀ is rows, queueKind k = 0 →
          let pool := bits ((ws[9]?).getD 0) 7 0
          let dst := (recAddr ws 10 + pos * recWord ws 4) % 2 ^ 64
          s.agentGet x.part x.ctx die (piecesOf ((recAddr ws 6 + 4 * (pos * pool)) % 2 ^ 64) (4 * pool)) = .ok is s1 →
          s1.gatherRows x.part x.ctx die ws (bytesWords pool is) = .ok rows s2 →
          s2.agentPut x.part x.ctx die (some x.dom) dst (wordsBytes (combRows (bits ((ws[9]?).getD 0) 15 8) rows)) (piecesOf dst (recWord ws 4)) = .ok () s3 →
            exec (.engineGather e) s = .next go) ∧
        (∀ y ys, queueKind k = 1 →
          let w2 : Word := (ws[2]?).getD 0
          let size := if bits w2 20 16 = 9 then 2 else 4
          let dst := (recAddr ws 4 + size * pos) % 2 ^ 64
          let wide (z : Nat) := if bits w2 20 16 = 9 then (floatToFloat fmtBF16 fmtF32 .rne false false z).1 else z
          let r := (ys.map wide).foldl (reduceStep (bits w2 9 8) (bits w2 20 16)) (wide y)
          let out := if bits w2 20 16 = 9 then (floatToFloat fmtF32 fmtBF16 .rne false false r).1 else r
          s.reduceSrcs x.part x.ctx die size pos ((List.range (bits w2 3 0)).map fun j => recAddr ws (6 + 2 * j)) = .ok (y :: ys) s1 →
          s1.agentPut x.part x.ctx die (some x.dom) dst (natBytes out size) (piecesOf dst size) = .ok () s3 →
            exec (.engineReduce e) s = .next go) ∧
        (∀ src dst bs c f, queueKind k = 2 →
          let w2 : Word := (ws[2]?).getD 0
          convType (bits w2 4 0) = some src → convType (bits w2 12 8) = some dst → src ≠ .q4x → fmtOf dst = some f → dst ≠ .q4x →
          let n := convBits src * 1 / 8
          let m := convBits dst * 1 / 8
          let va := (recAddr ws 4 + n * pos) % 2 ^ 64
          let dest := (recAddr ws 6 + m * pos) % 2 ^ 64
          let val := if c = some 255 then .nan false else convScale dst c (convIn src (bit w2 25) c (slice (bytesNat bs) (convBits src) 0) 0)
          s.agentGet x.part x.ctx die (piecesOf va n) = .ok bs s1 → s1.convCodes x.part x.ctx die ws [pos] = .ok [c] s2 →
          s2.agentPut x.part x.ctx die (some x.dom) dest (natBytes (convOut f (bit w2 25) (bit w2 24) val) m) (piecesOf dest m) = .ok () s3 →
            exec (.engineConvert e) s = .next go)) ∧
      (engineUnits (queueKind k) ws ≤ pos → (engineUnits (queueKind k) ws = 0 → engineBody (queueKind k) ws = none ∧ s.targetOk cl ws = none) →
        s.coveredAt (recScope ws) x.team x.dom e = true →
        let d := bits ((ws[0]?).getD 0) 14 13
        (d = 0 → exec (.engineCompletion e) s = .next (s.endOp e x)) ∧
        (d = 1 → s.tackReachable cl (some (scratchKey (recWord ws 1))) = true →
          exec (.engineCompletion e) s = .next ((s.arrive cl (scratchKey (recWord ws 1))).endOp e x)) ∧
        (∀ n, d = 2 → s.agentHandle x.part x.ctx ((s.physDie x.part x.ctx v).getD 0) ((ws[1]?).getD 0) .knot = .ok (some n) s1 → s1.knotOk x.part n = true →
          exec (.engineCompletion e) s = .next ((s1.endOp e x).agentDec (knotKey x.part n) x.part x.ctx v (recWord ws 1))))) ∧
    (∀ e x k v cl ws pos f fs, s.op e = some x → x.kind = .engine k v cl ws pos false → x.failed = f :: fs →
      exec (.engineRecordFault e) s =
        .next ((s.setOp e { x with failed := [], kind := .engine k v cl ws pos true }).takeTrap
          { contextInfo x.part x.ctx (recFirst x % 2 ^ 32) (16 * (queueKind k + 1) + k / 2 % 16) v f (.engine e) with pc := recFirst x / 2 ^ 32 })) ∧
    (∀ o x ws pos i t, s.op o = some x → x.kind = .recCopy ws pos → x.team = some i → s.team i = some t →
      (∀ f fs, x.failed = f :: fs → exec (.engineRecordFault o) s = .next ((s.setOp o { x with failed := [], rel := some 0 }).takeTrap
        { contextInfo x.part x.ctx (recFirst x % 2 ^ 32) 2 t.vdie f (.engine o) with pc := recFirst x / 2 ^ 32 })) ∧
      (x.mig = false → x.failed = [] → x.rel = none → recLines ws ≤ pos → (recLines ws = 0 → s.copyBody t.cluster ws = none) → s.copyLast i o = true →
        s.writesHome (some i) o = true → s.coveredAt (recScope ws) x.team x.dom o = true → bits ((ws[0]?).getD 0) 14 13 = 0 →
          exec (.engineCompletion o) s = .next (s.endOp o x))) ∧
    (∀ o x i t q n0 n1 n2 pushed st, s.op o = some x → x.kind = .trace q n0 n1 n2 pushed st → x.team = some i → s.team i = some t → t.going = true →
      x.failed = [] → x.refail = [] →
      ((st = true ∨ n0 * n1 * n2 ≤ pushed.length) → s.push1 i (BitVec.ofNat 4 q) 0xFFFFFFFF = .ok s1 → exec (.tracerPush o) s = .next (s1.endOp o x)) ∧
      (∀ j, st = false → pushed.length < n0 * n1 * n2 → nextTile (n0 * n1 * n2) (s.choose (n0 * n1 * n2)).1 pushed = some j →
        (s.choose (n0 * n1 * n2)).2.push1 i (BitVec.ofNat 4 q) (tileWord n0 n1 j) = .ok s1 →
          exec (.tracerPush o) s = .next (s1.setOp o { x with kind := .trace q n0 n1 n2 (j :: pushed) st })))

/-- R166, R185 to R187, R197, R202 to R204, R293, R295, R298 to R301, R305, R307, R308, R314, R317, R318, R322, R323, R401: the step of a loop's lane group; a request enters its object's inbox, starts a wave and is answered; a failed plane is left out; and what a unit, or a request over the job, of another device does here. The model's choices, which no rule states: the form of the messages between devices (log 96) and of another device's drain (log 54), that no wave starts on a core of a fused cluster (log 108), and when an object's home is found (log 27). -/
def Obligations.RequestResult : Prop :=
  ∀ (s s1 : State),
    (∀ o g x l i t lg sw bs, s.op o = some x → x.kind = .loop l → x.team = some i → s.team i = some t → l.groups.find? (·.g == g) = some lg →
      swatchOf l.sw = some sw → s.stepReady o i x t l lg = true →
        let k := (l.busyGroups[lg.pos / l.steps]?).getD 0
        let rd := l.reads sw k (if l.fn = 0 then l.step0 else lg.pos % l.steps)
        let ws := if l.fn = 0 then lg.frags else bytesWords 1024 (bs.take 4096)
        s.rowsSpoilt i (lg.g, (l.rowsOf k).1, (l.rowsOf k).2) = false → s.loopRead o i x t (rd.1 ++ rd.2.1 ++ rd.2.2) = .ok bs s1 →
          let r := s1.loopCompute i l sw lg k (ws.take 512) (ws.drop 512) (if l.fn = 0 then bs else bs.drop 4096)
          exec (.matrixStep o g) s = .next ({ r.1 with fabIn := r.1.fabIn.filter (·.op != o) }.setOp o
            { x with kind := .loop { l.setGrp r.2.1 with st := l.st ||| r.2.2 } })) ∧
    (∀ o x reg sent k ks a ob core, s.op o = some x → x.kind = .pleat reg sent → x.mig = false → s.unitsGo x = true → s.coveredAt (x.rel.getD 3) x.team x.dom o = true →
      ((List.range x.accs.length).filter fun k => ((x.accs[k]?).map fun a => !a.done && a.remoteDev.isNone && !sent.contains k).getD false) = k :: ks →
      x.accs[k]? = some a → pleatOf a.objWords = some ob → s.pleatHome x.part x.ctx a.va ob = .ok core s1 → s1.inboxUsed core < Config.inboxSlots →
        let r : PleatReq :=
          { part := x.part, ctx := x.ctx, object := a.va, handle := BitVec.ofNat 32 a.aux, record := a.objWords, args := a.args.take ob.nargs,
            core := core, pkg := none, op := o, lane := a.lane, stage := .inbox, reply := [] }
        exec (.pleatInboxAccept o) s =
          .next ((State.setOp { s1.bump with pleats := cellPut s1.pleats s1.stamp r } o { x with kind := .pleat reg (k :: sent) }).unitsOver o)) ∧
    (∀ n r ob core slot, recFind s.pleats n = some r → s.waveRuns r.part r.ctx r.object = false → (s.ctx r.part r.ctx).runs = true →
      let rs := (s.inboxOf r.part r.ctx r.object).take 1024
      (rs.head?).map (·.1) = some n → pleatOf r.record = some ob → s.pleatHome r.part r.ctx r.object ob = .ok core s1 → s1.freeSlot core [] = some slot →
      (s1.core core).enabled = true → s1.fusedOn s1.stamp core = false → s1.unitsUsed core + regUnitsOf rs.length ob.vregs ≤ Config.regUnits →
        let s2 : State := { s1 with pleats := s1.pleats.map fun (y : Nat × PleatReq) =>
          if (rs.map (·.1)).contains y.1 then (y.1, { y.2 with stage := .wave, core := core }) else y }
        exec (.waveStart n) s = .next (s2.bump.setTeam s2.stamp (waveTeam s2 core slot r ob rs))) ∧
    (∀ n r x t i reg sent k a, recFind s.pleats n = some r → s.op r.op = some x → x.kind = .pleat reg sent → x.team = some i → s.team i = some t →
      x.laneIdx r.lane = some (k, a) → r.pkg = none →
        let s2 : State := { s with pleats := cellDel s.pleats n }
        (r.stage = .replied → r.aborted = false → s.replyStays x = false →
          exec (.pleatReply n) s = .next (s2.pleatLands r.op k x a reg r.reply none) ∧
          ∃ n, (s2.pleatLands r.op k x a reg r.reply none).team i = some { t.setVs a.lane reg (r.reply.take a.size) with acq := n }) ∧
        (r.stage = .aborted → r.aborted = true → s.replyStays x = false →
          exec (.pleatReply n) s = .next (s2.pleatLands r.op k x a reg r.reply (some .pleatAborted))) ∧
        (r.stage = .replied → s.replyStays x = true → exec (.pleatReply n) s = .next { s with pleats := cellPut s.pleats n { r with stage := .stayed } }) ∧
        (r.stage = .stayed → r.aborted = false → s.replyStays x = false →
          exec (.pleatResend n) s = .next { s with pleats := cellPut s.pleats n { r with stage := .replied } })) ∧
    (∀ p, p < 36 → p ∉ s.dev.planes → exec (.planeFail p) s = .next { s with dev := { s.dev with planes := p :: s.dev.planes } }) ∧
    (∀ (u : Sys2Proof.FabUnit) (lane va : Nat),
      (s.member u.part u.ctx u.pkg u.spart u.sctx u.dev = false → exec (.remoteAccess u) s = .next (refuseAll s u .fabricPerm (bodyLanes u.body))) ∧
      (s.member u.part u.ctx u.pkg u.spart u.sctx u.dev = true → (s.ctx u.part u.ctx).placed = true →
        (∀ size bs, u.body = .load size [(lane, va)] → va % size = 0 → s.behind u va = false →
          s.agentRead u.part u.ctx (s.doorDie u.part u.ctx) va size = .ok bs s1 →
            exec (.remoteAccess u) s = .next { s1 with outputs := s1.outputs ++ [Output.reply u.pkg u.uid lane bs none] }) ∧
        (∀ n tr key, 0 < n → va % n = 0 → s.behind u va = false → s.agentPlace u.part u.ctx (s.doorDie u.part u.ctx) va n = .ok tr s1 →
          tr.place = .mem key →
          let mk := s1.ctxMemKey u.part u.ctx
          let old := s1.homeBytes mk key n
          let fin (back bs : List Byte) : State :=
            { s1.homeWrite mk key bs with outputs := (s1.homeWrite mk key bs).outputs ++ [Output.reply u.pkg u.uid lane back none] }
          (∀ data, u.body = .store [(lane, va, data)] → data.length = n → exec (.remoteAccess u) s = .next (fin [] data)) ∧
          (s1.rangeBad key n = false →
            (∀ data, n = 4 → u.body = .add true [(lane, va, data)] →
              exec (.remoteAccess u) s = .next (fin old (natBytes (atomApply .fadd .f32 (bytesNat old) data) 4))) ∧
            (∀ data, n = 8 → data.length = 8 → u.body = .add false [(lane, va, data)] →
              exec (.remoteAccess u) s = .next (fin old (natBytes (atomApply .add .i64 (bytesNat old) data) 8))) ∧
            (∀ fn ty data f y, u.body = .atom fn ty [(lane, va, data)] → (FarWrite.atom fn ty).fn data = some (f, y) → f.size y = n →
              exec (.remoteAccess u) s = .next (fin old (natBytes (atomApply f y (bytesNat old) data) n))) ∧
            (∀ fn ty data l2 data2 f y, u.body = .atom fn ty [(lane, va, data), (l2, va, data2)] → (FarWrite.atom fn ty).fn data = some (f, y) →
              (FarWrite.atom fn ty).fn data2 = some (f, y) → f.size y = n →
              let m1 := natBytes (atomApply f y (bytesNat old) data) n
              let s2 := s1.homeWrite mk key (natBytes (atomApply f y (bytesNat m1) data2) n)
              exec (.remoteAccess u) s = .next { s2 with outputs := s2.outputs ++
                [Output.reply u.pkg u.uid lane old none, Output.reply u.pkg u.uid l2 m1 none] }))))) ∧
    (∀ (r : DrainMsg),
      (s.member r.part r.ctx r.pkg r.spart r.sctx r.dev = false → exec (.remoteDrainRequest r) s = .next (s.answer r (some .fabricPerm))) ∧
      (s.member r.part r.ctx r.pkg r.spart r.sctx r.dev = true →
        (∀ a b, (s.ctx r.part r.ctx).placed = true → r.body = .patCheck a b →
          s.patCopy r.part r.ctx (s.doorDie r.part r.ctx) a b false = .ok () s1 →
            exec (.remoteDrainRequest r) s = .next (s1.forget.answer r none)) ∧
        (∀ a b, (s.ctx r.part r.ctx).placed = true → r.body = .patCopy a b →
          s.patCopy r.part r.ctx (s.doorDie r.part r.ctx) a b true = .ok () s1 →
            exec (.remoteDrainRequest r) s = .next (s1.forget.answer r none)) ∧
        (∀ a, r.body = .patEnd a → exec (.remoteDrainRequest r) s = .next ((s.endPatDrain r.part r.ctx (hSlot a)).answer r none)) ∧
        (∀ va size, r.body = .fsDrain va size →
          exec (.remoteDrainRequest r) s = .next ((s.revoke r.part r.ctx va size (some r.dev)).answer r none)) ∧
        (∀ va size, r.body = .fsConf va size →
          exec (.remoteDrainRequest r) s = .next ((s.unrevoke r.part r.ctx va size (some r.dev)).answer r none)) ∧
        (∀ h, r.body = .patInv h → ∃ u x, exec (.remoteDrainRequest r) s = .next u ∧ u.patDraining.contains (r.part, r.ctx, hSlot h) = true ∧
          u.op s.stamp = some x ∧ x.kind = .jobAck r.pkg r.uid r.k ∧ x.pc = hSlot h ∧ x.part = r.part ∧ x.ctx = r.ctx)))

/-- R140, R141, R354, R376, R378, R381, R386, R387, R391, R403: what the host's register accesses do: a write that its authority may make acts, another is counted (and reported where its class says so); a read gives the fields that its authority may read; a write of a queue's base or depth while it is in use is dropped and reported; PART_CFG, the handshake of a merge or split, contexts, keys and debug stops. The model's choices, which no rule states: how ILV_CFG is rewritten (log 32), the context a refusal without one is reported to (log 34), a key import into context 0 (log 35), when an import ends (log 76), which writes count as refused (log 79), what pages answer an authority that may not use them (log 80), and a debugger's messages (log 89). -/
def Obligations.HostRegisterResult : Prop :=
  ∀ (s : State) (p c : Nat), s.live = true → s.isPart p = true → c < 64 →
    (∀ off v trusted r, p < 4 → off % 4 = 0 → regName off = some r → s.hasReg p r = true →
      let own := s.trusts p trusted
      let x := s.regView p r
      ((owPage off = false ∨ own = true) →
        ((if own then x.ownW else x.opW) ≠ 0 → exec (.registerWrite (p + 1) off v trusted) s = .next (s.regWrite p off v r)) ∧
        ((if own then x.ownW else x.opW) = 0 → x.named ≠ 0 →
          exec (.registerWrite (p + 1) off v trusted) s = .next (s.refuseAccess p off (own && !owPage off))) ∧
        (let may := if own then x.ownR else x.opR
         x.named &&& ~~~(may ||| (if own then x.ownW else x.opW)) = 0 →
          exec (.registerRead (p + 1) off trusted) s = .next { s with outputs := s.outputs ++ [Output.hostReg (x.value &&& may)] })) ∧
      (owPage off = true → own = false →
        exec (.registerWrite (p + 1) off v trusted) s = .next (s.refuseAccess p off true) ∧
        exec (.registerRead (p + 1) off trusted) s =
          .next { s.refuseAccess p off true with outputs := (s.refuseAccess p off true).outputs ++ [Output.hostReg 0] })) ∧
    (∀ off v n, off < 0x10000 → off % 4 = 0 → regName (0x30000 + off) = some (.queue n 2) → s.queueOk p n = true → s.trusts p true = true →
      let k := queueKey p n
      let q := s.queue k
      q.en = false → s.held k = 0 → exec (.queueDescriptorWrite p off v true) s =
        .next (s.setQueue k { q with depth := bits v 15 0, radius := bits v 19 16, prio := bits v 21 20, en := bit v 31 })) ∧
    (∀ off v n w, off < 0x10000 → off % 4 = 0 → w < 3 → regName (0x30000 + off) = some (.queue n w) → s.queueOk p n = true → s.trusts p true = true →
      let k := queueKey p n
      let q := s.queue k
      q.en = true →
        let s1 := if w = 2 then s.setQueue k { q with radius := bits v 19 16, prio := bits v 21 20, en := bit v 31 } else s
        exec (.queueDescriptorWrite p off v true) s = .next (s1.noticeOwner p (s1.reportCtx p none) .rights 0 (0x30000 + off) 0 0 0)) ∧
    (∀ v, (bits v 2 0 < 5 → (∀ p < 4, s.holdsCtx p = false) → exec (.partShapeWrite v) s =
        .next { s with dev := { s.dev with shape := bits v 2 0, partErr := s.dev.partErr && !bit v 3 } }.startParts) ∧
      (5 ≤ bits v 2 0 → exec (.partShapeWrite v) s = .next { s with dev := { s.dev with partErr := true } })) ∧
    (∀ pair, let h := if pair then 1 else 0
      ((s.dev.mrgState = 0 ∨ 4 ≤ s.dev.mrgState) →
        exec (.merge pair) s = .next { s with dev := { s.dev with mrgPair := pair, mrgSplit := false, mrgState := 1, mrgWhy := 0 } } ∧
        exec (.split pair) s = .next { s with dev := { s.dev with mrgPair := pair, mrgSplit := true, mrgState := 1, mrgWhy := 0 } }) ∧
      (s.dev.mrgPair = pair → s.dev.mrgState = 1 →
        let next := if s.mergeWhy = 0 then s.mergeTo 2 0 else (s.mergeTo 5 s.mergeWhy).mergeResume h
        (s.dev.mrgSplit = false → exec (.merge pair) s = .next next) ∧ (s.dev.mrgSplit = true → exec (.split pair) s = .next next)) ∧
      (∀ n, s.dev.mrgPair = pair → s.dev.mrgState = 2 → s.dev.mrgSplit = false → pairShape s.dev.shape h false = some n →
        let s1 := s.dropPart (2 * h + 1)
        exec (.merge pair) s = .next (State.mergeTo { s1 with dev := { s1.dev with shape := n } } 3 0)) ∧
      (s.dev.mrgPair = pair → s.dev.mrgState = 3 →
        let s1 : State := { s with
          tlb := s.tlb.filter fun x => x.part / 2 != h
          walks := s.walks.filter fun x => x.part / 2 != h
          posted := s.posted.map fun (e : Nat × Posted) => if (s.team e.2.team).any (fun t : Team => t.part / 2 == h) then (e.1, { e.2 with tr := none }) else e }
        let next := ((s1.releaseMigOf fun p _ => p / 2 == h).mergeTo 4 0).mergeResume h
        (s.dev.mrgSplit = false → exec (.merge pair) s = .next next) ∧ (s.dev.mrgSplit = true → exec (.split pair) s = .next next))) ∧
    (let x := s.ctx p c
     (∀ (auth : BitVec 2) a, authOf auth.toNat = some a → x.en = false →
      exec (.contextCreate p c auth) s = .next (State.setCtx { s with dev := { s.dev with keys := s.dev.keys + 1 + 1 } } p c
        (x.created a (.random (s.dev.keys + 1)) (.random (s.dev.keys + 1 + 1))))) ∧
     (x.en = true → x.fabNvd = 0 → x.sealed = false → s.faulted p c = false →
      let s1 := s.clearCtx p c
      exec (.contextRemove p c) s = .next (State.setCtx { s1 with dev := { s1.dev with keys := s1.dev.keys + 1 + 1 } } p c
        (x.removed (.random (s1.dev.keys + 1)) (.random (s1.dev.keys + 1 + 1))))) ∧
     (x.en = true → (x.fabNvd ≠ 0 ∨ x.sealed = true) →
      exec (.contextRemove p c) s = .next ((s.setCtx p c { x with err := true }).count p c 0x100))) ∧
    (∀ blob, let x := s.ctx p c
      (s.trusts p true = true → x.en = true → x.importing = none →
        exec (.keyImport p c true blob) s = .next (s.setCtx p c { x with keyState := .busy, importing := some blob })) ∧
      (x.importing = some blob → blobGood blob = false ∨ c = 0 →
        Event.run (.keyImported p c) s = .next (s.setCtx p c { x with importing := none, keyState := .badFormat })) ∧
      (s.trusts p false = false → exec (.keyImport p c false blob) s = .next (s.refuseAccess p (0x20408 + 16 * c) true))) ∧
    (∀ m : BitVec 8, s.trusts p true = true → (s.ctx p c).en = true →
      ((s.ctx p c).dbg = true → exec (.debugStop p c m true) s = .next { s with
        teams := s.teams.map fun e => if e.2.part == p && e.2.ctx == c && m.toNat.testBit e.2.vdie then (e.1, { e.2 with debug := true }) else e }) ∧
      ((s.ctx p c).dbg = false → exec (.debugStop p c m true) s = .next (s.count p c 0x100))) ∧
    (∀ off v trusted, p < 4 → let s1 := s.count p (s.reportCtx p none) 0x100
      exec (.registerWrite (p + 5) off v trusted) s = .next s1 ∧
      exec (.registerRead (p + 5) off trusted) s = .next { s1 with outputs := s1.outputs ++ [Output.hostReg 0] }) ∧
    (∀ off v, let s1 := s.count 0 (s.reportCtx 0 none) 0x100
      exec (.registerWrite 0 off v true) s = .next s1 ∧
      exec (.registerRead 0 off true) s = .next { s1 with outputs := s1.outputs ++ [Output.hostReg 0] }) ∧
    (∀ (addr : BitVec 32) clause trusted, (s.ctx p c).en = true →
      let b : Break := { part := p, ctx := c, addr := addr, clause := clause }
      let rest := s.breaks.filter (· != b)
      (s.mayDebug p c trusted = true → Event.run (.debugBreak p c addr clause true trusted) s = .next { s with breaks := rest ++ [b] } ∧
        Event.run (.debugBreak p c addr clause false trusted) s = .next { s with breaks := rest }) ∧
      (s.mayDebug p c trusted = false → ∀ on, Event.run (.debugBreak p c addr clause on trusted) s = .next (s.count p c 0x100))) ∧
    (∀ i t reg trusted, s.team i = some t →
      (s.mayDebug t.part t.ctx trusted = true → Event.run (.debugHold i trusted) s = .next (s.setTeam i { t with debug := true }) ∧
        Event.run (.debugRead i reg trusted) s = .next { s with outputs := s.outputs ++ [Output.debugWord (t.dbgWord reg)] }) ∧
      (s.mayDebug t.part t.ctx trusted = false → Event.run (.debugHold i trusted) s = .next (s.count t.part t.ctx 0x100) ∧
        Event.run (.debugRead i reg trusted) s =
          .next { s.count t.part t.ctx 0x100 with outputs := (s.count t.part t.ctx 0x100).outputs ++ [Output.debugWord 0] }))

/-- R153, R230, R379, R383, R384, R386 to R390, R399 to R401: rings, host memory and messages: a doorbell has the ring's entries read, each dropped or accepted; a command is performed and makes way for the next entry; a key import runs and ends; HDM accesses to the exposed window and snoops meet memory; SPDM messages move an interface; a function level reset erases its partition; images and link training. The model's choices, which no rule states: what an entry of host memory holds when it is read (log 77), what a function level reset leaves (log 81), the free bytes after a snoop for ownership (log 37), the TDISP moves (log 10), when an image loaded meanwhile is used (log 82), and the window's setting (log 111). -/
def Obligations.HostLinkResult : Prop :=
  ∀ (s s1 s2 s3 : State) (p c : Nat),
    (s.live = true → s.isPart p = true →
      (c < 64 → s.trusts p true = true → (s.ctx p c).en = true → ∀ tail es,
        let x := s.ctx p c
        let r : Ring := { x.ring with tail := tail.toNat, buffer := es ++ x.ring.buffer.drop es.length }
        let s1 := s.setCtx p c { x with ring := r }
        (r.on = false → exec (.ringDoorbell p c tail es) s = .next s1) ∧
        (r.on = true → r.stopped = false → r.cmd = none → s.merging p = false →
          (r.unread = 0 → exec (.ringDoorbell p c tail es) s = .next s1) ∧
          (∀ n, r.unread = n + 1 →
            let e := s1.ringEntry r
            let r1 : Ring := { r with head := r.index r.head 1, buffer := r.buffer.drop 1 }
            (∀ code, x.ringFate e = some code →
              exec (.ringDoorbell p c tail es) s = .next (((s1.setCtx p c { x with ring := r1 }).ringNotice p c code).ringScan p c n)) ∧
            (x.ringFate e = none → ringKnown e = true → exec (.ringDoorbell p c tail es) s =
              .next (s1.setCtx p c { x with ring := { r1 with expect := r.expect + 1, cmd := some e } }))))) ∧
      (∀ ma bs n,
        (s.exposed p ma bs.length = true → s.writeMeetsBad (memKey 1 ma) bs.length = false →
          exec (.hostMemoryAccess p ma (some bs) n) s = .next (s.homeWrite (s.ctxMemKey p 0) (memKey 1 ma) bs)) ∧
        (s.exposed p ma n = true → s.rangeBad (memKey 1 ma) n = false → exec (.hostMemoryAccess p ma none n) s =
          .next { s with outputs := s.outputs ++ [Output.hostData (s.homeBytes (s.ctxMemKey p 0) (memKey 1 ma) n)] })) ∧
      (let t := (s.part p).tdisp
       let dst (u : Tdisp) : State := s.setPart p { s.part p with tdisp := u }
       (t = .unlocked → exec (.spdmRequest p .lock) s = .next (dst .locked)) ∧ (t = .locked → exec (.spdmRequest p .start) s = .next (dst .run)) ∧
       exec (.spdmRequest p .stop) s = .next (dst .unlocked) ∧ exec (.spdmRequest p .error) s = .next (dst .error)) ∧
      (p < 4 → s.merging p = false → exec (.functionLevelReset (p + 1)) s = .next (s.erase p)) ∧
      (p < 4 → s.merging p = true → s.dev.mrgState ≠ 3 →
        exec (.functionLevelReset (p + 1)) s = .next (((s.mergeTo 5 4).erase p).mergeResume (if s.dev.mrgPair then 1 else 0)))) ∧
    (s.live = true → ∀ ma, let key := memKey 2 (ma % 2 ^ 52 - ma % 64)
      let s1 : State := { s with outputs := s.outputs ++ [Output.hostData (s.homeBytes .none key 64)] }
      exec (.hostSnoop ma false) s = .next s1 ∧
      exec (.hostSnoop ma true) s = .next { s1.homeWrite .none key ((List.range 64).map (Config.freeByte s.tick)) with tick := s.tick + 1 }) ∧
    (∀ e, let die := s.ringDie p c
      let ends (s : State) : Host.Outcome State Fault Refusal :=
        .next ((s.forget.setCtx p c { s.ctx p c with ring := (s.ctx p c).ring.free }).ringRead p c)
      (s.ringCmd p c 1 = some e → s.createLaunch (agentReader p c die) true p c 0 die (ringB e) = .ok s1 → exec (.ringLaunch p c) s = ends s1) ∧
      (∀ n bs v slot, s.ringCmd p c 2 = some e → s.ringHandle p c (ringA e) .queue (fun s n => s.queueOk p n) = .ok n s1 →
        (s1.queue (queueKey p n)).en = true → s1.agentGet p c die (piecesOf (ringB e) 32) = .ok bs s2 → (s2.ctx p c).ring.claim = none →
        s2.firstRoom p c (queueKey p n) 0 = some v →
        let s2a := (s2.claimTail (queueKey p n) v).2
        let s2' := s2a.setCtx p c { s2.ctx p c with ring := { (s2.ctx p c).ring with claim := some (queueKey p n, v, slot) } }
        (s2.claimTail (queueKey p n) v).1 = slot → s2'.writeRecord p c die ((s2'.queue (queueKey p n)).recAddr v slot) bs = .ok () s3 →
          exec (.ringEnq p c) s = ends (s3.publish (queueKey p n) v slot)) ∧
      (∀ n, s.ringCmd p c 3 = some e → (s.ctx p c).ring.fires = none → s.ringHandle p c (ringA e) .knot (fun s n => s.knotOk p n) = .ok n s1 →
        let k := knotKey p n
        let x := s1.knot k
        ringB e ≠ 0 → ringB e ≤ x.count →
          let s2 := s1.setKnot k { x with count := x.count - ringB e }
          (ringB e < x.count → exec (.ringKnotdec p c) s = ends s2) ∧
          (ringB e = x.count →
            let y := s2.ctx p c
            let s4 := (s2.setCtx p c { y with ring := { y.ring with fires := some true } }).fire k p c 0 (ringA e).toNat (some .ring)
            (s4.ctx p c).ring.stopped = false → (s4.ctx p c).ring.fires ≠ some true → exec (.ringKnotdec p c) s = ends s4)) ∧
      (s.ringCmd p c 4 = some e → s.ctxSet p c (s.ctx p c).auth (ringA e).toNat (loWord (ringB e)) = .done s1 → exec (.ringSwr p c) s = ends s1)) ∧
    (s.live = true → s.isPart p = true → c < 64 → ∀ trusted blob, let x := s.ctx p c
      (s.trusts p trusted = true → x.en = true →
        (x.importing = none → exec (.keyImport p c trusted blob) s = .next (s.setCtx p c { x with keyState := .busy, importing := some blob })) ∧
        (x.importing.isSome = true → exec (.keyImport p c trusted blob) s = .next s)) ∧
      (x.importing = some blob → c ≠ 0 → blobGood blob = true →
        let y : Ctx := { x with importing := none }
        (blobPlain blob 96 64 ≠ s.measure p → Event.run (.keyImported p c) s = .next (s.setCtx p c { y with keyState := .badMeasure })) ∧
        (blobPlain blob 96 64 = s.measure p → Event.run (.keyImported p c) s = .next (s.setCtx p c { y with
          key := .imported (blobPlain blob 0 64), ringKey := .imported (blobPlain blob 64 32), keyState := .imported, ring := { x.ring with expect := 1 } })))) ∧
    (∀ n : BitVec 9, exec (.linkTraining n) s = .next { s with dev := { s.dev with pkgId := n.toNat, pkgValid := true } }) ∧
    (s.dev.fw = 0 → (s.imageGood s.dev.image = true → exec .bootVerify s = .next (s.runImage s.dev.image)) ∧
      (s.imageGood s.dev.image = false → exec .bootVerify s = .next { s with dev := { s.dev with fw := 2 } })) ∧
    (s.dev.fw ≠ 0 → ∀ v : BitVec 32, let bs := s.dev.recovery ++ natBytes v.toNat 4
      exec (.mgRec v false) s = .next { s with dev := { s.dev with recovery := bs } } ∧
      (s.imageGood bs = false → exec (.mgRec v true) s = .next { s with dev := { s.dev with recovery := [] } }) ∧
      (s.imageGood bs = true → s.dev.fw = 2 → exec (.mgRec v true) s = .next (s.runImage bs)))

/-- R392 to R397, R368: the platform: cores are enabled eight at most at a time in mesh order and an idle die's are disabled; a matrix unit sleeps and is woken in the order of the requests; a die's clock steps down and up; a thermal trip loses memory and SRAM, and mg.trip stands until a cold reset, which makes an image that was loaded meanwhile the stored one; the scrubber counts what it cannot correct; a soft error is counted, or stays with its granule, register, row or cached line. The model's choices, which no rule states: the partition that an error or a scrub is counted for and that a die is idle by each core's own clock (log 83), and the state that a trip leaves (log 39). -/
def Obligations.PlatformResult : Prop :=
  ∀ (s : State) (die : Nat), die < Config.dies →
    (s.dieWorks die = true → ∀ k ks, s.nextCores die = k :: ks →
      exec (.coreEnableBatch die) s = .next ((k :: ks).foldl
        (fun s k => s.setCore k { s.core k with enabled := true, lastTeam := (s.core k).clk, lastLoop := (s.core k).clk }) s) ∧
      (k :: ks).length ≤ 8 ∧ (k :: ks).Pairwise (· < ·) ∧ ∀ n ∈ k :: ks, die * 48 ≤ n ∧ n < die * 48 + 48 ∧ (s.core n).enabled = false) ∧
    (s.placementAt die = false →
      (∀ k, die * 48 ≤ k → k < die * 48 + 48 →
        s.teamsOn k = [] ∧ ((s.core k).enabled = false ∨ (s.core k).lastTeam + Config.idleCycles ≤ (s.core k).clk)) →
      exec (.dieIdle die) s = .next ((dieCores die).foldl (fun s k => s.setCore k { s.core k with enabled := false }) s)) ∧
    (∀ core, (s.core core).enabled = true → (s.core core).asleep = false → s.loopOn core = false →
      (s.core core).lastLoop + Config.sleepCycles ≤ (s.core core).clk → exec (.matrixSleep core) s = .next (s.setCore core { s.core core with asleep := true })) ∧
    (∀ o core, s.nextWake (dieCores die) = some (o, core) →
      exec (.matrixWake die) s = .next (s.setCore core { s.core core with asleep := false, lastLoop := (s.core core).clk }) ∧
      (s.core core).asleep = true ∧ s.firstAsk core = some o ∧
      ∀ k ∈ dieCores die, (s.core k).asleep = true → ∀ n, s.firstAsk k = some n → o ≤ n) ∧
    (s.dieWorks die = true → s.throttle die < 5 → exec (.clockThrottle die) s = .next (s.setThrottle die (s.throttle die + 1))) ∧
    exec (.clockRaise die) s = .next (s.setThrottle die (s.throttle die - 1)) ∧
    (∃ u, exec .thermalTrip s = .next u ∧ u.dev.trip = true ∧ u.dev.fw = 0 ∧ u.mem = [] ∧ u.teams = [] ∧ u.ops = [] ∧ u.clusters = [] ∧
      (∀ k, (u.core k).enabled = false) ∧ u.dev.minver = s.dev.minver ∧ u.dev.image = s.dev.image ∧ u.dev.next = s.dev.next) ∧
    (∃ u, Event.run .coldReset s = .next u ∧ u.dev.trip = false ∧ u.dev.fw = 0 ∧ u.mem = [] ∧ u.teams = [] ∧
      (s.dev.next = [] → u.dev.image = s.dev.image) ∧ (s.dev.next ≠ [] → u.dev.image = s.dev.next)) ∧
    (∀ g p, s.bad.contains g = true → s.ownerPart (32 * g) = some p → exec (.patrolScrub g) s = .next (s.count p 0 0x104)) ∧
    (∀ g, s.bad.contains g = false → exec (.patrolScrub g) s = .next s) ∧
    (∀ g p, s.ownerPart (32 * g) = some p →
      exec (.softError (.dram g) true) s = .next (s.count p 0 (if keyTier (32 * g) = 0 then 0x102 else 0x103))) ∧
    (∀ g, s.bad.contains g = false → exec (.softError (.dram g) false) s = .next { s with bad := g :: s.bad }) ∧
    (∀ i t lane reg, s.team i = some t → lane < t.nlanes → reg < t.nregs →
      exec (.softError (.vreg i lane reg) true) s = .next (s.count t.part 0 0x101) ∧
      exec (.softError (.vreg i lane reg) false) s = .next (s.setTeam i { t with spoilt := vkey lane reg :: t.spoilt })) ∧
    (∀ i t n, s.team i = some t → exec (.softError (.sreg i n) true) s = .next (s.count t.part 0 0x101) ∧
      (n < 64 → exec (.softError (.sreg i n) false) s = .next (s.setTeam i { t with spoilt := skey n :: t.spoilt })) ∧
      (n < 8 → exec (.softError (.mreg i n) false) s = .next (s.setTeam i { t with spoilt := mkey n :: t.spoilt })) ∧
      (n < 16 → exec (.softError (.qreg i n) false) s = .next (s.setTeam i { t with spoilt := qkey n :: t.spoilt }))) ∧
    (∀ core key, exec (.softError (.l1 core 0 key) false) s = .next { s with lines := s.lines.map fun x =>
      if x.core = core ∧ x.path = .loadStore ∧ x.key = key - key % 128 then { x with bad := key / 32 :: x.bad } else x })

/-- R3, R37, R39, R40, R51, R54: for every well-formed instruction that a word encodes, the word's decoding, and that of its four bytes as memory holds them whatever follows, is the instruction: no bit of an encoding is dropped. -/
def Obligations.DecodeOfEncode : Prop :=
  ∀ (i : Instr) (w : Word), i.wf = true → encode i = some w →
    decode w = i ∧ ∀ rest, decodeBytes (wordBytesLE w ++ rest) = .ok (i, rest)

/-- R37, R39, R40, R51, R52, R54: words written out from the encoding tables decode to the instructions they stand for: 0x41040203 is VADD V4, V2, V3 (the rules' own example), and one word of each of several rows; 0xFF000000 is a reserved opcode. -/
def Obligations.SampleWords : Prop :=
  decode 0x41040203 = .vadd (.v 4) (.v 2) (.v 3) ∧ decode 0x00F0F0F0 = .nop ∧ decode 0x01F0F0C2 = .br (.k 2) ∧
  decode 0x0DE1E2E3 = .mand (.m 1) (.m 2) (.m 3) ∧ decode 0x07BEF080 = .call (.s 62) (.s 0) ∧ decode 0x0BD1F0F0 = .getmode (.q 1) ∧
  decode 0xFF000000 = .illegalOpcode 0xFF000000 ∧ decode 0x1E000000 = .illegalOpcode 0x1E000000 ∧
  decode 0x02F0F9F1 = .brz (.sp .coreclk) (.sp .ones) ∧ decode 0x01F0F0E8 = .br (.reserved 0xE8)

/-- R42, R66, R397: a step in which a team has been picked is the instruction that its next word decodes to, run on that state: the step adds nothing around it (the instruction itself moves the team past it), but that the instruction faults where, its checks made, it reads a register with an uncorrectable error. With no team picked, one of the steps that are due is taken, a free choice. -/
def Obligations.StepRunsDecoded : Prop :=
  ∀ (s : State), s.dev.trip = false →
    (∀ i t x rest, s.cur = some i → s.team i = some t → decodeBytes (wordBytesLE t.word ++ rest) = .ok (x, rest) →
      step s = s.settled i x (exec x s) ∧ (s.spoiltLanes x t = [] → step s = exec x s) ∧
      ∀ l ls u, s.spoiltLanes x t = l :: ls → exec x s = .next u → u.stopped i = false → step s = .next (({ s with cur := none } : State).takeTrap
        (lanesInfo i t t.pc.toNat (!sweeps x) ((l :: ls).map fun n => plainFault n 0 .memUncorr) .whole))) ∧
    (s.cur = none → ∃ e ∈ s.enabled, step s = Event.take e { s with tick := s.tick + 1 })

/-- R230, R384, R397: memory at its home: a run written under a key, inside one tier, reads back under that key; every byte outside it reads as before under every key; a write keeps memory in its canonical form; HBM reads the same under every key. The canonical form and what an unlisted byte reads as are the model's own, no rule's (log 1). -/
def Obligations.HomeMemoryRule : Prop :=
  ∀ (s : State) (k : Key) (a : Nat) (bs : List Byte),
    ((∀ i < bs.length, keyTier (a + i) = keyTier a) → (s.homeWrite k a bs).homeBytes k a bs.length = bs) ∧
    (∀ c k', (c < a ∨ a + bs.length ≤ c) → (s.homeWrite k a bs).homeByte k' c = s.homeByte k' c) ∧
    (memWf s.mem = true → memWf (s.homeWrite k a bs).mem = true) ∧
    (∀ k' c, keyTier c = 0 → s.homeByte k' c = memRead s.mem c)

/-- R376, R384, R392, R398, R399, R401, R403: right after reset memory lists nothing and is in its canonical form, no core is enabled, no context exists and none holds an imported key, no team, queue record or fault is there, the firmware is booting, the shape is one partition of the whole package, and no plane has failed. The model's choices, which no rule states: memory that lists nothing (log 1), cores not enabled (log 14), and the stored image and fuses (log 16). -/
def Obligations.ResetState : Prop :=
  let s := State.reset
  memWf s.mem = true ∧ s.mem = [] ∧ s.dev.fw = 0 ∧ s.dev.trip = false ∧ s.dev.shape = 0 ∧ s.dev.pkgValid = false ∧ s.dev.planes = [] ∧
  s.teams = [] ∧ s.traps = [] ∧ (∀ k, (s.core k).enabled = false) ∧
  (∀ p c, (s.ctx p c).en = false ∧ (s.ctx p c).fabNvd = 0 ∧ (s.ctx p c).keyState = .random) ∧ ∀ k, (s.queue k).en = false

/-- Memory stays in its canonical form (addresses rise strictly, and no entry holds what an unlisted byte reads as: the form is the model's own, log 1): every step from a state in that form leads to one in it. -/
def Obligations.StepKeepsMemoryForm : Prop :=
  ∀ (s u : State), memWf s.mem = true → step s = .next u → memWf u.mem = true
end

