-- ==== Sys2Proof/Laws/Store.lean ====
section
/-! SUPPORT. Laws of sparse data and of memory: reads after writes, and that every memory operation keeps the canonical form. -/

namespace Sys2Proof.Machine

theorem cellGet_cellPut_same {β : Type} (d : β) (m : List (Nat × β)) (a : Nat) (v : β) : cellGet d (cellPut m a v) a = v := by
  induction m with
  | nil => simp [cellPut, cellGet]
  | cons p m ih =>
    obtain ⟨k, w⟩ := p
    simp only [cellPut]
    split
    · simp [cellGet]
    · split
      · simp [cellGet]
      · rename_i h1 h2
        have : k ≠ a := fun h => h2 h.symm
        simp [cellGet, this, ih]

theorem cellGet_cellPut_ne {β : Type} (d : β) (m : List (Nat × β)) (a b : Nat) (v : β) (h : a ≠ b) :
    cellGet d (cellPut m a v) b = cellGet d m b := by
  induction m with
  | nil => simp [cellPut, cellGet, h]
  | cons p m ih =>
    obtain ⟨k, w⟩ := p
    simp only [cellPut]
    split
    · simp [cellGet, h]
    · split
      · rename_i h1 h2
        subst h2
        simp [cellGet, h]
      · simp only [cellGet, ih]

theorem cellGet_cellDel_same {β : Type} (d : β) (m : List (Nat × β)) (a : Nat) : cellGet d (cellDel m a) a = d := by
  induction m with
  | nil => rfl
  | cons p m ih =>
    obtain ⟨k, w⟩ := p
    simp only [cellDel]
    split
    · exact ih
    · rename_i h
      simp [cellGet, h, ih]

theorem cellGet_cellDel_ne {β : Type} (d : β) (m : List (Nat × β)) (a b : Nat) (h : a ≠ b) : cellGet d (cellDel m a) b = cellGet d m b := by
  induction m with
  | nil => rfl
  | cons p m ih =>
    obtain ⟨k, w⟩ := p
    simp only [cellDel]
    split
    · rename_i hk
      subst hk
      simp [cellGet, h, ih]
    · simp only [cellGet, ih]

theorem cellPut_cellPut {β : Type} (m : List (Nat × β)) (a : Nat) (v w : β) : cellPut (cellPut m a v) a w = cellPut m a w := by
  induction m with
  | nil => simp [cellPut]
  | cons p m ih =>
    obtain ⟨k, x⟩ := p
    simp only [cellPut]
    split
    · simp [cellPut]
    · split
      · simp [cellPut]
      · rename_i h1 h2
        simp [cellPut, h1, h2, ih]

theorem recFind_cellPut_same {β : Type} (m : List (Nat × β)) (a : Nat) (v : β) : recFind (cellPut m a v) a = some v := by
  induction m with
  | nil => simp [cellPut, recFind]
  | cons p m ih =>
    obtain ⟨k, x⟩ := p
    simp only [cellPut]
    split
    · simp [recFind]
    · split
      · simp [recFind]
      · rename_i h1 h2
        have : k ≠ a := fun h => h2 h.symm
        simp [recFind, this, ih]

theorem recFind_cellPut_ne {β : Type} (m : List (Nat × β)) (a b : Nat) (v : β) (h : a ≠ b) : recFind (cellPut m a v) b = recFind m b := by
  induction m with
  | nil => simp [cellPut, recFind, h]
  | cons p m ih =>
    obtain ⟨k, w⟩ := p
    simp only [cellPut]
    split
    · simp [recFind, h]
    · split
      · rename_i h1 h2
        subst h2
        simp [recFind, h]
      · simp only [recFind, ih]

/-! ## Memory -/

/-- The byte written is read back (R3). -/
theorem memRead_memWrite_same (m : Memory) (a : Nat) (b : Byte) : memRead (memWrite m a b) a = b := by
  unfold memRead memWrite
  split
  · rename_i h
    rw [cellGet_cellDel_same, h]
  · exact cellGet_cellPut_same _ _ _ _

/-- A write leaves every other byte alone. -/
theorem memRead_memWrite_ne (m : Memory) (a c : Nat) (b : Byte) (h : a ≠ c) : memRead (memWrite m a b) c = memRead m c := by
  unfold memRead memWrite
  split
  · exact cellGet_cellDel_ne _ _ _ _ h
  · exact cellGet_cellPut_ne _ _ _ _ _ h

/-- Bytes outside a run written keep their values. -/
theorem memRead_memWriteN_outside (bs : List Byte) (m : Memory) (a c : Nat) (h : c < a ∨ a + bs.length ≤ c) :
    memRead (memWriteN m a bs) c = memRead m c := by
  induction bs generalizing m a with
  | nil => rfl
  | cons b bs ih =>
    simp only [List.length_cons] at h
    simp only [memWriteN]
    rw [ih _ _ (by omega), memRead_memWrite_ne _ _ _ _ (by omega)]

/-- A run of bytes written reads back (R3). -/
theorem memRead_memWriteN_inside (bs : List Byte) (m : Memory) (a i : Nat) (h : i < bs.length) :
    memRead (memWriteN m a bs) (a + i) = bs[i] := by
  induction bs generalizing m a i with
  | nil => simp at h
  | cons b bs ih =>
    simp only [memWriteN]
    cases i with
    | zero => rw [memRead_memWriteN_outside _ _ _ _ (by omega)]; simpa using memRead_memWrite_same m a b
    | succ i =>
      have := ih (memWrite m a b) (a + 1) i (by simpa using h)
      rw [show a + 1 + i = a + (i + 1) by omega] at this
      simpa using this

theorem memAbove_mono (m : Memory) (a b : Nat) (h : a ≤ b) (hm : memAbove b m = true) : memAbove a m = true := by
  cases m with
  | nil => rfl
  | cons p m =>
    obtain ⟨k, x⟩ := p
    simp only [memAbove, Bool.and_eq_true, decide_eq_true_eq] at hm ⊢
    exact ⟨⟨by omega, hm.1.2⟩, hm.2⟩

theorem memAbove_cellPut (m : Memory) (c a : Nat) (b : Byte) (hb : b ≠ unlistedByte) (hc : c < a) (hm : memAbove c m = true) :
    memAbove c (cellPut m a b) = true := by
  induction m generalizing c with
  | nil => simp [cellPut, memAbove, hb, hc]
  | cons p m ih =>
    obtain ⟨k, x⟩ := p
    simp only [memAbove, Bool.and_eq_true, decide_eq_true_eq] at hm
    simp only [cellPut]
    split
    · simp [memAbove, *]
    · split
      · rename_i h1 h2
        subst h2
        simp [memAbove, hb, hc, hm.2]
      · rename_i h1 h2
        simp only [memAbove, Bool.and_eq_true, decide_eq_true_eq]
        exact ⟨hm.1, ih k (by omega) hm.2⟩

theorem memAbove_cellDel (m : Memory) (c a : Nat) (hm : memAbove c m = true) : memAbove c (cellDel m a) = true := by
  induction m generalizing c with
  | nil => rfl
  | cons p m ih =>
    obtain ⟨k, x⟩ := p
    simp only [memAbove, Bool.and_eq_true, decide_eq_true_eq] at hm
    simp only [cellDel]
    split
    · exact memAbove_mono _ c k (by omega) (ih k hm.2)
    · simp only [memAbove, Bool.and_eq_true, decide_eq_true_eq]
      exact ⟨hm.1, ih k hm.2⟩

theorem memWf_cellPut (m : Memory) (a : Nat) (b : Byte) (hb : b ≠ unlistedByte) (hm : memWf m = true) : memWf (cellPut m a b) = true := by
  cases m with
  | nil => simp [cellPut, memWf, memAbove, hb]
  | cons p m =>
    obtain ⟨k, x⟩ := p
    simp only [memWf, Bool.and_eq_true, decide_eq_true_eq] at hm
    simp only [cellPut]
    split
    · simp [memWf, memAbove, hm.1, hm.2, *]
    · split
      · rename_i h1 h2
        subst h2
        simp [memWf, hb, hm.2]
      · rename_i h1 h2
        simp only [memWf, Bool.and_eq_true, decide_eq_true_eq]
        exact ⟨hm.1, memAbove_cellPut m k a b hb (by omega) hm.2⟩

theorem memWf_of_above (m : Memory) (a : Nat) (hm : memAbove a m = true) : memWf m = true := by
  cases m with
  | nil => rfl
  | cons p m =>
    obtain ⟨k, x⟩ := p
    simp only [memAbove, memWf, Bool.and_eq_true, decide_eq_true_eq] at hm ⊢
    exact ⟨hm.1.2, hm.2⟩

theorem memWf_cellDel (m : Memory) (a : Nat) (hm : memWf m = true) : memWf (cellDel m a) = true := by
  cases m with
  | nil => rfl
  | cons p m =>
    obtain ⟨k, x⟩ := p
    simp only [memWf, Bool.and_eq_true, decide_eq_true_eq] at hm
    simp only [cellDel]
    split
    · exact memWf_of_above _ k (memAbove_cellDel m k a hm.2)
    · simp only [memWf, Bool.and_eq_true, decide_eq_true_eq]
      exact ⟨hm.1, memAbove_cellDel m k a hm.2⟩

/-- A write of a byte keeps the canonical form. -/
theorem memWf_memWrite (m : Memory) (a : Nat) (b : Byte) (hm : memWf m = true) : memWf (memWrite m a b) = true := by
  unfold memWrite
  split
  · exact memWf_cellDel m a hm
  · rename_i h
    exact memWf_cellPut m a b h hm

/-- A write of a run keeps the canonical form. -/
theorem memWf_memWriteN (bs : List Byte) (m : Memory) (a : Nat) (hm : memWf m = true) : memWf (memWriteN m a bs) = true := by
  induction bs generalizing m a with
  | nil => exact hm
  | cons b bs ih => exact ih _ _ (memWf_memWrite m a b hm)

theorem memAbove_filter (f : Host.Cell → Bool) (m : Memory) (a : Nat) (hm : memAbove a m = true) : memAbove a (m.filter f) = true := by
  induction m generalizing a with
  | nil => rfl
  | cons p m ih =>
    obtain ⟨k, x⟩ := p
    simp only [memAbove, Bool.and_eq_true, decide_eq_true_eq] at hm
    simp only [List.filter_cons]
    split
    · simp only [memAbove, Bool.and_eq_true, decide_eq_true_eq]
      exact ⟨hm.1, ih k hm.2⟩
    · exact memAbove_mono _ a k (by omega) (ih k hm.2)

/-- Bytes left out of memory keep the canonical form. -/
theorem memWf_filter (f : Host.Cell → Bool) (m : Memory) (hm : memWf m = true) : memWf (m.filter f) = true := by
  cases m with
  | nil => rfl
  | cons p m =>
    obtain ⟨k, x⟩ := p
    simp only [memWf, Bool.and_eq_true, decide_eq_true_eq] at hm
    simp only [List.filter_cons]
    split
    · simp only [memWf, Bool.and_eq_true, decide_eq_true_eq]
      exact ⟨hm.1, memAbove_filter f m k hm.2⟩
    · exact memWf_of_above _ k (memAbove_filter f m k hm.2)

end Sys2Proof.Machine
end

