-- ==== Sys2Proof/Laws/State.lean ====
section
/-! SUPPORT. Laws of the state record: what each named update leaves alone, field by field, and what it gives back. -/

namespace Sys2Proof.Machine

open Sys2Proof

@[simp] theorem State.setTeam_dev (s : State) (i : Nat) (t : Team) : (s.setTeam i t).dev = s.dev := rfl
@[simp] theorem State.setTeam_parts (s : State) (i : Nat) (t : Team) : (s.setTeam i t).parts = s.parts := rfl
@[simp] theorem State.setTeam_ctxs (s : State) (i : Nat) (t : Team) : (s.setTeam i t).ctxs = s.ctxs := rfl
@[simp] theorem State.setTeam_cores (s : State) (i : Nat) (t : Team) : (s.setTeam i t).cores = s.cores := rfl
@[simp] theorem State.setTeam_queues (s : State) (i : Nat) (t : Team) : (s.setTeam i t).queues = s.queues := rfl
@[simp] theorem State.setTeam_knots (s : State) (i : Nat) (t : Team) : (s.setTeam i t).knots = s.knots := rfl
@[simp] theorem State.setTeam_grids (s : State) (i : Nat) (t : Team) : (s.setTeam i t).grids = s.grids := rfl
@[simp] theorem State.setTeam_clusters (s : State) (i : Nat) (t : Team) : (s.setTeam i t).clusters = s.clusters := rfl
@[simp] theorem State.setTeam_ops (s : State) (i : Nat) (t : Team) : (s.setTeam i t).ops = s.ops := rfl
@[simp] theorem State.setTeam_posted (s : State) (i : Nat) (t : Team) : (s.setTeam i t).posted = s.posted := rfl
@[simp] theorem State.setTeam_stores (s : State) (i : Nat) (t : Team) : (s.setTeam i t).stores = s.stores := rfl
@[simp] theorem State.setTeam_traps (s : State) (i : Nat) (t : Team) : (s.setTeam i t).traps = s.traps := rfl
@[simp] theorem State.setTeam_mem (s : State) (i : Nat) (t : Team) : (s.setTeam i t).mem = s.mem := rfl
@[simp] theorem State.setTeam_bad (s : State) (i : Nat) (t : Team) : (s.setTeam i t).bad = s.bad := rfl
@[simp] theorem State.setTeam_soft (s : State) (i : Nat) (t : Team) : (s.setTeam i t).soft = s.soft := rfl
@[simp] theorem State.setTeam_tags (s : State) (i : Nat) (t : Team) : (s.setTeam i t).tags = s.tags := rfl
@[simp] theorem State.setTeam_lines (s : State) (i : Nat) (t : Team) : (s.setTeam i t).lines = s.lines := rfl
@[simp] theorem State.setTeam_icache (s : State) (i : Nat) (t : Team) : (s.setTeam i t).icache = s.icache := rfl
@[simp] theorem State.setTeam_tlb (s : State) (i : Nat) (t : Team) : (s.setTeam i t).tlb = s.tlb := rfl
@[simp] theorem State.setTeam_walks (s : State) (i : Nat) (t : Team) : (s.setTeam i t).walks = s.walks := rfl
@[simp] theorem State.setTeam_drains (s : State) (i : Nat) (t : Team) : (s.setTeam i t).drains = s.drains := rfl
@[simp] theorem State.setTeam_revoking (s : State) (i : Nat) (t : Team) : (s.setTeam i t).revoking = s.revoking := rfl
@[simp] theorem State.setTeam_patDraining (s : State) (i : Nat) (t : Team) : (s.setTeam i t).patDraining = s.patDraining := rfl
@[simp] theorem State.setTeam_pleats (s : State) (i : Nat) (t : Team) : (s.setTeam i t).pleats = s.pleats := rfl
@[simp] theorem State.setTeam_hcopies (s : State) (i : Nat) (t : Team) : (s.setTeam i t).hcopies = s.hcopies := rfl
@[simp] theorem State.setTeam_acc (s : State) (i : Nat) (t : Team) : (s.setTeam i t).acc = s.acc := rfl
@[simp] theorem State.setTeam_tick (s : State) (i : Nat) (t : Team) : (s.setTeam i t).tick = s.tick := rfl
@[simp] theorem State.setTeam_stamp (s : State) (i : Nat) (t : Team) : (s.setTeam i t).stamp = s.stamp := rfl
@[simp] theorem State.setTeam_cur (s : State) (i : Nat) (t : Team) : (s.setTeam i t).cur = s.cur := rfl
@[simp] theorem State.setTeam_inputs (s : State) (i : Nat) (t : Team) : (s.setTeam i t).inputs = s.inputs := rfl
@[simp] theorem State.setTeam_outputs (s : State) (i : Nat) (t : Team) : (s.setTeam i t).outputs = s.outputs := rfl
@[simp] theorem State.setTeam_fabIn (s : State) (i : Nat) (t : Team) : (s.setTeam i t).fabIn = s.fabIn := rfl
@[simp] theorem State.setTeam_agentOut (s : State) (i : Nat) (t : Team) : (s.setTeam i t).agentOut = s.agentOut := rfl
@[simp] theorem State.setTeam_pleatHomes (s : State) (i : Nat) (t : Team) : (s.setTeam i t).pleatHomes = s.pleatHomes := rfl
@[simp] theorem State.setTeam_breaks (s : State) (i : Nat) (t : Team) : (s.setTeam i t).breaks = s.breaks := rfl
@[simp] theorem State.setTeam_migHeld (s : State) (i : Nat) (t : Team) : (s.setTeam i t).migHeld = s.migHeld := rfl

@[simp] theorem State.dropTeam_dev (s : State) (i : Nat) : (s.dropTeam i).dev = s.dev := rfl
@[simp] theorem State.dropTeam_parts (s : State) (i : Nat) : (s.dropTeam i).parts = s.parts := rfl
@[simp] theorem State.dropTeam_ctxs (s : State) (i : Nat) : (s.dropTeam i).ctxs = s.ctxs := rfl
@[simp] theorem State.dropTeam_cores (s : State) (i : Nat) : (s.dropTeam i).cores = s.cores := rfl
@[simp] theorem State.dropTeam_queues (s : State) (i : Nat) : (s.dropTeam i).queues = s.queues := rfl
@[simp] theorem State.dropTeam_knots (s : State) (i : Nat) : (s.dropTeam i).knots = s.knots := rfl
@[simp] theorem State.dropTeam_grids (s : State) (i : Nat) : (s.dropTeam i).grids = s.grids := rfl
@[simp] theorem State.dropTeam_clusters (s : State) (i : Nat) : (s.dropTeam i).clusters = s.clusters := rfl
@[simp] theorem State.dropTeam_ops (s : State) (i : Nat) : (s.dropTeam i).ops = s.ops := rfl
@[simp] theorem State.dropTeam_posted (s : State) (i : Nat) : (s.dropTeam i).posted = s.posted := rfl
@[simp] theorem State.dropTeam_stores (s : State) (i : Nat) : (s.dropTeam i).stores = s.stores := rfl
@[simp] theorem State.dropTeam_traps (s : State) (i : Nat) : (s.dropTeam i).traps = s.traps := rfl
@[simp] theorem State.dropTeam_mem (s : State) (i : Nat) : (s.dropTeam i).mem = s.mem := rfl
@[simp] theorem State.dropTeam_bad (s : State) (i : Nat) : (s.dropTeam i).bad = s.bad := rfl
@[simp] theorem State.dropTeam_soft (s : State) (i : Nat) : (s.dropTeam i).soft = s.soft := rfl
@[simp] theorem State.dropTeam_tags (s : State) (i : Nat) : (s.dropTeam i).tags = s.tags := rfl
@[simp] theorem State.dropTeam_lines (s : State) (i : Nat) : (s.dropTeam i).lines = s.lines := rfl
@[simp] theorem State.dropTeam_icache (s : State) (i : Nat) : (s.dropTeam i).icache = s.icache := rfl
@[simp] theorem State.dropTeam_tlb (s : State) (i : Nat) : (s.dropTeam i).tlb = s.tlb := rfl
@[simp] theorem State.dropTeam_walks (s : State) (i : Nat) : (s.dropTeam i).walks = s.walks := rfl
@[simp] theorem State.dropTeam_drains (s : State) (i : Nat) : (s.dropTeam i).drains = s.drains := rfl
@[simp] theorem State.dropTeam_revoking (s : State) (i : Nat) : (s.dropTeam i).revoking = s.revoking := rfl
@[simp] theorem State.dropTeam_patDraining (s : State) (i : Nat) : (s.dropTeam i).patDraining = s.patDraining := rfl
@[simp] theorem State.dropTeam_pleats (s : State) (i : Nat) : (s.dropTeam i).pleats = s.pleats := rfl
@[simp] theorem State.dropTeam_hcopies (s : State) (i : Nat) : (s.dropTeam i).hcopies = s.hcopies := rfl
@[simp] theorem State.dropTeam_acc (s : State) (i : Nat) : (s.dropTeam i).acc = s.acc := rfl
@[simp] theorem State.dropTeam_tick (s : State) (i : Nat) : (s.dropTeam i).tick = s.tick := rfl
@[simp] theorem State.dropTeam_stamp (s : State) (i : Nat) : (s.dropTeam i).stamp = s.stamp := rfl
@[simp] theorem State.dropTeam_cur (s : State) (i : Nat) : (s.dropTeam i).cur = s.cur := rfl
@[simp] theorem State.dropTeam_inputs (s : State) (i : Nat) : (s.dropTeam i).inputs = s.inputs := rfl
@[simp] theorem State.dropTeam_outputs (s : State) (i : Nat) : (s.dropTeam i).outputs = s.outputs := rfl
@[simp] theorem State.dropTeam_fabIn (s : State) (i : Nat) : (s.dropTeam i).fabIn = s.fabIn := rfl
@[simp] theorem State.dropTeam_agentOut (s : State) (i : Nat) : (s.dropTeam i).agentOut = s.agentOut := rfl
@[simp] theorem State.dropTeam_pleatHomes (s : State) (i : Nat) : (s.dropTeam i).pleatHomes = s.pleatHomes := rfl
@[simp] theorem State.dropTeam_breaks (s : State) (i : Nat) : (s.dropTeam i).breaks = s.breaks := rfl
@[simp] theorem State.dropTeam_migHeld (s : State) (i : Nat) : (s.dropTeam i).migHeld = s.migHeld := rfl

@[simp] theorem State.setOp_dev (s : State) (o : Nat) (x : Op) : (s.setOp o x).dev = s.dev := rfl
@[simp] theorem State.setOp_parts (s : State) (o : Nat) (x : Op) : (s.setOp o x).parts = s.parts := rfl
@[simp] theorem State.setOp_ctxs (s : State) (o : Nat) (x : Op) : (s.setOp o x).ctxs = s.ctxs := rfl
@[simp] theorem State.setOp_cores (s : State) (o : Nat) (x : Op) : (s.setOp o x).cores = s.cores := rfl
@[simp] theorem State.setOp_queues (s : State) (o : Nat) (x : Op) : (s.setOp o x).queues = s.queues := rfl
@[simp] theorem State.setOp_knots (s : State) (o : Nat) (x : Op) : (s.setOp o x).knots = s.knots := rfl
@[simp] theorem State.setOp_grids (s : State) (o : Nat) (x : Op) : (s.setOp o x).grids = s.grids := rfl
@[simp] theorem State.setOp_clusters (s : State) (o : Nat) (x : Op) : (s.setOp o x).clusters = s.clusters := rfl
@[simp] theorem State.setOp_teams (s : State) (o : Nat) (x : Op) : (s.setOp o x).teams = s.teams := rfl
@[simp] theorem State.setOp_posted (s : State) (o : Nat) (x : Op) : (s.setOp o x).posted = s.posted := rfl
@[simp] theorem State.setOp_stores (s : State) (o : Nat) (x : Op) : (s.setOp o x).stores = s.stores := rfl
@[simp] theorem State.setOp_traps (s : State) (o : Nat) (x : Op) : (s.setOp o x).traps = s.traps := rfl
@[simp] theorem State.setOp_mem (s : State) (o : Nat) (x : Op) : (s.setOp o x).mem = s.mem := rfl
@[simp] theorem State.setOp_bad (s : State) (o : Nat) (x : Op) : (s.setOp o x).bad = s.bad := rfl
@[simp] theorem State.setOp_soft (s : State) (o : Nat) (x : Op) : (s.setOp o x).soft = s.soft := rfl
@[simp] theorem State.setOp_tags (s : State) (o : Nat) (x : Op) : (s.setOp o x).tags = s.tags := rfl
@[simp] theorem State.setOp_lines (s : State) (o : Nat) (x : Op) : (s.setOp o x).lines = s.lines := rfl
@[simp] theorem State.setOp_icache (s : State) (o : Nat) (x : Op) : (s.setOp o x).icache = s.icache := rfl
@[simp] theorem State.setOp_tlb (s : State) (o : Nat) (x : Op) : (s.setOp o x).tlb = s.tlb := rfl
@[simp] theorem State.setOp_walks (s : State) (o : Nat) (x : Op) : (s.setOp o x).walks = s.walks := rfl
@[simp] theorem State.setOp_drains (s : State) (o : Nat) (x : Op) : (s.setOp o x).drains = s.drains := rfl
@[simp] theorem State.setOp_revoking (s : State) (o : Nat) (x : Op) : (s.setOp o x).revoking = s.revoking := rfl
@[simp] theorem State.setOp_patDraining (s : State) (o : Nat) (x : Op) : (s.setOp o x).patDraining = s.patDraining := rfl
@[simp] theorem State.setOp_pleats (s : State) (o : Nat) (x : Op) : (s.setOp o x).pleats = s.pleats := rfl
@[simp] theorem State.setOp_hcopies (s : State) (o : Nat) (x : Op) : (s.setOp o x).hcopies = s.hcopies := rfl
@[simp] theorem State.setOp_acc (s : State) (o : Nat) (x : Op) : (s.setOp o x).acc = s.acc := rfl
@[simp] theorem State.setOp_tick (s : State) (o : Nat) (x : Op) : (s.setOp o x).tick = s.tick := rfl
@[simp] theorem State.setOp_stamp (s : State) (o : Nat) (x : Op) : (s.setOp o x).stamp = s.stamp := rfl
@[simp] theorem State.setOp_cur (s : State) (o : Nat) (x : Op) : (s.setOp o x).cur = s.cur := rfl
@[simp] theorem State.setOp_inputs (s : State) (o : Nat) (x : Op) : (s.setOp o x).inputs = s.inputs := rfl
@[simp] theorem State.setOp_outputs (s : State) (o : Nat) (x : Op) : (s.setOp o x).outputs = s.outputs := rfl
@[simp] theorem State.setOp_fabIn (s : State) (o : Nat) (x : Op) : (s.setOp o x).fabIn = s.fabIn := rfl
@[simp] theorem State.setOp_agentOut (s : State) (o : Nat) (x : Op) : (s.setOp o x).agentOut = s.agentOut := rfl
@[simp] theorem State.setOp_pleatHomes (s : State) (o : Nat) (x : Op) : (s.setOp o x).pleatHomes = s.pleatHomes := rfl
@[simp] theorem State.setOp_breaks (s : State) (o : Nat) (x : Op) : (s.setOp o x).breaks = s.breaks := rfl
@[simp] theorem State.setOp_migHeld (s : State) (o : Nat) (x : Op) : (s.setOp o x).migHeld = s.migHeld := rfl

@[simp] theorem State.dropOp_dev (s : State) (o : Nat) : (s.dropOp o).dev = s.dev := rfl
@[simp] theorem State.dropOp_parts (s : State) (o : Nat) : (s.dropOp o).parts = s.parts := rfl
@[simp] theorem State.dropOp_ctxs (s : State) (o : Nat) : (s.dropOp o).ctxs = s.ctxs := rfl
@[simp] theorem State.dropOp_cores (s : State) (o : Nat) : (s.dropOp o).cores = s.cores := rfl
@[simp] theorem State.dropOp_queues (s : State) (o : Nat) : (s.dropOp o).queues = s.queues := rfl
@[simp] theorem State.dropOp_knots (s : State) (o : Nat) : (s.dropOp o).knots = s.knots := rfl
@[simp] theorem State.dropOp_grids (s : State) (o : Nat) : (s.dropOp o).grids = s.grids := rfl
@[simp] theorem State.dropOp_clusters (s : State) (o : Nat) : (s.dropOp o).clusters = s.clusters := rfl
@[simp] theorem State.dropOp_teams (s : State) (o : Nat) : (s.dropOp o).teams = s.teams := rfl
@[simp] theorem State.dropOp_posted (s : State) (o : Nat) : (s.dropOp o).posted = s.posted := rfl
@[simp] theorem State.dropOp_stores (s : State) (o : Nat) : (s.dropOp o).stores = s.stores := rfl
@[simp] theorem State.dropOp_traps (s : State) (o : Nat) : (s.dropOp o).traps = s.traps := rfl
@[simp] theorem State.dropOp_mem (s : State) (o : Nat) : (s.dropOp o).mem = s.mem := rfl
@[simp] theorem State.dropOp_bad (s : State) (o : Nat) : (s.dropOp o).bad = s.bad := rfl
@[simp] theorem State.dropOp_soft (s : State) (o : Nat) : (s.dropOp o).soft = s.soft := rfl
@[simp] theorem State.dropOp_tags (s : State) (o : Nat) : (s.dropOp o).tags = s.tags := rfl
@[simp] theorem State.dropOp_lines (s : State) (o : Nat) : (s.dropOp o).lines = s.lines := rfl
@[simp] theorem State.dropOp_icache (s : State) (o : Nat) : (s.dropOp o).icache = s.icache := rfl
@[simp] theorem State.dropOp_tlb (s : State) (o : Nat) : (s.dropOp o).tlb = s.tlb := rfl
@[simp] theorem State.dropOp_walks (s : State) (o : Nat) : (s.dropOp o).walks = s.walks := rfl
@[simp] theorem State.dropOp_drains (s : State) (o : Nat) : (s.dropOp o).drains = s.drains := rfl
@[simp] theorem State.dropOp_revoking (s : State) (o : Nat) : (s.dropOp o).revoking = s.revoking := rfl
@[simp] theorem State.dropOp_patDraining (s : State) (o : Nat) : (s.dropOp o).patDraining = s.patDraining := rfl
@[simp] theorem State.dropOp_pleats (s : State) (o : Nat) : (s.dropOp o).pleats = s.pleats := rfl
@[simp] theorem State.dropOp_hcopies (s : State) (o : Nat) : (s.dropOp o).hcopies = s.hcopies := rfl
@[simp] theorem State.dropOp_acc (s : State) (o : Nat) : (s.dropOp o).acc = s.acc := rfl
@[simp] theorem State.dropOp_tick (s : State) (o : Nat) : (s.dropOp o).tick = s.tick := rfl
@[simp] theorem State.dropOp_stamp (s : State) (o : Nat) : (s.dropOp o).stamp = s.stamp := rfl
@[simp] theorem State.dropOp_cur (s : State) (o : Nat) : (s.dropOp o).cur = s.cur := rfl
@[simp] theorem State.dropOp_inputs (s : State) (o : Nat) : (s.dropOp o).inputs = s.inputs := rfl
@[simp] theorem State.dropOp_outputs (s : State) (o : Nat) : (s.dropOp o).outputs = s.outputs := rfl
@[simp] theorem State.dropOp_fabIn (s : State) (o : Nat) : (s.dropOp o).fabIn = s.fabIn := rfl
@[simp] theorem State.dropOp_agentOut (s : State) (o : Nat) : (s.dropOp o).agentOut = s.agentOut := rfl
@[simp] theorem State.dropOp_pleatHomes (s : State) (o : Nat) : (s.dropOp o).pleatHomes = s.pleatHomes := rfl
@[simp] theorem State.dropOp_breaks (s : State) (o : Nat) : (s.dropOp o).breaks = s.breaks := rfl
@[simp] theorem State.dropOp_migHeld (s : State) (o : Nat) : (s.dropOp o).migHeld = s.migHeld := rfl

@[simp] theorem State.setCtx_dev (s : State) (p c : Nat) (x : Ctx) : (s.setCtx p c x).dev = s.dev := rfl
@[simp] theorem State.setCtx_parts (s : State) (p c : Nat) (x : Ctx) : (s.setCtx p c x).parts = s.parts := rfl
@[simp] theorem State.setCtx_cores (s : State) (p c : Nat) (x : Ctx) : (s.setCtx p c x).cores = s.cores := rfl
@[simp] theorem State.setCtx_queues (s : State) (p c : Nat) (x : Ctx) : (s.setCtx p c x).queues = s.queues := rfl
@[simp] theorem State.setCtx_knots (s : State) (p c : Nat) (x : Ctx) : (s.setCtx p c x).knots = s.knots := rfl
@[simp] theorem State.setCtx_grids (s : State) (p c : Nat) (x : Ctx) : (s.setCtx p c x).grids = s.grids := rfl
@[simp] theorem State.setCtx_clusters (s : State) (p c : Nat) (x : Ctx) : (s.setCtx p c x).clusters = s.clusters := rfl
@[simp] theorem State.setCtx_teams (s : State) (p c : Nat) (x : Ctx) : (s.setCtx p c x).teams = s.teams := rfl
@[simp] theorem State.setCtx_ops (s : State) (p c : Nat) (x : Ctx) : (s.setCtx p c x).ops = s.ops := rfl
@[simp] theorem State.setCtx_posted (s : State) (p c : Nat) (x : Ctx) : (s.setCtx p c x).posted = s.posted := rfl
@[simp] theorem State.setCtx_stores (s : State) (p c : Nat) (x : Ctx) : (s.setCtx p c x).stores = s.stores := rfl
@[simp] theorem State.setCtx_traps (s : State) (p c : Nat) (x : Ctx) : (s.setCtx p c x).traps = s.traps := rfl
@[simp] theorem State.setCtx_mem (s : State) (p c : Nat) (x : Ctx) : (s.setCtx p c x).mem = s.mem := rfl
@[simp] theorem State.setCtx_bad (s : State) (p c : Nat) (x : Ctx) : (s.setCtx p c x).bad = s.bad := rfl
@[simp] theorem State.setCtx_soft (s : State) (p c : Nat) (x : Ctx) : (s.setCtx p c x).soft = s.soft := rfl
@[simp] theorem State.setCtx_tags (s : State) (p c : Nat) (x : Ctx) : (s.setCtx p c x).tags = s.tags := rfl
@[simp] theorem State.setCtx_lines (s : State) (p c : Nat) (x : Ctx) : (s.setCtx p c x).lines = s.lines := rfl
@[simp] theorem State.setCtx_icache (s : State) (p c : Nat) (x : Ctx) : (s.setCtx p c x).icache = s.icache := rfl
@[simp] theorem State.setCtx_tlb (s : State) (p c : Nat) (x : Ctx) : (s.setCtx p c x).tlb = s.tlb := rfl
@[simp] theorem State.setCtx_walks (s : State) (p c : Nat) (x : Ctx) : (s.setCtx p c x).walks = s.walks := rfl
@[simp] theorem State.setCtx_drains (s : State) (p c : Nat) (x : Ctx) : (s.setCtx p c x).drains = s.drains := rfl
@[simp] theorem State.setCtx_revoking (s : State) (p c : Nat) (x : Ctx) : (s.setCtx p c x).revoking = s.revoking := rfl
@[simp] theorem State.setCtx_patDraining (s : State) (p c : Nat) (x : Ctx) : (s.setCtx p c x).patDraining = s.patDraining := rfl
@[simp] theorem State.setCtx_pleats (s : State) (p c : Nat) (x : Ctx) : (s.setCtx p c x).pleats = s.pleats := rfl
@[simp] theorem State.setCtx_hcopies (s : State) (p c : Nat) (x : Ctx) : (s.setCtx p c x).hcopies = s.hcopies := rfl
@[simp] theorem State.setCtx_acc (s : State) (p c : Nat) (x : Ctx) : (s.setCtx p c x).acc = s.acc := rfl
@[simp] theorem State.setCtx_tick (s : State) (p c : Nat) (x : Ctx) : (s.setCtx p c x).tick = s.tick := rfl
@[simp] theorem State.setCtx_stamp (s : State) (p c : Nat) (x : Ctx) : (s.setCtx p c x).stamp = s.stamp := rfl
@[simp] theorem State.setCtx_cur (s : State) (p c : Nat) (x : Ctx) : (s.setCtx p c x).cur = s.cur := rfl
@[simp] theorem State.setCtx_inputs (s : State) (p c : Nat) (x : Ctx) : (s.setCtx p c x).inputs = s.inputs := rfl
@[simp] theorem State.setCtx_outputs (s : State) (p c : Nat) (x : Ctx) : (s.setCtx p c x).outputs = s.outputs := rfl
@[simp] theorem State.setCtx_fabIn (s : State) (p c : Nat) (x : Ctx) : (s.setCtx p c x).fabIn = s.fabIn := rfl
@[simp] theorem State.setCtx_agentOut (s : State) (p c : Nat) (x : Ctx) : (s.setCtx p c x).agentOut = s.agentOut := rfl
@[simp] theorem State.setCtx_pleatHomes (s : State) (p c : Nat) (x : Ctx) : (s.setCtx p c x).pleatHomes = s.pleatHomes := rfl
@[simp] theorem State.setCtx_breaks (s : State) (p c : Nat) (x : Ctx) : (s.setCtx p c x).breaks = s.breaks := rfl
@[simp] theorem State.setCtx_migHeld (s : State) (p c : Nat) (x : Ctx) : (s.setCtx p c x).migHeld = s.migHeld := rfl

@[simp] theorem State.setPart_dev (s : State) (p : Nat) (x : Part) : (s.setPart p x).dev = s.dev := rfl
@[simp] theorem State.setPart_ctxs (s : State) (p : Nat) (x : Part) : (s.setPart p x).ctxs = s.ctxs := rfl
@[simp] theorem State.setPart_cores (s : State) (p : Nat) (x : Part) : (s.setPart p x).cores = s.cores := rfl
@[simp] theorem State.setPart_queues (s : State) (p : Nat) (x : Part) : (s.setPart p x).queues = s.queues := rfl
@[simp] theorem State.setPart_knots (s : State) (p : Nat) (x : Part) : (s.setPart p x).knots = s.knots := rfl
@[simp] theorem State.setPart_grids (s : State) (p : Nat) (x : Part) : (s.setPart p x).grids = s.grids := rfl
@[simp] theorem State.setPart_clusters (s : State) (p : Nat) (x : Part) : (s.setPart p x).clusters = s.clusters := rfl
@[simp] theorem State.setPart_teams (s : State) (p : Nat) (x : Part) : (s.setPart p x).teams = s.teams := rfl
@[simp] theorem State.setPart_ops (s : State) (p : Nat) (x : Part) : (s.setPart p x).ops = s.ops := rfl
@[simp] theorem State.setPart_posted (s : State) (p : Nat) (x : Part) : (s.setPart p x).posted = s.posted := rfl
@[simp] theorem State.setPart_stores (s : State) (p : Nat) (x : Part) : (s.setPart p x).stores = s.stores := rfl
@[simp] theorem State.setPart_traps (s : State) (p : Nat) (x : Part) : (s.setPart p x).traps = s.traps := rfl
@[simp] theorem State.setPart_mem (s : State) (p : Nat) (x : Part) : (s.setPart p x).mem = s.mem := rfl
@[simp] theorem State.setPart_bad (s : State) (p : Nat) (x : Part) : (s.setPart p x).bad = s.bad := rfl
@[simp] theorem State.setPart_soft (s : State) (p : Nat) (x : Part) : (s.setPart p x).soft = s.soft := rfl
@[simp] theorem State.setPart_tags (s : State) (p : Nat) (x : Part) : (s.setPart p x).tags = s.tags := rfl
@[simp] theorem State.setPart_lines (s : State) (p : Nat) (x : Part) : (s.setPart p x).lines = s.lines := rfl
@[simp] theorem State.setPart_icache (s : State) (p : Nat) (x : Part) : (s.setPart p x).icache = s.icache := rfl
@[simp] theorem State.setPart_tlb (s : State) (p : Nat) (x : Part) : (s.setPart p x).tlb = s.tlb := rfl
@[simp] theorem State.setPart_walks (s : State) (p : Nat) (x : Part) : (s.setPart p x).walks = s.walks := rfl
@[simp] theorem State.setPart_drains (s : State) (p : Nat) (x : Part) : (s.setPart p x).drains = s.drains := rfl
@[simp] theorem State.setPart_revoking (s : State) (p : Nat) (x : Part) : (s.setPart p x).revoking = s.revoking := rfl
@[simp] theorem State.setPart_patDraining (s : State) (p : Nat) (x : Part) : (s.setPart p x).patDraining = s.patDraining := rfl
@[simp] theorem State.setPart_pleats (s : State) (p : Nat) (x : Part) : (s.setPart p x).pleats = s.pleats := rfl
@[simp] theorem State.setPart_hcopies (s : State) (p : Nat) (x : Part) : (s.setPart p x).hcopies = s.hcopies := rfl
@[simp] theorem State.setPart_acc (s : State) (p : Nat) (x : Part) : (s.setPart p x).acc = s.acc := rfl
@[simp] theorem State.setPart_tick (s : State) (p : Nat) (x : Part) : (s.setPart p x).tick = s.tick := rfl
@[simp] theorem State.setPart_stamp (s : State) (p : Nat) (x : Part) : (s.setPart p x).stamp = s.stamp := rfl
@[simp] theorem State.setPart_cur (s : State) (p : Nat) (x : Part) : (s.setPart p x).cur = s.cur := rfl
@[simp] theorem State.setPart_inputs (s : State) (p : Nat) (x : Part) : (s.setPart p x).inputs = s.inputs := rfl
@[simp] theorem State.setPart_outputs (s : State) (p : Nat) (x : Part) : (s.setPart p x).outputs = s.outputs := rfl
@[simp] theorem State.setPart_fabIn (s : State) (p : Nat) (x : Part) : (s.setPart p x).fabIn = s.fabIn := rfl
@[simp] theorem State.setPart_agentOut (s : State) (p : Nat) (x : Part) : (s.setPart p x).agentOut = s.agentOut := rfl
@[simp] theorem State.setPart_pleatHomes (s : State) (p : Nat) (x : Part) : (s.setPart p x).pleatHomes = s.pleatHomes := rfl
@[simp] theorem State.setPart_breaks (s : State) (p : Nat) (x : Part) : (s.setPart p x).breaks = s.breaks := rfl
@[simp] theorem State.setPart_migHeld (s : State) (p : Nat) (x : Part) : (s.setPart p x).migHeld = s.migHeld := rfl

@[simp] theorem State.setCore_dev (s : State) (n : Nat) (x : CoreSt) : (s.setCore n x).dev = s.dev := rfl
@[simp] theorem State.setCore_parts (s : State) (n : Nat) (x : CoreSt) : (s.setCore n x).parts = s.parts := rfl
@[simp] theorem State.setCore_ctxs (s : State) (n : Nat) (x : CoreSt) : (s.setCore n x).ctxs = s.ctxs := rfl
@[simp] theorem State.setCore_queues (s : State) (n : Nat) (x : CoreSt) : (s.setCore n x).queues = s.queues := rfl
@[simp] theorem State.setCore_knots (s : State) (n : Nat) (x : CoreSt) : (s.setCore n x).knots = s.knots := rfl
@[simp] theorem State.setCore_grids (s : State) (n : Nat) (x : CoreSt) : (s.setCore n x).grids = s.grids := rfl
@[simp] theorem State.setCore_clusters (s : State) (n : Nat) (x : CoreSt) : (s.setCore n x).clusters = s.clusters := rfl
@[simp] theorem State.setCore_teams (s : State) (n : Nat) (x : CoreSt) : (s.setCore n x).teams = s.teams := rfl
@[simp] theorem State.setCore_ops (s : State) (n : Nat) (x : CoreSt) : (s.setCore n x).ops = s.ops := rfl
@[simp] theorem State.setCore_posted (s : State) (n : Nat) (x : CoreSt) : (s.setCore n x).posted = s.posted := rfl
@[simp] theorem State.setCore_stores (s : State) (n : Nat) (x : CoreSt) : (s.setCore n x).stores = s.stores := rfl
@[simp] theorem State.setCore_traps (s : State) (n : Nat) (x : CoreSt) : (s.setCore n x).traps = s.traps := rfl
@[simp] theorem State.setCore_mem (s : State) (n : Nat) (x : CoreSt) : (s.setCore n x).mem = s.mem := rfl
@[simp] theorem State.setCore_bad (s : State) (n : Nat) (x : CoreSt) : (s.setCore n x).bad = s.bad := rfl
@[simp] theorem State.setCore_soft (s : State) (n : Nat) (x : CoreSt) : (s.setCore n x).soft = s.soft := rfl
@[simp] theorem State.setCore_tags (s : State) (n : Nat) (x : CoreSt) : (s.setCore n x).tags = s.tags := rfl
@[simp] theorem State.setCore_lines (s : State) (n : Nat) (x : CoreSt) : (s.setCore n x).lines = s.lines := rfl
@[simp] theorem State.setCore_icache (s : State) (n : Nat) (x : CoreSt) : (s.setCore n x).icache = s.icache := rfl
@[simp] theorem State.setCore_tlb (s : State) (n : Nat) (x : CoreSt) : (s.setCore n x).tlb = s.tlb := rfl
@[simp] theorem State.setCore_walks (s : State) (n : Nat) (x : CoreSt) : (s.setCore n x).walks = s.walks := rfl
@[simp] theorem State.setCore_drains (s : State) (n : Nat) (x : CoreSt) : (s.setCore n x).drains = s.drains := rfl
@[simp] theorem State.setCore_revoking (s : State) (n : Nat) (x : CoreSt) : (s.setCore n x).revoking = s.revoking := rfl
@[simp] theorem State.setCore_patDraining (s : State) (n : Nat) (x : CoreSt) : (s.setCore n x).patDraining = s.patDraining := rfl
@[simp] theorem State.setCore_pleats (s : State) (n : Nat) (x : CoreSt) : (s.setCore n x).pleats = s.pleats := rfl
@[simp] theorem State.setCore_hcopies (s : State) (n : Nat) (x : CoreSt) : (s.setCore n x).hcopies = s.hcopies := rfl
@[simp] theorem State.setCore_acc (s : State) (n : Nat) (x : CoreSt) : (s.setCore n x).acc = s.acc := rfl
@[simp] theorem State.setCore_tick (s : State) (n : Nat) (x : CoreSt) : (s.setCore n x).tick = s.tick := rfl
@[simp] theorem State.setCore_stamp (s : State) (n : Nat) (x : CoreSt) : (s.setCore n x).stamp = s.stamp := rfl
@[simp] theorem State.setCore_cur (s : State) (n : Nat) (x : CoreSt) : (s.setCore n x).cur = s.cur := rfl
@[simp] theorem State.setCore_inputs (s : State) (n : Nat) (x : CoreSt) : (s.setCore n x).inputs = s.inputs := rfl
@[simp] theorem State.setCore_outputs (s : State) (n : Nat) (x : CoreSt) : (s.setCore n x).outputs = s.outputs := rfl
@[simp] theorem State.setCore_fabIn (s : State) (n : Nat) (x : CoreSt) : (s.setCore n x).fabIn = s.fabIn := rfl
@[simp] theorem State.setCore_agentOut (s : State) (n : Nat) (x : CoreSt) : (s.setCore n x).agentOut = s.agentOut := rfl
@[simp] theorem State.setCore_pleatHomes (s : State) (n : Nat) (x : CoreSt) : (s.setCore n x).pleatHomes = s.pleatHomes := rfl
@[simp] theorem State.setCore_breaks (s : State) (n : Nat) (x : CoreSt) : (s.setCore n x).breaks = s.breaks := rfl
@[simp] theorem State.setCore_migHeld (s : State) (n : Nat) (x : CoreSt) : (s.setCore n x).migHeld = s.migHeld := rfl

@[simp] theorem State.bump_dev (s : State) : s.bump.dev = s.dev := rfl
@[simp] theorem State.bump_parts (s : State) : s.bump.parts = s.parts := rfl
@[simp] theorem State.bump_ctxs (s : State) : s.bump.ctxs = s.ctxs := rfl
@[simp] theorem State.bump_cores (s : State) : s.bump.cores = s.cores := rfl
@[simp] theorem State.bump_queues (s : State) : s.bump.queues = s.queues := rfl
@[simp] theorem State.bump_knots (s : State) : s.bump.knots = s.knots := rfl
@[simp] theorem State.bump_grids (s : State) : s.bump.grids = s.grids := rfl
@[simp] theorem State.bump_clusters (s : State) : s.bump.clusters = s.clusters := rfl
@[simp] theorem State.bump_teams (s : State) : s.bump.teams = s.teams := rfl
@[simp] theorem State.bump_ops (s : State) : s.bump.ops = s.ops := rfl
@[simp] theorem State.bump_posted (s : State) : s.bump.posted = s.posted := rfl
@[simp] theorem State.bump_stores (s : State) : s.bump.stores = s.stores := rfl
@[simp] theorem State.bump_traps (s : State) : s.bump.traps = s.traps := rfl
@[simp] theorem State.bump_mem (s : State) : s.bump.mem = s.mem := rfl
@[simp] theorem State.bump_bad (s : State) : s.bump.bad = s.bad := rfl
@[simp] theorem State.bump_soft (s : State) : s.bump.soft = s.soft := rfl
@[simp] theorem State.bump_tags (s : State) : s.bump.tags = s.tags := rfl
@[simp] theorem State.bump_lines (s : State) : s.bump.lines = s.lines := rfl
@[simp] theorem State.bump_icache (s : State) : s.bump.icache = s.icache := rfl
@[simp] theorem State.bump_tlb (s : State) : s.bump.tlb = s.tlb := rfl
@[simp] theorem State.bump_walks (s : State) : s.bump.walks = s.walks := rfl
@[simp] theorem State.bump_drains (s : State) : s.bump.drains = s.drains := rfl
@[simp] theorem State.bump_revoking (s : State) : s.bump.revoking = s.revoking := rfl
@[simp] theorem State.bump_patDraining (s : State) : s.bump.patDraining = s.patDraining := rfl
@[simp] theorem State.bump_pleats (s : State) : s.bump.pleats = s.pleats := rfl
@[simp] theorem State.bump_hcopies (s : State) : s.bump.hcopies = s.hcopies := rfl
@[simp] theorem State.bump_acc (s : State) : s.bump.acc = s.acc := rfl
@[simp] theorem State.bump_tick (s : State) : s.bump.tick = s.tick := rfl
@[simp] theorem State.bump_cur (s : State) : s.bump.cur = s.cur := rfl
@[simp] theorem State.bump_inputs (s : State) : s.bump.inputs = s.inputs := rfl
@[simp] theorem State.bump_outputs (s : State) : s.bump.outputs = s.outputs := rfl
@[simp] theorem State.bump_fabIn (s : State) : s.bump.fabIn = s.fabIn := rfl
@[simp] theorem State.bump_agentOut (s : State) : s.bump.agentOut = s.agentOut := rfl
@[simp] theorem State.bump_pleatHomes (s : State) : s.bump.pleatHomes = s.pleatHomes := rfl
@[simp] theorem State.bump_breaks (s : State) : s.bump.breaks = s.breaks := rfl
@[simp] theorem State.bump_migHeld (s : State) : s.bump.migHeld = s.migHeld := rfl

@[simp] theorem State.setQueue_dev (s : State) (k : Nat) (q : Queue) : (s.setQueue k q).dev = s.dev := rfl
@[simp] theorem State.setQueue_parts (s : State) (k : Nat) (q : Queue) : (s.setQueue k q).parts = s.parts := rfl
@[simp] theorem State.setQueue_ctxs (s : State) (k : Nat) (q : Queue) : (s.setQueue k q).ctxs = s.ctxs := rfl
@[simp] theorem State.setQueue_cores (s : State) (k : Nat) (q : Queue) : (s.setQueue k q).cores = s.cores := rfl
@[simp] theorem State.setQueue_knots (s : State) (k : Nat) (q : Queue) : (s.setQueue k q).knots = s.knots := rfl
@[simp] theorem State.setQueue_grids (s : State) (k : Nat) (q : Queue) : (s.setQueue k q).grids = s.grids := rfl
@[simp] theorem State.setQueue_clusters (s : State) (k : Nat) (q : Queue) : (s.setQueue k q).clusters = s.clusters := rfl
@[simp] theorem State.setQueue_teams (s : State) (k : Nat) (q : Queue) : (s.setQueue k q).teams = s.teams := rfl
@[simp] theorem State.setQueue_ops (s : State) (k : Nat) (q : Queue) : (s.setQueue k q).ops = s.ops := rfl
@[simp] theorem State.setQueue_posted (s : State) (k : Nat) (q : Queue) : (s.setQueue k q).posted = s.posted := rfl
@[simp] theorem State.setQueue_stores (s : State) (k : Nat) (q : Queue) : (s.setQueue k q).stores = s.stores := rfl
@[simp] theorem State.setQueue_traps (s : State) (k : Nat) (q : Queue) : (s.setQueue k q).traps = s.traps := rfl
@[simp] theorem State.setQueue_mem (s : State) (k : Nat) (q : Queue) : (s.setQueue k q).mem = s.mem := rfl
@[simp] theorem State.setQueue_bad (s : State) (k : Nat) (q : Queue) : (s.setQueue k q).bad = s.bad := rfl
@[simp] theorem State.setQueue_soft (s : State) (k : Nat) (q : Queue) : (s.setQueue k q).soft = s.soft := rfl
@[simp] theorem State.setQueue_tags (s : State) (k : Nat) (q : Queue) : (s.setQueue k q).tags = s.tags := rfl
@[simp] theorem State.setQueue_lines (s : State) (k : Nat) (q : Queue) : (s.setQueue k q).lines = s.lines := rfl
@[simp] theorem State.setQueue_icache (s : State) (k : Nat) (q : Queue) : (s.setQueue k q).icache = s.icache := rfl
@[simp] theorem State.setQueue_tlb (s : State) (k : Nat) (q : Queue) : (s.setQueue k q).tlb = s.tlb := rfl
@[simp] theorem State.setQueue_walks (s : State) (k : Nat) (q : Queue) : (s.setQueue k q).walks = s.walks := rfl
@[simp] theorem State.setQueue_drains (s : State) (k : Nat) (q : Queue) : (s.setQueue k q).drains = s.drains := rfl
@[simp] theorem State.setQueue_revoking (s : State) (k : Nat) (q : Queue) : (s.setQueue k q).revoking = s.revoking := rfl
@[simp] theorem State.setQueue_patDraining (s : State) (k : Nat) (q : Queue) : (s.setQueue k q).patDraining = s.patDraining := rfl
@[simp] theorem State.setQueue_pleats (s : State) (k : Nat) (q : Queue) : (s.setQueue k q).pleats = s.pleats := rfl
@[simp] theorem State.setQueue_hcopies (s : State) (k : Nat) (q : Queue) : (s.setQueue k q).hcopies = s.hcopies := rfl
@[simp] theorem State.setQueue_acc (s : State) (k : Nat) (q : Queue) : (s.setQueue k q).acc = s.acc := rfl
@[simp] theorem State.setQueue_tick (s : State) (k : Nat) (q : Queue) : (s.setQueue k q).tick = s.tick := rfl
@[simp] theorem State.setQueue_stamp (s : State) (k : Nat) (q : Queue) : (s.setQueue k q).stamp = s.stamp := rfl
@[simp] theorem State.setQueue_cur (s : State) (k : Nat) (q : Queue) : (s.setQueue k q).cur = s.cur := rfl
@[simp] theorem State.setQueue_inputs (s : State) (k : Nat) (q : Queue) : (s.setQueue k q).inputs = s.inputs := rfl
@[simp] theorem State.setQueue_outputs (s : State) (k : Nat) (q : Queue) : (s.setQueue k q).outputs = s.outputs := rfl
@[simp] theorem State.setQueue_fabIn (s : State) (k : Nat) (q : Queue) : (s.setQueue k q).fabIn = s.fabIn := rfl
@[simp] theorem State.setQueue_agentOut (s : State) (k : Nat) (q : Queue) : (s.setQueue k q).agentOut = s.agentOut := rfl
@[simp] theorem State.setQueue_pleatHomes (s : State) (k : Nat) (q : Queue) : (s.setQueue k q).pleatHomes = s.pleatHomes := rfl
@[simp] theorem State.setQueue_breaks (s : State) (k : Nat) (q : Queue) : (s.setQueue k q).breaks = s.breaks := rfl
@[simp] theorem State.setQueue_migHeld (s : State) (k : Nat) (q : Queue) : (s.setQueue k q).migHeld = s.migHeld := rfl

@[simp] theorem State.setKnot_dev (s : State) (k : Nat) (x : Knot) : (s.setKnot k x).dev = s.dev := rfl
@[simp] theorem State.setKnot_parts (s : State) (k : Nat) (x : Knot) : (s.setKnot k x).parts = s.parts := rfl
@[simp] theorem State.setKnot_ctxs (s : State) (k : Nat) (x : Knot) : (s.setKnot k x).ctxs = s.ctxs := rfl
@[simp] theorem State.setKnot_cores (s : State) (k : Nat) (x : Knot) : (s.setKnot k x).cores = s.cores := rfl
@[simp] theorem State.setKnot_queues (s : State) (k : Nat) (x : Knot) : (s.setKnot k x).queues = s.queues := rfl
@[simp] theorem State.setKnot_grids (s : State) (k : Nat) (x : Knot) : (s.setKnot k x).grids = s.grids := rfl
@[simp] theorem State.setKnot_clusters (s : State) (k : Nat) (x : Knot) : (s.setKnot k x).clusters = s.clusters := rfl
@[simp] theorem State.setKnot_teams (s : State) (k : Nat) (x : Knot) : (s.setKnot k x).teams = s.teams := rfl
@[simp] theorem State.setKnot_ops (s : State) (k : Nat) (x : Knot) : (s.setKnot k x).ops = s.ops := rfl
@[simp] theorem State.setKnot_posted (s : State) (k : Nat) (x : Knot) : (s.setKnot k x).posted = s.posted := rfl
@[simp] theorem State.setKnot_stores (s : State) (k : Nat) (x : Knot) : (s.setKnot k x).stores = s.stores := rfl
@[simp] theorem State.setKnot_traps (s : State) (k : Nat) (x : Knot) : (s.setKnot k x).traps = s.traps := rfl
@[simp] theorem State.setKnot_mem (s : State) (k : Nat) (x : Knot) : (s.setKnot k x).mem = s.mem := rfl
@[simp] theorem State.setKnot_bad (s : State) (k : Nat) (x : Knot) : (s.setKnot k x).bad = s.bad := rfl
@[simp] theorem State.setKnot_soft (s : State) (k : Nat) (x : Knot) : (s.setKnot k x).soft = s.soft := rfl
@[simp] theorem State.setKnot_tags (s : State) (k : Nat) (x : Knot) : (s.setKnot k x).tags = s.tags := rfl
@[simp] theorem State.setKnot_lines (s : State) (k : Nat) (x : Knot) : (s.setKnot k x).lines = s.lines := rfl
@[simp] theorem State.setKnot_icache (s : State) (k : Nat) (x : Knot) : (s.setKnot k x).icache = s.icache := rfl
@[simp] theorem State.setKnot_tlb (s : State) (k : Nat) (x : Knot) : (s.setKnot k x).tlb = s.tlb := rfl
@[simp] theorem State.setKnot_walks (s : State) (k : Nat) (x : Knot) : (s.setKnot k x).walks = s.walks := rfl
@[simp] theorem State.setKnot_drains (s : State) (k : Nat) (x : Knot) : (s.setKnot k x).drains = s.drains := rfl
@[simp] theorem State.setKnot_revoking (s : State) (k : Nat) (x : Knot) : (s.setKnot k x).revoking = s.revoking := rfl
@[simp] theorem State.setKnot_patDraining (s : State) (k : Nat) (x : Knot) : (s.setKnot k x).patDraining = s.patDraining := rfl
@[simp] theorem State.setKnot_pleats (s : State) (k : Nat) (x : Knot) : (s.setKnot k x).pleats = s.pleats := rfl
@[simp] theorem State.setKnot_hcopies (s : State) (k : Nat) (x : Knot) : (s.setKnot k x).hcopies = s.hcopies := rfl
@[simp] theorem State.setKnot_acc (s : State) (k : Nat) (x : Knot) : (s.setKnot k x).acc = s.acc := rfl
@[simp] theorem State.setKnot_tick (s : State) (k : Nat) (x : Knot) : (s.setKnot k x).tick = s.tick := rfl
@[simp] theorem State.setKnot_stamp (s : State) (k : Nat) (x : Knot) : (s.setKnot k x).stamp = s.stamp := rfl
@[simp] theorem State.setKnot_cur (s : State) (k : Nat) (x : Knot) : (s.setKnot k x).cur = s.cur := rfl
@[simp] theorem State.setKnot_inputs (s : State) (k : Nat) (x : Knot) : (s.setKnot k x).inputs = s.inputs := rfl
@[simp] theorem State.setKnot_outputs (s : State) (k : Nat) (x : Knot) : (s.setKnot k x).outputs = s.outputs := rfl
@[simp] theorem State.setKnot_fabIn (s : State) (k : Nat) (x : Knot) : (s.setKnot k x).fabIn = s.fabIn := rfl
@[simp] theorem State.setKnot_agentOut (s : State) (k : Nat) (x : Knot) : (s.setKnot k x).agentOut = s.agentOut := rfl
@[simp] theorem State.setKnot_pleatHomes (s : State) (k : Nat) (x : Knot) : (s.setKnot k x).pleatHomes = s.pleatHomes := rfl
@[simp] theorem State.setKnot_breaks (s : State) (k : Nat) (x : Knot) : (s.setKnot k x).breaks = s.breaks := rfl
@[simp] theorem State.setKnot_migHeld (s : State) (k : Nat) (x : Knot) : (s.setKnot k x).migHeld = s.migHeld := rfl

@[simp] theorem Team.setS_part (t : Team) (n : BitVec 6) (w : Word) : (t.setS n w).part = t.part := rfl
@[simp] theorem Team.setS_ctx (t : Team) (n : BitVec 6) (w : Word) : (t.setS n w).ctx = t.ctx := rfl
@[simp] theorem Team.setS_core (t : Team) (n : BitVec 6) (w : Word) : (t.setS n w).core = t.core := rfl
@[simp] theorem Team.setS_slot (t : Team) (n : BitVec 6) (w : Word) : (t.setS n w).slot = t.slot := rfl
@[simp] theorem Team.setS_cluster (t : Team) (n : BitVec 6) (w : Word) : (t.setS n w).cluster = t.cluster := rfl
@[simp] theorem Team.setS_ccore (t : Team) (n : BitVec 6) (w : Word) : (t.setS n w).ccore = t.ccore := rfl
@[simp] theorem Team.setS_tid (t : Team) (n : BitVec 6) (w : Word) : (t.setS n w).tid = t.tid := rfl
@[simp] theorem Team.setS_cid (t : Team) (n : BitVec 6) (w : Word) : (t.setS n w).cid = t.cid := rfl
@[simp] theorem Team.setS_nteams (t : Team) (n : BitVec 6) (w : Word) : (t.setS n w).nteams = t.nteams := rfl
@[simp] theorem Team.setS_nlanes (t : Team) (n : BitVec 6) (w : Word) : (t.setS n w).nlanes = t.nlanes := rfl
@[simp] theorem Team.setS_nregs (t : Team) (n : BitVec 6) (w : Word) : (t.setS n w).nregs = t.nregs := rfl
@[simp] theorem Team.setS_role (t : Team) (n : BitVec 6) (w : Word) : (t.setS n w).role = t.role := rfl
@[simp] theorem Team.setS_vdie (t : Team) (n : BitVec 6) (w : Word) : (t.setS n w).vdie = t.vdie := rfl
@[simp] theorem Team.setS_place (t : Team) (n : BitVec 6) (w : Word) : (t.setS n w).place = t.place := rfl
@[simp] theorem Team.setS_pc (t : Team) (n : BitVec 6) (w : Word) : (t.setS n w).pc = t.pc := rfl
@[simp] theorem Team.setS_base (t : Team) (n : BitVec 6) (w : Word) : (t.setS n w).base = t.base := rfl
@[simp] theorem Team.setS_stage (t : Team) (n : BitVec 6) (w : Word) : (t.setS n w).stage = t.stage := rfl
@[simp] theorem Team.setS_clause (t : Team) (n : BitVec 6) (w : Word) : (t.setS n w).clause = t.clause := rfl
@[simp] theorem Team.setS_mode (t : Team) (n : BitVec 6) (w : Word) : (t.setS n w).mode = t.mode := rfl
@[simp] theorem Team.setS_masks (t : Team) (n : BitVec 6) (w : Word) : (t.setS n w).masks = t.masks := rfl
@[simp] theorem Team.setS_live (t : Team) (n : BitVec 6) (w : Word) : (t.setS n w).live = t.live := rfl
@[simp] theorem Team.setS_flags (t : Team) (n : BitVec 6) (w : Word) : (t.setS n w).flags = t.flags := rfl
@[simp] theorem Team.setS_vregs (t : Team) (n : BitVec 6) (w : Word) : (t.setS n w).vregs = t.vregs := rfl
@[simp] theorem Team.setS_spoilt (t : Team) (n : BitVec 6) (w : Word) : (t.setS n w).spoilt = t.spoilt.filter (· != skey n.toNat) := rfl
@[simp] theorem Team.setS_acwin (t : Team) (n : BitVec 6) (w : Word) : (t.setS n w).acwin = t.acwin := rfl
@[simp] theorem Team.setS_rowsAway (t : Team) (n : BitVec 6) (w : Word) : (t.setS n w).rowsAway = t.rowsAway := rfl
@[simp] theorem Team.setS_qregs (t : Team) (n : BitVec 6) (w : Word) : (t.setS n w).qregs = t.qregs := rfl
@[simp] theorem Team.setS_refill (t : Team) (n : BitVec 6) (w : Word) : (t.setS n w).refill = t.refill := rfl
@[simp] theorem Team.setS_status (t : Team) (n : BitVec 6) (w : Word) : (t.setS n w).status = t.status := rfl
@[simp] theorem Team.setS_abPc (t : Team) (n : BitVec 6) (w : Word) : (t.setS n w).abPc = t.abPc := rfl
@[simp] theorem Team.setS_abSum (t : Team) (n : BitVec 6) (w : Word) : (t.setS n w).abSum = t.abSum := rfl
@[simp] theorem Team.setS_abMask (t : Team) (n : BitVec 6) (w : Word) : (t.setS n w).abMask = t.abMask := rfl
@[simp] theorem Team.setS_swatch (t : Team) (n : BitVec 6) (w : Word) : (t.setS n w).swatch = t.swatch := rfl
@[simp] theorem Team.setS_popped (t : Team) (n : BitVec 6) (w : Word) : (t.setS n w).popped = t.popped := rfl
@[simp] theorem Team.setS_pushing (t : Team) (n : BitVec 6) (w : Word) : (t.setS n w).pushing = t.pushing := rfl
@[simp] theorem Team.setS_pushBad (t : Team) (n : BitVec 6) (w : Word) : (t.setS n w).pushBad = t.pushBad := rfl
@[simp] theorem Team.setS_pass (t : Team) (n : BitVec 6) (w : Word) : (t.setS n w).pass = t.pass := rfl
@[simp] theorem Team.setS_claimed (t : Team) (n : BitVec 6) (w : Word) : (t.setS n w).claimed = t.claimed := rfl
@[simp] theorem Team.setS_hold (t : Team) (n : BitVec 6) (w : Word) : (t.setS n w).hold = t.hold := rfl
@[simp] theorem Team.setS_trap (t : Team) (n : BitVec 6) (w : Word) : (t.setS n w).trap = t.trap := rfl
@[simp] theorem Team.setS_pend (t : Team) (n : BitVec 6) (w : Word) : (t.setS n w).pend = t.pend := rfl
@[simp] theorem Team.setS_redo (t : Team) (n : BitVec 6) (w : Word) : (t.setS n w).redo = t.redo := rfl
@[simp] theorem Team.setS_halted (t : Team) (n : BitVec 6) (w : Word) : (t.setS n w).halted = t.halted := rfl
@[simp] theorem Team.setS_debug (t : Team) (n : BitVec 6) (w : Word) : (t.setS n w).debug = t.debug := rfl
@[simp] theorem Team.setS_stopAt (t : Team) (n : BitVec 6) (w : Word) : (t.setS n w).stopAt = t.stopAt := rfl
@[simp] theorem Team.setS_age (t : Team) (n : BitVec 6) (w : Word) : (t.setS n w).age = t.age := rfl
@[simp] theorem Team.setS_passed (t : Team) (n : BitVec 6) (w : Word) : (t.setS n w).passed = t.passed := rfl
@[simp] theorem Team.setS_idle (t : Team) (n : BitVec 6) (w : Word) : (t.setS n w).idle = t.idle := rfl
@[simp] theorem Team.setS_acq (t : Team) (n : BitVec 6) (w : Word) : (t.setS n w).acq = t.acq := rfl
@[simp] theorem Team.setS_wave (t : Team) (n : BitVec 6) (w : Word) : (t.setS n w).wave = t.wave := rfl

@[simp] theorem Team.setM_part (t : Team) (n : BitVec 3) (x : Mask) : (t.setM n x).part = t.part := rfl
@[simp] theorem Team.setM_ctx (t : Team) (n : BitVec 3) (x : Mask) : (t.setM n x).ctx = t.ctx := rfl
@[simp] theorem Team.setM_core (t : Team) (n : BitVec 3) (x : Mask) : (t.setM n x).core = t.core := rfl
@[simp] theorem Team.setM_slot (t : Team) (n : BitVec 3) (x : Mask) : (t.setM n x).slot = t.slot := rfl
@[simp] theorem Team.setM_cluster (t : Team) (n : BitVec 3) (x : Mask) : (t.setM n x).cluster = t.cluster := rfl
@[simp] theorem Team.setM_ccore (t : Team) (n : BitVec 3) (x : Mask) : (t.setM n x).ccore = t.ccore := rfl
@[simp] theorem Team.setM_tid (t : Team) (n : BitVec 3) (x : Mask) : (t.setM n x).tid = t.tid := rfl
@[simp] theorem Team.setM_cid (t : Team) (n : BitVec 3) (x : Mask) : (t.setM n x).cid = t.cid := rfl
@[simp] theorem Team.setM_nteams (t : Team) (n : BitVec 3) (x : Mask) : (t.setM n x).nteams = t.nteams := rfl
@[simp] theorem Team.setM_nlanes (t : Team) (n : BitVec 3) (x : Mask) : (t.setM n x).nlanes = t.nlanes := rfl
@[simp] theorem Team.setM_nregs (t : Team) (n : BitVec 3) (x : Mask) : (t.setM n x).nregs = t.nregs := rfl
@[simp] theorem Team.setM_role (t : Team) (n : BitVec 3) (x : Mask) : (t.setM n x).role = t.role := rfl
@[simp] theorem Team.setM_vdie (t : Team) (n : BitVec 3) (x : Mask) : (t.setM n x).vdie = t.vdie := rfl
@[simp] theorem Team.setM_place (t : Team) (n : BitVec 3) (x : Mask) : (t.setM n x).place = t.place := rfl
@[simp] theorem Team.setM_pc (t : Team) (n : BitVec 3) (x : Mask) : (t.setM n x).pc = t.pc := rfl
@[simp] theorem Team.setM_base (t : Team) (n : BitVec 3) (x : Mask) : (t.setM n x).base = t.base := rfl
@[simp] theorem Team.setM_stage (t : Team) (n : BitVec 3) (x : Mask) : (t.setM n x).stage = t.stage := rfl
@[simp] theorem Team.setM_clause (t : Team) (n : BitVec 3) (x : Mask) : (t.setM n x).clause = t.clause := rfl
@[simp] theorem Team.setM_mode (t : Team) (n : BitVec 3) (x : Mask) : (t.setM n x).mode = t.mode := rfl
@[simp] theorem Team.setM_sregs (t : Team) (n : BitVec 3) (x : Mask) : (t.setM n x).sregs = t.sregs := rfl
@[simp] theorem Team.setM_live (t : Team) (n : BitVec 3) (x : Mask) : (t.setM n x).live = t.live := rfl
@[simp] theorem Team.setM_flags (t : Team) (n : BitVec 3) (x : Mask) : (t.setM n x).flags = t.flags := rfl
@[simp] theorem Team.setM_vregs (t : Team) (n : BitVec 3) (x : Mask) : (t.setM n x).vregs = t.vregs := rfl
@[simp] theorem Team.setM_spoilt (t : Team) (n : BitVec 3) (x : Mask) : (t.setM n x).spoilt = t.spoilt.filter (· != mkey n.toNat) := rfl
@[simp] theorem Team.setM_acwin (t : Team) (n : BitVec 3) (x : Mask) : (t.setM n x).acwin = t.acwin := rfl
@[simp] theorem Team.setM_rowsAway (t : Team) (n : BitVec 3) (x : Mask) : (t.setM n x).rowsAway = t.rowsAway := rfl
@[simp] theorem Team.setM_qregs (t : Team) (n : BitVec 3) (x : Mask) : (t.setM n x).qregs = t.qregs := rfl
@[simp] theorem Team.setM_refill (t : Team) (n : BitVec 3) (x : Mask) : (t.setM n x).refill = t.refill := rfl
@[simp] theorem Team.setM_status (t : Team) (n : BitVec 3) (x : Mask) : (t.setM n x).status = t.status := rfl
@[simp] theorem Team.setM_abPc (t : Team) (n : BitVec 3) (x : Mask) : (t.setM n x).abPc = t.abPc := rfl
@[simp] theorem Team.setM_abSum (t : Team) (n : BitVec 3) (x : Mask) : (t.setM n x).abSum = t.abSum := rfl
@[simp] theorem Team.setM_abMask (t : Team) (n : BitVec 3) (x : Mask) : (t.setM n x).abMask = t.abMask := rfl
@[simp] theorem Team.setM_swatch (t : Team) (n : BitVec 3) (x : Mask) : (t.setM n x).swatch = t.swatch := rfl
@[simp] theorem Team.setM_popped (t : Team) (n : BitVec 3) (x : Mask) : (t.setM n x).popped = t.popped := rfl
@[simp] theorem Team.setM_pushing (t : Team) (n : BitVec 3) (x : Mask) : (t.setM n x).pushing = t.pushing := rfl
@[simp] theorem Team.setM_pushBad (t : Team) (n : BitVec 3) (x : Mask) : (t.setM n x).pushBad = t.pushBad := rfl
@[simp] theorem Team.setM_pass (t : Team) (n : BitVec 3) (x : Mask) : (t.setM n x).pass = t.pass := rfl
@[simp] theorem Team.setM_claimed (t : Team) (n : BitVec 3) (x : Mask) : (t.setM n x).claimed = t.claimed := rfl
@[simp] theorem Team.setM_hold (t : Team) (n : BitVec 3) (x : Mask) : (t.setM n x).hold = t.hold := rfl
@[simp] theorem Team.setM_trap (t : Team) (n : BitVec 3) (x : Mask) : (t.setM n x).trap = t.trap := rfl
@[simp] theorem Team.setM_pend (t : Team) (n : BitVec 3) (x : Mask) : (t.setM n x).pend = t.pend := rfl
@[simp] theorem Team.setM_redo (t : Team) (n : BitVec 3) (x : Mask) : (t.setM n x).redo = t.redo := rfl
@[simp] theorem Team.setM_halted (t : Team) (n : BitVec 3) (x : Mask) : (t.setM n x).halted = t.halted := rfl
@[simp] theorem Team.setM_debug (t : Team) (n : BitVec 3) (x : Mask) : (t.setM n x).debug = t.debug := rfl
@[simp] theorem Team.setM_stopAt (t : Team) (n : BitVec 3) (x : Mask) : (t.setM n x).stopAt = t.stopAt := rfl
@[simp] theorem Team.setM_age (t : Team) (n : BitVec 3) (x : Mask) : (t.setM n x).age = t.age := rfl
@[simp] theorem Team.setM_passed (t : Team) (n : BitVec 3) (x : Mask) : (t.setM n x).passed = t.passed := rfl
@[simp] theorem Team.setM_idle (t : Team) (n : BitVec 3) (x : Mask) : (t.setM n x).idle = t.idle := rfl
@[simp] theorem Team.setM_acq (t : Team) (n : BitVec 3) (x : Mask) : (t.setM n x).acq = t.acq := rfl
@[simp] theorem Team.setM_wave (t : Team) (n : BitVec 3) (x : Mask) : (t.setM n x).wave = t.wave := rfl

@[simp] theorem Team.setV_part (t : Team) (l r : Nat) (w : Word) : (t.setV l r w).part = t.part := rfl
@[simp] theorem Team.setV_ctx (t : Team) (l r : Nat) (w : Word) : (t.setV l r w).ctx = t.ctx := rfl
@[simp] theorem Team.setV_core (t : Team) (l r : Nat) (w : Word) : (t.setV l r w).core = t.core := rfl
@[simp] theorem Team.setV_slot (t : Team) (l r : Nat) (w : Word) : (t.setV l r w).slot = t.slot := rfl
@[simp] theorem Team.setV_cluster (t : Team) (l r : Nat) (w : Word) : (t.setV l r w).cluster = t.cluster := rfl
@[simp] theorem Team.setV_ccore (t : Team) (l r : Nat) (w : Word) : (t.setV l r w).ccore = t.ccore := rfl
@[simp] theorem Team.setV_tid (t : Team) (l r : Nat) (w : Word) : (t.setV l r w).tid = t.tid := rfl
@[simp] theorem Team.setV_cid (t : Team) (l r : Nat) (w : Word) : (t.setV l r w).cid = t.cid := rfl
@[simp] theorem Team.setV_nteams (t : Team) (l r : Nat) (w : Word) : (t.setV l r w).nteams = t.nteams := rfl
@[simp] theorem Team.setV_nlanes (t : Team) (l r : Nat) (w : Word) : (t.setV l r w).nlanes = t.nlanes := rfl
@[simp] theorem Team.setV_nregs (t : Team) (l r : Nat) (w : Word) : (t.setV l r w).nregs = t.nregs := rfl
@[simp] theorem Team.setV_role (t : Team) (l r : Nat) (w : Word) : (t.setV l r w).role = t.role := rfl
@[simp] theorem Team.setV_vdie (t : Team) (l r : Nat) (w : Word) : (t.setV l r w).vdie = t.vdie := rfl
@[simp] theorem Team.setV_place (t : Team) (l r : Nat) (w : Word) : (t.setV l r w).place = t.place := rfl
@[simp] theorem Team.setV_pc (t : Team) (l r : Nat) (w : Word) : (t.setV l r w).pc = t.pc := rfl
@[simp] theorem Team.setV_base (t : Team) (l r : Nat) (w : Word) : (t.setV l r w).base = t.base := rfl
@[simp] theorem Team.setV_stage (t : Team) (l r : Nat) (w : Word) : (t.setV l r w).stage = t.stage := rfl
@[simp] theorem Team.setV_clause (t : Team) (l r : Nat) (w : Word) : (t.setV l r w).clause = t.clause := rfl
@[simp] theorem Team.setV_mode (t : Team) (l r : Nat) (w : Word) : (t.setV l r w).mode = t.mode := rfl
@[simp] theorem Team.setV_sregs (t : Team) (l r : Nat) (w : Word) : (t.setV l r w).sregs = t.sregs := rfl
@[simp] theorem Team.setV_masks (t : Team) (l r : Nat) (w : Word) : (t.setV l r w).masks = t.masks := rfl
@[simp] theorem Team.setV_live (t : Team) (l r : Nat) (w : Word) : (t.setV l r w).live = t.live := rfl
@[simp] theorem Team.setV_flags (t : Team) (l r : Nat) (w : Word) : (t.setV l r w).flags = t.flags := rfl
@[simp] theorem Team.setV_acwin (t : Team) (l r : Nat) (w : Word) : (t.setV l r w).acwin = t.acwin := rfl
@[simp] theorem Team.setV_rowsAway (t : Team) (l r : Nat) (w : Word) : (t.setV l r w).rowsAway = t.rowsAway := rfl
@[simp] theorem Team.setV_qregs (t : Team) (l r : Nat) (w : Word) : (t.setV l r w).qregs = t.qregs := rfl
@[simp] theorem Team.setV_refill (t : Team) (l r : Nat) (w : Word) : (t.setV l r w).refill = t.refill := rfl
@[simp] theorem Team.setV_status (t : Team) (l r : Nat) (w : Word) : (t.setV l r w).status = t.status := rfl
@[simp] theorem Team.setV_abPc (t : Team) (l r : Nat) (w : Word) : (t.setV l r w).abPc = t.abPc := rfl
@[simp] theorem Team.setV_abSum (t : Team) (l r : Nat) (w : Word) : (t.setV l r w).abSum = t.abSum := rfl
@[simp] theorem Team.setV_abMask (t : Team) (l r : Nat) (w : Word) : (t.setV l r w).abMask = t.abMask := rfl
@[simp] theorem Team.setV_swatch (t : Team) (l r : Nat) (w : Word) : (t.setV l r w).swatch = t.swatch := rfl
@[simp] theorem Team.setV_popped (t : Team) (l r : Nat) (w : Word) : (t.setV l r w).popped = t.popped := rfl
@[simp] theorem Team.setV_pushing (t : Team) (l r : Nat) (w : Word) : (t.setV l r w).pushing = t.pushing := rfl
@[simp] theorem Team.setV_pushBad (t : Team) (l r : Nat) (w : Word) : (t.setV l r w).pushBad = t.pushBad := rfl
@[simp] theorem Team.setV_pass (t : Team) (l r : Nat) (w : Word) : (t.setV l r w).pass = t.pass := rfl
@[simp] theorem Team.setV_claimed (t : Team) (l r : Nat) (w : Word) : (t.setV l r w).claimed = t.claimed := rfl
@[simp] theorem Team.setV_hold (t : Team) (l r : Nat) (w : Word) : (t.setV l r w).hold = t.hold := rfl
@[simp] theorem Team.setV_trap (t : Team) (l r : Nat) (w : Word) : (t.setV l r w).trap = t.trap := rfl
@[simp] theorem Team.setV_pend (t : Team) (l r : Nat) (w : Word) : (t.setV l r w).pend = t.pend := rfl
@[simp] theorem Team.setV_redo (t : Team) (l r : Nat) (w : Word) : (t.setV l r w).redo = t.redo := rfl
@[simp] theorem Team.setV_halted (t : Team) (l r : Nat) (w : Word) : (t.setV l r w).halted = t.halted := rfl
@[simp] theorem Team.setV_debug (t : Team) (l r : Nat) (w : Word) : (t.setV l r w).debug = t.debug := rfl
@[simp] theorem Team.setV_stopAt (t : Team) (l r : Nat) (w : Word) : (t.setV l r w).stopAt = t.stopAt := rfl
@[simp] theorem Team.setV_age (t : Team) (l r : Nat) (w : Word) : (t.setV l r w).age = t.age := rfl
@[simp] theorem Team.setV_passed (t : Team) (l r : Nat) (w : Word) : (t.setV l r w).passed = t.passed := rfl
@[simp] theorem Team.setV_idle (t : Team) (l r : Nat) (w : Word) : (t.setV l r w).idle = t.idle := rfl
@[simp] theorem Team.setV_acq (t : Team) (l r : Nat) (w : Word) : (t.setV l r w).acq = t.acq := rfl
@[simp] theorem Team.setV_wave (t : Team) (l r : Nat) (w : Word) : (t.setV l r w).wave = t.wave := rfl

@[simp] theorem Team.addStatus_part (t : Team) (x : Nat) : (t.addStatus x).part = t.part := rfl
@[simp] theorem Team.addStatus_ctx (t : Team) (x : Nat) : (t.addStatus x).ctx = t.ctx := rfl
@[simp] theorem Team.addStatus_core (t : Team) (x : Nat) : (t.addStatus x).core = t.core := rfl
@[simp] theorem Team.addStatus_slot (t : Team) (x : Nat) : (t.addStatus x).slot = t.slot := rfl
@[simp] theorem Team.addStatus_cluster (t : Team) (x : Nat) : (t.addStatus x).cluster = t.cluster := rfl
@[simp] theorem Team.addStatus_ccore (t : Team) (x : Nat) : (t.addStatus x).ccore = t.ccore := rfl
@[simp] theorem Team.addStatus_tid (t : Team) (x : Nat) : (t.addStatus x).tid = t.tid := rfl
@[simp] theorem Team.addStatus_cid (t : Team) (x : Nat) : (t.addStatus x).cid = t.cid := rfl
@[simp] theorem Team.addStatus_nteams (t : Team) (x : Nat) : (t.addStatus x).nteams = t.nteams := rfl
@[simp] theorem Team.addStatus_nlanes (t : Team) (x : Nat) : (t.addStatus x).nlanes = t.nlanes := rfl
@[simp] theorem Team.addStatus_nregs (t : Team) (x : Nat) : (t.addStatus x).nregs = t.nregs := rfl
@[simp] theorem Team.addStatus_role (t : Team) (x : Nat) : (t.addStatus x).role = t.role := rfl
@[simp] theorem Team.addStatus_vdie (t : Team) (x : Nat) : (t.addStatus x).vdie = t.vdie := rfl
@[simp] theorem Team.addStatus_place (t : Team) (x : Nat) : (t.addStatus x).place = t.place := rfl
@[simp] theorem Team.addStatus_pc (t : Team) (x : Nat) : (t.addStatus x).pc = t.pc := rfl
@[simp] theorem Team.addStatus_base (t : Team) (x : Nat) : (t.addStatus x).base = t.base := rfl
@[simp] theorem Team.addStatus_stage (t : Team) (x : Nat) : (t.addStatus x).stage = t.stage := rfl
@[simp] theorem Team.addStatus_clause (t : Team) (x : Nat) : (t.addStatus x).clause = t.clause := rfl
@[simp] theorem Team.addStatus_mode (t : Team) (x : Nat) : (t.addStatus x).mode = t.mode := rfl
@[simp] theorem Team.addStatus_sregs (t : Team) (x : Nat) : (t.addStatus x).sregs = t.sregs := rfl
@[simp] theorem Team.addStatus_masks (t : Team) (x : Nat) : (t.addStatus x).masks = t.masks := rfl
@[simp] theorem Team.addStatus_live (t : Team) (x : Nat) : (t.addStatus x).live = t.live := rfl
@[simp] theorem Team.addStatus_flags (t : Team) (x : Nat) : (t.addStatus x).flags = t.flags := rfl
@[simp] theorem Team.addStatus_vregs (t : Team) (x : Nat) : (t.addStatus x).vregs = t.vregs := rfl
@[simp] theorem Team.addStatus_spoilt (t : Team) (x : Nat) : (t.addStatus x).spoilt = t.spoilt := rfl
@[simp] theorem Team.addStatus_acwin (t : Team) (x : Nat) : (t.addStatus x).acwin = t.acwin := rfl
@[simp] theorem Team.addStatus_rowsAway (t : Team) (x : Nat) : (t.addStatus x).rowsAway = t.rowsAway := rfl
@[simp] theorem Team.addStatus_qregs (t : Team) (x : Nat) : (t.addStatus x).qregs = t.qregs := rfl
@[simp] theorem Team.addStatus_refill (t : Team) (x : Nat) : (t.addStatus x).refill = t.refill := rfl
@[simp] theorem Team.addStatus_abPc (t : Team) (x : Nat) : (t.addStatus x).abPc = t.abPc := rfl
@[simp] theorem Team.addStatus_abSum (t : Team) (x : Nat) : (t.addStatus x).abSum = t.abSum := rfl
@[simp] theorem Team.addStatus_abMask (t : Team) (x : Nat) : (t.addStatus x).abMask = t.abMask := rfl
@[simp] theorem Team.addStatus_swatch (t : Team) (x : Nat) : (t.addStatus x).swatch = t.swatch := rfl
@[simp] theorem Team.addStatus_popped (t : Team) (x : Nat) : (t.addStatus x).popped = t.popped := rfl
@[simp] theorem Team.addStatus_pushing (t : Team) (x : Nat) : (t.addStatus x).pushing = t.pushing := rfl
@[simp] theorem Team.addStatus_pushBad (t : Team) (x : Nat) : (t.addStatus x).pushBad = t.pushBad := rfl
@[simp] theorem Team.addStatus_pass (t : Team) (x : Nat) : (t.addStatus x).pass = t.pass := rfl
@[simp] theorem Team.addStatus_claimed (t : Team) (x : Nat) : (t.addStatus x).claimed = t.claimed := rfl
@[simp] theorem Team.addStatus_hold (t : Team) (x : Nat) : (t.addStatus x).hold = t.hold := rfl
@[simp] theorem Team.addStatus_trap (t : Team) (x : Nat) : (t.addStatus x).trap = t.trap := rfl
@[simp] theorem Team.addStatus_pend (t : Team) (x : Nat) : (t.addStatus x).pend = t.pend := rfl
@[simp] theorem Team.addStatus_redo (t : Team) (x : Nat) : (t.addStatus x).redo = t.redo := rfl
@[simp] theorem Team.addStatus_halted (t : Team) (x : Nat) : (t.addStatus x).halted = t.halted := rfl
@[simp] theorem Team.addStatus_debug (t : Team) (x : Nat) : (t.addStatus x).debug = t.debug := rfl
@[simp] theorem Team.addStatus_stopAt (t : Team) (x : Nat) : (t.addStatus x).stopAt = t.stopAt := rfl
@[simp] theorem Team.addStatus_age (t : Team) (x : Nat) : (t.addStatus x).age = t.age := rfl
@[simp] theorem Team.addStatus_passed (t : Team) (x : Nat) : (t.addStatus x).passed = t.passed := rfl
@[simp] theorem Team.addStatus_idle (t : Team) (x : Nat) : (t.addStatus x).idle = t.idle := rfl
@[simp] theorem Team.addStatus_acq (t : Team) (x : Nat) : (t.addStatus x).acq = t.acq := rfl
@[simp] theorem Team.addStatus_wave (t : Team) (x : Nat) : (t.addStatus x).wave = t.wave := rfl

@[simp] theorem Team.finish_part (t : Team) : t.finish.part = t.part := rfl
@[simp] theorem Team.finish_ctx (t : Team) : t.finish.ctx = t.ctx := rfl
@[simp] theorem Team.finish_core (t : Team) : t.finish.core = t.core := rfl
@[simp] theorem Team.finish_slot (t : Team) : t.finish.slot = t.slot := rfl
@[simp] theorem Team.finish_cluster (t : Team) : t.finish.cluster = t.cluster := rfl
@[simp] theorem Team.finish_ccore (t : Team) : t.finish.ccore = t.ccore := rfl
@[simp] theorem Team.finish_tid (t : Team) : t.finish.tid = t.tid := rfl
@[simp] theorem Team.finish_cid (t : Team) : t.finish.cid = t.cid := rfl
@[simp] theorem Team.finish_nteams (t : Team) : t.finish.nteams = t.nteams := rfl
@[simp] theorem Team.finish_nlanes (t : Team) : t.finish.nlanes = t.nlanes := rfl
@[simp] theorem Team.finish_nregs (t : Team) : t.finish.nregs = t.nregs := rfl
@[simp] theorem Team.finish_role (t : Team) : t.finish.role = t.role := rfl
@[simp] theorem Team.finish_vdie (t : Team) : t.finish.vdie = t.vdie := rfl
@[simp] theorem Team.finish_place (t : Team) : t.finish.place = t.place := rfl
@[simp] theorem Team.finish_pc (t : Team) : t.finish.pc = t.pc := rfl
@[simp] theorem Team.finish_base (t : Team) : t.finish.base = t.base := rfl
@[simp] theorem Team.finish_stage (t : Team) : t.finish.stage = t.stage := rfl
@[simp] theorem Team.finish_clause (t : Team) : t.finish.clause = t.clause := rfl
@[simp] theorem Team.finish_mode (t : Team) : t.finish.mode = t.mode := rfl
@[simp] theorem Team.finish_sregs (t : Team) : t.finish.sregs = t.sregs := rfl
@[simp] theorem Team.finish_masks (t : Team) : t.finish.masks = t.masks := rfl
@[simp] theorem Team.finish_live (t : Team) : t.finish.live = t.live := rfl
@[simp] theorem Team.finish_flags (t : Team) : t.finish.flags = t.flags := rfl
@[simp] theorem Team.finish_vregs (t : Team) : t.finish.vregs = t.vregs := rfl
@[simp] theorem Team.finish_spoilt (t : Team) : t.finish.spoilt = t.spoilt := rfl
@[simp] theorem Team.finish_acwin (t : Team) : t.finish.acwin = t.acwin := rfl
@[simp] theorem Team.finish_rowsAway (t : Team) : t.finish.rowsAway = t.rowsAway := rfl
@[simp] theorem Team.finish_qregs (t : Team) : t.finish.qregs = t.qregs := rfl
@[simp] theorem Team.finish_refill (t : Team) : t.finish.refill = t.refill := rfl
@[simp] theorem Team.finish_status (t : Team) : t.finish.status = t.status := rfl
@[simp] theorem Team.finish_abPc (t : Team) : t.finish.abPc = t.abPc := rfl
@[simp] theorem Team.finish_abSum (t : Team) : t.finish.abSum = t.abSum := rfl
@[simp] theorem Team.finish_abMask (t : Team) : t.finish.abMask = t.abMask := rfl
@[simp] theorem Team.finish_swatch (t : Team) : t.finish.swatch = t.swatch := rfl
@[simp] theorem Team.finish_pushing (t : Team) : t.finish.pushing = t.pushing := rfl
@[simp] theorem Team.finish_pushBad (t : Team) : t.finish.pushBad = t.pushBad := rfl
@[simp] theorem Team.finish_hold (t : Team) : t.finish.hold = t.hold := rfl
@[simp] theorem Team.finish_trap (t : Team) : t.finish.trap = t.trap := rfl
@[simp] theorem Team.finish_pend (t : Team) : t.finish.pend = t.pend := rfl
@[simp] theorem Team.finish_halted (t : Team) : t.finish.halted = t.halted := rfl
@[simp] theorem Team.finish_debug (t : Team) : t.finish.debug = t.debug := rfl
@[simp] theorem Team.finish_age (t : Team) : t.finish.age = t.age := rfl
@[simp] theorem Team.finish_passed (t : Team) : t.finish.passed = t.passed := rfl
@[simp] theorem Team.finish_idle (t : Team) : t.finish.idle = t.idle := rfl
@[simp] theorem Team.finish_acq (t : Team) : t.finish.acq = t.acq := rfl
@[simp] theorem Team.finish_wave (t : Team) : t.finish.wave = t.wave := rfl

@[simp] theorem Team.goto_part (t : Team) (a : Word) : (t.goto a).part = t.part := rfl
@[simp] theorem Team.goto_ctx (t : Team) (a : Word) : (t.goto a).ctx = t.ctx := rfl
@[simp] theorem Team.goto_core (t : Team) (a : Word) : (t.goto a).core = t.core := rfl
@[simp] theorem Team.goto_slot (t : Team) (a : Word) : (t.goto a).slot = t.slot := rfl
@[simp] theorem Team.goto_cluster (t : Team) (a : Word) : (t.goto a).cluster = t.cluster := rfl
@[simp] theorem Team.goto_ccore (t : Team) (a : Word) : (t.goto a).ccore = t.ccore := rfl
@[simp] theorem Team.goto_tid (t : Team) (a : Word) : (t.goto a).tid = t.tid := rfl
@[simp] theorem Team.goto_cid (t : Team) (a : Word) : (t.goto a).cid = t.cid := rfl
@[simp] theorem Team.goto_nteams (t : Team) (a : Word) : (t.goto a).nteams = t.nteams := rfl
@[simp] theorem Team.goto_nlanes (t : Team) (a : Word) : (t.goto a).nlanes = t.nlanes := rfl
@[simp] theorem Team.goto_nregs (t : Team) (a : Word) : (t.goto a).nregs = t.nregs := rfl
@[simp] theorem Team.goto_role (t : Team) (a : Word) : (t.goto a).role = t.role := rfl
@[simp] theorem Team.goto_vdie (t : Team) (a : Word) : (t.goto a).vdie = t.vdie := rfl
@[simp] theorem Team.goto_place (t : Team) (a : Word) : (t.goto a).place = t.place := rfl
@[simp] theorem Team.goto_clause (t : Team) (a : Word) : (t.goto a).clause = t.clause := rfl
@[simp] theorem Team.goto_mode (t : Team) (a : Word) : (t.goto a).mode = t.mode := rfl
@[simp] theorem Team.goto_sregs (t : Team) (a : Word) : (t.goto a).sregs = t.sregs := rfl
@[simp] theorem Team.goto_masks (t : Team) (a : Word) : (t.goto a).masks = t.masks := rfl
@[simp] theorem Team.goto_live (t : Team) (a : Word) : (t.goto a).live = t.live := rfl
@[simp] theorem Team.goto_flags (t : Team) (a : Word) : (t.goto a).flags = t.flags := rfl
@[simp] theorem Team.goto_vregs (t : Team) (a : Word) : (t.goto a).vregs = t.vregs := rfl
@[simp] theorem Team.goto_spoilt (t : Team) (a : Word) : (t.goto a).spoilt = t.spoilt := rfl
@[simp] theorem Team.goto_acwin (t : Team) (a : Word) : (t.goto a).acwin = t.acwin := rfl
@[simp] theorem Team.goto_rowsAway (t : Team) (a : Word) : (t.goto a).rowsAway = t.rowsAway := rfl
@[simp] theorem Team.goto_qregs (t : Team) (a : Word) : (t.goto a).qregs = t.qregs := rfl
@[simp] theorem Team.goto_refill (t : Team) (a : Word) : (t.goto a).refill = t.refill := rfl
@[simp] theorem Team.goto_status (t : Team) (a : Word) : (t.goto a).status = t.status := rfl
@[simp] theorem Team.goto_abPc (t : Team) (a : Word) : (t.goto a).abPc = t.abPc := rfl
@[simp] theorem Team.goto_abSum (t : Team) (a : Word) : (t.goto a).abSum = t.abSum := rfl
@[simp] theorem Team.goto_abMask (t : Team) (a : Word) : (t.goto a).abMask = t.abMask := rfl
@[simp] theorem Team.goto_swatch (t : Team) (a : Word) : (t.goto a).swatch = t.swatch := rfl
@[simp] theorem Team.goto_popped (t : Team) (a : Word) : (t.goto a).popped = t.popped := rfl
@[simp] theorem Team.goto_pushing (t : Team) (a : Word) : (t.goto a).pushing = t.pushing := rfl
@[simp] theorem Team.goto_pushBad (t : Team) (a : Word) : (t.goto a).pushBad = t.pushBad := rfl
@[simp] theorem Team.goto_pass (t : Team) (a : Word) : (t.goto a).pass = t.pass := rfl
@[simp] theorem Team.goto_claimed (t : Team) (a : Word) : (t.goto a).claimed = t.claimed := rfl
@[simp] theorem Team.goto_hold (t : Team) (a : Word) : (t.goto a).hold = t.hold := rfl
@[simp] theorem Team.goto_trap (t : Team) (a : Word) : (t.goto a).trap = t.trap := rfl
@[simp] theorem Team.goto_pend (t : Team) (a : Word) : (t.goto a).pend = t.pend := rfl
@[simp] theorem Team.goto_redo (t : Team) (a : Word) : (t.goto a).redo = t.redo := rfl
@[simp] theorem Team.goto_halted (t : Team) (a : Word) : (t.goto a).halted = t.halted := rfl
@[simp] theorem Team.goto_debug (t : Team) (a : Word) : (t.goto a).debug = t.debug := rfl
@[simp] theorem Team.goto_stopAt (t : Team) (a : Word) : (t.goto a).stopAt = t.stopAt := rfl
@[simp] theorem Team.goto_age (t : Team) (a : Word) : (t.goto a).age = t.age := rfl
@[simp] theorem Team.goto_passed (t : Team) (a : Word) : (t.goto a).passed = t.passed := rfl
@[simp] theorem Team.goto_idle (t : Team) (a : Word) : (t.goto a).idle = t.idle := rfl
@[simp] theorem Team.goto_acq (t : Team) (a : Word) : (t.goto a).acq = t.acq := rfl
@[simp] theorem Team.goto_wave (t : Team) (a : Word) : (t.goto a).wave = t.wave := rfl

@[simp] theorem State.team_setTeam_same (s : State) (i : Nat) (t : Team) : (s.setTeam i t).team i = some t := recFind_cellPut_same _ _ _
theorem State.team_setTeam_ne (s : State) (i j : Nat) (t : Team) (h : i ≠ j) : (s.setTeam i t).team j = s.team j := recFind_cellPut_ne _ _ _ _ h
@[simp] theorem State.setTeam_setTeam (s : State) (i : Nat) (t u : Team) : (s.setTeam i t).setTeam i u = s.setTeam i u := by
  simp [State.setTeam, cellPut_cellPut]
@[simp] theorem State.modTeam_setTeam (s : State) (i : Nat) (t : Team) (f : Team → Team) : (s.setTeam i t).modTeam i f = s.setTeam i (f t) := by
  simp [State.modTeam]
@[simp] theorem State.op_setOp_same (s : State) (o : Nat) (x : Op) : (s.setOp o x).op o = some x := recFind_cellPut_same _ _ _
theorem State.op_setOp_ne (s : State) (o p : Nat) (x : Op) (h : o ≠ p) : (s.setOp o x).op p = s.op p := recFind_cellPut_ne _ _ _ _ h
@[simp] theorem State.setOp_setOp (s : State) (o : Nat) (x y : Op) : (s.setOp o x).setOp o y = s.setOp o y := by
  simp [State.setOp, cellPut_cellPut]
@[simp] theorem State.ctx_setCtx_same (s : State) (p c : Nat) (x : Ctx) : (s.setCtx p c x).ctx p c = x := cellGet_cellPut_same _ _ _ _
@[simp] theorem State.part_setPart_same (s : State) (p : Nat) (x : Part) : (s.setPart p x).part p = x := cellGet_cellPut_same _ _ _ _
@[simp] theorem State.core_setCore_same (s : State) (n : Nat) (x : CoreSt) : (s.setCore n x).core n = x := cellGet_cellPut_same _ _ _ _

/-- The lists of teams do not depend on another field. -/
theorem State.modTeam_of_team (s : State) (i : Nat) (t : Team) (f : Team → Team) (h : s.team i = some t) : s.modTeam i f = s.setTeam i (f t) := by
  simp [State.modTeam, h]

end Sys2Proof.Machine
end

