-- ==== Sys2Proof/Laws/Issue.lean ====
section
/-! SUPPORT. Laws of issue: what an instruction that has passed its checks and read its operands comes to (R55, R66, R83). -/

namespace Sys2Proof.Machine

open Sys2Proof

theorem issue_of (s : State) (i : Nat) (t : Team) (h : Issues s i t) (body : Nat → Team → State → Res) :
    issue s body = .next (settle i t (body i t { s with cur := none })) := by
  simp only [issue, h.1, h.2]

/-- Pops change the FIFOs and the words popped, nothing else of a team. -/
theorem popAll_frame (ps : List Pop) : ∀ (t u : Team) (r : Except (BitVec 4) Unit), t.popAll ps = (r, u) →
    ∃ qr po, u = { t with qregs := qr, popped := po } := by
  induction ps with
  | nil =>
    intro t u r h
    obtain ⟨-, rfl⟩ := Prod.mk.inj h
    exact ⟨t.qregs, t.popped, rfl⟩
  | cons p ps ih =>
    intro t u r h
    unfold Team.popAll at h
    split at h
    · obtain ⟨-, rfl⟩ := Prod.mk.inj h
      exact ⟨t.qregs, t.popped, rfl⟩
    · obtain ⟨qr, po, rfl⟩ := ih _ _ _ h
      exact ⟨qr, po, rfl⟩

/-- What an instruction has read leaves everything of its team but the FIFOs and the words popped. -/
theorem reads_frame {t u : Team} {pops : List Pop} {q : Nat → Nat → Word} (h : Reads t pops u q) :
    ∃ qr po, u = { t with qregs := qr, popped := po } := by
  unfold Reads at h
  split at h
  · obtain ⟨rfl, -⟩ := h
    exact ⟨_, _, rfl⟩
  · exact popAll_frame _ _ _ _ h.1

theorem reads_ty {t u : Team} {pops : List Pop} {q : Nat → Nat → Word} (h : Reads t pops u q) : u.ty = t.ty := by
  obtain ⟨_, _, rfl⟩ := reads_frame h
  rfl
theorem reads_rnd {t u : Team} {pops : List Pop} {q : Nat → Nat → Word} (h : Reads t pops u q) : u.rnd = t.rnd := by
  obtain ⟨_, _, rfl⟩ := reads_frame h
  rfl
theorem reads_flush {t u : Team} {pops : List Pop} {q : Nat → Nat → Word} (h : Reads t pops u q) : u.flush = t.flush := by
  obtain ⟨_, _, rfl⟩ := reads_frame h
  rfl
theorem reads_sat {t u : Team} {pops : List Pop} {q : Nat → Nat → Word} (h : Reads t pops u q) : u.sat = t.sat := by
  obtain ⟨_, _, rfl⟩ := reads_frame h
  rfl
theorem reads_active {t u : Team} {pops : List Pop} {q : Nat → Nat → Word} (h : Reads t pops u q) : u.active = t.active := by
  obtain ⟨_, _, rfl⟩ := reads_frame h
  rfl
theorem reads_eff {t u : Team} {pops : List Pop} {q : Nat → Nat → Word} (h : Reads t pops u q) : u.eff = t.eff := by
  obtain ⟨_, _, rfl⟩ := reads_frame h
  rfl
theorem reads_nlanes {t u : Team} {pops : List Pop} {q : Nat → Nat → Word} (h : Reads t pops u q) : u.nlanes = t.nlanes := by
  obtain ⟨_, _, rfl⟩ := reads_frame h
  rfl
theorem reads_fall {t u : Team} {pops : List Pop} {q : Nat → Nat → Word} (h : Reads t pops u q) : u.fall = t.fall := by
  obtain ⟨_, _, rfl⟩ := reads_frame h
  rfl
theorem reads_v {t u : Team} {pops : List Pop} {q : Nat → Nat → Word} (h : Reads t pops u q) : u.v = t.v := by
  obtain ⟨_, _, rfl⟩ := reads_frame h
  rfl
theorem reads_s {t u : Team} {pops : List Pop} {q : Nat → Nat → Word} (h : Reads t pops u q) : u.s = t.s := by
  obtain ⟨_, _, rfl⟩ := reads_frame h
  rfl
theorem reads_m {t u : Team} {pops : List Pop} {q : Nat → Nat → Word} (h : Reads t pops u q) : u.m = t.m := by
  obtain ⟨_, _, rfl⟩ := reads_frame h
  rfl
theorem reads_setFlag {t u : Team} {pops : List Pop} {q : Nat → Nat → Word} (h : Reads t pops u q) (b : Bool) : u.setFlag b = t.setFlag b := by
  obtain ⟨_, _, rfl⟩ := reads_frame h
  rfl
theorem reads_src {t u : Team} {pops : List Pop} {q : Nat → Nat → Word} (h : Reads t pops u q) (s : State) (a : Sel) (l : Nat) (w : Word) : s.src u a l w = s.src t a l w := by
  obtain ⟨_, _, rfl⟩ := reads_frame h
  rfl
theorem reads_scalar {t u : Team} {pops : List Pop} {q : Nat → Nat → Word} (h : Reads t pops u q) (s : State) (a : Sel) (w : Word) : s.scalar u a w = s.scalar t a w := by
  obtain ⟨_, _, rfl⟩ := reads_frame h
  rfl
theorem reads_elem {t u : Team} {pops : List Pop} {q : Nat → Nat → Word} (h : Reads t pops u q) (s : State) (y : Ty) (a : Sel) (l : Nat) (w : Word) : s.elem u y a l w = s.elem t y a l w := by
  obtain ⟨_, _, rfl⟩ := reads_frame h
  rfl
theorem reads_flagFull {t u : Team} {pops : List Pop} {q : Nat → Nat → Word} (h : Reads t pops u q) (f : Option Nat) : u.flagFull f = t.flagFull f := by
  obtain ⟨_, _, rfl⟩ := reads_frame h
  rfl
theorem reads_pair {t u : Team} {pops : List Pop} {q : Nat → Nat → Word} (h : Reads t pops u q) : u.pair = t.pair := by
  obtain ⟨_, _, rfl⟩ := reads_frame h
  rfl
theorem reads_pc {t u : Team} {pops : List Pop} {q : Nat → Nat → Word} (h : Reads t pops u q) : u.pc = t.pc := by
  obtain ⟨_, _, rfl⟩ := reads_frame h
  rfl
theorem reads_acqScope {t u : Team} {pops : List Pop} {q : Nat → Nat → Word} (h : Reads t pops u q) : u.acqScope = t.acqScope := by
  obtain ⟨_, _, rfl⟩ := reads_frame h
  rfl
theorem reads_relScope {t u : Team} {pops : List Pop} {q : Nat → Nat → Word} (h : Reads t pops u q) : u.relScope = t.relScope := by
  obtain ⟨_, _, rfl⟩ := reads_frame h
  rfl
theorem reads_releases {t u : Team} {pops : List Pop} {q : Nat → Nat → Word} (h : Reads t pops u q) : u.releases = t.releases := by
  obtain ⟨_, _, rfl⟩ := reads_frame h
  rfl
theorem reads_lit {t u : Team} {pops : List Pop} {q : Nat → Nat → Word} (h : Reads t pops u q) : u.lit = t.lit := by
  obtain ⟨_, _, rfl⟩ := reads_frame h
  rfl
theorem reads_litOk {t u : Team} {pops : List Pop} {q : Nat → Nat → Word} (h : Reads t pops u q) : u.litOk = t.litOk := by
  obtain ⟨_, _, rfl⟩ := reads_frame h
  rfl
theorem reads_mask {t u : Team} {pops : List Pop} {q : Nat → Nat → Word} (h : Reads t pops u q) (a : Sel) : u.mask a = t.mask a := by
  obtain ⟨_, _, rfl⟩ := reads_frame h
  rfl
theorem reads_scope {t u : Team} {pops : List Pop} {q : Nat → Nat → Word} (h : Reads t pops u q) : u.scope = t.scope := by
  obtain ⟨_, _, rfl⟩ := reads_frame h
  rfl
theorem reads_order {t u : Team} {pops : List Pop} {q : Nat → Nat → Word} (h : Reads t pops u q) : u.order = t.order := by
  obtain ⟨_, _, rfl⟩ := reads_frame h
  rfl
theorem reads_mode {t u : Team} {pops : List Pop} {q : Nat → Nat → Word} (h : Reads t pops u q) : u.mode = t.mode := by
  obtain ⟨_, _, rfl⟩ := reads_frame h
  rfl
theorem reads_part {t u : Team} {pops : List Pop} {q : Nat → Nat → Word} (h : Reads t pops u q) : u.part = t.part := by
  obtain ⟨_, _, rfl⟩ := reads_frame h
  rfl
theorem reads_ctx {t u : Team} {pops : List Pop} {q : Nat → Nat → Word} (h : Reads t pops u q) : u.ctx = t.ctx := by
  obtain ⟨_, _, rfl⟩ := reads_frame h
  rfl
theorem reads_core {t u : Team} {pops : List Pop} {q : Nat → Nat → Word} (h : Reads t pops u q) : u.core = t.core := by
  obtain ⟨_, _, rfl⟩ := reads_frame h
  rfl
theorem reads_cluster {t u : Team} {pops : List Pop} {q : Nat → Nat → Word} (h : Reads t pops u q) : u.cluster = t.cluster := by
  obtain ⟨_, _, rfl⟩ := reads_frame h
  rfl
theorem reads_nregs {t u : Team} {pops : List Pop} {q : Nat → Nat → Word} (h : Reads t pops u q) : u.nregs = t.nregs := by
  obtain ⟨_, _, rfl⟩ := reads_frame h
  rfl
theorem reads_vs {t u : Team} {pops : List Pop} {q : Nat → Nat → Word} (h : Reads t pops u q) : u.vs = t.vs := by
  obtain ⟨_, _, rfl⟩ := reads_frame h
  funext l r n
  induction n generalizing r with
  | zero => rfl
  | succ n ih =>
    simp only [Team.vs, ih]
    rfl

theorem scalar_after (s : State) (i : Nat) (u v : Team) (pops : List Pop) (a : Sel) (w : Word) :
    (s.after i u pops).scalar v a w = s.scalar v a w := by
  unfold State.after
  split <;> rfl
theorem src_after (s : State) (i : Nat) (u v : Team) (pops : List Pop) (a : Sel) (l : Nat) (w : Word) :
    (s.after i u pops).src v a l w = s.src v a l w := by
  unfold State.after
  split <;> rfl
theorem elem_after (s : State) (i : Nat) (u v : Team) (pops : List Pop) (y : Ty) (a : Sel) (l : Nat) (w : Word) :
    (s.after i u pops).elem v y a l w = s.elem v y a l w := by
  unfold State.after
  split <;> rfl

/-- An instruction that has read its operands: its effect on the team with its popped words taken. -/
theorem withPops_of (s : State) (i : Nat) (t u : Team) (q : Nat → Nat → Word) (pops : List Pop) (k : Team → (Nat → Nat → Word) → State → Res)
    (hr : Reads t pops u q) : withPops i t { s with cur := none } pops k = k u q (s.after i u pops) := by
  unfold Reads at hr
  unfold State.after
  split at hr
  · rename_i hp
    obtain ⟨rfl, rfl⟩ := hr
    subst hp
    rfl
  · rename_i hp
    obtain ⟨hp1, rfl⟩ := hr
    cases pops with
    | nil => exact absurd rfl hp
    | cons p ps => simp [withPops, hp1]

/-- An instruction that executes once, past its checks: its effect on the team with its popped words taken. -/
theorem once_of (s : State) (i : Nat) (t u : Team) (q : Nat → Nat → Word) (h : Issues s i t)
    (checks : Team → State → List (Option Cause)) (ss : List (Nat × Sel)) (eff : Nat → Team → (Nat → Word) → State → Res)
    (hc : firstCause (checks t { s with cur := none } ++ ss.map fun f => t.popCheck f.2) = none)
    (hr : Reads t (popsOnce ss) u q) :
    once s checks ss eff = .next (settle i t (eff i u (fun f => q f 0)
      (if popsOnce ss = [] then { s with cur := none } else ({ s with cur := none } : State).setTeam i u))) := by
  rw [once, issue_of s i t h, hc]
  exact congrArg (fun r => Host.Outcome.next (settle i t r)) (withPops_of s i t u q _ _ hr)

/-- A vector instruction past its checks, with lanes that take part: its effect on the team with its popped words taken. -/
theorem sweepOn_of (s : State) (i : Nat) (t u : Team) (q : Nat → Nat → Word) (h : Issues s i t)
    (checks : Team → State → List (Option Cause)) (ss : List Sel) (lanes : Team → List Nat) (pops : Team → List Pop)
    (eff : Nat → Team → (Nat → Nat → Word) → State → Res)
    (hc : firstCause (checks t { s with cur := none } ++ ss.map fun a => t.popCheck a) = none)
    (hl : (lanes t).isEmpty = false) (hr : Reads t (pops t) u q) :
    sweepOn s checks ss lanes pops eff = .next (settle i t (eff i u q
      (if pops t = [] then { s with cur := none } else ({ s with cur := none } : State).setTeam i u))) := by
  rw [sweepOn, issue_of s i t h, hc]
  simp only [hl, Bool.false_eq_true, if_false]
  exact congrArg (fun r => Host.Outcome.next (settle i t r)) (withPops_of s i t u q _ _ hr)

/-- The same, with the state in which it takes effect named. -/
theorem once_after (s : State) (i : Nat) (t u : Team) (q : Nat → Nat → Word) (h : Issues s i t)
    (checks : Team → State → List (Option Cause)) (ss : List (Nat × Sel)) (eff : Nat → Team → (Nat → Word) → State → Res)
    (hc : firstCause (checks t { s with cur := none } ++ ss.map fun f => t.popCheck f.2) = none) (hr : Reads t (popsOnce ss) u q) :
    once s checks ss eff = .next (settle i t (eff i u (fun f => q f 0) (s.after i u (popsOnce ss)))) := once_of s i t u q h checks ss eff hc hr

/-- The same for a vector instruction. -/
theorem sweepOn_after (s : State) (i : Nat) (t u : Team) (q : Nat → Nat → Word) (h : Issues s i t)
    (checks : Team → State → List (Option Cause)) (ss : List Sel) (lanes : Team → List Nat) (pops : Team → List Pop)
    (eff : Nat → Team → (Nat → Nat → Word) → State → Res)
    (hc : firstCause (checks t { s with cur := none } ++ ss.map fun a => t.popCheck a) = none)
    (hl : (lanes t).isEmpty = false) (hr : Reads t (pops t) u q) :
    sweepOn s checks ss lanes pops eff = .next (settle i t (eff i u q (s.after i u (pops t)))) :=
  sweepOn_of s i t u q h checks ss lanes pops eff hc hl hr

/-- An instruction whose passes go one after the other, past its checks, with every entry that it pops there and room for its results. -/
theorem sweepTo_after (s : State) (i : Nat) (t u : Team) (q : Nat → Nat → Word) (h : Issues s i t)
    (checks : Team → State → List (Option Cause)) (lanes : Team → List Nat) (d : Sel) (ss : List (Nat × Sel))
    (eff : Nat → Team → List Nat → (Nat → Nat → Word) → State → Res)
    (hc : firstCause (checks t { s with cur := none } ++ (ss.map (·.2)).map fun a => t.popCheck a) = none)
    (hl : (lanes t).isEmpty = false) (hr : Reads t (popsLanes (lanes t) ss) u q) (hd : u.takesAll d (lanes t).length) :
    sweepTo s checks lanes d ss eff = .next (settle i t (eff i u (lanes u) q (s.after i u (popsLanes (lanes t) ss)))) := by
  cases d with
  | q n =>
    have ha : t.atOnce n (popsLanes (lanes t) ss) (lanes t).length = true := by
      obtain ⟨hb, hf, -, -, hz⟩ := hd
      have hz' : t.pass = 0 := by
        obtain ⟨_, _, rfl⟩ := reads_frame hr
        exact hz
      unfold Reads at hr
      split at hr
      · rename_i hp
        simp [Team.atOnce, hp]
      · simp [Team.atOnce, hr.1, hb, hf, hz']
    simp only [sweepTo, issue_of s i t h, hc, hl, Bool.false_eq_true, if_false, ha, if_true]
    exact congrArg (fun r => Host.Outcome.next (settle i t r)) (withPops_of s i t u q _ _ hr)
  | _ => exact sweepOn_after s i t u q h _ _ _ _ _ hc hl hr

/-- Such an instruction in which no lane takes part does nothing more (R65). -/
theorem sweepTo_none (s : State) (i : Nat) (t : Team) (h : Issues s i t)
    (checks : Team → State → List (Option Cause)) (lanes : Team → List Nat) (d : Sel) (ss : List (Nat × Sel))
    (eff : Nat → Team → List Nat → (Nat → Nat → Word) → State → Res)
    (hc : firstCause (checks t { s with cur := none } ++ (ss.map (·.2)).map fun a => t.popCheck a) = none) (hl : (lanes t).isEmpty = true) :
    sweepTo s checks lanes d ss eff = .next (settle i t (.ok { s with cur := none })) := by
  cases d <;> simp only [sweepTo, sweepOn, issue_of s i t h, hc, hl, if_true]

@[simp] theorem unpopped_ok (s i t ps pre) : (Res.ok s).unpopped i t ps pre = .ok s := rfl
@[simp] theorem unpopped_jump (s a i t ps pre) : (Res.jump s a).unpopped i t ps pre = .jump s a := rfl
@[simp] theorem unpopped_push (s q ws i t ps pre) : (Res.push s q ws).unpopped i t ps pre = .push s q ws := rfl
@[simp] theorem unpopped_stay (s i t ps pre) : (Res.stay s).unpopped i t ps pre = .stay s := rfl
@[simp] theorem unpopped_hold (h s i t ps pre) : (Res.hold h s).unpopped i t ps pre = .hold h s := rfl
@[simp] theorem unpopped_putScalar (i u s d w j t ps pre) : (putScalar i u s d w).unpopped j t ps pre = putScalar i u s d w := by cases d <;> rfl
@[simp] theorem unpopped_nil (r : Res) (i t pre) : r.unpopped i t [] pre = r := by cases r <;> rfl

/-- What an instruction whose checks need no popped value does with its operands read: its effect on the team with its popped words taken. -/
theorem withPopsAfter_of (s : State) (i : Nat) (t u : Team) (q : Nat → Nat → Word) (pops : List Pop) (pre : Nat → Team → State → Res)
    (k : Team → (Nat → Nat → Word) → State → Res) (hr : Reads t pops u q) :
    withPopsAfter i t { s with cur := none } pops pre k = (k u q (s.after i u pops)).unpopped i t pops (pre i t { s with cur := none }) := by
  unfold Reads at hr
  unfold State.after
  split at hr
  · rename_i hp
    obtain ⟨rfl, rfl⟩ := hr
    subst hp
    rw [unpopped_nil]
    rfl
  · rename_i hp
    obtain ⟨hp1, rfl⟩ := hr
    cases pops with
    | nil => exact absurd rfl hp
    | cons p ps => simp [withPopsAfter, hp1]

/-- An instruction that executes once and takes handles, past its checks. -/
theorem onceAfter_after (s : State) (i : Nat) (t u : Team) (q : Nat → Nat → Word) (h : Issues s i t)
    (checks : Team → State → List (Option Cause)) (ss : List (Nat × Sel)) (pre : Nat → Team → State → Res)
    (eff : Nat → Team → (Nat → Word) → State → Res)
    (hc : firstCause (checks t { s with cur := none } ++ ss.map fun f => t.popCheck f.2) = none) (hr : Reads t (popsOnce ss) u q) :
    onceAfter s checks ss pre eff = .next (settle i t ((eff i u (fun f => q f 0) (s.after i u (popsOnce ss))).unpopped i t (popsOnce ss)
      (pre i t { s with cur := none }))) := by
  rw [onceAfter, issue_of s i t h, hc]
  exact congrArg (fun r => Host.Outcome.next (settle i t r)) (withPopsAfter_of s i t u q _ _ _ hr)

/-- A vector instruction that takes a handle, past its checks. -/
theorem sweepHandle_after (s : State) (i : Nat) (t u : Team) (q : Nat → Nat → Word) (h : Issues s i t)
    (checks : Team → State → List (Option Cause)) (a : Sel) (ss : List Sel) (pops : Team → List Pop)
    (eff : Nat → Team → (Nat → Nat → Word) → State → Res) (pre : Nat → Team → State → Res)
    (hc : firstCause (checks t { s with cur := none } ++ ss.map fun a => t.popCheck a) = none)
    (hl : t.active.isEmpty = false) (hr : Reads t (pops t) u q) :
    sweepHandle s checks a ss pops eff pre = .next (settle i t ((eff i u q (s.after i u (pops t))).unpopped i t (pops t)
      (pre i t { s with cur := none }))) := by
  rw [sweepHandle, issue_of s i t h, hc]
  simp only [hl, Bool.false_eq_true, if_false]
  exact congrArg (fun r => Host.Outcome.next (settle i t r)) (withPopsAfter_of s i t u q _ _ _ hr)

/-- A vector instruction that checks before it waits for a popped word, past its checks. -/
theorem sweepPre_after (s : State) (i : Nat) (t u : Team) (q : Nat → Nat → Word) (h : Issues s i t)
    (checks : Team → State → List (Option Cause)) (ss : List Sel) (pops : Team → List Pop) (pre : Nat → Team → State → Res)
    (eff : Nat → Team → (Nat → Nat → Word) → State → Res)
    (hc : firstCause (checks t { s with cur := none } ++ ss.map fun a => t.popCheck a) = none)
    (hl : t.active.isEmpty = false) (hr : Reads t (pops t) u q) :
    sweepPre s checks ss pops pre eff = .next (settle i t ((eff i u q (s.after i u (pops t))).unpopped i t (pops t)
      (pre i t { s with cur := none }))) := by
  rw [sweepPre, issue_of s i t h, hc]
  simp only [hl, Bool.false_eq_true, if_false]
  exact congrArg (fun r => Host.Outcome.next (settle i t r)) (withPopsAfter_of s i t u q _ _ _ hr)

/-- A vector instruction past its checks in which no lane takes part does nothing more (R65). -/
theorem sweepOn_none (s : State) (i : Nat) (t : Team) (h : Issues s i t)
    (checks : Team → State → List (Option Cause)) (ss : List Sel) (lanes : Team → List Nat) (pops : Team → List Pop)
    (eff : Nat → Team → (Nat → Nat → Word) → State → Res)
    (hc : firstCause (checks t { s with cur := none } ++ ss.map fun a => t.popCheck a) = none) (hl : (lanes t).isEmpty = true) :
    sweepOn s checks ss lanes pops eff = .next (settle i t (.ok { s with cur := none })) := by
  rw [sweepOn, issue_of s i t h, hc]
  simp [hl]

/-- What a settled effect on the team's record alone leaves. -/
theorem settle_setTeam (s : State) (i : Nat) (t u : Team) : settle i t (.ok (({ s with cur := none } : State).setTeam i u)) = s.done i u := by
  simp [settle, State.done]

/-- An instruction that does nothing more leaves its team past it, and nothing else (R65). -/
theorem settle_none (s : State) (i : Nat) (t : Team) (h : Issues s i t) : settle i t (.ok { s with cur := none }) = s.done i t := by
  have : ({ s with cur := none } : State).team i = some t := h.2
  simp [settle, State.modTeam, this, State.done]

theorem settle_setTeam_if (s : State) (i : Nat) (t u v : Team) (p : Prop) [Decidable p] :
    settle i t (.ok ((if p then ({ s with cur := none } : State) else ({ s with cur := none } : State).setTeam i v).setTeam i u)) = s.done i u := by
  split <;> simp [settle, State.done]

theorem settle_jump_if (s : State) (i : Nat) (t u v : Team) (a : Word) (p : Prop) [Decidable p] :
    settle i t (.jump ((if p then ({ s with cur := none } : State) else ({ s with cur := none } : State).setTeam i v).setTeam i u) a) = s.gone i u a := by
  split <;> simp [settle, State.gone]

/-- One word pushed into a private FIFO with room (R238). -/
theorem settle_push1 (s : State) (i : Nat) (t u : Team) (n : BitVec 4) (w : Word) (hb : (u.qregs[n.toNat]).bind = .fifo)
    (hl : (u.qregs[n.toNat]).fifo.length < Config.fifoDepth) (hp : u.pushing = none) (hq : u.pushBad = []) (hz : u.pass = 0) (l : Nat) :
    settle i t (.push (({ s with cur := none } : State).setTeam i u) n [(l, w)]) = s.done i (u.put (.q n) w) := by
  simp only [settle, State.pushGo, State.pushAll, State.push1, State.team_setTeam_same, hb, hl, if_true, State.modTeam_setTeam, State.pushEnd,
    hq, hz, ne_eq, not_true_eq_false, if_false, State.setTeam_setTeam, Team.put, State.done]
  rw [← hp]

/-- A scalar result written where it goes. -/
theorem settle_putScalar (s : State) (i : Nat) (t u v : Team) (d : Sel) (w : Word) (p : Prop) [Decidable p] (hd : u.takes d) :
    settle i t (putScalar i u (if p then ({ s with cur := none } : State) else ({ s with cur := none } : State).setTeam i v) d w) = s.done i (u.put d w) := by
  cases d with
  | s n => exact settle_setTeam_if s i t _ v p
  | q n =>
    obtain ⟨hb, hl, hp, hq, hz⟩ := hd
    have := settle_push1 s i t u n w hb hl hp hq hz noLane
    simp only [putScalar]
    split
    · exact this
    · simpa using this
  | sp x => exact settle_setTeam_if s i t u v p
  | _ => exact absurd hd (by simp [Team.takes])

/-- An effect on the team's record, in a state that reading records has changed. -/
theorem settle_ends (s : State) (i : Nat) (t u : Team) : settle i t (.ok (s.setTeam i u)) = s.ends i u := by
  simp [settle, State.ends]

/-- A scalar result written where it goes, in a state that reading records has changed. -/
theorem settle_put (s : State) (i : Nat) (t u : Team) (d : Sel) (w : Word) (hd : u.takes d) :
    settle i t (putScalar i u s d w) = s.ends i (u.put d w) := by
  cases d with
  | s n => exact settle_ends s i t _
  | q n =>
    obtain ⟨hb, hl, hp, hq, hz⟩ := hd
    simp only [putScalar, settle, State.pushGo, State.pushAll, State.push1, State.team_setTeam_same, hb, hl, if_true, State.modTeam_setTeam,
      State.pushEnd, hq, hz, ne_eq, not_true_eq_false, if_false, State.setTeam_setTeam, Team.put, State.ends]
    rw [← hp]
  | sp x => exact settle_ends s i t _
  | _ => exact absurd hd (by simp [Team.takes])

end Sys2Proof.Machine
end

