-- ==== Sys2Proof/Laws/Lanes.lean ====
section
/-! SUPPORT. Laws of the vector instructions: what each shared shape of Vector and Lanes gives past its checks, for every active lane. -/

namespace Sys2Proof.Machine

open Sys2Proof

theorem pushWords_nil (u : Team) (n : BitVec 4) : u.pushWords n [] = u := by
  have : u.qregs.set n.toNat u.qregs[n.toNat] n.isLt = u.qregs := Vector.set_getElem_self _
  simp [Team.pushWords, this]

/-- With no lane active nothing is popped or written (R65). -/
theorem popsLanes_nil (ss : List (Nat × Sel)) : popsLanes [] ss = [] := by
  simp [popsLanes]
theorem putV_nil (u : Team) (d : Sel) : u.putV d [] = u := by
  cases d <;> simp [Team.putV, pushWords_nil]
theorem putE_nil (u : Team) (y : Ty) (d : Sel) : u.putE y d [] = u := by
  cases d <;> simp [Team.putE, putV_nil, pushWords_nil]
theorem addStatus_zero (u : Team) : u.addStatus 0 = u := by
  simp [Team.addStatus]
theorem putF_none (u : Team) (d : Sel) (f : Nat → Nat × Nat) (h : u.active = []) : u.putF d f = u := by
  simp [Team.putF, h, orBits, addStatus_zero, putE_nil]
theorem putW_none (u : Team) (d : Sel) (f : Nat → Word × Nat) (h : u.active = []) : u.putW d f = u := by
  simp [Team.putW, h, addStatus_zero, putV_nil]
theorem reads_lanesNone {t u : Team} {ss : List (Nat × Sel)} {q : Nat → Nat → Word} (h : Reads t (popsLanes [] ss) u q) : u = t := by
  rw [popsLanes_nil] at h
  exact h.1

/-- Words pushed into a private FIFO with room for all of them (R238). -/
theorem pushAll_fifo (i : Nat) (n : BitVec 4) (ws : List (Nat × Word)) : ∀ (s : State) (u : Team), s.team i = some u →
    (u.qregs[n.toNat]).bind = .fifo → (u.qregs[n.toNat]).fifo.length + ws.length ≤ Config.fifoDepth →
    s.pushAll i n ws = .done (s.setTeam i { u.pushWords n (ws.map (·.2)) with pushing := none }) := by
  induction ws with
  | nil =>
    intro s u hs _ _
    simp [State.pushAll, State.modTeam, hs, pushWords_nil]
  | cons x ws ih =>
    intro s u hs hb hl
    simp only [List.length_cons] at hl
    have h1 : s.push1 i n x.2 = .ok (s.setTeam i (u.pushWords n [x.2])) := by
      simp [State.push1, hs, hb, State.modTeam, Team.pushWords, show (u.qregs[n.toNat]).fifo.length < Config.fifoDepth by omega]
    simp only [State.pushAll, h1]
    rw [ih _ (u.pushWords n [x.2]) (by simp)]
    · simp [Team.pushWords]
    · simp [Team.pushWords, hb]
    · simp [Team.pushWords]
      omega

theorem settle_pushAll (s : State) (i : Nat) (t u : Team) (n : BitVec 4) (ws : List (Nat × Word)) (h : u.takesAll (.q n) ws.length) :
    settle i t (.push (({ s with cur := none } : State).setTeam i u) n ws) = s.done i (u.pushWords n (ws.map (·.2))) := by
  obtain ⟨hb, hl, hp, hq, hz⟩ := h
  simp only [settle, State.pushGo, pushAll_fifo i n ws _ u (State.team_setTeam_same ..) hb hl, State.pushEnd, State.team_setTeam_same,
    Team.pushWords, hq, hz, ne_eq, not_true_eq_false, if_false, State.setTeam_setTeam, State.done]
  rw [← hp]

theorem settle_putLanes (s : State) (i : Nat) (t u v : Team) (d : Sel) (ws : List (Nat × Word)) (p : Prop) [Decidable p]
    (hd : u.takesAll d ws.length) :
    settle i t (putLanes i u (if p then ({ s with cur := none } : State) else ({ s with cur := none } : State).setTeam i v) d ws) =
      s.done i (u.putV d ws) := by
  cases d with
  | v r => exact settle_setTeam_if s i t _ v p
  | q n =>
    have := settle_pushAll s i t u n ws hd
    simp only [putLanes]
    split
    · exact this
    · rw [State.setTeam_setTeam]
      exact this
  | sp x => exact settle_setTeam_if s i t u v p
  | _ => exact absurd hd (by simp [Team.takesAll])

theorem settle_putElems (s : State) (i : Nat) (t u v : Team) (y : Ty) (d : Sel) (ws : List (Nat × Nat)) (p : Prop) [Decidable p]
    (hd : u.takesAll d ws.length) :
    settle i t (putElems i u (if p then ({ s with cur := none } : State) else ({ s with cur := none } : State).setTeam i v) y d ws) =
      s.done i (u.putE y d ws) := by
  cases d with
  | v r =>
    simp only [putElems, settle_setTeam_if]
    cases hw : y.wide <;> simp [Team.putE, Team.putV, hw, List.foldl_map]
  | q n =>
    have := settle_pushAll s i t u n (ws.map fun x => (x.1, BitVec.ofNat 32 x.2)) (by simpa using hd)
    simp only [putElems]
    have e : u.pushWords n ((ws.map fun x => (x.1, BitVec.ofNat 32 x.2)).map (·.2)) = u.putE y (.q n) ws := by
      cases hw : y.wide <;> simp [Team.putE, Team.putV, hw, Function.comp_def]
    rw [e] at this
    split
    · exact this
    · simpa using this
  | sp x =>
    simp only [putElems, settle_setTeam_if]
    cases hw : y.wide <;> simp [Team.putE, Team.putV, hw]
  | _ => exact absurd hd (by simp [Team.takesAll])

theorem elem_if (s : State) (i : Nat) (u v : Team) (y : Ty) (a : Sel) (l : Nat) (w : Word) (p : Prop) [Decidable p] :
    (if p then ({ s with cur := none } : State) else ({ s with cur := none } : State).setTeam i v).elem u y a l w = s.elem u y a l w := by
  split <;> rfl

theorem src_if (s : State) (i : Nat) (u v : Team) (a : Sel) (l : Nat) (w : Word) (p : Prop) [Decidable p] :
    (if p then ({ s with cur := none } : State) else ({ s with cur := none } : State).setTeam i v).src u a l w = s.src u a l w := by
  split <;> rfl

theorem takesAll_addStatus (t : Team) (d : Sel) (n x : Nat) (h : t.takesAll d n) : (t.addStatus x).takesAll d n := by
  cases d <;> exact h

theorem firstCause_readable (t : Team) (ss : List (Nat × Sel)) (h : ∀ f ∈ ss, t.readable f.2) :
    firstCause ((ss.map (·.2)).map fun a => t.popCheck a) = none := by
  induction ss with
  | nil => rfl
  | cons f ss ih =>
    have h1 : t.popCheck f.2 = none := h f (by simp)
    simp only [List.map_cons, h1, firstCause]
    exact ih fun g hg => h g (by simp [hg])

/-- The element that a source field of a list gives a lane. -/
def elemOf (s : State) (u : Team) (ss : List (Nat × Sel)) (q : Nat → Nat → Word) (l fld : Nat) : Nat :=
  match ss.find? (·.1 == fld) with
  | some a => s.elem u u.ty a.2 l (q fld l)
  | none => 0

theorem laneOp_of (s : State) (i : Nat) (t u : Team) (q : Nat → Nat → Word) (d : Sel) (ss : List (Nat × Sel)) (ok : Ty → Bool)
    (f : Team → Ty → (Nat → Nat) → Nat × Nat) (h : Issues s i t) (hd : t.elemDst t.ty d = true)
    (hs : ss.all (t.elemSrc t.ty ·.2) = true) (hr : ∀ e ∈ ss, t.readable e.2) (hy : ok t.ty = true) (pd : t.pushCheck d = none)
    (hp : Reads t (popsLanes t.active ss) u q) (ht : u.takesAll d u.active.length) :
    laneOp s d ss ok f = .next (s.done i (u.putF d fun l => f u u.ty (elemOf s u ss q l))) := by
  unfold laneOp
  rcases hl : t.active.isEmpty with _ | _
  case true =>
    have h0 : t.active = [] := List.isEmpty_iff.mp hl
    obtain rfl := reads_lanesNone (h0 ▸ hp)
    rw [sweepTo_none s i u h _ _ _ _ _ ?_ hl, settle_none s i u h, putF_none _ _ _ h0]
    simp only [hd, hs, hy, pd, need, Bool.and_self, if_true, List.cons_append, List.nil_append, firstCause]
    exact firstCause_readable u ss hr
  rw [sweepTo_after s i t u q h _ _ _ _ _ ?_ hl hp (by rw [← reads_active hp]; exact ht)]
  · unfold State.after
    rw [settle_putElems _ _ _ _ _ _ _ _ _ (by simpa using takesAll_addStatus u d _ _ ht)]
    simp only [elem_if]
    rfl
  · simp only [hd, hs, hy, pd, need, Bool.and_self, if_true, List.cons_append, List.nil_append, firstCause]
    exact firstCause_readable t ss hr

theorem laneOpD_of (s : State) (i : Nat) (t u : Team) (q : Nat → Nat → Word) (r : BitVec 7) (ss : List (Nat × Sel)) (ok : Ty → Bool)
    (f : Team → Ty → (Nat → Nat) → Nat × Nat) (h : Issues s i t) (hd : t.elemDst t.ty (.v r) = true)
    (hs : ss.all (t.elemSrc t.ty ·.2) = true) (hr : ∀ e ∈ ss, t.readable e.2) (hy : ok t.ty = true)
    (hp : Reads t (popsLanes t.active ss) u q) :
    laneOpD s (.v r) ss ok f = .next (s.done i (u.putF (.v r) fun l => f u u.ty (elemOf s u ((2, .v r) :: ss) q l))) := by
  unfold laneOpD sweep
  rcases hl : t.active.isEmpty with _ | _
  case true =>
    have h0 : t.active = [] := List.isEmpty_iff.mp hl
    obtain rfl := reads_lanesNone (h0 ▸ hp)
    rw [sweepOn_none s i u h _ _ _ _ _ ?_ hl, settle_none s i u h, putF_none _ _ _ h0]
    simp only [vReadWrite, isV, hd, hs, hy, need, Bool.and_self, if_true, List.cons_append, List.nil_append, firstCause]
    exact firstCause_readable u ss hr
  rw [sweepOn_of s i t u q h _ _ _ _ _ ?_ hl hp]
  · rw [settle_putElems _ _ _ _ _ _ _ _ _ (by simp [Team.takesAll])]
    simp only [elem_if]
    rfl
  · simp only [vReadWrite, isV, hd, hs, hy, need, Bool.and_self, if_true, List.cons_append, List.nil_append, firstCause]
    exact firstCause_readable t ss hr

/-- The word that a source field of a list gives a lane. -/
def wordOf (s : State) (u : Team) (ss : List (Nat × Sel)) (q : Nat → Nat → Word) (l fld : Nat) : Word :=
  match ss.find? (·.1 == fld) with
  | some a => s.src u a.2 l (q fld l)
  | none => 0

theorem bitOp_of (s : State) (i : Nat) (t u : Team) (q : Nat → Nat → Word) (d : Sel) (ss : List (Nat × Sel)) (f : (Nat → Word) → Word)
    (h : Issues s i t) (hd : t.vectorDst d = true) (hs : ss.all (t.vectorSrc ·.2) = true)
    (hr : ∀ e ∈ ss, t.readable e.2) (pd : t.pushCheck d = none) (hp : Reads t (popsLanes t.active ss) u q)
    (ht : u.takesAll d u.active.length) :
    bitOp s d ss f = .next (s.done i (u.putV d (u.active.map fun l => (l, f (wordOf s u ss q l))))) := by
  unfold bitOp
  rcases hl : t.active.isEmpty with _ | _
  case true =>
    have h0 : t.active = [] := List.isEmpty_iff.mp hl
    obtain rfl := reads_lanesNone (h0 ▸ hp)
    rw [sweepTo_none s i u h _ _ _ _ _ ?_ hl, settle_none s i u h, h0, List.map_nil, putV_nil]
    simp only [hd, hs, pd, need, Bool.and_self, if_true, List.cons_append, List.nil_append, firstCause]
    exact firstCause_readable u ss hr
  rw [sweepTo_after s i t u q h _ _ _ _ _ ?_ hl hp (by rw [← reads_active hp]; exact ht)]
  · unfold State.after
    rw [settle_putLanes _ _ _ _ _ _ _ _ (by simpa using ht)]
    simp only [src_if]
    rfl
  · simp only [hd, hs, pd, need, Bool.and_self, if_true, List.cons_append, List.nil_append, firstCause]
    exact firstCause_readable t ss hr

theorem shiftOp_of (s : State) (i : Nat) (t u : Team) (q : Nat → Nat → Word) (d a b : Sel) (f : Ty → Nat → Nat → Int)
    (h : Issues s i t) (hd : t.elemDst t.ty d = true) (ha : t.elemSrc t.ty a = true)
    (hb : t.vectorSrc b = true) (ra : t.readable a) (rb : t.readable b) (hy : t.ty.shifts = true) (pd : t.pushCheck d = none)
    (hp : Reads t (popsLanes t.active [(0, a), (1, b)]) u q) (ht : u.takesAll d u.active.length) :
    shiftOp s d a b f = .next (s.done i (u.putE u.ty d (u.active.map fun l =>
      (l, u.ty.extend (f u.ty (s.elem u u.ty a l (q 0 l) % 2 ^ u.ty.width) (s.src u b l (q 1 l)).toNat))))) := by
  unfold shiftOp
  rcases hl : t.active.isEmpty with _ | _
  case true =>
    have h0 : t.active = [] := List.isEmpty_iff.mp hl
    obtain rfl := reads_lanesNone (h0 ▸ hp)
    rw [sweepTo_none s i u h _ _ _ _ _ ?_ hl, settle_none s i u h, h0, List.map_nil, putE_nil]
    simp only [hd, ha, hb, hy, pd, need, Bool.and_self, if_true, List.cons_append, List.nil_append, firstCause]
    exact firstCause_readable u [(0, a), (1, b)] (by simp [ra, rb])
  rw [sweepTo_after s i t u q h _ _ _ _ _ ?_ hl hp (by rw [← reads_active hp]; exact ht)]
  · unfold State.after
    rw [settle_putElems _ _ _ _ _ _ _ _ _ (by simpa using ht)]
    simp only [src_if, elem_if]
  · simp only [hd, ha, hb, hy, pd, need, Bool.and_self, if_true, List.cons_append, List.nil_append, firstCause]
    exact firstCause_readable t [(0, a), (1, b)] (by simp [ra, rb])

end Sys2Proof.Machine
end

