-- ==== Sys2Proof/Laws/Accesses.lean ====
section
/-! SUPPORT. Laws of the operations that instructions start: what each shared start gives once its flag has room and its accesses have started. -/

namespace Sys2Proof.Machine

open Sys2Proof

/-- The accesses that started are in flight on the flag, and the faulting ones are kept with their operation. -/
theorem startOp_of (s s2 : State) (i : Nat) (u : Team) (cls : Bool) (k : OpKind) (accs good : List Acc) (bad : List (LaneFault × Acc))
    (fill : Op → Op) (hf : u.flagFull (u.setFlag cls) = false) (hs : Starts s i u k.access accs good bad s2) :
    startOp i u s cls k accs fill = .ok (s2.enterOp i u (fill { opOf i u s2 (u.setFlag cls) k with accs := good }) bad) := by
  unfold startOp Starts at *
  simp only [hf, hs]
  rfl

/-- A plain store posts what its accesses that started write here; the others wait for their units. -/
theorem storeAccs_of (s s2 : State) (i : Nat) (u : Team) (single : Bool) (accs good : List Acc) (bad : List (LaneFault × Acc))
    (hf : u.flagFull (u.setFlag true) = false) (hrel : u.releases = none) (hs : Starts s i u .write accs good bad s2) :
    storeAccs i u s single accs = .ok ((s2.enterOp i u { opOf i u s2 (u.setFlag true) .store with
      mask := if single then 0 else u.eff, accs := (lastWriters good).filter (·.remoteDev.isSome) } bad).postAll i s2.stamp ((lastWriters good).filter (·.remoteDev.isNone))) := by
  unfold storeAccs Starts at *
  simp only [hf, hrel, hs]
  rfl

/-- A store whose posted entries have drained as its ordering asks: its lanes' bytes are posted, or sent on as a release (R135, R281, R284). -/
theorem storeAccs_go (s s1 s2 : State) (i : Nat) (u : Team) (single : Bool) (accs good : List Acc) (bad : List (LaneFault × Acc))
    (hf : u.flagFull (u.setFlag true) = false) (hd : DrainedFor s i u s1) (hs : s1.startAll i u .write accs = .ok good bad s2) :
    storeAccs i u s single accs = .ok (
      let x := { opOf i u s2 (u.setFlag true) .store with mask := if single then 0 else u.eff }
      match u.releases with
      | none => (s2.enterOp i u { x with accs := (lastWriters good).filter (·.remoteDev.isSome) } bad).postAll i s2.stamp
          ((lastWriters good).filter (·.remoteDev.isNone))
      | some sc => (s2.enterOp i u { x with accs := lastWriters good, rel := some sc } bad).sendAll i u s2.stamp sc 0 (lastWriters good)) := by
  unfold storeAccs DrainedFor at *
  cases hr : u.releases with
  | none =>
    simp only [hr, Option.isSome_none, Bool.false_eq_true, if_false] at hd
    subst hd
    simp only [hf, hs, Bool.false_eq_true, if_false]
  | some sc =>
    simp only [hr, Option.isSome_some, if_true] at hd
    simp only [hf, hd, hs, Bool.false_eq_true, if_false]

/-- A scratch access starts without a change of the machine (R215). -/
theorem startAll_scratch_state (i : Nat) (u : Team) : ∀ (accs good : List Acc) (s s2 : State) (bad : List (LaneFault × Acc)),
    s.startAll i u .scratch accs = .ok good bad s2 → s2 = s := by
  intro accs
  induction accs with
  | nil =>
    intro good s s2 bad h
    simp [State.startAll] at h
    exact h.2.2.symm
  | cons a as ih =>
    intro good s s2 bad h
    simp only [State.startAll, State.startAcc] at h
    split at h
    · simp at h
    · rename_i hh
      obtain ⟨-, rfl⟩ := Prod.mk.inj hh
      split at h <;> simp at h
      rename_i h2
      rw [← h.2.2]
      exact ih _ _ _ _ h2
    · rename_i hh
      obtain ⟨-, rfl⟩ := Prod.mk.inj hh
      split at h <;> simp at h
      rename_i h2
      rw [← h.2.2]
      exact ih _ _ _ _ h2

/-- A scratch load or store serves its lanes in pass order once its accesses have started (R217). -/
theorem scratchAccs_of (s s2 : State) (i : Nat) (u : Team) (cls : Bool) (k : OpKind) (accs good : List Acc) (bad : List (LaneFault × Acc))
    (hf : u.flagFull (u.setFlag cls) = false) (hk : k.access = .scratch) (hs : Starts s i u .scratch accs good bad s2) (hst : s2.stamp = s.stamp)
    (ho : s.orderedBehind i cls = none) :
    scratchAccs i u s cls k accs = .ok ((s2.enterOp i u { opOf i u s2 (u.setFlag cls) k with
      accs := if cls then lastWriters good else good } bad).serveOp s2.stamp i) := by
  unfold scratchAccs
  rw [startOp_of s s2 i u cls k _ good bad _ hf (by rwa [hk])]
  simp only [hst, ho]

/-- A release's posted entries have drained: the rest of the instruction follows. -/
theorem withRelease_of (s s1 : State) (i : Nat) (u : Team) (k : State → Res)
    (h : if u.releases.isSome then (s.setTeam i u).drainAll i = .ok s1 else s1 = s.setTeam i u) : withRelease i u s k = k s1 := by
  unfold withRelease
  split at h
  · rename_i hr
    simp only [hr, h, if_true]
  · rename_i hr
    simp only [hr, h]
    rfl

/-- A resolved handle goes on with its object. -/
theorem withHandle_of (s s1 : State) (i : Nat) (u : Team) (single : Bool) (h : Word) (kind : HKind) (k : Nat → State → Res) (x : Nat)
    (hh : s.handle i u h kind = .ok (some x) s1) : withHandle i u s single h kind k = k x s1 := by
  simp [withHandle, hh, Got.into]

/-- A record that has been read goes on with its words. -/
theorem withRecord_of (s s1 : State) (i : Nat) (u : Team) (single : Bool) (va n align : Nat) (k : List Word → State → Res) (bs : List Byte)
    (h : s.record i u va n align = .ok bs s1) : withRecord i u s single va n align k = k (bytesWords (n / 4) bs) s1 := by
  simp [withRecord, h, Got.into]

/-- A queue's handle goes on with the queue. -/
theorem withQueue_of (s s1 : State) (i : Nat) (u : Team) (single : Bool) (h : Word) (k : Nat → State → Res) (n : Nat)
    (hh : s.handle i u h .queue = .ok (some n) s1) (hn : s1.queueOk u.part n = true) : withQueue i u s single h k = k (queueKey u.part n) s1 := by
  simp [withQueue, withHandle_of s s1 i u single h .queue _ n hh, hn]

/-- An enabled queue's handle goes on with the queue. -/
theorem withQueueOn_of (s s1 : State) (i : Nat) (u : Team) (single : Bool) (h : Word) (k : Nat → State → Res) (n : Nat)
    (hh : s.handle i u h .queue = .ok (some n) s1) (hn : s1.queueOk u.part n = true) (he : (s1.queue (queueKey u.part n)).en = true) :
    withQueueOn i u s single h k = k (queueKey u.part n) s1 := by
  simp [withQueueOn, withQueue_of s s1 i u single h _ n hh hn, he]

/-- A knot's handle goes on with the knot. -/
theorem withKnot_of (s s1 : State) (i : Nat) (u : Team) (single : Bool) (h : Word) (k : Nat → State → Res) (n : Nat)
    (hh : s.handle i u h .knot = .ok (some n) s1) (hn : s1.knotOk u.part n = true) : withKnot i u s single h k = k (knotKey u.part n) s1 := by
  simp [withKnot, withHandle_of s s1 i u single h .knot _ n hh, hn]

/-! ## Reading through a path -/

/-- A line that leaves a full cache takes no operation with it. -/
theorem evict_ops (s : State) (path : Path) (core : Nat) : (s.evict path core).ops = s.ops := by
  unfold State.evict
  simp only []
  split
  · rfl
  · split <;> rfl

/-- A read through a path fills lines and takes free choices: the operations stay. -/
theorem pathRead_ops (s : State) (k : Key) (keep : Bool) (dom : Nat) (path : Path) (since a pa n : Nat) :
    (s.pathRead k keep dom path since a pa n).2.ops = s.ops := by
  unfold State.pathRead
  simp only []
  cases keep <;> split
  · rfl
  · split <;> rfl
  · exact evict_ops ..
  · split
    · rfl
    · exact evict_ops ..

/-- A copy with an error takes no operation with it. -/
theorem meetsCopy_ops (s : State) (dom : Nat) (path : Path) (since a n : Nat) : (s.meetsCopy dom path since a n).2.ops = s.ops := by
  unfold State.meetsCopy
  split
  · rfl
  · simp only []
    split <;> rfl

/-- So does the test for an error that a read meets. -/
theorem readMeets_ops (s : State) (x : Op) (a : Acc) (path : Path) : (s.readMeets x a path).2.ops = s.ops := by
  unfold State.readMeets
  split
  · split
    · rfl
    · exact meetsCopy_ops ..
  · rfl

/-- So does a load's own read. -/
theorem readFor_op (s : State) (o p : Nat) (x : Op) (a : Acc) (path : Path) : (s.readFor o x a path).2.op p = s.op p := by
  unfold State.readFor
  simp only []
  split
  · exact congrArg (fun l => recFind l p) (pathRead_ops ..)
  · rfl

/-! ## Firings -/

/-- Firings whose instructions have completed wait behind the head one unchanged. -/
theorem fireBehind_fold (s : State) (rest done : List Firing) (h : ∀ g ∈ rest, g.op = none) :
    rest.foldl (fun (x : State × List Firing) g => let (s2, h) := x.1.fireBehind g; (s2, x.2 ++ [h])) (s, done) = (s, done ++ rest) := by
  induction rest generalizing done with
  | nil => simp
  | cons g gs ih =>
    have hg : s.fireBehind g = (s, g) := by simp [State.fireBehind, h g (by simp)]
    simp only [List.foldl_cons, hg]
    rw [ih _ fun g hm => h g (by simp [hm])]
    simp

end Sys2Proof.Machine
end

