-- ==== Sys2Proof/Laws/Bits.lean ====
section
/-! SUPPORT. Laws of the bit counts of Store: what a population count, a count of leading zeros and a reversal give. -/

namespace Sys2Proof.Machine

open Sys2Proof

theorem popCount_eq (x n : Nat) : popCount x n = (List.range n).countP fun k => x.testBit k := by
  have h : ∀ (l : List Nat) (c : Nat), l.foldl (fun c i => if x.testBit i then c + 1 else c) c = c + l.countP fun k => x.testBit k := by
    intro l
    induction l with
    | nil => simp
    | cons a l ih =>
      intro c
      simp only [List.foldl_cons, ih, List.countP_cons]
      split <;> omega
  simp [popCount, h]

theorem leadingZeros_spec (x n : Nat) : leadingZeros x n ≤ n ∧ (∀ k, n - leadingZeros x n ≤ k → k < n → x.testBit k = false) ∧
    (leadingZeros x n < n → x.testBit (n - 1 - leadingZeros x n) = true) := by
  have h : ∀ m, m ≤ n → let c := (List.range m).foldl (fun c i => if x.testBit i then n - 1 - i else c) n
      c ≤ n ∧ (∀ k, n - c ≤ k → k < m → x.testBit k = false) ∧ (c < n → x.testBit (n - 1 - c) = true) := by
    intro m
    induction m with
    | zero => simp
    | succ m ih =>
      intro hm
      simp only [List.range_succ, List.foldl_append, List.foldl_cons, List.foldl_nil]
      obtain ⟨h1, h2, h3⟩ := ih (by omega)
      split
      · rename_i hb
        refine ⟨by omega, fun k h4 h5 => by omega, fun _ => ?_⟩
        rwa [show n - 1 - (n - 1 - m) = m by omega]
      · rename_i hb
        refine ⟨h1, fun k h4 h5 => ?_, h3⟩
        rcases Nat.lt_or_ge k m with h6 | h6
        · exact h2 k h4 h6
        · rw [show k = m by omega]
          simpa using hb
  exact h n (Nat.le_refl n)

theorem bitReverse_testBit (x n k : Nat) : (bitReverse x n).testBit k = (decide (k < n) && x.testBit (n - 1 - k)) := by
  have h : ∀ m, m ≤ n → let c := (List.range m).foldl (fun c i => if x.testBit i then c + 2 ^ (n - 1 - i) else c) 0
      2 ^ (n - m) ∣ c ∧ ∀ k, c.testBit k = (decide (n - m ≤ k ∧ k < n) && x.testBit (n - 1 - k)) := by
    intro m
    induction m with
    | zero =>
      refine fun _ => ⟨⟨0, rfl⟩, fun k => ?_⟩
      have : ¬(n ≤ k ∧ k < n) := by omega
      simp [this]
    | succ m ih =>
      intro hm
      simp only [List.range_succ, List.foldl_append, List.foldl_cons, List.foldl_nil]
      obtain ⟨⟨e, he⟩, h2⟩ := ih (by omega)
      split
      · rename_i hb
        refine ⟨?_, fun k => ?_⟩
        · rw [he, show n - m = (n - (m + 1)) + 1 by omega, Nat.pow_succ, show n - 1 - m = n - (m + 1) by omega]
          exact ⟨2 * e + 1, by rw [Nat.mul_assoc, Nat.mul_add, Nat.mul_one]⟩
        · have hk := h2 k
          rw [he] at hk ⊢
          have hj : 2 ^ (n - 1 - m) < 2 ^ (n - m) := Nat.pow_lt_pow_right (by omega) (by omega)
          rw [Nat.testBit_two_pow_mul_add _ hj]
          rw [Nat.testBit_two_pow_mul] at hk
          rw [Nat.testBit_two_pow]
          by_cases h1 : n - m ≤ k
          · simp only [show ¬k < n - m by omega, if_false]
            simp only [h1, decide_true, Bool.true_and, true_and] at hk
            have h3 : n - (m + 1) ≤ k := by omega
            simp only [hk, h3, true_and]
          · simp only [show k < n - m by omega, if_true]
            by_cases h2 : k = n - 1 - m
            · subst h2
              rw [show n - 1 - (n - 1 - m) = m by omega, hb]
              simp
              omega
            · have h3 : ¬(n - (m + 1) ≤ k ∧ k < n) := by omega
              have h4 : ¬(n - 1 - m = k) := by omega
              rw [decide_eq_false h4, decide_eq_false h3, Bool.false_and]
      · rename_i hb
        refine ⟨?_, fun k => ?_⟩
        · rw [he, show n - m = (n - (m + 1)) + 1 by omega, Nat.pow_succ]
          exact ⟨2 * e, by rw [Nat.mul_assoc]⟩
        · rw [h2 k]
          by_cases hk : k = n - (m + 1)
          · subst hk
            rw [show n - 1 - (n - (m + 1)) = m by omega]
            simp at hb
            simp [hb]
          · congr 1
            simp only [decide_eq_decide]
            omega
  have := (h n (Nat.le_refl n)).2 k
  simp only [Nat.sub_self, Nat.zero_le, true_and] at this
  exact this

end Sys2Proof.Machine
end

