-- ==== Sys2Proof/Laws/Groups.lean ====
section
/-! SUPPORT. Laws of reductions and scans: groups of lanes, and what combining a list of elements gives (R127, R128). -/

namespace Sys2Proof.Machine

open Sys2Proof

/-- The bits of two lists of results together. -/
theorem orBits_append (a b : List (Nat × Nat × Nat)) : orBits (a ++ b) = orBits a ||| orBits b := by
  have h : ∀ (b : List (Nat × Nat × Nat)) x, b.foldl (fun a x => a ||| x.2.2) x = x ||| b.foldl (fun a x => a ||| x.2.2) 0 := by
    intro b
    induction b with
    | nil => simp
    | cons c b ih => intro x; simp only [List.foldl_cons]; rw [ih, ih (0 ||| c.2.2)]; simp [Nat.or_assoc]
  simp only [orBits, List.foldl_append]
  rw [h]

section
variable (c : Comb) (y : Ty) (rm : Rnd) (fl st : Bool) (g : Nat → Nat)

/-- A scan of one more element (R127, R128). -/
theorem scanList_append (xs : List (Nat × Nat)) (p : Nat × Nat) : ∀ acc, ∃ e, scanList c y rm fl st acc (xs ++ [p]) = scanList c y rm fl st acc xs ++ [(p.1, e)] ∧
    ∀ x0 b0, acc = some x0 → e.1 = (xs.map (·.2) ++ [p.2] |>.foldl (fun a z => ((combine c y rm fl st a.1 (enter y fl z).1).1,
      a.2 ||| (combine c y rm fl st a.1 (enter y fl z).1).2 ||| (enter y fl z).2)) (x0, b0)).1 ∧
     b0 ||| orBits (scanList c y rm fl st acc (xs ++ [p])) = (xs.map (·.2) ++ [p.2] |>.foldl (fun a z => ((combine c y rm fl st a.1 (enter y fl z).1).1,
      a.2 ||| (combine c y rm fl st a.1 (enter y fl z).1).2 ||| (enter y fl z).2)) (x0, b0)).2 := by
  induction xs with
  | nil =>
    intro acc
    cases acc with
    | none => exact ⟨_, rfl, by simp⟩
    | some a =>
      refine ⟨_, rfl, ?_⟩
      rintro _ b0 ⟨⟩
      simp [scanList, orBits, Nat.or_assoc]
  | cons x xs ih =>
    intro acc
    obtain ⟨l, x⟩ := x
    cases acc with
    | none =>
      obtain ⟨e, h, -⟩ := ih (some (enter y fl x).1)
      exact ⟨e, by simp [scanList, h], by simp⟩
    | some a =>
      obtain ⟨e, h, k⟩ := ih (some (combine c y rm fl st a (enter y fl x).1).1)
      refine ⟨e, by simp [scanList, h], ?_⟩
      rintro _ b0 ⟨⟩
      obtain ⟨k1, k2⟩ := k _ (b0 ||| (combine c y rm fl st a (enter y fl x).1).2 ||| (enter y fl x).2) rfl
      refine ⟨k1, ?_⟩
      simp only [List.map_cons, List.cons_append, List.foldl_cons, scanList]
      rw [← k2, show ∀ z zs, orBits (z :: zs) = z.2.2 ||| orBits zs from fun z zs => by rw [show z :: zs = [z] ++ zs from rfl, orBits_append]; simp [orBits]]
      simp [Nat.or_assoc]

/-- The combination of the elements of a list of lanes. -/
def foldLanes (ls : List Nat) : Nat × Nat := combineAll c y rm fl st (ls.map g)
/-- Lanes with their elements. -/
def tagLanes (ls : List Nat) : List (Nat × Nat) := ls.map fun l => (l, g l)

theorem scan_snoc (ls : List Nat) (p : Nat) : ∃ e, scanList c y rm fl st none (tagLanes g (ls ++ [p])) = scanList c y rm fl st none (tagLanes g ls) ++ [(p, e)] ∧
    e.1 = (foldLanes c y rm fl st g (ls ++ [p])).1 ∧ orBits (scanList c y rm fl st none (tagLanes g (ls ++ [p]))) = (foldLanes c y rm fl st g (ls ++ [p])).2 := by
  cases ls with
  | nil => exact ⟨_, rfl, rfl, by simp [tagLanes, scanList, orBits, foldLanes, combineAll]⟩
  | cons l ls =>
    obtain ⟨e, h, k⟩ := scanList_append c y rm fl st (tagLanes g ls) (p, g p) (some (enter y fl (g l)).1)
    obtain ⟨k1, k2⟩ := k _ (enter y fl (g l)).2 rfl
    refine ⟨e, ?_, ?_, ?_⟩
    · simp [tagLanes, scanList] at *; exact h
    · rw [k1]; simp [foldLanes, combineAll, tagLanes, Function.comp_def]
    · have : ∀ z zs, orBits (z :: zs) = z.2.2 ||| orBits zs := fun z zs => by rw [show z :: zs = [z] ++ zs from rfl, orBits_append]; simp [orBits]
      simp only [tagLanes, List.cons_append, List.map_cons, scanList, this]
      simp only [tagLanes] at k2
      simp only [List.map_append, List.map_cons, List.map_nil, k2]
      simp [foldLanes, combineAll, Function.comp_def]

/-- The status bits of a whole scan are those of the combination. -/
theorem scan_bits (ls : List Nat) : orBits (scanList c y rm fl st none (tagLanes g ls)) = (foldLanes c y rm fl st g ls).2 := by
  rcases List.eq_nil_or_concat ls with rfl | ⟨ls, p, rfl⟩
  · simp [tagLanes, scanList, orBits, foldLanes, combineAll]
  · rw [List.concat_eq_append]; obtain ⟨e, -, -, h⟩ := scan_snoc c y rm fl st g ls p; exact h

/-- The last value of a scan is the combination of all its lanes. -/
theorem scan_last (ls : List Nat) (h : ls ≠ []) : ∃ l b, (scanList c y rm fl st none (tagLanes g ls)).getLast? = some (l, (foldLanes c y rm fl st g ls).1, b) := by
  rcases List.eq_nil_or_concat ls with rfl | ⟨ls, p, rfl⟩
  · exact absurd rfl h
  · rw [List.concat_eq_append]; obtain ⟨e, k, k2, -⟩ := scan_snoc c y rm fl st g ls p; rw [k, ← k2]; exact ⟨p, e.2, by simp⟩

/-- A scan gives one value for each lane, in order. -/
theorem scan_lanes (ls : List Nat) : (scanList c y rm fl st none (tagLanes g ls)).map (·.1) = ls := by
  induction ls using List.reverseRecOn with
  | nil => rfl
  | append_singleton ls p ih => obtain ⟨e, k, -⟩ := scan_snoc c y rm fl st g ls p; rw [k]; simp [ih]

/-- The lanes of a list up to one. -/
def lanesUpTo (ls : List Nat) (l : Nat) : List Nat := ls.filter fun k => decide (k ≤ l)

/-- The value a scan gives a lane combines the lanes up to it (R128). -/
theorem scan_values (ls : List Nat) (h : ls.Pairwise (· < ·)) :
    (scanList c y rm fl st none (tagLanes g ls)).map (fun r => (r.1, r.2.1)) = ls.map fun l => (l, (foldLanes c y rm fl st g (lanesUpTo ls l)).1) := by
  induction ls using List.reverseRecOn with
  | nil => rfl
  | append_singleton ls p ih =>
    obtain ⟨e, k, k2, -⟩ := scan_snoc c y rm fl st g ls p
    rw [List.pairwise_append] at h
    rw [k, List.map_append, ih h.1, List.map_append]
    have lt : ∀ a ∈ ls, a < p := fun a ha => h.2.2 a ha p (by simp)
    congr 1
    · apply List.map_congr_left
      intro l hl
      have := lt l hl
      simp [lanesUpTo, this]
    · simp only [List.map_cons, List.map_nil, k2]
      have : lanesUpTo (ls ++ [p]) p = ls ++ [p] := by
        simp only [lanesUpTo, List.filter_eq_self]; intro a ha
        rcases List.mem_append.1 ha with ha | ha
        · have := lt a ha; simp; omega
        · simp at ha; simp [ha]
      rw [this]

/-- The status bits of the combinations up to each lane are those of the whole. -/
theorem bits_upTo (ls : List Nat) (h : ls.Pairwise (· < ·)) : orBits (ls.map fun l => (l, foldLanes c y rm fl st g (lanesUpTo ls l))) = (foldLanes c y rm fl st g ls).2 := by
  induction ls using List.reverseRecOn with
  | nil => rfl
  | append_singleton ls p ih =>
    rw [List.pairwise_append] at h
    have lt : ∀ a ∈ ls, a < p := fun a ha => h.2.2 a ha p (by simp)
    have e : (ls ++ [p]).map (fun l => (l, foldLanes c y rm fl st g (lanesUpTo (ls ++ [p]) l))) = ls.map (fun l => (l, foldLanes c y rm fl st g (lanesUpTo ls l))) ++ [(p, foldLanes c y rm fl st g (ls ++ [p]))] := by
      rw [List.map_append]
      congr 1
      · apply List.map_congr_left
        intro l hl
        have := lt l hl
        simp [lanesUpTo, this]
      · have : lanesUpTo (ls ++ [p]) p = ls ++ [p] := by
          simp only [lanesUpTo, List.filter_eq_self]; intro a ha
          rcases List.mem_append.1 ha with ha | ha
          · have := lt a ha; simp; omega
          · simp at ha; simp [ha]
        simp [this]
    rw [e, orBits_append, ih h.1]
    obtain ⟨x, k, k2, k3⟩ := scan_snoc c y rm fl st g ls p
    rw [← k3, k, orBits_append, scan_bits]
    simp [orBits]
    rw [← k3, k, orBits_append, scan_bits]
    simp [orBits]
end

/-- Ascending lanes, cut into groups and joined again. -/
theorem split_groups (ls : List Nat) (h : ls.Pairwise (· < ·)) (n : Nat) :
    ((List.range n).map fun g => ls.filter fun k => k / 32 == g).flatten = ls.filter fun k => decide (k / 32 < n) := by
  induction n with
  | zero => simp
  | succ n ih =>
    rw [List.range_succ, List.map_append, List.flatten_append, ih]
    simp only [List.map_cons, List.map_nil, List.flatten_cons, List.flatten_nil, List.append_nil]
    clear ih
    induction ls with
    | nil => rfl
    | cons l ls ih =>
      rw [List.pairwise_cons] at h
      have ih := ih h.2
      by_cases h1 : l / 32 < n
      · have h2 : ¬ l / 32 = n := by omega
        have h3 : l / 32 < n + 1 := by omega
        rw [List.filter_cons, List.filter_cons, List.filter_cons]; simp only [h1, h2, h3, decide_true, beq_iff_eq, if_true, if_false, List.cons_append, ih]
      · by_cases h2 : l / 32 = n
        · have e : ls.filter (fun k => decide (k / 32 < n)) = [] := by
            rw [List.filter_eq_nil_iff]; intro a ha; have := h.1 a ha; simp; omega
          have h3 : l / 32 < n + 1 := by omega
          rw [List.filter_cons, List.filter_cons, List.filter_cons]; simp only [h2, h3, e, decide_true, decide_false, beq_self_eq_true, if_true, if_false, List.nil_append] at ih ⊢; simp [ih]
        · have h3 : ¬ l / 32 < n + 1 := by omega
          rw [List.filter_cons, List.filter_cons, List.filter_cons]; simp only [h1, h2, h3, decide_false, beq_iff_eq, if_false, ih]; simp [ih]

/-- Groups of lanes with their elements. -/
theorem byGroup_tag (ls : List Nat) (g : Nat → Nat) :
    byGroup (tagLanes g ls) = (((List.range 32).map fun n => ls.filter fun k => k / 32 == n).filter (!·.isEmpty)).map (tagLanes g) := by
  simp only [byGroup, tagLanes, List.filter_map, List.map_map]
  congr 1
  congr 1; funext n; simp [Function.comp_def]

/-- Empty groups give nothing. -/
theorem flatten_nonempty {β : Type} (xs : List (List Nat)) (f : List Nat → List β) (h : f [] = []) :
    ((xs.filter (!·.isEmpty)).map f).flatten = (xs.map f).flatten := by
  induction xs with
  | nil => rfl
  | cons x xs ih => cases x <;> simp_all

/-- A team has at most 32 groups (R57). -/
theorem active_lt (t : Team) : ∀ l ∈ t.active, l / 32 < 32 := by
  intro l hl
  simp only [Team.active, lanesBelow, List.mem_filter] at hl
  have := Nat.testBit_lt_two_pow (x := t.eff.toNat) (i := l)
  by_contra hc
  have h1 : t.eff.toNat < 2 ^ l := Nat.lt_of_lt_of_le t.eff.isLt (Nat.pow_le_pow_right (by decide) (by omega))
  simp [Nat.testBit_lt_two_pow h1] at hl

/-- The active lanes ascend (R63). -/
theorem active_sorted (t : Team) : t.active.Pairwise (· < ·) := by
  simp only [Team.active, lanesBelow]
  exact List.Pairwise.filter _ List.pairwise_lt_range

/-- What each group gives its lanes, joined. -/
theorem filter_map_groups {β : Type} (ls : List Nat) (h : ls.Pairwise (· < ·)) (hb : ∀ l ∈ ls, l / 32 < 32) (f : Nat → β) :
    (((List.range 32).map fun n => ls.filter fun k => k / 32 == n).map fun g => g.map f).flatten = ls.map f := by
  have e := split_groups ls h 32
  rw [show ls.filter (fun k => decide (k / 32 < 32)) = ls from by rw [List.filter_eq_self]; intro a ha; simpa using hb a ha] at e
  conv => rhs; rw [← e, List.map_flatten]

section
variable (c : Comb) (y : Ty) (rm : Rnd) (fl st : Bool) (g : Nat → Nat)
/-- The bits of joined lists. -/
theorem orBits_flatten (xs : List (List (Nat × Nat × Nat))) : orBits xs.flatten = (xs.map orBits).foldl (· ||| ·) 0 := by
  induction xs using List.reverseRecOn with
  | nil => rfl
  | append_singleton xs x ih => simp [orBits_append, ih]

/-- The bits of results that are all one. -/
theorem orBits_const (G : List Nat) (h : G ≠ []) (e : Nat × Nat) : orBits (G.map fun l => (l, e)) = e.2 := by
  induction G with
  | nil => exact absurd rfl h
  | cons l G ih =>
    rw [List.map_cons, show ∀ z zs, orBits (z :: zs) = z.2.2 ||| orBits zs from fun z zs => by rw [show z :: zs = [z] ++ zs from rfl, orBits_append]; simp [orBits]]
    by_cases hG : G = []
    · subst hG; simp [orBits]
    · rw [ih hG]; simp

/-- Scans of the groups (R128). -/
theorem groups_scan (ls : List Nat) (h : ls.Pairwise (· < ·)) (hb : ∀ l ∈ ls, l / 32 < 32) :
    let rs := ((byGroup (tagLanes g ls)).map fun x => scanList c y rm fl st none x).flatten
    let f := fun l => foldLanes c y rm fl st g (lanesUpTo (ls.filter fun k => k / 32 == l / 32) l)
    rs.map (fun r => (r.1, r.2.1)) = ls.map (fun l => (l, (f l).1)) ∧ orBits rs = orBits (ls.map fun l => (l, f l)) := by
  intro rs f
  have e : rs = (((List.range 32).map fun n => ls.filter fun k => k / 32 == n).map fun x => scanList c y rm fl st none (tagLanes g x)).flatten := by
    show ((byGroup (tagLanes g ls)).map _).flatten = _
    rw [byGroup_tag, List.map_map, ← flatten_nonempty _ (fun x => scanList c y rm fl st none (tagLanes g x)) rfl]; rfl
  have sub : ∀ n, (ls.filter fun k => k / 32 == n).Pairwise (· < ·) := fun n => List.Pairwise.filter _ h
  constructor
  · rw [e, ← filter_map_groups ls h hb (fun l => (l, (f l).1)), List.map_flatten, List.map_map, List.map_map, List.map_map]
    congr 1; apply List.map_congr_left; intro n _
    simp only [Function.comp_def]
    rw [scan_values _ _ _ _ _ _ _ (sub n)]
    apply List.map_congr_left; intro l hl
    have : l / 32 = n := by simpa using (List.mem_filter.1 hl).2
    simp [f, this]
  · rw [e, ← filter_map_groups ls h hb (fun l => (l, f l)), orBits_flatten, orBits_flatten]
    congr 1
    simp only [List.map_map]
    apply List.map_congr_left; intro n _
    simp only [Function.comp_def]
    rw [scan_bits, ← bits_upTo _ _ _ _ _ _ _ (sub n)]
    congr 1
    apply List.map_congr_left; intro l hl
    have : l / 32 = n := by simpa using (List.mem_filter.1 hl).2
    simp [f, this]

/-- Reductions of the groups (R127). -/
theorem groups_red (ls : List Nat) (h : ls.Pairwise (· < ·)) (hb : ∀ l ∈ ls, l / 32 < 32) :
    let gs := (byGroup (tagLanes g ls)).map fun x => scanList c y rm fl st none x
    let rs := (gs.map fun g => match g.getLast? with
          | some x => g.map fun e => (e.1, x.2.1)
          | none => []).flatten
    let f := fun l => foldLanes c y rm fl st g (ls.filter fun k => k / 32 == l / 32)
    rs = ls.map (fun l => (l, (f l).1)) ∧ orBits gs.flatten = orBits (ls.map fun l => (l, f l)) := by
  intro gs rs f
  let F : List Nat → List (Nat × Nat) := fun x => match (scanList c y rm fl st none (tagLanes g x)).getLast? with
          | some z => (scanList c y rm fl st none (tagLanes g x)).map fun e => (e.1, z.2.1)
          | none => []
  have e : rs = (((List.range 32).map fun n => ls.filter fun k => k / 32 == n).map F).flatten := by
    show (((byGroup (tagLanes g ls)).map _).map _).flatten = _
    rw [byGroup_tag, List.map_map, List.map_map, ← flatten_nonempty _ F rfl]; rfl
  have e2 : gs.flatten = (((List.range 32).map fun n => ls.filter fun k => k / 32 == n).map fun x => scanList c y rm fl st none (tagLanes g x)).flatten := by
    show ((byGroup (tagLanes g ls)).map _).flatten = _
    rw [byGroup_tag, List.map_map, ← flatten_nonempty _ (fun x => scanList c y rm fl st none (tagLanes g x)) rfl]; rfl
  have hF : ∀ x, F x = x.map fun l => (l, (foldLanes c y rm fl st g x).1) := by
    intro x
    by_cases hx : x = []
    · subst hx; rfl
    · obtain ⟨l, b, hl⟩ := scan_last c y rm fl st g x hx
      simp only [F, hl]
      rw [show (scanList c y rm fl st none (tagLanes g x)).map (fun e => (e.1, (foldLanes c y rm fl st g x).1)) = ((scanList c y rm fl st none (tagLanes g x)).map (·.1)).map fun l => (l, (foldLanes c y rm fl st g x).1) from by simp [Function.comp_def], scan_lanes]
  constructor
  · rw [e, ← filter_map_groups ls h hb (fun l => (l, (f l).1)), List.map_map, List.map_map]
    congr 1; apply List.map_congr_left; intro n _
    simp only [Function.comp_def, hF]
    apply List.map_congr_left; intro l hl
    have : l / 32 = n := by simpa using (List.mem_filter.1 hl).2
    simp [f, this]
  · rw [e2, ← filter_map_groups ls h hb (fun l => (l, f l)), orBits_flatten, orBits_flatten]
    congr 1
    simp only [List.map_map]
    apply List.map_congr_left; intro n _
    simp only [Function.comp_def]
    rw [scan_bits]
    by_cases hG : (ls.filter fun k => k / 32 == n) = []
    · rw [hG]; rfl
    · rw [← orBits_const _ hG (foldLanes c y rm fl st g (ls.filter fun k => k / 32 == n))]
      congr 1
      apply List.map_congr_left; intro l hl
      have : l / 32 = n := by simpa using (List.mem_filter.1 hl).2
      simp [f, this]
end

end Sys2Proof.Machine
end

