-- ==== Sys2Proof/Laws/Operands.lean ====
section
/-! SUPPORT. Laws of what reading operands leaves: fields of the team and of the state that an instruction finds after its sources are read. -/

namespace Sys2Proof.Machine

open Sys2Proof

/-- An instruction that pops nothing reads nothing. -/
theorem reads_nil (t : Team) : Reads t [] t (fun _ _ => 0) := by simp [Reads]

/-- The same for an instruction without sources. -/
theorem reads_none (t : Team) : Reads t (popsOnce []) t (fun _ _ => 0) := by simp [Reads, popsOnce]

/-- Reading operands leaves it as it was. -/
theorem reads_vdie {t u : Team} {pops : List Pop} {q : Nat → Nat → Word} (h : Reads t pops u q) : u.vdie = t.vdie := by obtain ⟨_, _, rfl⟩ := reads_frame h; rfl

/-- Reading operands leaves it as it was. -/
theorem reads_claimed {t u : Team} {pops : List Pop} {q : Nat → Nat → Word} (h : Reads t pops u q) : u.claimed = t.claimed := by obtain ⟨_, _, rfl⟩ := reads_frame h; rfl

/-- Reading operands leaves it as it was. -/
theorem reads_wave {t u : Team} {pops : List Pop} {q : Nat → Nat → Word} (h : Reads t pops u q) : u.wave = t.wave := by obtain ⟨_, _, rfl⟩ := reads_frame h; rfl

/-- Reading operands leaves it as it was. -/
theorem reads_groups {t u : Team} {pops : List Pop} {q : Nat → Nat → Word} (h : Reads t pops u q) : u.groups = t.groups := by obtain ⟨_, _, rfl⟩ := reads_frame h; rfl

/-- Reading operands leaves it as it was. -/
theorem reads_scalarSrc {t u : Team} {pops : List Pop} {q : Nat → Nat → Word} (h : Reads t pops u q) (a : Sel) : u.scalarSrc a = t.scalarSrc a := by obtain ⟨_, _, rfl⟩ := reads_frame h; rfl

/-- Reading operands leaves it as it was. -/
theorem reads_actGroups {t u : Team} {pops : List Pop} {q : Nat → Nat → Word} (h : Reads t pops u q) : u.actGroups = t.actGroups := by obtain ⟨_, _, rfl⟩ := reads_frame h; rfl

/-- Reading operands leaves it as it was. -/
theorem reads_otherRows {t u : Team} {pops : List Pop} {q : Nat → Nat → Word} (h : Reads t pops u q) : u.otherRows = t.otherRows := by obtain ⟨_, _, rfl⟩ := reads_frame h; rfl

/-- Reading operands leaves it as it was. -/
theorem reads_lowLane {t u : Team} {pops : List Pop} {q : Nat → Nat → Word} (h : Reads t pops u q) : u.lowLane = t.lowLane := by obtain ⟨_, _, rfl⟩ := reads_frame h; rfl

/-- Reading operands leaves it as it was. -/
theorem reads_win {t u : Team} {pops : List Pop} {q : Nat → Nat → Word} (h : Reads t pops u q) : u.win = t.win := by obtain ⟨_, _, rfl⟩ := reads_frame h; rfl

/-- Reading operands leaves it as it was. -/
theorem reads_outside {t u : Team} {pops : List Pop} {q : Nat → Nat → Word} (h : Reads t pops u q) : u.outside = t.outside := by obtain ⟨_, _, rfl⟩ := reads_frame h; rfl

/-- Reading operands leaves it as it was. -/
theorem reads_newGroups {t u : Team} {pops : List Pop} {q : Nat → Nat → Word} (h : Reads t pops u q) : u.newGroups = t.newGroups := by obtain ⟨_, _, rfl⟩ := reads_frame h; rfl

/-- Reading operands leaves it as it was. -/
theorem reads_loopRec {t u : Team} {pops : List Pop} {q : Nat → Nat → Word} (h : Reads t pops u q) (n) : loopRec u n = loopRec t n := by obtain ⟨_, _, rfl⟩ := reads_frame h; rfl

/-- Reading operands leaves it as it was. -/
theorem reads_recOk {t u : Team} {pops : List Pop} {q : Nat → Nat → Word} (h : Reads t pops u q) (n) : recOk u n = recOk t n := by obtain ⟨_, _, rfl⟩ := reads_frame h; rfl

/-- Reading operands leaves it as it was. -/
theorem reads_recAligned {t u : Team} {pops : List Pop} {q : Nat → Nat → Word} (h : Reads t pops u q) (n) : recAligned u n = recAligned t n := by obtain ⟨_, _, rfl⟩ := reads_frame h; rfl

/-- Reading operands and taking the instruction out leaves it as it was. -/
theorem rowOf_after {t u : Team} {pops : List Pop} {q : Nat → Nat → Word} (h : Reads t pops u q) (s : State) (i v ps a q' g) : rowOf u (s.after i v ps) a q' g = rowOf t s a q' g := by
  cases a <;> simp only [rowOf, scalar_after, reads_scalar h, reads_lowLane h, reads_v h]

/-- Reading operands and taking the instruction out leaves it as it was. -/
theorem pairAt_after {t u : Team} {pops : List Pop} {q : Nat → Nat → Word} (h : Reads t pops u q) (s : State) (i v ps b q' g) : pairAt u (s.after i v ps) b q' g = pairAt t s b q' g := by
  cases b <;> simp only [pairAt, scalar_after, reads_scalar h, reads_v h]

/-- Reading operands and taking the instruction out leaves it as it was. -/
theorem accAt_after (s : State) (i v ps j g r c) : (s.after i v ps).accAt j g r c = s.accAt j g r c := by
  unfold State.after; split <;> rfl

/-- Reading operands leaves it as it was. -/
theorem reads_other (t u : Team) (q pops) (hr : Reads t pops u q) (a l) : u.other a l = t.other a l := by obtain ⟨_, _, rfl⟩ := reads_frame hr; rfl

/-- Reading operands leaves it as it was. -/
theorem reads_patFits {t u : Team} {pops : List Pop} {q : Nat → Nat → Word} (h : Reads t pops u q) (d a b pt) : patFits u d a b pt = patFits t d a b pt := by obtain ⟨_, _, rfl⟩ := reads_frame h; rfl

/-- Reading operands leaves it as it was. -/
theorem reads_patCoords {t u : Team} {pops : List Pop} {q : Nat → Nat → Word} (h : Reads t pops u q) (r pt data) : patCoords u r pt data = patCoords t r pt data := by
  simp only [patCoords, reads_active h, reads_vs h]

/-- Reading operands leaves it as it was. -/
theorem reads_pleatFits {t u : Team} {pops : List Pop} {q : Nat → Nat → Word} (h : Reads t pops u q) (d a x) : pleatFits u d a x = pleatFits t d a x := by obtain ⟨_, _, rfl⟩ := reads_frame h; rfl

/-- Reading operands leaves it as it was. -/
theorem reads_auth {t u : Team} {pops : List Pop} {q : Nat → Nat → Word} (h : Reads t pops u q) (s : State) : s.auth u = s.auth t := by obtain ⟨_, _, rfl⟩ := reads_frame h; rfl

/-- Reading operands leaves it as it was. -/
theorem reads_unacked {t u : Team} {pops : List Pop} {q : Nat → Nat → Word} (h : Reads t pops u q) (s : State) (n) : s.unacked u n = s.unacked t n := by obtain ⟨_, _, rfl⟩ := reads_frame h; rfl

/-- Reading operands and taking the instruction out leaves it as it was. -/
theorem auth_after (s : State) (u v : Team) (i pops) : (s.after i v pops).auth u = s.auth u := by unfold State.after; split <;> rfl

/-- Reading operands and taking the instruction out leaves it as it was. -/
theorem ctx_after (s : State) (v : Team) (i pops p c) : (s.after i v pops).ctx p c = s.ctx p c := by unfold State.after; split <;> rfl

/-- Reading operands and taking the instruction out leaves it as it was. -/
theorem part_after (s : State) (v : Team) (i pops p) : (s.after i v pops).part p = s.part p := by unfold State.after; split <;> rfl

/-- Reading operands and taking the instruction out leaves it as it was. -/
theorem isCtx_after (s : State) (v : Team) (i pops p c) : (s.after i v pops).isCtx p c = s.isCtx p c := by unfold State.after; split <;> rfl

/-- Reading operands and taking the instruction out leaves it as it was. -/
theorem mapOk_after (s : State) (v : Team) (i pops p c) : (s.after i v pops).mapOk p c = s.mapOk p c := by unfold State.after; split <;> rfl

/-- Reading operands and taking the instruction out leaves it as it was. -/
theorem counter_after (s : State) (v : Team) (i pops p c n) : (s.after i v pops).counter p c n = s.counter p c n := by unfold State.after; split <;> rfl

/-- Reading operands and taking the instruction out leaves it as it was. -/
theorem hops_after (s : State) (v : Team) (i pops p c n m) : (s.after i v pops).hops p c n m = s.hops p c n m := by unfold State.after; split <;> rfl

/-- Reading operands and taking the instruction out leaves it as it was. -/
theorem preemptSet_after (s : State) (v : Team) (i pops p c n) : (s.after i v pops).preemptSet p c n = s.preemptSet p c n := by unfold State.after; split <;> rfl

/-- Reading operands and taking the instruction out leaves it as it was. -/
theorem dev_after (s : State) (v : Team) (i pops) : (s.after i v pops).dev = s.dev := by unfold State.after; split <;> rfl

/-- A scalar result written where it goes, in the state after the sources are read. -/
theorem settle_put_after (s : State) (i : Nat) (t u v : Team) (d : Sel) (w : Word) (pops) (hd : u.takes d) :
    settle i t (putScalar i u (s.after i v pops) d w) = s.done i (u.put d w) := settle_putScalar s i t u v d w _ hd

/-- An instruction without sources, past its checks. -/
theorem once_plain (s : State) (i : Nat) (t : Team) (h : Issues s i t) (checks : Team → State → List (Option Cause)) (eff : Nat → Team → (Nat → Word) → State → Res)
    (hc : firstCause (checks t { s with cur := none }) = none) : once s checks [] eff = .next (settle i t (eff i t (fun _ => 0) { s with cur := none })) := by
  rw [once_of s i t t (fun _ _ => 0) h _ _ _ (by simpa using hc) (by simp [Reads, popsOnce])]
  simp [popsOnce]

/-- An effect on the team that goes on at a clause. -/
theorem settle_jump (s : State) (i : Nat) (t u : Team) (a : Word) : settle i t (.jump (({ s with cur := none } : State).setTeam i u) a) = s.gone i u a := by simp [settle, State.gone]

/-- A check that fails with ALIGN is taken as a trap of the whole instruction (R46). -/
theorem settle_check_align (s : State) (i : Nat) (t : Team) : settle i t (.check .align true s) = s.takeTrap (checkInfo i t true .align 0 .whole) := by
  simp [settle]

/-- WAITD waits for nothing where its flags are clear and no unflagged operation is left (R98). -/
theorem waiting_false (s : State) (i : Nat) (t : Team) (v : Word) (all : Bool) (b : Nat) (hf : ∀ n (h : n < 12), v.getLsbD n = true → t.flags[n] = 0)
   (ho : all = true → ∀ o ∈ s.ops, o.2.team = some i → o.2.flag = none → o.2.kind.fromPush = false → b ≤ o.1) : s.waiting i t v.toNat all b = false := by
  unfold State.waiting
  rw [Bool.or_eq_false_iff]
  constructor
  · rw [List.any_eq_false]
    intro n hn
    have hn : n < 12 := by simpa using hn
    have := hf n hn
    simp only [BitVec.getLsbD] at this
    by_cases hv : v.toNat.testBit n = true
    · simp [hn, this hv]
    · simp [hv]
  · cases all with
    | false => rfl
    | true =>
      simp only [Bool.true_and, List.any_eq_false]
      intro o h
      have := ho rfl o h
      simp only [Bool.and_eq_true, beq_iff_eq, decide_eq_true_eq, Bool.not_eq_eq_eq_not, Bool.not_true]
      rintro ⟨⟨⟨h1, h2⟩, h3⟩, h4⟩
      have := this h1 h2 h3
      omega

end Sys2Proof.Machine
end

