-- ==== Sys2Proof/Laws/PerInstr.lean ====
section
/-! SUPPORT. Per-instruction laws. The family Opcodes: the word an instruction encodes to carries a reserved opcode of R52 exactly where the instruction is the reserved one; steps that are no instruction have no word. -/

namespace Sys2Proof.Laws

open Sys2Proof

/-- R37, R52: the opcode byte of a well-formed instruction's word is one of the 26 reserved ones exactly for the instruction that raises ILLEGAL_OPCODE. -/
def Opcodes.Statement (i : Instr) : Prop :=
  ∀ w, i.wf = true → encode i = some w → (reservedOpcode (w.toNat / 2 ^ 24) = true ↔ ∃ x, i = .illegalOpcode x)

/-- The opcode byte of a packed word. -/
theorem Opcodes.pack_opcode (op : Nat) (d a b : BitVec 8) (h : op < 256) : (packWord op d a b).toNat / 2 ^ 24 = op := by
  have h1 := d.isLt
  have h2 := a.isLt
  have h3 := b.isLt
  unfold packWord
  rw [BitVec.toNat_ofNat, Nat.mod_eq_of_lt (by omega)]
  omega

/-- An instruction whose word is packed from an opcode that is not reserved. -/
theorem Opcodes.of_pack (i : Instr) (op : Nat) (d a b : BitVec 8) (he : encode i = some (packWord op d a b)) (h : op < 256)
    (hr : reservedOpcode op = false) (hi : ∀ x, i ≠ .illegalOpcode x) : Opcodes.Statement i := by
  intro w _ hw
  rw [he] at hw
  cases hw
  rw [Opcodes.pack_opcode op d a b h, hr]
  exact ⟨fun h => absurd h (by decide), fun ⟨x, hx⟩ => absurd hx (hi x)⟩

/-- A step with no word. -/
theorem Opcodes.of_none (i : Instr) (he : encode i = none) : Opcodes.Statement i := by
  intro w _ hw
  rw [he] at hw
  cases hw

theorem Opcodes.nop : Opcodes.Statement .nop := Opcodes.of_pack _ _ _ _ _ rfl (by decide) rfl (by intro x h; cases h)
theorem Opcodes.br (b : Sel) : Opcodes.Statement (.br b) := Opcodes.of_pack _ _ _ _ _ rfl (by decide) rfl (by intro x h; cases h)
theorem Opcodes.brz (a : Sel) (b : Sel) : Opcodes.Statement (.brz a b) := Opcodes.of_pack _ _ _ _ _ rfl (by decide) rfl (by intro x h; cases h)
theorem Opcodes.brnz (a : Sel) (b : Sel) : Opcodes.Statement (.brnz a b) := Opcodes.of_pack _ _ _ _ _ rfl (by decide) rfl (by intro x h; cases h)
theorem Opcodes.brmz (a : Sel) (b : Sel) : Opcodes.Statement (.brmz a b) := Opcodes.of_pack _ _ _ _ _ rfl (by decide) rfl (by intro x h; cases h)
theorem Opcodes.brmnz (a : Sel) (b : Sel) : Opcodes.Statement (.brmnz a b) := Opcodes.of_pack _ _ _ _ _ rfl (by decide) rfl (by intro x h; cases h)
theorem Opcodes.jmp (b : Sel) : Opcodes.Statement (.jmp b) := Opcodes.of_pack _ _ _ _ _ rfl (by decide) rfl (by intro x h; cases h)
theorem Opcodes.call (d : Sel) (b : Sel) : Opcodes.Statement (.call d b) := Opcodes.of_pack _ _ _ _ _ rfl (by decide) rfl (by intro x h; cases h)
theorem Opcodes.yield : Opcodes.Statement .yield := Opcodes.of_pack _ _ _ _ _ rfl (by decide) rfl (by intro x h; cases h)
theorem Opcodes.exit : Opcodes.Statement .exit := Opcodes.of_pack _ _ _ _ _ rfl (by decide) rfl (by intro x h; cases h)
theorem Opcodes.setmode (b : Sel) : Opcodes.Statement (.setmode b) := Opcodes.of_pack _ _ _ _ _ rfl (by decide) rfl (by intro x h; cases h)
theorem Opcodes.getmode (d : Sel) : Opcodes.Statement (.getmode d) := Opcodes.of_pack _ _ _ _ _ rfl (by decide) rfl (by intro x h; cases h)
theorem Opcodes.mmov (d : Sel) (a : Sel) : Opcodes.Statement (.mmov d a) := Opcodes.of_pack _ _ _ _ _ rfl (by decide) rfl (by intro x h; cases h)
theorem Opcodes.mand (d : Sel) (a : Sel) (b : Sel) : Opcodes.Statement (.mand d a b) := Opcodes.of_pack _ _ _ _ _ rfl (by decide) rfl (by intro x h; cases h)
theorem Opcodes.mor (d : Sel) (a : Sel) (b : Sel) : Opcodes.Statement (.mor d a b) := Opcodes.of_pack _ _ _ _ _ rfl (by decide) rfl (by intro x h; cases h)
theorem Opcodes.mxor (d : Sel) (a : Sel) (b : Sel) : Opcodes.Statement (.mxor d a b) := Opcodes.of_pack _ _ _ _ _ rfl (by decide) rfl (by intro x h; cases h)
theorem Opcodes.mandn (d : Sel) (a : Sel) (b : Sel) : Opcodes.Statement (.mandn d a b) := Opcodes.of_pack _ _ _ _ _ rfl (by decide) rfl (by intro x h; cases h)
theorem Opcodes.mnot (d : Sel) (a : Sel) : Opcodes.Statement (.mnot d a) := Opcodes.of_pack _ _ _ _ _ rfl (by decide) rfl (by intro x h; cases h)
theorem Opcodes.mcnt (d : Sel) (a : Sel) : Opcodes.Statement (.mcnt d a) := Opcodes.of_pack _ _ _ _ _ rfl (by decide) rfl (by intro x h; cases h)
theorem Opcodes.mfirst (d : Sel) (a : Sel) : Opcodes.Statement (.mfirst d a) := Opcodes.of_pack _ _ _ _ _ rfl (by decide) rfl (by intro x h; cases h)
theorem Opcodes.msumw (d : Sel) (a : Sel) : Opcodes.Statement (.msumw d a) := Opcodes.of_pack _ _ _ _ _ rfl (by decide) rfl (by intro x h; cases h)
theorem Opcodes.mgetw (d : Sel) (a : Sel) (b : Sel) : Opcodes.Statement (.mgetw d a b) := Opcodes.of_pack _ _ _ _ _ rfl (by decide) rfl (by intro x h; cases h)
theorem Opcodes.msetw (d : Sel) (a : Sel) (b : Sel) : Opcodes.Statement (.msetw d a b) := Opcodes.of_pack _ _ _ _ _ rfl (by decide) rfl (by intro x h; cases h)
theorem Opcodes.mfromv (d : Sel) (a : Sel) : Opcodes.Statement (.mfromv d a) := Opcodes.of_pack _ _ _ _ _ rfl (by decide) rfl (by intro x h; cases h)
theorem Opcodes.vcmpeq (d : Sel) (a : Sel) (b : Sel) : Opcodes.Statement (.vcmpeq d a b) := Opcodes.of_pack _ _ _ _ _ rfl (by decide) rfl (by intro x h; cases h)
theorem Opcodes.vcmpne (d : Sel) (a : Sel) (b : Sel) : Opcodes.Statement (.vcmpne d a b) := Opcodes.of_pack _ _ _ _ _ rfl (by decide) rfl (by intro x h; cases h)
theorem Opcodes.vcmplt (d : Sel) (a : Sel) (b : Sel) : Opcodes.Statement (.vcmplt d a b) := Opcodes.of_pack _ _ _ _ _ rfl (by decide) rfl (by intro x h; cases h)
theorem Opcodes.vcmple (d : Sel) (a : Sel) (b : Sel) : Opcodes.Statement (.vcmple d a b) := Opcodes.of_pack _ _ _ _ _ rfl (by decide) rfl (by intro x h; cases h)
theorem Opcodes.vclass (d : Sel) (a : Sel) (b : BitVec 8) : Opcodes.Statement (.vclass d a b) := Opcodes.of_pack _ _ _ _ _ rfl (by decide) rfl (by intro x h; cases h)
theorem Opcodes.waitd (b : Sel) : Opcodes.Statement (.waitd b) := Opcodes.of_pack _ _ _ _ _ rfl (by decide) rfl (by intro x h; cases h)
theorem Opcodes.illegalOpcode (w : BitVec 32) : Opcodes.Statement (.illegalOpcode w) := by
  intro x h hw
  cases hw
  rw [show reservedOpcode (w.toNat / 2 ^ 24) = true from by
    simpa only [Instr.wf, Nat.shiftRight_eq_div_pow] using h]
  exact ⟨fun _ => ⟨w, rfl⟩, fun _ => rfl⟩
theorem Opcodes.smov (d : Sel) (a : Sel) : Opcodes.Statement (.smov d a) := Opcodes.of_pack _ _ _ _ _ rfl (by decide) rfl (by intro x h; cases h)
theorem Opcodes.sadd (d : Sel) (a : Sel) (b : Sel) : Opcodes.Statement (.sadd d a b) := Opcodes.of_pack _ _ _ _ _ rfl (by decide) rfl (by intro x h; cases h)
theorem Opcodes.ssub (d : Sel) (a : Sel) (b : Sel) : Opcodes.Statement (.ssub d a b) := Opcodes.of_pack _ _ _ _ _ rfl (by decide) rfl (by intro x h; cases h)
theorem Opcodes.smul (d : Sel) (a : Sel) (b : Sel) : Opcodes.Statement (.smul d a b) := Opcodes.of_pack _ _ _ _ _ rfl (by decide) rfl (by intro x h; cases h)
theorem Opcodes.smulh (d : Sel) (a : Sel) (b : Sel) : Opcodes.Statement (.smulh d a b) := Opcodes.of_pack _ _ _ _ _ rfl (by decide) rfl (by intro x h; cases h)
theorem Opcodes.smulhn (d : Sel) (a : Sel) (b : Sel) : Opcodes.Statement (.smulhn d a b) := Opcodes.of_pack _ _ _ _ _ rfl (by decide) rfl (by intro x h; cases h)
theorem Opcodes.sand (d : Sel) (a : Sel) (b : Sel) : Opcodes.Statement (.sand d a b) := Opcodes.of_pack _ _ _ _ _ rfl (by decide) rfl (by intro x h; cases h)
theorem Opcodes.sor (d : Sel) (a : Sel) (b : Sel) : Opcodes.Statement (.sor d a b) := Opcodes.of_pack _ _ _ _ _ rfl (by decide) rfl (by intro x h; cases h)
theorem Opcodes.sxor (d : Sel) (a : Sel) (b : Sel) : Opcodes.Statement (.sxor d a b) := Opcodes.of_pack _ _ _ _ _ rfl (by decide) rfl (by intro x h; cases h)
theorem Opcodes.sshl (d : Sel) (a : Sel) (b : Sel) : Opcodes.Statement (.sshl d a b) := Opcodes.of_pack _ _ _ _ _ rfl (by decide) rfl (by intro x h; cases h)
theorem Opcodes.sshr (d : Sel) (a : Sel) (b : Sel) : Opcodes.Statement (.sshr d a b) := Opcodes.of_pack _ _ _ _ _ rfl (by decide) rfl (by intro x h; cases h)
theorem Opcodes.ssra (d : Sel) (a : Sel) (b : Sel) : Opcodes.Statement (.ssra d a b) := Opcodes.of_pack _ _ _ _ _ rfl (by decide) rfl (by intro x h; cases h)
theorem Opcodes.smin (d : Sel) (a : Sel) (b : Sel) : Opcodes.Statement (.smin d a b) := Opcodes.of_pack _ _ _ _ _ rfl (by decide) rfl (by intro x h; cases h)
theorem Opcodes.smax (d : Sel) (a : Sel) (b : Sel) : Opcodes.Statement (.smax d a b) := Opcodes.of_pack _ _ _ _ _ rfl (by decide) rfl (by intro x h; cases h)
theorem Opcodes.sminn (d : Sel) (a : Sel) (b : Sel) : Opcodes.Statement (.sminn d a b) := Opcodes.of_pack _ _ _ _ _ rfl (by decide) rfl (by intro x h; cases h)
theorem Opcodes.smaxn (d : Sel) (a : Sel) (b : Sel) : Opcodes.Statement (.smaxn d a b) := Opcodes.of_pack _ _ _ _ _ rfl (by decide) rfl (by intro x h; cases h)
theorem Opcodes.scmpeq (d : Sel) (a : Sel) (b : Sel) : Opcodes.Statement (.scmpeq d a b) := Opcodes.of_pack _ _ _ _ _ rfl (by decide) rfl (by intro x h; cases h)
theorem Opcodes.scmplt (d : Sel) (a : Sel) (b : Sel) : Opcodes.Statement (.scmplt d a b) := Opcodes.of_pack _ _ _ _ _ rfl (by decide) rfl (by intro x h; cases h)
theorem Opcodes.scmpltn (d : Sel) (a : Sel) (b : Sel) : Opcodes.Statement (.scmpltn d a b) := Opcodes.of_pack _ _ _ _ _ rfl (by decide) rfl (by intro x h; cases h)
theorem Opcodes.sclz (d : Sel) (a : Sel) : Opcodes.Statement (.sclz d a) := Opcodes.of_pack _ _ _ _ _ rfl (by decide) rfl (by intro x h; cases h)
theorem Opcodes.spopc (d : Sel) (a : Sel) : Opcodes.Statement (.spopc d a) := Opcodes.of_pack _ _ _ _ _ rfl (by decide) rfl (by intro x h; cases h)
theorem Opcodes.sld (d : Sel) (a : Sel) (b : Sel) : Opcodes.Statement (.sld d a b) := Opcodes.of_pack _ _ _ _ _ rfl (by decide) rfl (by intro x h; cases h)
theorem Opcodes.sld2 (d : Sel) (a : Sel) (b : Sel) : Opcodes.Statement (.sld2 d a b) := Opcodes.of_pack _ _ _ _ _ rfl (by decide) rfl (by intro x h; cases h)
theorem Opcodes.sst (d : Sel) (a : Sel) (b : Sel) : Opcodes.Statement (.sst d a b) := Opcodes.of_pack _ _ _ _ _ rfl (by decide) rfl (by intro x h; cases h)
theorem Opcodes.sst2 (d : Sel) (a : Sel) (b : Sel) : Opcodes.Statement (.sst2 d a b) := Opcodes.of_pack _ _ _ _ _ rfl (by decide) rfl (by intro x h; cases h)
theorem Opcodes.sfadd (d : Sel) (a : Sel) (b : Sel) : Opcodes.Statement (.sfadd d a b) := Opcodes.of_pack _ _ _ _ _ rfl (by decide) rfl (by intro x h; cases h)
theorem Opcodes.sfmul (d : Sel) (a : Sel) (b : Sel) : Opcodes.Statement (.sfmul d a b) := Opcodes.of_pack _ _ _ _ _ rfl (by decide) rfl (by intro x h; cases h)
theorem Opcodes.sfma (d : Sel) (a : Sel) (b : Sel) : Opcodes.Statement (.sfma d a b) := Opcodes.of_pack _ _ _ _ _ rfl (by decide) rfl (by intro x h; cases h)
theorem Opcodes.scvt (d : Sel) (a : Sel) (b : BitVec 8) : Opcodes.Statement (.scvt d a b) := Opcodes.of_pack _ _ _ _ _ rfl (by decide) rfl (by intro x h; cases h)
theorem Opcodes.sdivn (d : Sel) (a : Sel) (b : Sel) : Opcodes.Statement (.sdivn d a b) := Opcodes.of_pack _ _ _ _ _ rfl (by decide) rfl (by intro x h; cases h)
theorem Opcodes.sdiv (d : Sel) (a : Sel) (b : Sel) : Opcodes.Statement (.sdiv d a b) := Opcodes.of_pack _ _ _ _ _ rfl (by decide) rfl (by intro x h; cases h)
theorem Opcodes.srem (d : Sel) (a : Sel) (b : Sel) : Opcodes.Statement (.srem d a b) := Opcodes.of_pack _ _ _ _ _ rfl (by decide) rfl (by intro x h; cases h)
theorem Opcodes.vmov (d : Sel) (a : Sel) : Opcodes.Statement (.vmov d a) := Opcodes.of_pack _ _ _ _ _ rfl (by decide) rfl (by intro x h; cases h)
theorem Opcodes.vadd (d : Sel) (a : Sel) (b : Sel) : Opcodes.Statement (.vadd d a b) := Opcodes.of_pack _ _ _ _ _ rfl (by decide) rfl (by intro x h; cases h)
theorem Opcodes.vsub (d : Sel) (a : Sel) (b : Sel) : Opcodes.Statement (.vsub d a b) := Opcodes.of_pack _ _ _ _ _ rfl (by decide) rfl (by intro x h; cases h)
theorem Opcodes.vmul (d : Sel) (a : Sel) (b : Sel) : Opcodes.Statement (.vmul d a b) := Opcodes.of_pack _ _ _ _ _ rfl (by decide) rfl (by intro x h; cases h)
theorem Opcodes.vmulh (d : Sel) (a : Sel) (b : Sel) : Opcodes.Statement (.vmulh d a b) := Opcodes.of_pack _ _ _ _ _ rfl (by decide) rfl (by intro x h; cases h)
theorem Opcodes.vfma (d : Sel) (a : Sel) (b : Sel) : Opcodes.Statement (.vfma d a b) := Opcodes.of_pack _ _ _ _ _ rfl (by decide) rfl (by intro x h; cases h)
theorem Opcodes.vfnma (d : Sel) (a : Sel) (b : Sel) : Opcodes.Statement (.vfnma d a b) := Opcodes.of_pack _ _ _ _ _ rfl (by decide) rfl (by intro x h; cases h)
theorem Opcodes.vmad (d : Sel) (a : Sel) (b : Sel) : Opcodes.Statement (.vmad d a b) := Opcodes.of_pack _ _ _ _ _ rfl (by decide) rfl (by intro x h; cases h)
theorem Opcodes.vmin (d : Sel) (a : Sel) (b : Sel) : Opcodes.Statement (.vmin d a b) := Opcodes.of_pack _ _ _ _ _ rfl (by decide) rfl (by intro x h; cases h)
theorem Opcodes.vmax (d : Sel) (a : Sel) (b : Sel) : Opcodes.Statement (.vmax d a b) := Opcodes.of_pack _ _ _ _ _ rfl (by decide) rfl (by intro x h; cases h)
theorem Opcodes.vabs (d : Sel) (a : Sel) : Opcodes.Statement (.vabs d a) := Opcodes.of_pack _ _ _ _ _ rfl (by decide) rfl (by intro x h; cases h)
theorem Opcodes.vneg (d : Sel) (a : Sel) : Opcodes.Statement (.vneg d a) := Opcodes.of_pack _ _ _ _ _ rfl (by decide) rfl (by intro x h; cases h)
theorem Opcodes.vand (d : Sel) (a : Sel) (b : Sel) : Opcodes.Statement (.vand d a b) := Opcodes.of_pack _ _ _ _ _ rfl (by decide) rfl (by intro x h; cases h)
theorem Opcodes.vor (d : Sel) (a : Sel) (b : Sel) : Opcodes.Statement (.vor d a b) := Opcodes.of_pack _ _ _ _ _ rfl (by decide) rfl (by intro x h; cases h)
theorem Opcodes.vxor (d : Sel) (a : Sel) (b : Sel) : Opcodes.Statement (.vxor d a b) := Opcodes.of_pack _ _ _ _ _ rfl (by decide) rfl (by intro x h; cases h)
theorem Opcodes.vnot (d : Sel) (a : Sel) : Opcodes.Statement (.vnot d a) := Opcodes.of_pack _ _ _ _ _ rfl (by decide) rfl (by intro x h; cases h)
theorem Opcodes.vshl (d : Sel) (a : Sel) (b : Sel) : Opcodes.Statement (.vshl d a b) := Opcodes.of_pack _ _ _ _ _ rfl (by decide) rfl (by intro x h; cases h)
theorem Opcodes.vshr (d : Sel) (a : Sel) (b : Sel) : Opcodes.Statement (.vshr d a b) := Opcodes.of_pack _ _ _ _ _ rfl (by decide) rfl (by intro x h; cases h)
theorem Opcodes.vsra (d : Sel) (a : Sel) (b : Sel) : Opcodes.Statement (.vsra d a b) := Opcodes.of_pack _ _ _ _ _ rfl (by decide) rfl (by intro x h; cases h)
theorem Opcodes.vrot (d : Sel) (a : Sel) (b : Sel) : Opcodes.Statement (.vrot d a b) := Opcodes.of_pack _ _ _ _ _ rfl (by decide) rfl (by intro x h; cases h)
theorem Opcodes.vpopc (d : Sel) (a : Sel) : Opcodes.Statement (.vpopc d a) := Opcodes.of_pack _ _ _ _ _ rfl (by decide) rfl (by intro x h; cases h)
theorem Opcodes.vclz (d : Sel) (a : Sel) : Opcodes.Statement (.vclz d a) := Opcodes.of_pack _ _ _ _ _ rfl (by decide) rfl (by intro x h; cases h)
theorem Opcodes.vbrev (d : Sel) (a : Sel) : Opcodes.Statement (.vbrev d a) := Opcodes.of_pack _ _ _ _ _ rfl (by decide) rfl (by intro x h; cases h)
theorem Opcodes.vsel (d : Sel) (a : Sel) (b : Sel) : Opcodes.Statement (.vsel d a b) := Opcodes.of_pack _ _ _ _ _ rfl (by decide) rfl (by intro x h; cases h)
theorem Opcodes.vbcast (d : Sel) (a : Sel) (b : Sel) : Opcodes.Statement (.vbcast d a b) := Opcodes.of_pack _ _ _ _ _ rfl (by decide) rfl (by intro x h; cases h)
theorem Opcodes.vcvt (d : Sel) (a : Sel) (b : BitVec 8) : Opcodes.Statement (.vcvt d a b) := Opcodes.of_pack _ _ _ _ _ rfl (by decide) rfl (by intro x h; cases h)
theorem Opcodes.vrcp (d : Sel) (a : Sel) : Opcodes.Statement (.vrcp d a) := Opcodes.of_pack _ _ _ _ _ rfl (by decide) rfl (by intro x h; cases h)
theorem Opcodes.vrsq (d : Sel) (a : Sel) : Opcodes.Statement (.vrsq d a) := Opcodes.of_pack _ _ _ _ _ rfl (by decide) rfl (by intro x h; cases h)
theorem Opcodes.vsqrt (d : Sel) (a : Sel) : Opcodes.Statement (.vsqrt d a) := Opcodes.of_pack _ _ _ _ _ rfl (by decide) rfl (by intro x h; cases h)
theorem Opcodes.vexp2 (d : Sel) (a : Sel) : Opcodes.Statement (.vexp2 d a) := Opcodes.of_pack _ _ _ _ _ rfl (by decide) rfl (by intro x h; cases h)
theorem Opcodes.vlog2 (d : Sel) (a : Sel) : Opcodes.Statement (.vlog2 d a) := Opcodes.of_pack _ _ _ _ _ rfl (by decide) rfl (by intro x h; cases h)
theorem Opcodes.vsin (d : Sel) (a : Sel) : Opcodes.Statement (.vsin d a) := Opcodes.of_pack _ _ _ _ _ rfl (by decide) rfl (by intro x h; cases h)
theorem Opcodes.vcos (d : Sel) (a : Sel) : Opcodes.Statement (.vcos d a) := Opcodes.of_pack _ _ _ _ _ rfl (by decide) rfl (by intro x h; cases h)
theorem Opcodes.vtanh (d : Sel) (a : Sel) : Opcodes.Statement (.vtanh d a) := Opcodes.of_pack _ _ _ _ _ rfl (by decide) rfl (by intro x h; cases h)
theorem Opcodes.vrnd (d : Sel) (a : Sel) : Opcodes.Statement (.vrnd d a) := Opcodes.of_pack _ _ _ _ _ rfl (by decide) rfl (by intro x h; cases h)
theorem Opcodes.vfrc (d : Sel) (a : Sel) : Opcodes.Statement (.vfrc d a) := Opcodes.of_pack _ _ _ _ _ rfl (by decide) rfl (by intro x h; cases h)
theorem Opcodes.vldexp (d : Sel) (a : Sel) (b : Sel) : Opcodes.Statement (.vldexp d a b) := Opcodes.of_pack _ _ _ _ _ rfl (by decide) rfl (by intro x h; cases h)
theorem Opcodes.vcpsgn (d : Sel) (a : Sel) (b : Sel) : Opcodes.Statement (.vcpsgn d a b) := Opcodes.of_pack _ _ _ _ _ rfl (by decide) rfl (by intro x h; cases h)
theorem Opcodes.vdot4 (d : Sel) (a : Sel) (b : Sel) : Opcodes.Statement (.vdot4 d a b) := Opcodes.of_pack _ _ _ _ _ rfl (by decide) rfl (by intro x h; cases h)
theorem Opcodes.vdot2 (d : Sel) (a : Sel) (b : Sel) : Opcodes.Statement (.vdot2 d a b) := Opcodes.of_pack _ _ _ _ _ rfl (by decide) rfl (by intro x h; cases h)
theorem Opcodes.vshuf (d : Sel) (a : Sel) (b : BitVec 8) : Opcodes.Statement (.vshuf d a b) := Opcodes.of_pack _ _ _ _ _ rfl (by decide) rfl (by intro x h; cases h)
theorem Opcodes.vperm (d : Sel) (a : Sel) (b : Sel) : Opcodes.Statement (.vperm d a b) := Opcodes.of_pack _ _ _ _ _ rfl (by decide) rfl (by intro x h; cases h)
theorem Opcodes.vredadd (d : Sel) (a : Sel) : Opcodes.Statement (.vredadd d a) := Opcodes.of_pack _ _ _ _ _ rfl (by decide) rfl (by intro x h; cases h)
theorem Opcodes.vredmin (d : Sel) (a : Sel) : Opcodes.Statement (.vredmin d a) := Opcodes.of_pack _ _ _ _ _ rfl (by decide) rfl (by intro x h; cases h)
theorem Opcodes.vredmax (d : Sel) (a : Sel) : Opcodes.Statement (.vredmax d a) := Opcodes.of_pack _ _ _ _ _ rfl (by decide) rfl (by intro x h; cases h)
theorem Opcodes.vscan (d : Sel) (a : Sel) (b : BitVec 8) : Opcodes.Statement (.vscan d a b) := Opcodes.of_pack _ _ _ _ _ rfl (by decide) rfl (by intro x h; cases h)
theorem Opcodes.vscant (d : Sel) (a : Sel) (b : BitVec 8) : Opcodes.Statement (.vscant d a b) := Opcodes.of_pack _ _ _ _ _ rfl (by decide) rfl (by intro x h; cases h)
theorem Opcodes.vextr (d : Sel) (a : Sel) (b : Sel) : Opcodes.Statement (.vextr d a b) := Opcodes.of_pack _ _ _ _ _ rfl (by decide) rfl (by intro x h; cases h)
theorem Opcodes.vins (d : Sel) (a : Sel) (b : Sel) : Opcodes.Statement (.vins d a b) := Opcodes.of_pack _ _ _ _ _ rfl (by decide) rfl (by intro x h; cases h)
theorem Opcodes.vpack (d : Sel) (a : Sel) (b : Sel) : Opcodes.Statement (.vpack d a b) := Opcodes.of_pack _ _ _ _ _ rfl (by decide) rfl (by intro x h; cases h)
theorem Opcodes.vunpk (d : Sel) (a : Sel) (b : Sel) : Opcodes.Statement (.vunpk d a b) := Opcodes.of_pack _ _ _ _ _ rfl (by decide) rfl (by intro x h; cases h)
theorem Opcodes.vabsd (d : Sel) (a : Sel) (b : Sel) : Opcodes.Statement (.vabsd d a b) := Opcodes.of_pack _ _ _ _ _ rfl (by decide) rfl (by intro x h; cases h)
theorem Opcodes.vmovp (d : Sel) (a : Sel) : Opcodes.Statement (.vmovp d a) := Opcodes.of_pack _ _ _ _ _ rfl (by decide) rfl (by intro x h; cases h)
theorem Opcodes.vmsk (d : Sel) (a : Sel) : Opcodes.Statement (.vmsk d a) := Opcodes.of_pack _ _ _ _ _ rfl (by decide) rfl (by intro x h; cases h)
theorem Opcodes.vld1 (d : Sel) (a : Sel) (b : Sel) : Opcodes.Statement (.vld1 d a b) := Opcodes.of_pack _ _ _ _ _ rfl (by decide) rfl (by intro x h; cases h)
theorem Opcodes.vld2 (d : Sel) (a : Sel) (b : Sel) : Opcodes.Statement (.vld2 d a b) := Opcodes.of_pack _ _ _ _ _ rfl (by decide) rfl (by intro x h; cases h)
theorem Opcodes.vld4 (d : Sel) (a : Sel) (b : Sel) : Opcodes.Statement (.vld4 d a b) := Opcodes.of_pack _ _ _ _ _ rfl (by decide) rfl (by intro x h; cases h)
theorem Opcodes.vld8 (d : Sel) (a : Sel) (b : Sel) : Opcodes.Statement (.vld8 d a b) := Opcodes.of_pack _ _ _ _ _ rfl (by decide) rfl (by intro x h; cases h)
theorem Opcodes.vst1 (d : Sel) (a : Sel) (b : Sel) : Opcodes.Statement (.vst1 d a b) := Opcodes.of_pack _ _ _ _ _ rfl (by decide) rfl (by intro x h; cases h)
theorem Opcodes.vst2 (d : Sel) (a : Sel) (b : Sel) : Opcodes.Statement (.vst2 d a b) := Opcodes.of_pack _ _ _ _ _ rfl (by decide) rfl (by intro x h; cases h)
theorem Opcodes.vst4 (d : Sel) (a : Sel) (b : Sel) : Opcodes.Statement (.vst4 d a b) := Opcodes.of_pack _ _ _ _ _ rfl (by decide) rfl (by intro x h; cases h)
theorem Opcodes.vst8 (d : Sel) (a : Sel) (b : Sel) : Opcodes.Statement (.vst8 d a b) := Opcodes.of_pack _ _ _ _ _ rfl (by decide) rfl (by intro x h; cases h)
theorem Opcodes.pld1 (d : Sel) (a : Sel) (b : Sel) : Opcodes.Statement (.pld1 d a b) := Opcodes.of_pack _ _ _ _ _ rfl (by decide) rfl (by intro x h; cases h)
theorem Opcodes.pld2 (d : Sel) (a : Sel) (b : Sel) : Opcodes.Statement (.pld2 d a b) := Opcodes.of_pack _ _ _ _ _ rfl (by decide) rfl (by intro x h; cases h)
theorem Opcodes.pld4 (d : Sel) (a : Sel) (b : Sel) : Opcodes.Statement (.pld4 d a b) := Opcodes.of_pack _ _ _ _ _ rfl (by decide) rfl (by intro x h; cases h)
theorem Opcodes.pst1 (d : Sel) (a : Sel) (b : Sel) : Opcodes.Statement (.pst1 d a b) := Opcodes.of_pack _ _ _ _ _ rfl (by decide) rfl (by intro x h; cases h)
theorem Opcodes.pst2 (d : Sel) (a : Sel) (b : Sel) : Opcodes.Statement (.pst2 d a b) := Opcodes.of_pack _ _ _ _ _ rfl (by decide) rfl (by intro x h; cases h)
theorem Opcodes.pst4 (d : Sel) (a : Sel) (b : Sel) : Opcodes.Statement (.pst4 d a b) := Opcodes.of_pack _ _ _ _ _ rfl (by decide) rfl (by intro x h; cases h)
theorem Opcodes.cld (d : Sel) (a : Sel) (b : Sel) : Opcodes.Statement (.cld d a b) := Opcodes.of_pack _ _ _ _ _ rfl (by decide) rfl (by intro x h; cases h)
theorem Opcodes.smpl (d : Sel) (a : Sel) (b : Sel) : Opcodes.Statement (.smpl d a b) := Opcodes.of_pack _ _ _ _ _ rfl (by decide) rfl (by intro x h; cases h)
theorem Opcodes.tlld (d : Sel) (a : Sel) (b : Sel) : Opcodes.Statement (.tlld d a b) := Opcodes.of_pack _ _ _ _ _ rfl (by decide) rfl (by intro x h; cases h)
theorem Opcodes.pfence (d : BitVec 8) : Opcodes.Statement (.pfence d) := Opcodes.of_pack _ _ _ _ _ rfl (by decide) rfl (by intro x h; cases h)
theorem Opcodes.cpy (d : Sel) (a : Sel) (b : Sel) : Opcodes.Statement (.cpy d a b) := Opcodes.of_pack _ _ _ _ _ rfl (by decide) rfl (by intro x h; cases h)
theorem Opcodes.cpyt (d : Sel) (a : Sel) (b : Sel) : Opcodes.Statement (.cpyt d a b) := Opcodes.of_pack _ _ _ _ _ rfl (by decide) rfl (by intro x h; cases h)
theorem Opcodes.cpyo (d : Sel) (a : Sel) (b : Sel) : Opcodes.Statement (.cpyo d a b) := Opcodes.of_pack _ _ _ _ _ rfl (by decide) rfl (by intro x h; cases h)
theorem Opcodes.pres (a : Sel) (b : Sel) : Opcodes.Statement (.pres a b) := Opcodes.of_pack _ _ _ _ _ rfl (by decide) rfl (by intro x h; cases h)
theorem Opcodes.pinv (a : Sel) (b : Sel) : Opcodes.Statement (.pinv a b) := Opcodes.of_pack _ _ _ _ _ rfl (by decide) rfl (by intro x h; cases h)
theorem Opcodes.pref (a : Sel) (b : Sel) : Opcodes.Statement (.pref a b) := Opcodes.of_pack _ _ _ _ _ rfl (by decide) rfl (by intro x h; cases h)
theorem Opcodes.cflush (a : Sel) (b : Sel) : Opcodes.Statement (.cflush a b) := Opcodes.of_pack _ _ _ _ _ rfl (by decide) rfl (by intro x h; cases h)
theorem Opcodes.cinv (a : Sel) (b : Sel) : Opcodes.Statement (.cinv a b) := Opcodes.of_pack _ _ _ _ _ rfl (by decide) rfl (by intro x h; cases h)
theorem Opcodes.qbind (d : Sel) (a : Sel) (b : BitVec 8) : Opcodes.Statement (.qbind d a b) := Opcodes.of_pack _ _ _ _ _ rfl (by decide) rfl (by intro x h; cases h)
theorem Opcodes.qtry (d : Sel) (a : Sel) : Opcodes.Statement (.qtry d a) := Opcodes.of_pack _ _ _ _ _ rfl (by decide) rfl (by intro x h; cases h)
theorem Opcodes.qfence (a : Sel) : Opcodes.Statement (.qfence a) := Opcodes.of_pack _ _ _ _ _ rfl (by decide) rfl (by intro x h; cases h)
theorem Opcodes.tkinit (a : Sel) (b : Sel) : Opcodes.Statement (.tkinit a b) := Opcodes.of_pack _ _ _ _ _ rfl (by decide) rfl (by intro x h; cases h)
theorem Opcodes.tkarr (a : Sel) : Opcodes.Statement (.tkarr a) := Opcodes.of_pack _ _ _ _ _ rfl (by decide) rfl (by intro x h; cases h)
theorem Opcodes.tkwait (a : Sel) (b : Sel) : Opcodes.Statement (.tkwait a b) := Opcodes.of_pack _ _ _ _ _ rfl (by decide) rfl (by intro x h; cases h)
theorem Opcodes.tkaw (a : Sel) : Opcodes.Statement (.tkaw a) := Opcodes.of_pack _ _ _ _ _ rfl (by decide) rfl (by intro x h; cases h)
theorem Opcodes.tkexp (a : Sel) (b : Sel) : Opcodes.Statement (.tkexp a b) := Opcodes.of_pack _ _ _ _ _ rfl (by decide) rfl (by intro x h; cases h)
theorem Opcodes.fence : Opcodes.Statement .fence := Opcodes.of_pack _ _ _ _ _ rfl (by decide) rfl (by intro x h; cases h)
theorem Opcodes.rdand (a : Sel) (b : Sel) : Opcodes.Statement (.rdand a b) := Opcodes.of_pack _ _ _ _ _ rfl (by decide) rfl (by intro x h; cases h)
theorem Opcodes.rdor (a : Sel) (b : Sel) : Opcodes.Statement (.rdor a b) := Opcodes.of_pack _ _ _ _ _ rfl (by decide) rfl (by intro x h; cases h)
theorem Opcodes.rdxor (a : Sel) (b : Sel) : Opcodes.Statement (.rdxor a b) := Opcodes.of_pack _ _ _ _ _ rfl (by decide) rfl (by intro x h; cases h)
theorem Opcodes.dfadd (d : Sel) (a : Sel) (b : Sel) : Opcodes.Statement (.dfadd d a b) := Opcodes.of_pack _ _ _ _ _ rfl (by decide) rfl (by intro x h; cases h)
theorem Opcodes.dmin (d : Sel) (a : Sel) (b : Sel) : Opcodes.Statement (.dmin d a b) := Opcodes.of_pack _ _ _ _ _ rfl (by decide) rfl (by intro x h; cases h)
theorem Opcodes.dmax (d : Sel) (a : Sel) (b : Sel) : Opcodes.Statement (.dmax d a b) := Opcodes.of_pack _ _ _ _ _ rfl (by decide) rfl (by intro x h; cases h)
theorem Opcodes.dxchg (d : Sel) (a : Sel) (b : Sel) : Opcodes.Statement (.dxchg d a b) := Opcodes.of_pack _ _ _ _ _ rfl (by decide) rfl (by intro x h; cases h)
theorem Opcodes.chunk (d : Sel) (a : Sel) : Opcodes.Statement (.chunk d a) := Opcodes.of_pack _ _ _ _ _ rfl (by decide) rfl (by intro x h; cases h)
theorem Opcodes.aadd (d : Sel) (a : Sel) (b : Sel) : Opcodes.Statement (.aadd d a b) := Opcodes.of_pack _ _ _ _ _ rfl (by decide) rfl (by intro x h; cases h)
theorem Opcodes.afadd (d : Sel) (a : Sel) (b : Sel) : Opcodes.Statement (.afadd d a b) := Opcodes.of_pack _ _ _ _ _ rfl (by decide) rfl (by intro x h; cases h)
theorem Opcodes.amin (d : Sel) (a : Sel) (b : Sel) : Opcodes.Statement (.amin d a b) := Opcodes.of_pack _ _ _ _ _ rfl (by decide) rfl (by intro x h; cases h)
theorem Opcodes.amax (d : Sel) (a : Sel) (b : Sel) : Opcodes.Statement (.amax d a b) := Opcodes.of_pack _ _ _ _ _ rfl (by decide) rfl (by intro x h; cases h)
theorem Opcodes.aand (d : Sel) (a : Sel) (b : Sel) : Opcodes.Statement (.aand d a b) := Opcodes.of_pack _ _ _ _ _ rfl (by decide) rfl (by intro x h; cases h)
theorem Opcodes.aor (d : Sel) (a : Sel) (b : Sel) : Opcodes.Statement (.aor d a b) := Opcodes.of_pack _ _ _ _ _ rfl (by decide) rfl (by intro x h; cases h)
theorem Opcodes.axor (d : Sel) (a : Sel) (b : Sel) : Opcodes.Statement (.axor d a b) := Opcodes.of_pack _ _ _ _ _ rfl (by decide) rfl (by intro x h; cases h)
theorem Opcodes.axchg (d : Sel) (a : Sel) (b : Sel) : Opcodes.Statement (.axchg d a b) := Opcodes.of_pack _ _ _ _ _ rfl (by decide) rfl (by intro x h; cases h)
theorem Opcodes.acas (d : Sel) (a : Sel) (b : Sel) : Opcodes.Statement (.acas d a b) := Opcodes.of_pack _ _ _ _ _ rfl (by decide) rfl (by intro x h; cases h)
theorem Opcodes.acas2 (d : Sel) (a : Sel) (b : Sel) : Opcodes.Statement (.acas2 d a b) := Opcodes.of_pack _ _ _ _ _ rfl (by decide) rfl (by intro x h; cases h)
theorem Opcodes.acas4 (d : Sel) (a : Sel) (b : Sel) : Opcodes.Statement (.acas4 d a b) := Opcodes.of_pack _ _ _ _ _ rfl (by decide) rfl (by intro x h; cases h)
theorem Opcodes.rdadd (a : Sel) (b : Sel) : Opcodes.Statement (.rdadd a b) := Opcodes.of_pack _ _ _ _ _ rfl (by decide) rfl (by intro x h; cases h)
theorem Opcodes.rdfadd (a : Sel) (b : Sel) : Opcodes.Statement (.rdfadd a b) := Opcodes.of_pack _ _ _ _ _ rfl (by decide) rfl (by intro x h; cases h)
theorem Opcodes.rdmin (a : Sel) (b : Sel) : Opcodes.Statement (.rdmin a b) := Opcodes.of_pack _ _ _ _ _ rfl (by decide) rfl (by intro x h; cases h)
theorem Opcodes.rdmax (a : Sel) (b : Sel) : Opcodes.Statement (.rdmax a b) := Opcodes.of_pack _ _ _ _ _ rfl (by decide) rfl (by intro x h; cases h)
theorem Opcodes.dadd (d : Sel) (a : Sel) (b : Sel) : Opcodes.Statement (.dadd d a b) := Opcodes.of_pack _ _ _ _ _ rfl (by decide) rfl (by intro x h; cases h)
theorem Opcodes.enq (d : Sel) (a : Sel) : Opcodes.Statement (.enq d a) := Opcodes.of_pack _ _ _ _ _ rfl (by decide) rfl (by intro x h; cases h)
theorem Opcodes.deq (d : Sel) (a : Sel) : Opcodes.Statement (.deq d a) := Opcodes.of_pack _ _ _ _ _ rfl (by decide) rfl (by intro x h; cases h)
theorem Opcodes.deqtry (d : Sel) (a : Sel) (b : Sel) : Opcodes.Statement (.deqtry d a b) := Opcodes.of_pack _ _ _ _ _ rfl (by decide) rfl (by intro x h; cases h)
theorem Opcodes.knotinit (a : Sel) (b : Sel) : Opcodes.Statement (.knotinit a b) := Opcodes.of_pack _ _ _ _ _ rfl (by decide) rfl (by intro x h; cases h)
theorem Opcodes.knotadd (a : Sel) (b : Sel) : Opcodes.Statement (.knotadd a b) := Opcodes.of_pack _ _ _ _ _ rfl (by decide) rfl (by intro x h; cases h)
theorem Opcodes.knotdec (a : Sel) (b : Sel) : Opcodes.Statement (.knotdec a b) := Opcodes.of_pack _ _ _ _ _ rfl (by decide) rfl (by intro x h; cases h)
theorem Opcodes.knotbind (d : Sel) (a : Sel) (b : Sel) : Opcodes.Statement (.knotbind d a b) := Opcodes.of_pack _ _ _ _ _ rfl (by decide) rfl (by intro x h; cases h)
theorem Opcodes.launch (a : Sel) (b : Sel) : Opcodes.Statement (.launch a b) := Opcodes.of_pack _ _ _ _ _ rfl (by decide) rfl (by intro x h; cases h)
theorem Opcodes.rfsrc (d : Sel) (a : Sel) : Opcodes.Statement (.rfsrc d a) := Opcodes.of_pack _ _ _ _ _ rfl (by decide) rfl (by intro x h; cases h)
theorem Opcodes.trace (d : Sel) (a : Sel) : Opcodes.Statement (.trace d a) := Opcodes.of_pack _ _ _ _ _ rfl (by decide) rfl (by intro x h; cases h)
theorem Opcodes.trstop (a : Sel) : Opcodes.Statement (.trstop a) := Opcodes.of_pack _ _ _ _ _ rfl (by decide) rfl (by intro x h; cases h)
theorem Opcodes.qlen (d : Sel) (a : Sel) (b : Sel) : Opcodes.Statement (.qlen d a b) := Opcodes.of_pack _ _ _ _ _ rfl (by decide) rfl (by intro x h; cases h)
theorem Opcodes.mma (d : Sel) (a : Sel) (b : Sel) : Opcodes.Statement (.mma d a b) := Opcodes.of_pack _ _ _ _ _ rfl (by decide) rfl (by intro x h; cases h)
theorem Opcodes.mloop (d : Sel) (a : Sel) : Opcodes.Statement (.mloop d a) := Opcodes.of_pack _ _ _ _ _ rfl (by decide) rfl (by intro x h; cases h)
theorem Opcodes.mgrp (d : Sel) (a : Sel) (b : Sel) : Opcodes.Statement (.mgrp d a b) := Opcodes.of_pack _ _ _ _ _ rfl (by decide) rfl (by intro x h; cases h)
theorem Opcodes.swsel (a : Sel) : Opcodes.Statement (.swsel a) := Opcodes.of_pack _ _ _ _ _ rfl (by decide) rfl (by intro x h; cases h)
theorem Opcodes.acwin (d : Sel) (a : Sel) : Opcodes.Statement (.acwin d a) := Opcodes.of_pack _ _ _ _ _ rfl (by decide) rfl (by intro x h; cases h)
theorem Opcodes.aczero (a : Sel) (b : Sel) : Opcodes.Statement (.aczero a b) := Opcodes.of_pack _ _ _ _ _ rfl (by decide) rfl (by intro x h; cases h)
theorem Opcodes.acrd (d : Sel) (a : Sel) (b : Sel) : Opcodes.Statement (.acrd d a b) := Opcodes.of_pack _ _ _ _ _ rfl (by decide) rfl (by intro x h; cases h)
theorem Opcodes.acrdx (d : Sel) (a : Sel) (b : Sel) : Opcodes.Statement (.acrdx d a b) := Opcodes.of_pack _ _ _ _ _ rfl (by decide) rfl (by intro x h; cases h)
theorem Opcodes.acwr (a : Sel) (b : Sel) : Opcodes.Statement (.acwr a b) := Opcodes.of_pack _ _ _ _ _ rfl (by decide) rfl (by intro x h; cases h)
theorem Opcodes.acadd (a : Sel) (b : Sel) : Opcodes.Statement (.acadd a b) := Opcodes.of_pack _ _ _ _ _ rfl (by decide) rfl (by intro x h; cases h)
theorem Opcodes.qblk (d : Sel) (a : Sel) (b : Sel) : Opcodes.Statement (.qblk d a b) := Opcodes.of_pack _ _ _ _ _ rfl (by decide) rfl (by intro x h; cases h)
theorem Opcodes.dqblk (d : Sel) (a : Sel) (b : Sel) : Opcodes.Statement (.dqblk d a b) := Opcodes.of_pack _ _ _ _ _ rfl (by decide) rfl (by intro x h; cases h)
theorem Opcodes.patld (d : Sel) (a : Sel) (b : Sel) : Opcodes.Statement (.patld d a b) := Opcodes.of_pack _ _ _ _ _ rfl (by decide) rfl (by intro x h; cases h)
theorem Opcodes.patst (d : Sel) (a : Sel) (b : Sel) : Opcodes.Statement (.patst d a b) := Opcodes.of_pack _ _ _ _ _ rfl (by decide) rfl (by intro x h; cases h)
theorem Opcodes.pataddr (d : Sel) (a : Sel) (b : Sel) : Opcodes.Statement (.pataddr d a b) := Opcodes.of_pack _ _ _ _ _ rfl (by decide) rfl (by intro x h; cases h)
theorem Opcodes.patinv (a : Sel) : Opcodes.Statement (.patinv a) := Opcodes.of_pack _ _ _ _ _ rfl (by decide) rfl (by intro x h; cases h)
theorem Opcodes.patcf (a : Sel) (b : Sel) : Opcodes.Statement (.patcf a b) := Opcodes.of_pack _ _ _ _ _ rfl (by decide) rfl (by intro x h; cases h)
theorem Opcodes.pleat (d : Sel) (a : Sel) (b : Sel) : Opcodes.Statement (.pleat d a b) := Opcodes.of_pack _ _ _ _ _ rfl (by decide) rfl (by intro x h; cases h)
theorem Opcodes.plarg (d : Sel) : Opcodes.Statement (.plarg d) := Opcodes.of_pack _ _ _ _ _ rfl (by decide) rfl (by intro x h; cases h)
theorem Opcodes.plreply (a : Sel) : Opcodes.Statement (.plreply a) := Opcodes.of_pack _ _ _ _ _ rfl (by decide) rfl (by intro x h; cases h)
theorem Opcodes.pldone : Opcodes.Statement .pldone := Opcodes.of_pack _ _ _ _ _ rfl (by decide) rfl (by intro x h; cases h)
theorem Opcodes.peerld (d : Sel) (a : Sel) (b : Sel) : Opcodes.Statement (.peerld d a b) := Opcodes.of_pack _ _ _ _ _ rfl (by decide) rfl (by intro x h; cases h)
theorem Opcodes.peerst (d : Sel) (a : Sel) (b : Sel) : Opcodes.Statement (.peerst d a b) := Opcodes.of_pack _ _ _ _ _ rfl (by decide) rfl (by intro x h; cases h)
theorem Opcodes.peeradd (d : Sel) (a : Sel) (b : Sel) : Opcodes.Statement (.peeradd d a b) := Opcodes.of_pack _ _ _ _ _ rfl (by decide) rfl (by intro x h; cases h)
theorem Opcodes.vdie (d : Sel) : Opcodes.Statement (.vdie d) := Opcodes.of_pack _ _ _ _ _ rfl (by decide) rfl (by intro x h; cases h)
theorem Opcodes.hops (d : Sel) (a : Sel) (b : Sel) : Opcodes.Statement (.hops d a b) := Opcodes.of_pack _ _ _ _ _ rfl (by decide) rfl (by intro x h; cases h)
theorem Opcodes.fsdrain (a : Sel) (b : Sel) : Opcodes.Statement (.fsdrain a b) := Opcodes.of_pack _ _ _ _ _ rfl (by decide) rfl (by intro x h; cases h)
theorem Opcodes.fsconf (a : Sel) (b : Sel) : Opcodes.Statement (.fsconf a b) := Opcodes.of_pack _ _ _ _ _ rfl (by decide) rfl (by intro x h; cases h)
theorem Opcodes.trap (b : BitVec 8) : Opcodes.Statement (.trap b) := Opcodes.of_pack _ _ _ _ _ rfl (by decide) rfl (by intro x h; cases h)
theorem Opcodes.brk (b : BitVec 8) : Opcodes.Statement (.brk b) := Opcodes.of_pack _ _ _ _ _ rfl (by decide) rfl (by intro x h; cases h)
theorem Opcodes.srd (d : Sel) (n : BitVec 16) : Opcodes.Statement (.srd d n) := Opcodes.of_pack _ _ _ _ _ rfl (by decide) rfl (by intro x h; cases h)
theorem Opcodes.swr (n : BitVec 16) (b : Sel) : Opcodes.Statement (.swr n b) := Opcodes.of_pack _ _ _ _ _ rfl (by decide) rfl (by intro x h; cases h)
theorem Opcodes.invpg (d : Sel) (a : Sel) (b : Sel) : Opcodes.Statement (.invpg d a b) := Opcodes.of_pack _ _ _ _ _ rfl (by decide) rfl (by intro x h; cases h)
theorem Opcodes.invcf : Opcodes.Statement .invcf := Opcodes.of_pack _ _ _ _ _ rfl (by decide) rfl (by intro x h; cases h)
theorem Opcodes.place (a : Sel) (b : Sel) : Opcodes.Statement (.place a b) := Opcodes.of_pack _ _ _ _ _ rfl (by decide) rfl (by intro x h; cases h)
theorem Opcodes.preempt (a : Sel) : Opcodes.Statement (.preempt a) := Opcodes.of_pack _ _ _ _ _ rfl (by decide) rfl (by intro x h; cases h)
theorem Opcodes.seal (d : Sel) (a : Sel) (b : Sel) : Opcodes.Statement (.seal d a b) := Opcodes.of_pack _ _ _ _ _ rfl (by decide) rfl (by intro x h; cases h)
theorem Opcodes.unseal (d : Sel) (a : Sel) : Opcodes.Statement (.unseal d a) := Opcodes.of_pack _ _ _ _ _ rfl (by decide) rfl (by intro x h; cases h)
theorem Opcodes.audrd (d : Sel) (a : Sel) (b : Sel) : Opcodes.Statement (.audrd d a b) := Opcodes.of_pack _ _ _ _ _ rfl (by decide) rfl (by intro x h; cases h)
theorem Opcodes.fltack (a : Sel) (b : BitVec 8) : Opcodes.Statement (.fltack a b) := Opcodes.of_pack _ _ _ _ _ rfl (by decide) rfl (by intro x h; cases h)
theorem Opcodes.resume (a : Sel) : Opcodes.Statement (.resume a) := Opcodes.of_pack _ _ _ _ _ rfl (by decide) rfl (by intro x h; cases h)
theorem Opcodes.discard (d : Sel) (a : Sel) (b : Sel) : Opcodes.Statement (.discard d a b) := Opcodes.of_pack _ _ _ _ _ rfl (by decide) rfl (by intro x h; cases h)
theorem Opcodes.attest (d : Sel) (a : Sel) (b : Sel) : Opcodes.Statement (.attest d a b) := Opcodes.of_pack _ _ _ _ _ rfl (by decide) rfl (by intro x h; cases h)
theorem Opcodes.clauseFetch (t : Nat) : Opcodes.Statement (.clauseFetch t) := Opcodes.of_none _ rfl
theorem Opcodes.clauseStart (t : Nat) : Opcodes.Statement (.clauseStart t) := Opcodes.of_none _ rfl
theorem Opcodes.refillWake (t : Nat) : Opcodes.Statement (.refillWake t) := Opcodes.of_none _ rfl
theorem Opcodes.recordDelivery (o : Nat) : Opcodes.Statement (.recordDelivery o) := Opcodes.of_none _ rfl
theorem Opcodes.deqResume (t : Nat) : Opcodes.Statement (.deqResume t) := Opcodes.of_none _ rfl
theorem Opcodes.issuePick (core : Nat) (slot : Nat) : Opcodes.Statement (.issuePick core slot) := Opcodes.of_none _ rfl
theorem Opcodes.operationComplete (o : Nat) : Opcodes.Statement (.operationComplete o) := Opcodes.of_none _ rfl
theorem Opcodes.loadReturn (o : Nat) (k : Nat) : Opcodes.Statement (.loadReturn o k) := Opcodes.of_none _ rfl
theorem Opcodes.storePerform (w : Nat) : Opcodes.Statement (.storePerform w) := Opcodes.of_none _ rfl
theorem Opcodes.postedDrain (e : Nat) : Opcodes.Statement (.postedDrain e) := Opcodes.of_none _ rfl
theorem Opcodes.atomicPerform (o : Nat) (k : Nat) : Opcodes.Statement (.atomicPerform o k) := Opcodes.of_none _ rfl
theorem Opcodes.directedDelivery (o : Nat) : Opcodes.Statement (.directedDelivery o) := Opcodes.of_none _ rfl
theorem Opcodes.enqPublish (o : Nat) : Opcodes.Statement (.enqPublish o) := Opcodes.of_none _ rfl
theorem Opcodes.knotOperation (o : Nat) : Opcodes.Statement (.knotOperation o) := Opcodes.of_none _ rfl
theorem Opcodes.knotFireRetry (part : Nat) (n : Nat) : Opcodes.Statement (.knotFireRetry part n) := Opcodes.of_none _ rfl
theorem Opcodes.clusterPlace (g : Nat) (vd : Nat) (origin : Nat) : Opcodes.Statement (.clusterPlace g vd origin) := Opcodes.of_none _ rfl
theorem Opcodes.teamSpill (t : Nat) : Opcodes.Statement (.teamSpill t) := Opcodes.of_none _ rfl
theorem Opcodes.teamRestore (t : Nat) : Opcodes.Statement (.teamRestore t) := Opcodes.of_none _ rfl
theorem Opcodes.copyLineLand (o : Nat) (k : Nat) : Opcodes.Statement (.copyLineLand o k) := Opcodes.of_none _ rfl
theorem Opcodes.copyComplete (o : Nat) : Opcodes.Statement (.copyComplete o) := Opcodes.of_none _ rfl
theorem Opcodes.presenceWake (t : Nat) : Opcodes.Statement (.presenceWake t) := Opcodes.of_none _ rfl
theorem Opcodes.tackWake (t : Nat) : Opcodes.Statement (.tackWake t) := Opcodes.of_none _ rfl
theorem Opcodes.fifoPopWake (t : Nat) : Opcodes.Statement (.fifoPopWake t) := Opcodes.of_none _ rfl
theorem Opcodes.engineRecordEntry (t : Nat) (q : BitVec 4) : Opcodes.Statement (.engineRecordEntry t q) := Opcodes.of_none _ rfl
theorem Opcodes.engineCopyIn (o : Nat) : Opcodes.Statement (.engineCopyIn o) := Opcodes.of_none _ rfl
theorem Opcodes.engineCopyOut (o : Nat) : Opcodes.Statement (.engineCopyOut o) := Opcodes.of_none _ rfl
theorem Opcodes.engineGather (e : Nat) : Opcodes.Statement (.engineGather e) := Opcodes.of_none _ rfl
theorem Opcodes.engineReduce (e : Nat) : Opcodes.Statement (.engineReduce e) := Opcodes.of_none _ rfl
theorem Opcodes.engineConvert (e : Nat) : Opcodes.Statement (.engineConvert e) := Opcodes.of_none _ rfl
theorem Opcodes.engineCompletion (e : Nat) : Opcodes.Statement (.engineCompletion e) := Opcodes.of_none _ rfl
theorem Opcodes.engineRecordFault (e : Nat) : Opcodes.Statement (.engineRecordFault e) := Opcodes.of_none _ rfl
theorem Opcodes.matrixStep (o : Nat) (g : Nat) : Opcodes.Statement (.matrixStep o g) := Opcodes.of_none _ rfl
theorem Opcodes.tracerPush (o : Nat) : Opcodes.Statement (.tracerPush o) := Opcodes.of_none _ rfl
theorem Opcodes.pleatInboxAccept (o : Nat) : Opcodes.Statement (.pleatInboxAccept o) := Opcodes.of_none _ rfl
theorem Opcodes.waveStart (x : Nat) : Opcodes.Statement (.waveStart x) := Opcodes.of_none _ rfl
theorem Opcodes.pleatReply (k : Nat) : Opcodes.Statement (.pleatReply k) := Opcodes.of_none _ rfl
theorem Opcodes.pleatResend (k : Nat) : Opcodes.Statement (.pleatResend k) := Opcodes.of_none _ rfl
theorem Opcodes.unitSend (o : Nat) : Opcodes.Statement (.unitSend o) := Opcodes.of_none _ rfl
theorem Opcodes.bucketRefill (part : Nat) (ctx : Nat) (die : Nat) : Opcodes.Statement (.bucketRefill part ctx die) := Opcodes.of_none _ rfl
theorem Opcodes.remoteAccess (u : FabUnit) : Opcodes.Statement (.remoteAccess u) := Opcodes.of_none _ rfl
theorem Opcodes.planeFail (plane : Nat) : Opcodes.Statement (.planeFail plane) := Opcodes.of_none _ rfl
theorem Opcodes.faultPartEnqueue (part : Nat) (ctx : Nat) (oper : Bool) : Opcodes.Statement (.faultPartEnqueue part ctx oper) := Opcodes.of_none _ rfl
theorem Opcodes.liningFlip (core : Nat) (part : Nat) (ctx : Nat) : Opcodes.Statement (.liningFlip core part ctx) := Opcodes.of_none _ rfl
theorem Opcodes.liningDrain (core : Nat) (part : Nat) (ctx : Nat) : Opcodes.Statement (.liningDrain core part ctx) := Opcodes.of_none _ rfl
theorem Opcodes.htabSync (part : Nat) (ctx : Nat) (slot : Nat) : Opcodes.Statement (.htabSync part ctx slot) := Opcodes.of_none _ rfl
theorem Opcodes.queueDescriptorWrite (part : Nat) (off : Nat) (v : BitVec 32) (trusted : Bool) : Opcodes.Statement (.queueDescriptorWrite part off v trusted) := Opcodes.of_none _ rfl
theorem Opcodes.registerWrite (fn : Nat) (off : Nat) (v : BitVec 32) (trusted : Bool) : Opcodes.Statement (.registerWrite fn off v trusted) := Opcodes.of_none _ rfl
theorem Opcodes.partShapeWrite (v : BitVec 32) : Opcodes.Statement (.partShapeWrite v) := Opcodes.of_none _ rfl
theorem Opcodes.merge (pair : Bool) : Opcodes.Statement (.merge pair) := Opcodes.of_none _ rfl
theorem Opcodes.split (pair : Bool) : Opcodes.Statement (.split pair) := Opcodes.of_none _ rfl
theorem Opcodes.contextCreate (part : Nat) (ctx : Nat) (auth : BitVec 2) : Opcodes.Statement (.contextCreate part ctx auth) := Opcodes.of_none _ rfl
theorem Opcodes.contextRemove (part : Nat) (ctx : Nat) : Opcodes.Statement (.contextRemove part ctx) := Opcodes.of_none _ rfl
theorem Opcodes.keyImport (part : Nat) (ctx : Nat) (trusted : Bool) (blob : List (BitVec 8)) : Opcodes.Statement (.keyImport part ctx trusted blob) := Opcodes.of_none _ rfl
theorem Opcodes.ringDoorbell (part : Nat) (ctx : Nat) (tail : BitVec 16) (entries : List (List (BitVec 8))) : Opcodes.Statement (.ringDoorbell part ctx tail entries) := Opcodes.of_none _ rfl
theorem Opcodes.ringLaunch (part : Nat) (ctx : Nat) : Opcodes.Statement (.ringLaunch part ctx) := Opcodes.of_none _ rfl
theorem Opcodes.ringEnq (part : Nat) (ctx : Nat) : Opcodes.Statement (.ringEnq part ctx) := Opcodes.of_none _ rfl
theorem Opcodes.ringKnotdec (part : Nat) (ctx : Nat) : Opcodes.Statement (.ringKnotdec part ctx) := Opcodes.of_none _ rfl
theorem Opcodes.ringSwr (part : Nat) (ctx : Nat) : Opcodes.Statement (.ringSwr part ctx) := Opcodes.of_none _ rfl
theorem Opcodes.debugStop (part : Nat) (ctx : Nat) (mask : BitVec 8) (trusted : Bool) : Opcodes.Statement (.debugStop part ctx mask trusted) := Opcodes.of_none _ rfl
theorem Opcodes.hostMemoryAccess (part : Nat) (ma : Nat) (data : Option (List (BitVec 8))) (n : Nat) : Opcodes.Statement (.hostMemoryAccess part ma data n) := Opcodes.of_none _ rfl
theorem Opcodes.functionLevelReset (fn : Nat) : Opcodes.Statement (.functionLevelReset fn) := Opcodes.of_none _ rfl
theorem Opcodes.linkTraining (pkg : BitVec 9) : Opcodes.Statement (.linkTraining pkg) := Opcodes.of_none _ rfl
theorem Opcodes.coreEnableBatch (die : Nat) : Opcodes.Statement (.coreEnableBatch die) := Opcodes.of_none _ rfl
theorem Opcodes.dieIdle (die : Nat) : Opcodes.Statement (.dieIdle die) := Opcodes.of_none _ rfl
theorem Opcodes.matrixSleep (core : Nat) : Opcodes.Statement (.matrixSleep core) := Opcodes.of_none _ rfl
theorem Opcodes.matrixWake (die : Nat) : Opcodes.Statement (.matrixWake die) := Opcodes.of_none _ rfl
theorem Opcodes.clockThrottle (die : Nat) : Opcodes.Statement (.clockThrottle die) := Opcodes.of_none _ rfl
theorem Opcodes.clockRaise (die : Nat) : Opcodes.Statement (.clockRaise die) := Opcodes.of_none _ rfl
theorem Opcodes.thermalTrip : Opcodes.Statement .thermalTrip := Opcodes.of_none _ rfl
theorem Opcodes.patrolScrub (granule : Nat) : Opcodes.Statement (.patrolScrub granule) := Opcodes.of_none _ rfl
theorem Opcodes.bootVerify : Opcodes.Statement .bootVerify := Opcodes.of_none _ rfl
theorem Opcodes.mgRec (v : BitVec 32) (last : Bool) : Opcodes.Statement (.mgRec v last) := Opcodes.of_none _ rfl
theorem Opcodes.registerRead (fn : Nat) (off : Nat) (trusted : Bool) : Opcodes.Statement (.registerRead fn off trusted) := Opcodes.of_none _ rfl
theorem Opcodes.spdmRequest (part : Nat) (req : SpdmReq) : Opcodes.Statement (.spdmRequest part req) := Opcodes.of_none _ rfl
theorem Opcodes.hostSnoop (ma : Nat) (write : Bool) : Opcodes.Statement (.hostSnoop ma write) := Opcodes.of_none _ rfl
theorem Opcodes.softError (site : ErrSite) (correctable : Bool) : Opcodes.Statement (.softError site correctable) := Opcodes.of_none _ rfl
theorem Opcodes.remoteDrainRequest (r : DrainMsg) : Opcodes.Statement (.remoteDrainRequest r) := Opcodes.of_none _ rfl

end Sys2Proof.Laws
end

