-- ==== Sys2Proof/Laws/Scalar.lean ====
section
/-! SUPPORT. Laws of the instructions that execute once on registers: what each shared shape of Scalar, Masks and Control gives past its checks. -/

namespace Sys2Proof.Machine

open Sys2Proof

theorem scalar_if (s : State) (i : Nat) (u v : Team) (a : Sel) (w : Word) (p : Prop) [Decidable p] :
    (if p then ({ s with cur := none } : State) else ({ s with cur := none } : State).setTeam i v).scalar u a w = s.scalar u a w := by
  split <;> rfl

theorem takes_scalarDst (t : Team) (d : Sel) (h : t.takes d) : scalarDst d = true := by
  cases d with
  | sp x => cases x <;> simp_all [Team.takes, scalarDst]
  | _ => simp_all [Team.takes, scalarDst]

theorem scalar1_of (s : State) (i : Nat) (t u : Team) (q : Nat → Nat → Word) (d a : Sel) (f : Word → Word) (h : Issues s i t)
    (ha : t.scalarSrc a = true) (ra : t.readable a) (pd : t.pushCheck d = none) (hr : Reads t (popsOnce [(0, a)]) u q) (hd : u.takes d) :
    scalar1 d a f s = .next (s.done i (u.put d (f (s.scalar u a (q 0 0))))) := by
  unfold scalar1
  rw [once_of s i t u q h _ _ _ ?_ hr]
  · rw [settle_putScalar _ _ _ _ _ _ _ _ hd]
    simp only [scalar_if]
  · unfold Team.readable at ra
    simp [firstCause, need, takes_scalarDst u d hd, ha, pd, ra]

theorem scalar2_of (s : State) (i : Nat) (t u : Team) (q : Nat → Nat → Word) (d a b : Sel) (f : Word → Word → Word) (h : Issues s i t)
    (ha : t.scalarSrc a = true) (hb : t.scalarSrc b = true) (ra : t.readable a) (rb : t.readable b) (pd : t.pushCheck d = none)
    (hr : Reads t (popsOnce [(0, a), (1, b)]) u q) (hd : u.takes d) :
    scalar2 d a b f s = .next (s.done i (u.put d (f (s.scalar u a (q 0 0)) (s.scalar u b (q 1 0))))) := by
  unfold scalar2
  rw [once_of s i t u q h _ _ _ ?_ hr]
  · rw [settle_putScalar _ _ _ _ _ _ _ _ hd]
    simp only [scalar_if]
  · unfold Team.readable at ra rb
    simp [firstCause, need, takes_scalarDst u d hd, ha, hb, pd, ra, rb]

/-- A destination still takes a word after sticky bits have been set. -/
theorem takes_addStatus (t : Team) (d : Sel) (x : Nat) (h : t.takes d) : (t.addStatus x).takes d := by
  cases d <;> exact h

theorem scalarF_of (s : State) (i : Nat) (t u : Team) (q : Nat → Nat → Word) (d a b : Sel) (dread : Bool)
    (f : Rnd → Bool → Nat → Nat → Nat → Nat × Nat) (h : Issues s i t) (hs : dread = true → isS d = true)
    (ha : t.scalarSrc a = true) (hb : t.scalarSrc b = true) (ra : t.readable a) (rb : t.readable b) (pd : t.pushCheck d = none)
    (hr : Reads t (popsOnce [(0, a), (1, b)]) u q) (hd : u.takes d) :
    scalarF s d a b dread f =
      let r := f u.rnd u.flush (s.scalar u a (q 0 0)).toNat (s.scalar u b (q 1 0)).toNat (if dread then (s.scalar u d 0).toNat else 0)
      .next (s.done i ((u.addStatus r.2).put d (BitVec.ofNat 32 r.1))) := by
  unfold scalarF
  rw [once_of s i t u q h _ _ _ ?_ hr]
  · simp only [scalar_if]
    rw [settle_putScalar _ _ _ _ _ _ _ _ (takes_addStatus u d _ hd)]
  · unfold Team.readable at ra rb
    cases dread with
    | false => simp [firstCause, need, takes_scalarDst u d hd, ha, hb, pd, ra, rb]
    | true => simp [firstCause, need, hs rfl, ha, hb, pd, ra, rb]

theorem maskOp_of (s : State) (i : Nat) (t : Team) (d : Sel) (ss : List Sel) (f : Team → Mask) (h : Issues s i t)
    (hd : maskDst d = true) (hs : ss.all maskSrc = true) : maskOp d ss f s = .next (s.done i (t.putMask d (f t))) := by
  unfold maskOp
  rw [once_of s i t t (fun _ _ => 0) h _ _ _ ?_ (by simp [Reads, popsOnce])]
  · simp only [popsOnce, List.filterMap_nil, if_true]
    rw [settle_setTeam]
  · rw [hd, hs]
    rfl

theorem maskToScalar_of (s : State) (i : Nat) (t : Team) (d a : Sel) (f : Mask → Word) (h : Issues s i t)
    (ha : maskSrc a = true) (pd : t.pushCheck d = none) (hd : t.takes d) :
    maskToScalar d a f s = .next (s.done i (t.put d (f (t.mask a)))) := by
  unfold maskToScalar
  rw [once_of s i t t (fun _ _ => 0) h _ _ _ ?_ (by simp [Reads, popsOnce])]
  · rw [settle_putScalar _ _ _ _ _ _ _ _ hd]
  · simp [firstCause, need, takes_scalarDst t d hd, ha, pd]

end Sys2Proof.Machine
end

