-- ==== Sys2Proof/Laws/Shapes.lean ====
section
/-! SUPPORT. Laws of the shared shapes of the instructions: what each answers past its checks. -/

namespace Sys2Proof.Machine

open Sys2Proof

/-- Lanes kept by a flag they are paired with. -/
theorem filter_map_snd (ls : List Nat) (f : Nat → Bool) : ((ls.map fun l => (l, f l)).filter (·.2)).map (·.1) = ls.filter f := by
  induction ls with
  | nil => rfl
  | cons l ls ih => simp only [List.map_cons, List.filter_cons]; split <;> simp_all

/-- A vector compare (R95). -/
theorem compareOp_of (s : State) (i : Nat) (t u : Team) (q : Nat → Nat → Word) (d a b : Sel) (o : Bool) (fi : Int → Int → Bool) (ff : Val → Val → Bool)
   (h : Issues s i t) (hl : t.active.isEmpty = false) (hd : cmpDst t d = true)
   (ra : t.readable a) (rb : t.readable b) (ha : t.elemSrc t.ty a = true) (hb : t.elemSrc t.ty b = true) (hy : t.ty.compares = true)
   (hr : Reads t (popsLanes t.active [(0, a), (1, b)]) u q) (g : Nat → Bool × Nat)
   (hg : ∀ l, (let y := if t.ty = .b32 then .n32 else t.ty
      match fmtOf y with
        | none => (fi (y.int (s.elem t y a l (q 0 l))) (y.int (s.elem t y b l (q 1 l))), 0)
        | some f =>
          let v0 := f.input t.flush (s.elem t y a l (q 0 l))
          let v1 := f.input t.flush (s.elem t y b l (q 1 l))
          (ff v0 v1, if anySignalling [v0, v1] || (o && anyNan [v0, v1]) then stInv else 0)) = g l) :
   compareOp s d a b o fi ff = .next (s.done i (u.putCmp d g)) := by
  have hg2 := (funext hg).symm; subst hg2
  unfold compareOp sweep
  rw [sweepOn_of s i t u q h _ _ _ _ _ ?_ hl hr]
  · simp only [elem_if, reads_active hr, reads_elem hr, reads_ty hr, reads_flush hr]
    cases d with
    | m n => simp only [putCompare, settle_setTeam_if, Team.putCmp, reads_active hr, List.map_map, List.foldl_map, Function.comp_def, filter_map_snd]; try rfl
    | v r => simp only [putCompare, settle_setTeam_if, Team.putCmp, reads_active hr, List.map_map, List.foldl_map, Function.comp_def, Team.putV]; try rfl
    | _ => exact absurd hd (by simp [cmpDst])
  · simp only [hd, ha, hb, hy, need, Bool.and_self, if_true, List.cons_append, List.nil_append, firstCause]
    exact firstCause_readable t [(0, a), (1, b)] (by simp [ra, rb])

/-- A copy that starts (R261). -/
theorem copyStart_of (s1 s3 s4 : State) (i : Nat) (u : Team) (inn tile) (dst va len : Nat) (tk : Word) (as : List Acc)
   (hf : u.flagFull (u.setFlag true) = false)
   (h1 : dst % 128 = 0) (h2 : va % 128 = 0) (h3 : len % 128 = 0) (hr : s1.rangeFault u dst len = none)
   (ht : (s1.setTeam i u).lineTrs i u (if inn then .read else .write) (copyLines va (scratchKey dst) len) = .ok as s3)
   (hk : ∀ z, tackOf tk = some z → (s3.tackCheck u z).1 = none) (hd : s3.drainAll i = .ok s4) :
   copyStart i u s1 inn tile dst va len tk = .ok (
     (if inn then s4.clearPresence u.cluster (linesOf (scratchKey dst) len) else s4).enterOp i u { opOf i u (if inn then s4.clearPresence u.cluster (linesOf (scratchKey dst) len) else s4) (u.setFlag true) (.copy inn tile ((tackOf tk).map scratchKey)) with accs := as, mask := 0 } []) := by
  unfold copyStart
  simp only [h1, h2, h3, hr, hf, ht]
  cases hz : tackOf tk with
  | none => simp [hd]
  | some z => simp [hd, hk z hz]

/-- An operation at home that starts (R265). -/
theorem homeStart_of (s s1 s2 : State) (i : Nat) (u : Team) (cls : Bool) (k : OpKind) (accs good : List Acc) (bad) (acq : Option Nat)
   (hf : u.flagFull (u.setFlag cls) = false)
   (hd : (if u.releases.isSome then (s.setTeam i u).drainAll i else (s.setTeam i u).drainOver i (accs.map fun x => (x.va, x.size))) = .ok s1)
   (hs : Starts s1 i u k.access accs good bad s2) :
   homeStart i u s cls k accs acq = .ok (s2.enterOp i u { opOf i u s2 (u.setFlag cls) k with accs := good, acq := acq, rel := u.releases } bad) := by
  unfold homeStart
  simp only [hd]
  rw [startOp_of s1 s2 i u cls k accs good bad _ hf hs]

/-- An atomic that starts (R265). -/
theorem atomicOp_of (s s1 s2 : State) (i : Nat) (t u : Team) (q : Nat → Nat → Word) (d a b : Sel) (good : List Acc) (bad : List (LaneFault × Acc)) (h : Issues s i t)
    (hl : t.active.isEmpty = false) (ra : t.readable a) (rb : t.readable b) (hr : Reads t (popsLanes t.active [(0, a), (1, b)]) u q)
    (fn : AtomFn) (fam : Family) (ho : atomOperands t fn fam d a b = true) (hty : fn.types fam t.ty = true)
    (hf : u.flagFull (t.setFlag (fam != .ret)) = false) :
      let size := fn.size t.ty
      let accs := t.active.map fun l =>
        Acc.new l ((t.pair 62 + (s.src t a l (q 0 l)).toNat) % 2 ^ 64) size size (if fam = .dir then (t.v l (vNum d)).toNat else 0) (s.atomBytes t fn d b l (q 1 l))
      let s0 := s.after i u (popsLanes t.active [(0, a), (1, b)])
      (if u.releases.isSome then (s0.setTeam i u).drainAll i else (s0.setTeam i u).drainOver i (accs.map fun x => (x.va, x.size))) = .ok s1 →
      Starts s1 i u (if fam = .dir then .directed else .write) accs good bad s2 →
      atomicOp s fn fam d a b = .next (s2.started i u
        { opOf i u s2 (t.setFlag (fam != .ret)) (.atomic fn t.ty (atomReg fam d) (fam == .dir) (fam == .ret)) with
          accs := good, acq := if fam = .ret then t.acqScope else none, rel := t.releases } bad) := by
  intro size accs s0 hd hs
  have ra' : t.popCheck a = none := ra
  have rb' : t.popCheck b = none := rb
  have hk : (OpKind.atomic fn t.ty (atomReg fam d) (fam == .dir) (fam == .ret)).access = (if fam = .dir then .directed else .write) := by
    cases fam <;> rfl
  have hst := homeStart_of s0 s1 s2 i u (fam != .ret) (OpKind.atomic fn t.ty (atomReg fam d) (fam == .dir) (fam == .ret)) accs good bad (if fam = .ret then t.acqScope else none) (by rwa [reads_setFlag hr]) hd (by rwa [hk])
  simp only [reads_setFlag hr, reads_releases hr] at hst
  unfold atomicOp sweep
  rw [sweepOn_after s i t u q h _ _ _ _ _ (by simp [firstCause, need, ho, hty, ra', rb']) hl hr]
  simp only [src_after, elem_after, reads_src hr, reads_elem hr, reads_ty hr, reads_v hr, reads_vs hr, reads_active hr, Team.vecAddr, reads_pair hr, reads_acqScope hr]
  rw [show Host.Outcome.next (s2.started i u _ bad) = Host.Outcome.next (settle i t (.ok (s2.enterOp i u _ bad))) from rfl, ← hst]
  congr 2
  have hop := ho
  unfold atomOperands at hop
  simp only [accs, State.atomBytes, size, Nat.add_zero]
  cases d <;> cases b <;> (try cases fam) <;> simp_all <;> rfl

/-- An operation on accumulator rows that no loop holds. -/
theorem rowOp_of (s : State) (i u runs k) (h : RowsFree s i u runs) : rowOp i u s runs k = k s := by
  unfold rowOp; simp only [h.1, h.2, Bool.false_eq_true, if_false]

/-- A read of accumulator rows that no loop holds. -/
theorem rowRead_of (s : State) (i u runs k) (h : RowsFree s i u runs) (hc : ∀ r ∈ runs, s.rowsSpoilt i r = false) : rowRead i u s runs k = k s := by
  unfold rowRead; rw [rowOp_of s i u runs _ h]
  have : runs.filter (fun r => s.rowsSpoilt i r) = [] := by
    rw [List.filter_eq_nil_iff]; intro r hr; simp [hc r hr]
  simp [this]

/-- A swatch that has been read. -/
theorem withSwatch_of (s s1 : State) (i u ws k) (h : SwatchRead s i u ws s1) : withSwatch i u s k = k ws s1 := by
  obtain ⟨va, bs, sw, h1, h2, h3, h4⟩ := h
  unfold withSwatch
  rw [h1]
  simp only
  rw [withRecord_of s s1 i u _ _ _ _ _ bs h2]
  simp only [show 32 / 4 = 8 from rfl, h3, h4]

/-- A loop that enters the machine. -/
theorem loopStart_of (s : State) (i u l) (h : LoopRoom s i u l) : loopStart i u s l = .ok ((s.setTeam i u).enterOp i u (opOf i u s (u.setFlag true) (.loop l)) []) := by
  unfold loopStart
  have : (decide (l.total ≠ 0) && !s.loopRoom i u.core) = false := by
    rcases h.2.1 with h | h <;> simp [h]
  simp only [h.1, h.2.2, Bool.false_eq_true, if_false, this]

/-- A pattern that has been read goes on with its fields. -/
theorem withPattern_of (s s1 s2 : State) (i u h fits k va bs pt) (hh : s.handle i u h .pattern = .ok (some va) s1)
   (hr : s1.record i u va 64 64 = .ok bs s2) (hp : patternOf (bytesWords 16 bs) = some pt) (hf : fits pt = true)
   (hd : s2.patDraining.contains (u.part, u.ctx, hSlot h) = false) (hl : u.active.isEmpty = false) :
   withPattern i u s h fits k = k va pt s2 := by
  unfold withPattern
  rw [withHandle_of s s1 i u _ _ _ _ va hh, withRecord_of s1 s2 i u _ _ _ _ _ bs hr]
  simp only [show 64 / 4 = 16 from rfl, hp, hf, hd, ifActive, hl, Bool.not_true, Bool.false_eq_true, if_false]

/-- Accesses that may name their device start. -/
theorem namedStart_of (s s1 : State) (i u fl kind accs bad0 fill good bad) (hs : Starts s i u kind.access accs good bad s1) :
   namedStart i u s fl kind accs bad0 fill = .ok (s1.enterOp i u (fill { opOf i u s1 fl kind with accs := good }) (bad0 ++ bad)) := by
  unfold namedStart Starts at *; simp only [hs]

/-- Stores that may name their device start. -/
theorem namedStores_of (s s1 : State) (i u fl accs bad0 slot good bad) (hs : Starts s i u .write accs good bad s1) :
   namedStores i u s fl accs bad0 slot = .ok (s1.namedOut i u fl slot (lastWriters good) (bad0 ++ bad)) := by
  unfold namedStores State.namedOut Starts at *
  simp only [hs]
  have e : (fun a : Acc => match a.remoteDev with
      | some d => decide (d < (s1.ctx u.part u.ctx).fabDev)
      | none => false) = fun a => a.remoteDev.any fun d => decide (d < (s1.ctx u.part u.ctx).fabDev) := by
    funext a
    cases a.remoteDev <;> rfl
  have c : ∀ (p : Bool) (x y : State), (if p = true then Res.ok x else Res.ok y) = Res.ok (if p = true then x else y) := by
    intro p x y
    cases p <;> rfl
  rw [← e]
  cases u.releases <;> exact c _ _ _

/-- A run of vector registers written leaves the scalar registers. -/
theorem setVs_sregs (ws : List Word) : ∀ (t : Team) (l r : Nat), (t.setVs l r ws).sregs = t.sregs := by
  induction ws with
  | nil => intro t l r; rfl
  | cons w ws ih => intro t l r; simp only [Team.setVs]; rw [ih]; rfl

/-- A run of vector registers written leaves the scalar pairs. -/
theorem setVs_pair (ws : List Word) (t : Team) (l r : Nat) (n) : (t.setVs l r ws).pair n = t.pair n := by
  simp only [Team.pair, Team.s, setVs_sregs]

/-- A step of an engine that may take it. -/
theorem engineStep_of (s s3 : State) (e kind : Nat) (x : Op) (k v cl : Nat) (ws : List Word) (pos : Nat) (unit) (h : s.op e = some x)
   (hk : x.kind = .engine k v cl ws pos false) (hm : x.mig = false) (hf : x.failed = []) (ht : s.engineTurn e k = true) (hq : queueKind k = kind)
   (hp : pos < engineUnits kind ws) (hb : pos = 0 → engineBody kind ws = none ∧ s.targetOk cl ws = none)
   (hu : unit s x.part x.ctx (k / 2 / 64) (some x.dom) ws pos = .ok () s3) (h3 : s3.op e = some x) :
   engineStep e kind unit s = s3.forget.setOp e { x with kind := .engine k v cl ws (pos + 1) false } := by
  unfold engineStep
  simp only [h, hk, hm, hf, ht, hq]
  rw [if_neg (by simp; omega)]
  by_cases h0 : pos = 0
  · obtain ⟨a, b⟩ := hb h0
    subst h0
    simp only [a, b, if_true, hu, h3, hm, hf]
  · simp only [h0, if_false, hu, h3, hm, hf]

/-- The next unit to wake (R393). -/
theorem nextWake_spec (s : State) (ks : List Nat) : ∀ o k, s.nextWake ks = some (o, k) →
    k ∈ ks ∧ (s.core k).asleep = true ∧ s.firstAsk k = some o ∧ ∀ j ∈ ks, (s.core j).asleep = true → ∀ n, s.firstAsk j = some n → o ≤ n := by
  induction ks with
  | nil => intro o k h; cases h
  | cons a ks ih =>
    intro o k h
    unfold State.nextWake at h
    simp only at h
    have none_case : s.nextWake ks = none → ∀ j ∈ ks, (s.core j).asleep = true → s.firstAsk j = none := by
      clear ih h
      induction ks with
      | nil => intro _ j hj; cases hj
      | cons b ks ih2 =>
        intro h j hj ha
        unfold State.nextWake at h
        simp only at h
        split at h
        · split at h
          · rcases List.mem_cons.mp hj with rfl | hj
            · assumption
            · exact ih2 h j hj ha
          · cases h
          · split at h <;> cases h
        · rename_i hb
          rcases List.mem_cons.mp hj with rfl | hj
          · exact absurd ha hb
          · exact ih2 h j hj ha
    split at h
    · rename_i hs
      split at h
      · rename_i hf
        obtain ⟨h1, h2, h3, h4⟩ := ih o k h
        refine ⟨List.mem_cons_of_mem _ h1, h2, h3, ?_⟩
        intro j hj ha n hn
        rcases List.mem_cons.mp hj with rfl | hj
        · rw [hf] at hn; cases hn
        · exact h4 j hj ha n hn
      · rename_i o' hf hr
        cases h
        refine ⟨List.mem_cons_self .., hs, hf, ?_⟩
        intro j hj ha n hn
        rcases List.mem_cons.mp hj with rfl | hj
        · rw [hf] at hn; cases hn; exact Nat.le_refl _
        · rw [none_case hr j hj ha] at hn; cases hn
      · rename_i o' r hf hr
        obtain ⟨h1, h2, h3, h4⟩ := ih r.1 r.2 hr
        split at h
        · rename_i hlt
          cases h
          refine ⟨List.mem_cons_self .., hs, hf, ?_⟩
          intro j hj ha n hn
          rcases List.mem_cons.mp hj with rfl | hj
          · rw [hf] at hn; cases hn; exact Nat.le_refl _
          · have := h4 j hj ha n hn; omega
        · rename_i hlt
          cases h
          refine ⟨List.mem_cons_of_mem _ h1, h2, h3, ?_⟩
          intro j hj ha n hn
          rcases List.mem_cons.mp hj with rfl | hj
          · rw [hf] at hn; cases hn; omega
          · exact h4 j hj ha n hn
    · rename_i hs
      obtain ⟨h1, h2, h3, h4⟩ := ih o k h
      refine ⟨List.mem_cons_of_mem _ h1, h2, h3, ?_⟩
      intro j hj ha n hn
      rcases List.mem_cons.mp hj with rfl | hj
      · exact absurd ha hs
      · exact h4 j hj ha n hn

end Sys2Proof.Machine
end

