-- ==== Sys2Proof/Tests/Slice0.lean ====
section
/-! SUPPORT. Tests: words of the encoding decode to what they stand for, ill-formed terms are refused, and for every statement with hypotheses a small state and operands that meet them together. Expected values are the rules' own, or worked out by hand from them. -/

namespace Sys2Proof.Tests

set_option Elab.async false

open Sys2Proof Sys2Proof.Machine

/-! ## Ill-formed terms -/

/-- R39: a reserved selector names a reserved code, 0xE8 to 0xEF or 0xFA to 0xFF. -/
theorem test_wf_selector : (Sel.reserved 0xE7).wf = false ∧ (Sel.reserved 0xE8).wf = true ∧ (Sel.reserved 0xF9).wf = false ∧
    (Instr.br (.reserved 0x10)).wf = false ∧ (Instr.sadd (.s 1) (.reserved 0xF0) (.s 2)).wf = false := by decide

/-- R52: only the 26 reserved opcodes are an illegal one. -/
theorem test_wf_opcode : (Instr.illegalOpcode 0x1D000000).wf = false ∧ (Instr.illegalOpcode 0x1E000000).wf = true ∧
    (Instr.illegalOpcode 0xFF000000).wf = true ∧ ((List.range 256).countP reservedOpcode) = 26 := by decide +kernel

/-- R1: units outside their ranges: a core, an issue slot, a die, a plane. -/
theorem test_wf_units : (Instr.matrixSleep 384).wf = false ∧ (Instr.matrixSleep 383).wf = true ∧ (Instr.issuePick 0 4).wf = false ∧
    (Instr.coreEnableBatch 8).wf = false ∧ (Instr.clusterPlace 0 8 0).wf = false ∧ (Instr.planeFail 36).wf = false ∧ (Instr.planeFail 35).wf = true := by decide

/-- R376, R403: partitions and contexts outside their ranges. -/
theorem test_wf_contexts : (Instr.contextRemove 4 0).wf = false ∧ (Instr.contextRemove 3 64).wf = false ∧ (Instr.contextRemove 3 63).wf = true ∧
    (Instr.bucketRefill 0 0 8).wf = false ∧ (Instr.spdmRequest 4 .lock).wf = false := by decide

/-! ## Decoding (R37, R39, R51, R54) -/

/-- Words of the opcodes 0x00 to 0x0F, from R51's table and the rules' examples. -/
theorem test_decode_control_and_masks :
    decode 0x00F0F0F0 = .nop ∧
    decode 0x01F0F0F9 = .br (.sp .coreclk) ∧
    decode 0x02F0F1F0 = .brz (.sp .ones) (.sp .zero) ∧
    decode 0x03F08A8C = .brnz (.s 10) (.s 12) ∧
    decode 0x04F07FDF = .brmz (.v 127) (.q 15) ∧
    decode 0x05F0E7F9 = .brmnz (.m 7) (.sp .coreclk) ∧
    decode 0x06F0F0F0 = .jmp (.sp .zero) ∧
    decode 0x07BFF08C = .call (.s 63) (.s 12) ∧
    decode 0x08F0F0F0 = .yield ∧
    decode 0x09F0F0F0 = .exit ∧
    decode 0x0AF0F0F0 = .setmode (.sp .zero) ∧
    decode 0x0B87F0F0 = .getmode (.s 7) ∧
    decode 0x0C097FF0 = .mmov (.v 9) (.v 127) ∧
    decode 0x0DE1E7F9 = .mand (.m 1) (.m 7) (.sp .coreclk) ∧
    decode 0x0ED5F1F0 = .mor (.q 5) (.sp .ones) (.sp .zero) ∧
    decode 0x0FBF8A8C = .mxor (.s 63) (.s 10) (.s 12) := by
  and_intros <;> rfl

/-- Words of the opcodes 0x10 to 0x1F, from R51's table and the rules' examples. -/
theorem test_decode_compares_and_masks :
    decode 0x10097FDF = .mandn (.v 9) (.v 127) (.q 15) ∧
    decode 0x11E1E7F0 = .mnot (.m 1) (.m 7) ∧
    decode 0x12D5F1F0 = .mcnt (.q 5) (.sp .ones) ∧
    decode 0x13BF8AF0 = .mfirst (.s 63) (.s 10) ∧
    decode 0x14097FF0 = .msumw (.v 9) (.v 127) ∧
    decode 0x15E1E7F9 = .mgetw (.m 1) (.m 7) (.sp .coreclk) ∧
    decode 0x16D5F1F0 = .msetw (.q 5) (.sp .ones) (.sp .zero) ∧
    decode 0x17BF8AF0 = .mfromv (.s 63) (.s 10) ∧
    decode 0x18E201F0 = .vcmpeq (.m 2) (.v 1) (.sp .zero) ∧
    decode 0x19E1E7F9 = .vcmpne (.m 1) (.m 7) (.sp .coreclk) ∧
    decode 0x1AD5F1F0 = .vcmplt (.q 5) (.sp .ones) (.sp .zero) ∧
    decode 0x1BBF8A8C = .vcmple (.s 63) (.s 10) (.s 12) ∧
    decode 0x1C097F21 = .vclass (.v 9) (.v 127) 0x21 ∧
    decode 0x1DF0F0F9 = .waitd (.sp .coreclk) := by
  and_intros <;> rfl

/-- Words of the opcodes 0x20 to 0x2F, from R51's table and the rules' examples. -/
theorem test_decode_scalar_integer :
    decode 0x20097FF0 = .smov (.v 9) (.v 127) ∧
    decode 0x21818283 = .sadd (.s 1) (.s 2) (.s 3) ∧
    decode 0x22D5F1F0 = .ssub (.q 5) (.sp .ones) (.sp .zero) ∧
    decode 0x23BF8A8C = .smul (.s 63) (.s 10) (.s 12) ∧
    decode 0x24097FDF = .smulh (.v 9) (.v 127) (.q 15) ∧
    decode 0x25E1E7F9 = .smulhn (.m 1) (.m 7) (.sp .coreclk) ∧
    decode 0x26D5F1F0 = .sand (.q 5) (.sp .ones) (.sp .zero) ∧
    decode 0x27BF8A8C = .sor (.s 63) (.s 10) (.s 12) ∧
    decode 0x28097FDF = .sxor (.v 9) (.v 127) (.q 15) ∧
    decode 0x29E1E7F9 = .sshl (.m 1) (.m 7) (.sp .coreclk) ∧
    decode 0x2AD5F1F0 = .sshr (.q 5) (.sp .ones) (.sp .zero) ∧
    decode 0x2BBF8A8C = .ssra (.s 63) (.s 10) (.s 12) ∧
    decode 0x2C097FDF = .smin (.v 9) (.v 127) (.q 15) ∧
    decode 0x2DE1E7F9 = .smax (.m 1) (.m 7) (.sp .coreclk) ∧
    decode 0x2ED5F1F0 = .sminn (.q 5) (.sp .ones) (.sp .zero) ∧
    decode 0x2FBF8A8C = .smaxn (.s 63) (.s 10) (.s 12) := by
  and_intros <;> rfl

/-- Words of the opcodes 0x30 to 0x3F, from R51's table and the rules' examples. -/
theorem test_decode_scalar_memory_and_float :
    decode 0x30097FDF = .scmpeq (.v 9) (.v 127) (.q 15) ∧
    decode 0x31E1E7F9 = .scmplt (.m 1) (.m 7) (.sp .coreclk) ∧
    decode 0x32D5F1F0 = .scmpltn (.q 5) (.sp .ones) (.sp .zero) ∧
    decode 0x33BF8AF0 = .sclz (.s 63) (.s 10) ∧
    decode 0x34097FF0 = .spopc (.v 9) (.v 127) ∧
    decode 0x35E1E7F9 = .sld (.m 1) (.m 7) (.sp .coreclk) ∧
    decode 0x36D5F1F0 = .sld2 (.q 5) (.sp .ones) (.sp .zero) ∧
    decode 0x37848AF0 = .sst (.s 4) (.s 10) (.sp .zero) ∧
    decode 0x38097FDF = .sst2 (.v 9) (.v 127) (.q 15) ∧
    decode 0x39E1E7F9 = .sfadd (.m 1) (.m 7) (.sp .coreclk) ∧
    decode 0x3AD5F1F0 = .sfmul (.q 5) (.sp .ones) (.sp .zero) ∧
    decode 0x3B818283 = .sfma (.s 1) (.s 2) (.s 3) ∧
    decode 0x3C097F21 = .scvt (.v 9) (.v 127) 0x21 ∧
    decode 0x3DE1E7F9 = .sdivn (.m 1) (.m 7) (.sp .coreclk) ∧
    decode 0x3E818283 = .sdiv (.s 1) (.s 2) (.s 3) ∧
    decode 0x3FBF8A8C = .srem (.s 63) (.s 10) (.s 12) := by
  and_intros <;> rfl

/-- Words of the opcodes 0x40 to 0x4F, from R51's table and the rules' examples. -/
theorem test_decode_vector_arithmetic :
    decode 0x40097FF0 = .vmov (.v 9) (.v 127) ∧
    decode 0x41E1E7F9 = .vadd (.m 1) (.m 7) (.sp .coreclk) ∧
    decode 0x42D5F1F0 = .vsub (.q 5) (.sp .ones) (.sp .zero) ∧
    decode 0x43BF8A8C = .vmul (.s 63) (.s 10) (.s 12) ∧
    decode 0x44097FDF = .vmulh (.v 9) (.v 127) (.q 15) ∧
    decode 0x45E1E7F9 = .vfma (.m 1) (.m 7) (.sp .coreclk) ∧
    decode 0x46D5F1F0 = .vfnma (.q 5) (.sp .ones) (.sp .zero) ∧
    decode 0x47BF8A8C = .vmad (.s 63) (.s 10) (.s 12) ∧
    decode 0x48097FDF = .vmin (.v 9) (.v 127) (.q 15) ∧
    decode 0x49E1E7F9 = .vmax (.m 1) (.m 7) (.sp .coreclk) ∧
    decode 0x4AD5F1F0 = .vabs (.q 5) (.sp .ones) ∧
    decode 0x4BBF8AF0 = .vneg (.s 63) (.s 10) ∧
    decode 0x4C097FDF = .vand (.v 9) (.v 127) (.q 15) ∧
    decode 0x4DE1E7F9 = .vor (.m 1) (.m 7) (.sp .coreclk) ∧
    decode 0x4ED5F1F0 = .vxor (.q 5) (.sp .ones) (.sp .zero) ∧
    decode 0x4FBF8AF0 = .vnot (.s 63) (.s 10) := by
  and_intros <;> rfl

/-- Words of the opcodes 0x50 to 0x5F, from R51's table and the rules' examples. -/
theorem test_decode_vector_bits_and_functions :
    decode 0x50097FDF = .vshl (.v 9) (.v 127) (.q 15) ∧
    decode 0x51E1E7F9 = .vshr (.m 1) (.m 7) (.sp .coreclk) ∧
    decode 0x52D5F1F0 = .vsra (.q 5) (.sp .ones) (.sp .zero) ∧
    decode 0x53BF8A8C = .vrot (.s 63) (.s 10) (.s 12) ∧
    decode 0x54097FF0 = .vpopc (.v 9) (.v 127) ∧
    decode 0x55E1E7F0 = .vclz (.m 1) (.m 7) ∧
    decode 0x56D5F1F0 = .vbrev (.q 5) (.sp .ones) ∧
    decode 0x57BF8A8C = .vsel (.s 63) (.s 10) (.s 12) ∧
    decode 0x58097FDF = .vbcast (.v 9) (.v 127) (.q 15) ∧
    decode 0x59E1E721 = .vcvt (.m 1) (.m 7) 0x21 ∧
    decode 0x5AD5F1F0 = .vrcp (.q 5) (.sp .ones) ∧
    decode 0x5BBF8AF0 = .vrsq (.s 63) (.s 10) ∧
    decode 0x5C097FF0 = .vsqrt (.v 9) (.v 127) ∧
    decode 0x5DE1E7F0 = .vexp2 (.m 1) (.m 7) ∧
    decode 0x5ED5F1F0 = .vlog2 (.q 5) (.sp .ones) ∧
    decode 0x5FBF8AF0 = .vsin (.s 63) (.s 10) := by
  and_intros <;> rfl

/-- Words of the opcodes 0x60 to 0x6F, from R51's table and the rules' examples. -/
theorem test_decode_vector_cross_lane :
    decode 0x60097FF0 = .vcos (.v 9) (.v 127) ∧
    decode 0x61E1E7F0 = .vtanh (.m 1) (.m 7) ∧
    decode 0x62D5F1F0 = .vrnd (.q 5) (.sp .ones) ∧
    decode 0x63BF8AF0 = .vfrc (.s 63) (.s 10) ∧
    decode 0x64097FDF = .vldexp (.v 9) (.v 127) (.q 15) ∧
    decode 0x65E1E7F9 = .vcpsgn (.m 1) (.m 7) (.sp .coreclk) ∧
    decode 0x66D5F1F0 = .vdot4 (.q 5) (.sp .ones) (.sp .zero) ∧
    decode 0x67BF8A8C = .vdot2 (.s 63) (.s 10) (.s 12) ∧
    decode 0x68097F21 = .vshuf (.v 9) (.v 127) 0x21 ∧
    decode 0x69E1E7F9 = .vperm (.m 1) (.m 7) (.sp .coreclk) ∧
    decode 0x6AD5F1F0 = .vredadd (.q 5) (.sp .ones) ∧
    decode 0x6BBF8AF0 = .vredmin (.s 63) (.s 10) ∧
    decode 0x6C097FF0 = .vredmax (.v 9) (.v 127) ∧
    decode 0x6DE1E721 = .vscan (.m 1) (.m 7) 0x21 ∧
    decode 0x6ED5F121 = .vscant (.q 5) (.sp .ones) 0x21 ∧
    decode 0x6FBF8A8C = .vextr (.s 63) (.s 10) (.s 12) := by
  and_intros <;> rfl

/-- Words of the opcodes 0x70 to 0x7F, from R51's table and the rules' examples. -/
theorem test_decode_vector_pack :
    decode 0x70097FDF = .vins (.v 9) (.v 127) (.q 15) ∧
    decode 0x71E1E7F9 = .vpack (.m 1) (.m 7) (.sp .coreclk) ∧
    decode 0x72D5F1F0 = .vunpk (.q 5) (.sp .ones) (.sp .zero) ∧
    decode 0x73BF8A8C = .vabsd (.s 63) (.s 10) (.s 12) ∧
    decode 0x74097FF0 = .vmovp (.v 9) (.v 127) ∧
    decode 0x75E1E7F0 = .vmsk (.m 1) (.m 7) := by
  and_intros <;> rfl

/-- Words of the opcodes 0x80 to 0x8F, from R51's table and the rules' examples. -/
theorem test_decode_vector_memory_and_scratch :
    decode 0x80097FDF = .vld1 (.v 9) (.v 127) (.q 15) ∧
    decode 0x81E1E7F9 = .vld2 (.m 1) (.m 7) (.sp .coreclk) ∧
    decode 0x82D5F1F0 = .vld4 (.q 5) (.sp .ones) (.sp .zero) ∧
    decode 0x83BF8A8C = .vld8 (.s 63) (.s 10) (.s 12) ∧
    decode 0x84097FDF = .vst1 (.v 9) (.v 127) (.q 15) ∧
    decode 0x85E1E7F9 = .vst2 (.m 1) (.m 7) (.sp .coreclk) ∧
    decode 0x86D5F1F0 = .vst4 (.q 5) (.sp .ones) (.sp .zero) ∧
    decode 0x87BF8A8C = .vst8 (.s 63) (.s 10) (.s 12) ∧
    decode 0x88097FDF = .pld1 (.v 9) (.v 127) (.q 15) ∧
    decode 0x890800F0 = .pld2 (.v 8) (.v 0) (.sp .zero) ∧
    decode 0x8AD5F1F0 = .pld4 (.q 5) (.sp .ones) (.sp .zero) ∧
    decode 0x8BBF8A8C = .pst1 (.s 63) (.s 10) (.s 12) ∧
    decode 0x8C097FDF = .pst2 (.v 9) (.v 127) (.q 15) ∧
    decode 0x8DE1E7F9 = .pst4 (.m 1) (.m 7) (.sp .coreclk) ∧
    decode 0x8E030284 = .cld (.v 3) (.v 2) (.s 4) ∧
    decode 0x8F0A0886 = .smpl (.v 10) (.v 8) (.s 6) := by
  and_intros <;> rfl

/-- Words of the opcodes 0x90 to 0x9F, from R51's table and the rules' examples. -/
theorem test_decode_copies_tacks_engines :
    decode 0x900C0887 = .tlld (.v 12) (.v 8) (.s 7) ∧
    decode 0x9121F0F0 = .pfence 0x21 ∧
    decode 0x92D5F1F0 = .cpy (.q 5) (.sp .ones) (.sp .zero) ∧
    decode 0x9382C0F1 = .cpyt (.s 2) (.k 0) (.sp .ones) ∧
    decode 0x94097FDF = .cpyo (.v 9) (.v 127) (.q 15) ∧
    decode 0x95F0E7F9 = .pres (.m 7) (.sp .coreclk) ∧
    decode 0x96F082C0 = .pinv (.s 2) (.k 0) ∧
    decode 0x97F00485 = .pref (.v 4) (.s 5) ∧
    decode 0x98F07FDF = .cflush (.v 127) (.q 15) ∧
    decode 0x99F00485 = .cinv (.v 4) (.s 5) ∧
    decode 0x9AD5F121 = .qbind (.q 5) (.sp .ones) 0x21 ∧
    decode 0x9B84D2F0 = .qtry (.s 4) (.q 2) ∧
    decode 0x9CF07FF0 = .qfence (.v 127) := by
  and_intros <;> rfl

/-- Words of the opcodes 0xA0 to 0xAF, from R51's table and the rules' examples. -/
theorem test_decode_reductions_fence_directed :
    decode 0xA0F07FDF = .tkinit (.v 127) (.q 15) ∧
    decode 0xA1F0E7F0 = .tkarr (.m 7) ∧
    decode 0xA2F0F1F0 = .tkwait (.sp .ones) (.sp .zero) ∧
    decode 0xA3F08AF0 = .tkaw (.s 10) ∧
    decode 0xA4F07FDF = .tkexp (.v 127) (.q 15) ∧
    decode 0xA5F0F0F0 = .fence ∧
    decode 0xA6F0F1F0 = .rdand (.sp .ones) (.sp .zero) ∧
    decode 0xA7F08A8C = .rdor (.s 10) (.s 12) ∧
    decode 0xA8F07FDF = .rdxor (.v 127) (.q 15) ∧
    decode 0xA9E1E7F9 = .dfadd (.m 1) (.m 7) (.sp .coreclk) ∧
    decode 0xAAD5F1F0 = .dmin (.q 5) (.sp .ones) (.sp .zero) ∧
    decode 0xABBF8A8C = .dmax (.s 63) (.s 10) (.s 12) ∧
    decode 0xAC097FDF = .dxchg (.v 9) (.v 127) (.q 15) ∧
    decode 0xAD148AF0 = .chunk (.v 20) (.s 10) := by
  and_intros <;> rfl

/-- Words of the opcodes 0xB0 to 0xBF, from R51's table and the rules' examples. -/
theorem test_decode_atomics :
    decode 0xB0030809 = .aadd (.v 3) (.v 8) (.v 9) ∧
    decode 0xB1E1E7F9 = .afadd (.m 1) (.m 7) (.sp .coreclk) ∧
    decode 0xB2D5F1F0 = .amin (.q 5) (.sp .ones) (.sp .zero) ∧
    decode 0xB3BF8A8C = .amax (.s 63) (.s 10) (.s 12) ∧
    decode 0xB4097FDF = .aand (.v 9) (.v 127) (.q 15) ∧
    decode 0xB5E1E7F9 = .aor (.m 1) (.m 7) (.sp .coreclk) ∧
    decode 0xB6D5F1F0 = .axor (.q 5) (.sp .ones) (.sp .zero) ∧
    decode 0xB7BF8A8C = .axchg (.s 63) (.s 10) (.s 12) ∧
    decode 0xB8060407 = .acas (.v 6) (.v 4) (.v 7) ∧
    decode 0xB908040C = .acas2 (.v 8) (.v 4) (.v 12) ∧
    decode 0xBAD5F1F0 = .acas4 (.q 5) (.sp .ones) (.sp .zero) ∧
    decode 0xBBF00405 = .rdadd (.v 4) (.v 5) ∧
    decode 0xBCF00486 = .rdfadd (.v 4) (.s 6) ∧
    decode 0xBDF0E7F9 = .rdmin (.m 7) (.sp .coreclk) ∧
    decode 0xBEF0F1F0 = .rdmax (.sp .ones) (.sp .zero) ∧
    decode 0xBF140405 = .dadd (.v 20) (.v 4) (.v 5) := by
  and_intros <;> rfl

/-- Words of the opcodes 0xC0 to 0xCF, from R51's table and the rules' examples. -/
theorem test_decode_queues_knots :
    decode 0xC00884F0 = .enq (.v 8) (.s 4) ∧
    decode 0xC10084F0 = .deq (.v 0) (.s 4) ∧
    decode 0xC20084E3 = .deqtry (.v 0) (.s 4) (.m 3) ∧
    decode 0xC3F085C0 = .knotinit (.s 5) (.k 0) ∧
    decode 0xC4F08509 = .knotadd (.s 5) (.v 9) ∧
    decode 0xC5F0E7F9 = .knotdec (.m 7) (.sp .coreclk) ∧
    decode 0xC686858A = .knotbind (.s 6) (.s 5) (.s 10) ∧
    decode 0xC7F00C87 = .launch (.v 12) (.s 7) ∧
    decode 0xC8097FF0 = .rfsrc (.v 9) (.v 127) ∧
    decode 0xC9D286F0 = .trace (.q 2) (.s 6) ∧
    decode 0xCAF0D2F0 = .trstop (.q 2) ∧
    decode 0xCB8284F1 = .qlen (.s 2) (.s 4) (.sp .ones) := by
  and_intros <;> rfl

/-- Words of the opcodes 0xD0 to 0xDF, from R51's table and the rules' examples. -/
theorem test_decode_matrix :
    decode 0xD0944050 = .mma (.s 20) (.v 64) (.v 80) ∧
    decode 0xD18898F0 = .mloop (.s 8) (.s 24) ∧
    decode 0xD288C6F0 = .mgrp (.s 8) (.k 6) (.sp .zero) ∧
    decode 0xD3F08AF0 = .swsel (.s 10) ∧
    decode 0xD48283F0 = .acwin (.s 2) (.s 3) ∧
    decode 0xD5F0F083 = .aczero (.sp .zero) (.s 3) ∧
    decode 0xD62C9428 = .acrd (.v 44) (.s 20) (.v 40) ∧
    decode 0xD70C9495 = .acrdx (.v 12) (.s 20) (.s 21) ∧
    decode 0xD8F0942C = .acwr (.s 20) (.v 44) ∧
    decode 0xD9F0942C = .acadd (.s 20) (.v 44) ∧
    decode 0xDAD5F1F0 = .qblk (.q 5) (.sp .ones) (.sp .zero) ∧
    decode 0xDBBF8A8C = .dqblk (.s 63) (.s 10) (.s 12) := by
  and_intros <;> rfl

/-- Words of the opcodes 0xE0 to 0xEF, from R51's table and the rules' examples. -/
theorem test_decode_pleats_patterns_peers :
    decode 0xE0181486 = .patld (.v 24) (.v 20) (.s 6) ∧
    decode 0xE1181486 = .patst (.v 24) (.v 20) (.s 6) ∧
    decode 0xE20A1486 = .pataddr (.v 10) (.v 20) (.s 6) ∧
    decode 0xE3F086F0 = .patinv (.s 6) ∧
    decode 0xE4F08687 = .patcf (.s 6) (.s 7) ∧
    decode 0xE508040C = .pleat (.v 8) (.v 4) (.v 12) ∧
    decode 0xE600F0F0 = .plarg (.v 0) ∧
    decode 0xE7F002F0 = .plreply (.v 2) ∧
    decode 0xE8F0F0F0 = .pldone ∧
    decode 0xE9040889 = .peerld (.v 4) (.v 8) (.s 9) ∧
    decode 0xEA000488 = .peerst (.v 0) (.v 4) (.s 8) ∧
    decode 0xEB050889 = .peeradd (.v 5) (.v 8) (.s 9) ∧
    decode 0xEC83F0F0 = .vdie (.s 3) ∧
    decode 0xED848182 = .hops (.s 4) (.s 1) (.s 2) ∧
    decode 0xEEF08A8C = .fsdrain (.s 10) (.s 12) ∧
    decode 0xEFF08A8C = .fsconf (.s 10) (.s 12) := by
  and_intros <;> rfl

/-- Words of the opcodes 0xF0 to 0xFF, from R51's table and the rules' examples. -/
theorem test_decode_system :
    decode 0xF0F0F02A = .trap 0x2a ∧
    decode 0xF1F0F007 = .brk 0x7 ∧
    decode 0xF2850100 = .srd (.s 5) 0x0100 ∧
    decode 0xF312348C = .swr 0x1234 (.s 12) ∧
    decode 0xF4F08AF0 = .invpg (.sp .zero) (.s 10) (.sp .zero) ∧
    decode 0xF5F0F0F0 = .invcf ∧
    decode 0xF6F0F1F0 = .place (.sp .ones) (.sp .zero) ∧
    decode 0xF7F0C0F0 = .preempt (.k 0) ∧
    decode 0xF898C0C2 = .seal (.s 24) (.k 0) (.k 2) ∧
    decode 0xF998C0F0 = .unseal (.s 24) (.k 0) ∧
    decode 0xFA84C0C1 = .audrd (.s 4) (.k 0) (.k 1) ∧
    decode 0xFBF08B00 = .fltack (.s 11) 0x0 ∧
    decode 0xFCF0C0F0 = .resume (.k 0) ∧
    decode 0xFD838AF0 = .discard (.s 3) (.s 10) (.sp .zero) ∧
    decode 0xFE8A8C8E = .attest (.s 10) (.s 12) (.s 14) := by
  and_intros <;> rfl

/-- R52: a reserved opcode is the one instruction that raises ILLEGAL_OPCODE. -/
theorem test_decode_illegal : decode 0xCC123456 = .illegalOpcode 0xCC123456 ∧ decode 0x9DF0F0F0 = .illegalOpcode 0x9DF0F0F0 := by
  and_intros <;> rfl

/-- R366, R367: the rules' second examples of BRK and SWR. -/
theorem test_decode_system_examples : decode 0xF1F0F007 = .brk 7 ∧ decode 0xF30100C0 = .swr 0x0100 (.k 0) := by
  and_intros <;> rfl

/-- R42: bytes that end inside a word are refused by name; a word is stored least significant byte first. -/
theorem test_decode_bytes : decodeBytes [0x03, 0x02, 0x04] = .error .truncated ∧ wordBytesLE 0x41040203 = [0x03, 0x02, 0x04, 0x41] := by
  and_intros <;> rfl
/-! ## A small machine -/

/-- A team of one lane with 32 registers, in context 0, whose S registers are 0 but those given. -/
def team1 (ss : List (Nat × Word)) : Team :=
  let t := Team.fresh 0 0 0 0 0 0 0 0 1 1 32 0 0 0x8000 0
  { t with stage := .run, pc := 0x8004, clause := { header := 0x000FF078, instrs := [0], lits := [5, 6] }
           sregs := ss.foldl (fun v x => v.setIfInBounds x.1 x.2) t.sregs }

/-- A context that translates: its tables give virtual addresses below 4 GiB, in four pages of 1 GiB, the first GiB of HBM (R339 to R345). Its handle table lies in the second page, with a slot for each kind of object. -/
def ctx0 : Ctx :=
  { Ctx.none with en := true, s2en := true, s2root := 0x1000, s1root := 0x4000, htabBase := 0x40010000, htabSlots := 16, vdmap := [0], fabNvd := 1 }

/-- The numbers that the machine's memory holds: the stage-2 tables, the stage-1 tables. -/
def tables : List (Nat × Nat) :=
  [(0x1000, 0x2021), (0x2000, 0x3021), (0x3000, 0x87), (0x4000, 0x5003), (0x5000, 0x6003), (0x6000, 0x1D), (0x6008, 0x1D), (0x6010, 0x1D), (0x6018, 0x1D)]

/-- The handle table: kind and generation 1 in the first word, then the object; records stand in the third page from 0x20000. -/
def handles : List (Nat × Nat) :=
  (List.range 8).map fun k => (0x10010 + 16 * k, 4096 * (k + 1) + 1 + 2 ^ 32 * (if k < 2 then 3 else 0x80020000 + 0x100 * k))

/-- A machine with that context, one cluster of one core with 4 KiB of scratch, and a picked team. -/
def world (t : Team) : State :=
  { State.reset with
    dev := { Dev.reset with fw := 1 }
    ctxs := [(0, ctx0)], cores := [(0, { CoreSt.fresh with enabled := true })], teams := [(0, t)], cur := some 0
    clusters := [(0, { grid := 0, part := 0, ctx := 0, cid := 0, die := 0, row := 0, col := 0, h := 1, w := 1, share := 4096, fuse := false,
                       cells := [], absent := [], spoiled := [], away := [] })]
    mem := (tables ++ handles).foldl (fun m x => memWriteN m x.1 (natBytes x.2 8)) [] }

/-- The handle of a slot, generation 1. -/
def hnd (slot : Nat) : Word := BitVec.ofNat 32 (4096 * slot + 1)

/-- A result is there, and a check holds of it. -/
def Got.is {α : Type} (g : Got α) (p : α → State → Bool) : Bool :=
  match g with
  | .ok a s => p a s
  | _ => false

theorem Got.is_ok {α : Type} {g : Got α} {p : α → State → Bool} (h : Got.is g p = true) : ∃ a s, g = .ok a s ∧ p a s = true := by
  cases g with
  | ok a s => exact ⟨a, s, rfl, h⟩
  | fault f s => exact absurd h (by simp [Got.is])
  | hold f s => exact absurd h (by simp [Got.is])

theorem reads_nil {t : Team} {pops : List Pop} (h : pops = []) : Reads t pops t (fun _ _ => 0) := by simp [Reads, h]

/-- The tables translate: an address of each page, and none above them. -/
theorem test_world_translates :
    ((world (team1 [])).translate 0 0 (some 0) 0 (some 0) none 0xC0000123 .read).1 matches .ok _ := by decide +kernel
/-! ## Scalar, mask and control instructions: what their statements suppose -/

/-- A team with two entries in the private FIFO Q1 and Q2 empty on a FIFO. -/
def teamQ (ws : List Word) : Team :=
  let t := team1 [(1, 0x80000000), (2, 3), (4, 0x8010)]
  { t with qregs := (t.qregs.set 1 { bind := .fifo, fifo := ws, staged := [] }).set 2 { bind := .fifo, fifo := [], staged := [] } }

/-- ScalarIntegerResult, ScalarFloatResult: registers, a literal and a special as sources, S and ZERO as destinations. -/
theorem witness_scalar :
    let t := team1 [(1, 0x80000000), (2, 3)]
    Issues (world t) 0 t ∧ t.scalarSrc (.s 1) = true ∧ t.scalarSrc (.k 1) = true ∧ t.scalarSrc (.sp .ones) = true ∧ t.readable (.s 1) ∧
      t.readable (.k 1) ∧ t.pushCheck (.s 3) = none ∧ t.takes (.s 3) ∧ t.pushCheck (.sp .zero) = none ∧ t.takes (.sp .zero) ∧
      Reads t (popsOnce [(0, .s 1), (1, .k 1)]) t (fun _ _ => 0) ∧ Reads t (popsOnce [(0, .s 1)]) t (fun _ _ => 0) :=
  ⟨⟨rfl, rfl⟩, rfl, rfl, rfl, rfl, rfl, rfl, trivial, rfl, trivial, reads_nil rfl, reads_nil rfl⟩

/-- The same with queue registers: two pops of one FIFO that is full to its last entry, A before B, and a push into another. -/
theorem witness_scalar_queue :
    let t := teamQ (7 :: 9 :: List.replicate 62 0)
    let u := { teamQ (List.replicate 62 0) with popped := [7, 9] }
    Issues (world t) 0 t ∧ t.scalarSrc (.q 1) = true ∧ t.readable (.q 1) ∧ t.pushCheck (.q 2) = none ∧ u.takes (.q 2) ∧
      Reads t (popsOnce [(0, .q 1), (1, .q 1)]) u (poppedFor (popsOnce [(0, .q 1), (1, .q 1)]) [7, 9]) ∧
      poppedFor (popsOnce [(0, .q 1), (1, .q 1)]) [7, 9] 0 0 = 7 ∧ poppedFor (popsOnce [(0, .q 1), (1, .q 1)]) [7, 9] 1 0 = 9 := by
  refine ⟨⟨rfl, rfl⟩, rfl, rfl, rfl, ⟨rfl, by decide, rfl, rfl, rfl⟩, ?_, rfl, rfl⟩
  unfold Reads
  rw [if_neg (by decide)]
  exact ⟨rfl, rfl⟩

/-- ScalarFloatResult's conversion: a type that converts, and a code of one. -/
theorem witness_scvt : convertCode 0x0A = some .f32 ∧ (team1 []).ty.converts = true := by decide

/-- R99: addition wraps; R101: a quotient that does not fit wraps, and division by 0 gives all ones; R100: a shift of 32 leaves 0. -/
theorem test_scalar_values :
    let run (x : Instr) (r : BitVec 6) : Word := match exec x (world (team1 [(1, 0x80000000), (2, 0xFFFFFFFF), (3, 32)])) with
      | .next s => match s.team 0 with
        | some t => t.s r
        | none => 7
      | _ => 7
    run (.sadd (.s 4) (.s 1) (.s 1)) 4 = 0 ∧ run (.sdiv (.s 4) (.s 1) (.s 2)) 4 = 0x80000000 ∧ run (.sdivn (.s 4) (.s 1) (.sp .zero)) 4 = 0xFFFFFFFF ∧
      run (.srem (.s 4) (.s 1) (.sp .zero)) 4 = 0x80000000 ∧ run (.sshl (.s 4) (.s 2) (.s 3)) 4 = 0 ∧ run (.ssra (.s 4) (.s 1) (.s 3)) 4 = 0xFFFFFFFF ∧
      run (.smulh (.s 4) (.s 2) (.s 2)) 4 = 0 ∧ run (.smulhn (.s 4) (.s 2) (.s 2)) 4 = 0xFFFFFFFE ∧ run (.sclz (.s 4) (.s 3)) 4 = 26 := by decide +kernel

/-- MaskLogicResult, MaskReadResult: mask and ZERO operands; a word of the mask by a register; a vector source. -/
theorem witness_mask :
    let t := team1 [(1, 31)]
    Issues (world t) 0 t ∧ maskDst (.m 7) = true ∧ maskDst (.sp .zero) = true ∧ maskSrc (.m 0) = true ∧ maskSrc (.sp .ones) = true ∧
      t.nlanes ≤ 1024 ∧ t.pushCheck (.s 3) = none ∧ t.takes (.s 3) ∧ t.scalarSrc (.s 1) = true ∧ t.readable (.s 1) ∧ t.vectorSrc (.v 3) = true ∧
      t.active.isEmpty = false ∧ Reads t (popsOnce [(1, .s 1)]) t (fun _ _ => 0) ∧ Reads t (popsOnce [(0, .s 1), (1, .s 1)]) t (fun _ _ => 0) ∧
      Reads t (popsLanes t.active [(0, .v 3)]) t (fun _ _ => 0) ∧ (t.mask (.m 0)).getLsbD 0 = true ∧ t.mask (.m 1) = 0 := by
  and_intros <;> first | decide +kernel | exact rfl | trivial

/-- R91, R81: MNOT of an empty mask gives the lanes that exist and no more; R92: MFIRST of an empty mask is all ones. -/
theorem test_mask_values :
    (match exec (.mnot (.m 1) (.m 2)) (world (team1 [])) with
      | .next s => (s.team 0).map fun t => t.m 1
      | _ => none) = some 1 ∧
    (match exec (.mfirst (.s 1) (.m 2)) (world (team1 [])) with
      | .next s => (s.team 0).map fun t => t.s 1
      | _ => none) = some 0xFFFFFFFF := by decide +kernel

/-- ControlResult: a legal mode (R48), WAITD of clear flags, and WAITD with bit 12 at its bound of 13 bits, with no operation and with a record that a push staged. -/
theorem witness_control :
    let t := team1 [(1, 0xFFF), (2, 0x1FFF)]
    let x := opOf 0 t State.reset none (.recCopy [] 0)
    let w : State := { world t with cur := none, ops := [(0, x)], stamp := 1 }
    Issues (world t) 0 t ∧ modeOk (t.s 0) = true ∧ (t.s 1).toNat < 2 ^ 12 ∧ (∀ n (h : n < 12), (t.s 1).getLsbD n = true → t.flags[n] = 0) ∧
      isQ (.s 2) = false ∧ 2 ^ 12 ≤ (t.s 2).toNat ∧ (t.s 2).toNat < 2 ^ 13 ∧ ({ world t with cur := none } : State).drainAll 0 = .ok { world t with cur := none } ∧
      w.drainAll 0 = .ok w ∧ ∀ o ∈ w.ops, o.2.team = some 0 → o.2.flag = none → o.2.kind.fromPush = false → w.stamp ≤ o.1 := by
  refine ⟨⟨rfl, rfl⟩, by decide +kernel, by decide +kernel, ?_, rfl, by decide +kernel, by decide +kernel, by rfl, by rfl, by decide +kernel⟩
  intro n h _
  simp [team1, Team.fresh]

/-- BranchResult: the last place of a clause, an aligned and a misaligned target in a literal and a register (0 is aligned), a source and a mask that are zero and that are not. -/
theorem witness_branch :
    let t := { team1 [(4, 0x8010), (5, 0x8011), (6, 0)] with clause := { header := 0x000FF078, instrs := [0], lits := [0, 3] } }
    Issues (world t) 0 t ∧ t.isLast = true ∧ t.slotOk (.k 0) = true ∧ ((world t).scalar t (.k 0) 0).toNat % 4 = 0 ∧ t.slotOk (.k 1) = true ∧
      ((world t).scalar t (.k 1) 0).toNat % 4 ≠ 0 ∧ (t.s 4).toNat % 4 = 0 ∧ (t.s 5).toNat % 4 ≠ 0 ∧ maskSrc (.m 1) = true ∧ t.mask (.m 1) = 0 ∧
      maskSrc (.m 0) = true ∧ t.mask (.m 0) ≠ 0 ∧ t.scalarSrc (.s 4) = true ∧ t.readable (.s 4) ∧ (world t).scalar t (.s 4) 0 ≠ 0 ∧ (world t).scalar t (.s 6) 0 = 0 ∧
      Reads t (popsOnce [(0, .s 4)]) t (fun _ _ => 0) := by
  and_intros <;> first | decide +kernel | exact rfl

/-- ExitResult: a lane that stays (a mask that names none), and a team that ends with nothing in flight. -/
theorem witness_exit :
    let t := team1 []
    Issues (world t) 0 t ∧ ({ world t with cur := none } : State).regPending 0 t.eff = false ∧
      ({ t with mode := 0x10000000 } : Team).live &&& ~~~({ t with mode := 0x10000000 } : Team).eff ≠ 0 ∧ t.live &&& ~~~t.eff = 0 ∧ t.refill = none ∧
      (({ world t with cur := none } : State).setTeam 0 t).postedOf 0 = [] ∧ (({ world t with cur := none } : State).setTeam 0 t).teamIdle 0 = true ∧
      (({ world t with cur := none } : State).setTeam 0 t).waveReleases 0 = true := by
  and_intros <;> first | decide +kernel | exact rfl
/-! ## Lane instructions -/

/-- A team of one lane in a mode: its type in bits 27 to 23 (R47, R48). -/
def teamM (mode : Word) (vs : List (Nat × Word)) : Team :=
  vs.foldl (fun t x => t.setV 0 x.1 x.2) { team1 [(1, 5), (2, 0)] with mode := mode }

/-- LaneArithmeticResult, LaneBitsResult, LaneUnaryResult, LaneAccumulateResult, CompareResult, ReductionResult: an integer type (I32), the two-register type I64 and a float (F32), of V, S, ZERO and D as V or ZERO. -/
theorem witness_lanes :
    let ok (t : Team) (f : Bool) : Bool := !t.active.isEmpty && t.elemDst t.ty (.v 4) && t.elemDst t.ty (.sp .zero) && t.elemSrc t.ty (.v 2) &&
      t.elemSrc t.ty (.sp .zero) && (if f then (fmtOf t.ty).isSome && t.ty.isFloat else t.ty.isInt && t.ty.signed) && t.ty.arith && cmpDst t (.m 1) && cmpDst t (.v 4)
    ok (teamM 0x01000000 []) false = true ∧ ok (teamM 0x01800000 []) false = true ∧ ok (teamM 0x05000000 []) true = true ∧
      (teamM 0x01000000 []).ty = .i32 ∧ (teamM 0x01800000 []).ty.wide = true ∧ (teamM 0x05000000 []).ty = .f32 ∧
      (teamM 0x01000000 []).ty.shifts = true ∧ (teamM 0x04800000 []).ty.packs = true ∧ (teamM 0 []).ty = .i8 ∧ (teamM 0x02000000 []).ty = .n8 ∧
      (teamM 0x00800000 []).ty = .i16 ∧ (teamM 0x04000000 []).ty = .f16 ∧ scanComb 0 = some .add ∧ scanComb 1 = some .min ∧ convertCode 0 = some .i8 := by
  decide +kernel

/-- LaneArithmeticResult and the other statements of the lane instructions (R65), VectorLoadResult, VectorStoreResult: no lane is active under a guard that holds none. -/
theorem witness_no_lane :
    let t := teamM 0x11000000 []
    Issues (world t) 0 t ∧ t.active.isEmpty = true ∧ t.elemSrc t.ty (.v 2) = true ∧ t.elemDst t.ty (.v 4) = true ∧ t.ty.compares = true ∧
      cmpDst t (.m 1) = true ∧ t.vectorSrc (.v 2) = true ∧ t.scalarSrc (.s 1) = true ∧ t.readable (.v 2) ∧ t.readable (.s 1) ∧ t.vOk 24 8 = true ∧ t.ty.loads = true ∧
      Reads t (popsLanes t.active [(0, .v 2), (1, .s 1)]) t (fun _ _ => 0) ∧ (fmtOf (teamM 0x15000000 []).ty).isSome = true ∧
      (teamM 0x15000000 []).active.isEmpty = true :=
  ⟨⟨rfl, rfl⟩, by decide +kernel, rfl, rfl, by decide +kernel, rfl, rfl, rfl, rfl, rfl, by decide +kernel, by decide +kernel, reads_nil (by decide +kernel),
    by decide +kernel, by decide +kernel⟩

theorem witness_lane_reads :
    let t := teamM 0x01000000 []
    Issues (world t) 0 t ∧ t.readable (.v 2) ∧ t.readable (.s 1) ∧ t.pushCheck (.v 4) = none ∧ t.takesAll (.v 4) t.active.length ∧
      Reads t (popsLanes t.active [(0, .v 2), (1, .s 1)]) t (fun _ _ => 0) ∧ Reads t (popsLanes t.active [(0, .v 2)]) t (fun _ _ => 0) ∧
      Reads t (popsOnce [(1, .s 1)]) t (fun _ _ => 0) :=
  ⟨⟨rfl, rfl⟩, rfl, rfl, rfl, trivial, reads_nil (by decide +kernel), reads_nil (by decide +kernel), reads_nil rfl⟩

/-- The same with a queue register that each lane pops and a FIFO that each lane's word is pushed into. -/
theorem witness_lane_queue :
    let t := { teamQ [9] with mode := 0x01000000 }
    let u := { { teamQ [] with mode := 0x01000000 } with popped := [9] }
    Issues (world t) 0 t ∧ t.readable (.q 1) ∧ t.elemSrc t.ty (.q 1) = true ∧ t.elemDst t.ty (.q 2) = true ∧ t.pushCheck (.q 2) = none ∧
      u.takesAll (.q 2) t.active.length ∧
      Reads t (popsLanes t.active [(0, .q 1), (1, .s 1)]) u (poppedFor (popsLanes t.active [(0, .q 1), (1, .s 1)]) [9]) := by
  refine ⟨⟨rfl, rfl⟩, rfl, rfl, rfl, rfl, ⟨rfl, by decide +kernel, rfl, rfl, rfl⟩, ?_⟩
  have h : ({ teamQ [9] with mode := 0x01000000 } : Team).active = [0] := by decide +kernel
  unfold Reads
  rw [h, if_neg (by decide)]
  exact ⟨rfl, rfl⟩

/-- MaskWriteRule: a team of at most 1,024 lanes, two masks, the last word. -/
theorem witness_mask_write : (team1 []).nlanes ≤ 1024 ∧ (1 : BitVec 3) ≠ 0 ∧ 31 < 32 := by decide

/-- LaneSelectResult: a guard (M1 holds no lane), the lanes of M0, and a lane number of VBCAST at the last lane and past it. -/
theorem witness_select :
    let t := teamM 0x11000000 []
    Issues (world t) 0 t ∧ t.guard ≠ 0 ∧ (lanesBelow (t.m 0) t.nlanes).isEmpty = false ∧
      Reads t (popsLanes (lanesBelow (t.m 0) t.nlanes) [(0, .v 2), (1, .v 3)]) t (fun _ _ => 0) ∧ t.vOk 31 1 = true ∧ t.vOk 32 1 = false := by
  and_intros <;> first | decide +kernel | exact rfl

/-- CrossLaneResult: patterns of VSHUF in each of its four ranges, at their ends; VEXTR and VINS of lanes 0 and 1 of one. -/
theorem witness_cross :
    let t := teamM 0x01000000 [(1, 9)]
    Issues (world t) 0 t ∧ t.vOk 1 1 = true ∧ (0x1F : BitVec 8).toNat < 0x20 ∧ (0x3F : BitVec 8).toNat < 0x40 ∧ (0x5F : BitVec 8).toNat < 0x60 ∧
      (0x7F : BitVec 8).toNat < 0x80 ∧ t.vectorSrc (.v 2) = true ∧ maskSrc (.m 1) = true ∧ t.scalarSrc (.s 2) = true ∧ (t.s 2).toNat < t.nlanes ∧
      t.nlanes ≤ (t.s 1).toNat := by
  and_intros <;> first | decide +kernel | exact rfl

/-- BlockQuantResult: blocks of eight registers, up to the last that the team has, in F32. -/
theorem witness_block : (teamM 0x05000000 []).vOk 24 8 = true ∧ (teamM 0x05000000 []).vOk 25 8 = false ∧ (teamM 0x05000000 []).vectorSrc (.v 3) = true ∧
    fmtOf (teamM 0x05000000 []).ty = some fmtF32 ∧ (teamM 0x05000000 []).ty.isFloat = true := by decide +kernel

/-- NumberRule: both sides of a clamp, an exact and an inexact rounding, a tie, and a value of F32 (1.5). -/
theorem witness_number : Ty.i8.isInt = true ∧ Ty.i8.lo = -128 ∧ Ty.i8.hi = 127 ∧ (0 : Int) < 1 ∧ fmtOf .f32 = some fmtF32 ∧
    fmtF32.val 0x3FC00000 = .fin false 12582912 (-23) ∧ (0x3FC00000 : Nat) < 2 ^ fmtF32.width := by decide +kernel

/-- What one lane's V4 holds after an instruction of a team with V2 and V3, and the team's status word. -/
def lane1 (x : Instr) (mode a b : Word) : Option (Word × Word) :=
  match exec x (world (teamM mode [(2, a), (3, b)])) with
  | .next s => (s.team 0).map fun t => (t.v 0 4, t.status)
  | _ => none

/-- R111: I32 addition wraps, and with mode.sat clamps and sets st.sat (bit 5); R112: N8 keeps eight bits. -/
theorem test_vadd : lane1 (.vadd (.v 4) (.v 2) (.v 3)) 0x01000000 0x7FFFFFFF 1 = some (0x80000000, 0) ∧
    lane1 (.vadd (.v 4) (.v 2) (.v 3)) 0x01040000 0x7FFFFFFF 1 = some (0x7FFFFFFF, 0x20) ∧
    lane1 (.vadd (.v 4) (.v 2) (.v 3)) 0x02000000 0xFF 2 = some (1, 0) := by decide +kernel

/-- F32 (R178, R182): 1 + 2 is 3; 1 + 2^-24 rounds to 1 and is inexact; RU rounds it up; infinity minus infinity is the NaN and invalid. -/
theorem test_vadd_f32 : lane1 (.vadd (.v 4) (.v 2) (.v 3)) 0x05000000 0x3F800000 0x40000000 = some (0x40400000, 0) ∧
    lane1 (.vadd (.v 4) (.v 2) (.v 3)) 0x05000000 0x3F800000 0x33800000 = some (0x3F800000, 0x10) ∧
    lane1 (.vadd (.v 4) (.v 2) (.v 3)) 0x05200000 0x3F800000 0x33800000 = some (0x3F800001, 0x10) ∧
    lane1 (.vsub (.v 4) (.v 2) (.v 3)) 0x05000000 0x7F800000 0x7F800000 = some (0x7FC00000, 1) := by decide +kernel

/-- R120: exact cases of the functions; R116: a shift of the width leaves 0, VSRA the sign, and VROT turns by the count modulo the width. -/
theorem test_vector_functions : lane1 (.vrcp (.v 4) (.v 2)) 0x05000000 0x40000000 0 = some (0x3F000000, 0) ∧
    lane1 (.vsqrt (.v 4) (.v 2)) 0x05000000 0x40800000 0 = some (0x40000000, 0) ∧
    lane1 (.vshl (.v 4) (.v 2) (.v 3)) 0x03000000 1 32 = some (0, 0) ∧ lane1 (.vsra (.v 4) (.v 2) (.v 3)) 0x01000000 0x80000000 40 = some (0xFFFFFFFF, 0) ∧
    lane1 (.vrot (.v 4) (.v 2) (.v 3)) 0x03000000 0x80000001 33 = some (3, 0) ∧ lane1 (.vbrev (.v 4) (.v 2)) 0x03000000 1 0 = some (0x80000000, 0) ∧
    lane1 (.vclz (.v 4) (.v 2)) 0x03000000 0 0 = some (32, 0) := by decide +kernel
/-! ## Accesses to memory and scratch -/

/-- An access starts. -/
def startOk (r : Start × State) : Bool :=
  match r.1 with
  | .ok _ => true
  | _ => false

theorem startOk_ok {r : Start × State} (h : startOk r = true) : ∃ x s2, r = (.ok x, s2) := by
  obtain ⟨a, s⟩ := r
  cases a with
  | ok x => exact ⟨x, s, rfl⟩
  | fault f => cases h
  | hold f => cases h

/-- Accesses start, and a check holds of them. -/
def startedIs (r : Started) (p : List Acc → List (LaneFault × Acc) → State → Bool) : Bool :=
  match r with
  | .ok g b s => p g b s
  | _ => false

theorem startedIs_ok {s : State} {i : Nat} {u : Team} {k : Access} {as : List Acc} {p : List Acc → List (LaneFault × Acc) → State → Bool}
    (h : startedIs ((s.setTeam i u).startAll i u k as) p = true) : ∃ good bad s2, Starts s i u k as good bad s2 ∧ p good bad s2 = true := by
  unfold startedIs at h
  split at h
  · exact ⟨_, _, _, by assumption, h⟩
  · cases h

/-- A team whose vector base is 0 and whose S10 holds an address in the fourth page. -/
def teamL (mode : Word) : Team := { team1 [(10, 0xC0000100), (1, 8), (2, 0xFFFFFFFF), (20, 0xC0000101)] with mode := mode }

/-- ScalarLoadResult, ScalarStoreResult: loads and stores of 4 and 8 bytes that start, one that faults (misaligned), and a store of ZERO. -/
theorem witness_scalar_memory :
    let t := teamL 0
    let s := (world t).after 0 t (popsOnce [(1, .s 1)])
    Issues (world t) 0 t ∧ t.scalarSrc (.s 1) = true ∧ t.readable (.s 1) ∧ Reads t (popsOnce [(1, .s 1)]) t (fun _ _ => 0) ∧
      t.flagFull (t.setFlag false) = false ∧ t.flagFull (t.setFlag true) = false ∧ t.releases = none ∧
      (t.pair 10 + sext64 (t.s 1)) % 2 ^ 64 = 0xC0000108 ∧
      (∃ x s2, (s.setTeam 0 t).startMem 0 t .read (Acc.new 0 0xC0000108 8 8 4 []) = (.ok x, s2)) ∧
      (∃ x s2, (s.setTeam 0 t).startMem 0 t .read (Acc.new 0 0xC0000108 4 4 4 []) = (.ok x, s2)) ∧
      (∃ x s2, (s.setTeam 0 t).startMem 0 t .write (Acc.new 0 0xC0000108 8 8 0 (natBytes 7 8)) = (.ok x, s2)) ∧
      (s.setTeam 0 t).startMem 0 t .read (Acc.new 0 0xC0000109 4 4 4 []) = (.fault (plainFault 0 0xC0000109 .align), s.setTeam 0 t) := by
  and_intros <;> first | decide +kernel | exact startOk_ok (by decide +kernel) | exact rfl

/-- R106: the offset of SLD is sign-extended: S10 + 0xFFFFFFFF is one below. -/
theorem test_sext : (teamL 0).pair 10 + sext64 0xFFFFFFFF = 0xC00000FF + 2 ^ 64 ∧ sext64 0x7FFFFFFF = 0x7FFFFFFF := by decide +kernel

/-- VectorLoadResult, VectorStoreResult, CacheOpResult: accesses of 1 to 32 bytes start; a misaligned one faults and is kept. -/
theorem witness_vector_memory :
    let t := teamL 0
    let s := (world t).after 0 t (popsVS t (.s 10) (.sp .zero))
    Issues (world t) 0 t ∧ t.active = [0] ∧ t.vectorSrc (.s 10) = true ∧ t.scalarSrc (.sp .zero) = true ∧ t.readable (.s 10) ∧ t.ty.loads = true ∧
      t.vOk 24 8 = true ∧ t.vOk 28 4 = true ∧ t.vOk 30 2 = true ∧ t.vOk 31 1 = true ∧ t.litOk 1 = true ∧
      Reads t (popsVS t (.s 10) (.sp .zero)) t (fun _ _ => 0) ∧
      (∀ n ∈ [1, 2, 4, 8, 16, 32], ∃ good bad s2, Starts s 0 t .read [Acc.new 0 0xC0000100 n n 0 []] good bad s2 ∧ (bad.isEmpty && good.length == 1) = true) ∧
      (∀ n ∈ [1, 2, 4, 8, 16, 32], ∃ good bad s2, Starts s 0 t .write [Acc.new 0 0xC0000100 n n 0 (List.replicate n 1)] good bad s2 ∧ bad.isEmpty = true) ∧
      (∃ good bad s2, Starts s 0 t .read [Acc.new 0 0xC0000101 4 4 0 []] good bad s2 ∧ (good.isEmpty && bad.length == 1) = true) ∧
      (∃ good bad s2, Starts s 0 t .look [Acc.new 0 0xC0000100 128 1 0 []] good bad s2 ∧ good.length = 1) := by
  refine ⟨⟨rfl, rfl⟩, by decide +kernel, rfl, rfl, rfl, by decide +kernel, by decide +kernel, by decide +kernel, by decide +kernel, by decide +kernel,
    by decide +kernel, reads_nil (by decide +kernel), ?_, ?_, startedIs_ok (by decide +kernel), ?_⟩
  · intro n hn
    exact startedIs_ok (by revert n hn; decide +kernel)
  · intro n hn
    exact startedIs_ok (by revert n hn; decide +kernel)
  · obtain ⟨g, b, s2, h, hp⟩ := startedIs_ok (p := fun g _ _ => decide (g.length = 1)) (s := (world (teamL 0)).after 0 (teamL 0) (popsVS (teamL 0) (.s 10) (.sp .zero)))
      (i := 0) (u := teamL 0) (k := .look) (as := [Acc.new 0 0xC0000100 128 1 0 []]) (by decide +kernel)
    exact ⟨g, b, s2, h, by simpa using hp⟩

/-- AccessCheckRule, ScratchResult: the last bytes of the core's share, one past it, one past the cluster's shape, a misaligned address; and an access whose line is present. -/
theorem witness_scratch :
    let t := teamL 0
    let c : Cluster := { grid := 0, part := 0, ctx := 0, cid := 0, die := 0, row := 0, col := 0, h := 1, w := 1, share := 4096, fuse := false,
                         cells := [], absent := [], spoiled := [], away := [] }
    let good (a n : Nat) : Prop := a < 2 ^ 24 ∧ a / 2 ^ 20 < c.h * c.w ∧ a % 2 ^ 20 + n ≤ c.share
    recFind (world t).clusters t.cluster = some c ∧ (world t).orderedBehind 0 false = none ∧ (world t).orderedBehind 0 true = none ∧ good 4080 16 ∧ ¬good 4088 16 ∧ ¬good 0x100000 4 ∧ 4081 % 4 ≠ 0 ∧ c.spoiled = [] ∧
      ((world t).startScratch t (Acc.new 0 4080 16 16 0 []) = .ok { Acc.new 0 4080 16 16 0 [] with tr := { place := .scratch 0 4080, pa := 0, nodes := [] } }) ∧
      (∀ n ∈ [1, 4, 8, 16], ∃ g b s2, Starts ((world t).after 0 t (popsVS t (.sp .zero) (.s 1))) 0 t .scratch [Acc.new 0 16 n n 0 []] g b s2 ∧ b.isEmpty = true) := by
  refine ⟨rfl, rfl, rfl, by decide, by decide, by decide, by decide, rfl, rfl, ?_⟩
  intro n hn
  exact startedIs_ok (by revert n hn; decide +kernel)

/-- The machine with a record of words at an address of its first page. -/
def worldRec (t : Team) (va : Nat) (ws : List Nat) : State :=
  { world t with mem := memWriteN (world t).mem va (wordsBytes (ws.map (BitVec.ofNat 32))) }

/-- A state with no team picked: what an instruction without a queue register acts on. -/
def free (s : State) : State := { s with cur := none }

/-- SampledLoadResult: the handle of a sampler resolves, its record (a 2 x 2 image in F32, as in R255's example) is read and valid, and a lane's texels start; likewise a tile layout of 8 x 32 and an element inside it. -/
theorem witness_sampler :
    let t := teamL 0
    let s := worldRec t 0x20600 [0x20002, 0x100, 8, 0]
    let s' := worldRec t 0x20700 [0x200008, 0x1000, 0, 0]
    Issues s 0 t ∧ Issues s' 0 t ∧ (t.vOk 31 1 && t.vOk 30 2 && !t.vOk 31 2 && t.scalarSrc (.s 1) && !t.flagFull (t.setFlag false)) = true ∧
    Got.is ((free s).handle 0 t (hnd 7) .sampler) (fun va s1 => va == some 0x80020600 && Got.is (s1.record 0 t 0x80020600 16 16) fun bs s2 =>
      match samplerOf (bytesWords 4 bs) with
      | some x => startedIs ((s2.setTeam 0 t).startAll 0 t .read (x.accs t 0 0x3F800000 0x3F000000 false)) fun g b _ => b.isEmpty && g.length == 1
      | none => false) = true ∧
    Got.is ((free s').handle 0 t (hnd 8) .tile) (fun va s1 => va == some 0x80020700 && Got.is (s1.record 0 t 0x80020700 16 16) fun bs s2 =>
      match tileOf (bytesWords 4 bs) with
      | some y => decide (7 < y.rows) && decide (31 < y.cols) &&
          startedIs ((s2.setTeam 0 t).startAll 0 t .read [Acc.new 0 (y.addr 7 31) 4 4 0 []]) fun g b _ => b.isEmpty && g.length == 1
      | none => false) = true :=
  ⟨⟨rfl, rfl⟩, ⟨rfl, rfl⟩, by decide +kernel⟩

/-- CacheOpResult: a path set of two paths, with and without the load-store path (R257); the team has nothing posted. -/
theorem witness_cache : (3 : BitVec 8).toNat < 16 ∧ 2 ≤ popCount (3 : BitVec 8).toNat 4 ∧ (3 : BitVec 8).getLsbD 0 = true ∧
    (0xE : BitVec 8).toNat < 16 ∧ 2 ≤ popCount (0xE : BitVec 8).toNat 4 ∧ (0xE : BitVec 8).getLsbD 0 = false ∧
    ((free (world (teamL 0))).setTeam 0 (teamL 0)).drainAll 0 = .ok ((free (world (teamL 0))).setTeam 0 (teamL 0)) := by
  and_intros <;> first | decide +kernel | exact rfl

/-- CopyResult: a copy of one line each way with no tack (S registers 4 and 5), the whole scratch range at its end, and a tile layout's first tile. -/
theorem witness_copy :
    let t := { teamL 0 with sregs := (teamL 0).sregs.set 5 0xC0000080 }
    let s := worldRec t 0x20700 [0x200008, 0x1000, 0, 0]
    let got (s1 : State) (k : Kind) (va n : Nat) : Bool :=
      ((s1.rangeFault t 0 n).isNone && Got.is ((s1.setTeam 0 t).lineTrs 0 t k (copyLines va (scratchKey 0) n)) fun as s3 =>
        as.length == n / 128 && (tackOf 0xFFFFFFFF).isNone && (match s3.drainAll 0 with
          | .ok _ => true
          | _ => false))
    Issues s 0 t ∧ Reads t (popsOnce [(0, .s 1), (1, .s 2)]) t (fun _ _ => 0) ∧ (t.s 4).toNat % 128 = 0 ∧ (t.s 5).toNat % 128 = 0 ∧
      got (free s) .read 0xC0000080 128 = true ∧ got (free s) .write 0xC0000080 128 = true ∧ (free s).rangeFault t 3968 128 = none ∧
      Got.is ((free s).handle 0 t (hnd 8) .tile) (fun va s1 => va == some 0x80020700 && Got.is (s1.record 0 t 0x80020700 16 16) fun bs s2 =>
        match tileOf (bytesWords 4 bs) with
        | some y => decide (0 + 1 ≤ y.tiles) && y.base == 0x1000
        | none => false) = true :=
  ⟨⟨rfl, rfl⟩, reads_nil rfl, by decide +kernel⟩

/-- TackResult: the bounds of a tack's fields; a word of scratch that is present (all zero: phase 0), counts of 1, 32,767 and 65,535, and an arrival at a tack with arrivals left. -/
theorem witness_tack :
    let t := teamL 0
    let s := free (world t)
    Issues (world t) 0 t ∧ (world t).orderedBehind 0 true = none ∧ (s.tackCheck t 0) = (none, true) ∧ (s.tackCheck t 4092) = (none, true) ∧ tackPhase (s.scratchWord 0 0) = 0 ∧
      bits (s.scratchWord 0 0) 15 0 + 65535 ≤ 65535 ∧ tackWord 1 32767 65535 = 0xFFFFFFFF ∧
      (tackArrive ((s.scratchWrite 0 0 (natBytes (tackWord 0 2 2).toNat 4)).scratchWord 0 0)) = some (tackWord 0 2 1) ∧
      (s.setTeam 0 t).drainAll 0 = .ok (s.setTeam 0 t) ∧ (s.setTeam 0 t).coveredAt 2 (some 0) ((s.setTeam 0 t).dom t) (s.setTeam 0 t).stamp = true := by
  and_intros <;> first | decide +kernel | exact rfl

/-- R219: a tack of two arrivals flips its phase at the second and starts again. -/
theorem test_tack : tackArrive (tackWord 0 2 2) = some 0x00020001 ∧ tackArrive (tackWord 0 2 1) = some 0x80020002 ∧ tackArrive (tackWord 1 2 0) = none := by
  decide +kernel

/-- FenceResult: an acquire at DEVICE scope, a release at TEAM scope and a wider one (R47). -/
theorem witness_fence :
    let a := teamL 0x00018000
    let r := teamL 0x00020000
    let w := teamL 0x00038000
    Issues (world a) 0 a ∧ a.order ≠ 0 ∧ a.flagFull (a.setFlag true) = false ∧ a.acqScope = some 4 ∧ a.relScope = none ∧ (free (world a)).readsDone 0 0 = true ∧
      r.relScope = some 0 ∧ r.acqScope = none ∧ w.relScope = some 4 ∧ w.acqScope = some 4 ∧
      (((free (world w)).bump).setTeam 0 w).drainAll 0 = .ok (((free (world w)).bump).setTeam 0 w) := by
  and_intros <;> first | decide +kernel | exact rfl

/-- AtomicResult: each family's operands and types: I32, F32 for the float forms, N64 operands, CAS2 and CAS4; the access of a lane starts, and one of a directed form with its recipient in scratch. -/
theorem witness_atomic :
    let t := teamL 0x01000000
    let f := teamL 0x05000000
    let l := teamL 0x03800000
    Issues (world t) 0 t ∧ Reads t (popsLanes t.active [(0, .s 10), (1, .v 3)]) t (fun _ _ => 0) ∧
    (atomOperands t .add .ret (.v 4) (.s 10) (.v 3) && AtomFn.add.types .ret t.ty && atomOperands t .add .red (.sp .zero) (.s 10) (.v 3) &&
      AtomFn.add.types .red t.ty && atomOperands t .add .dir (.v 4) (.s 10) (.v 3) && AtomFn.add.types .dir t.ty && AtomFn.fadd.types .ret f.ty &&
      AtomFn.fadd.types .dir f.ty && atomOperands l .cas .ret (.v 4) (.s 10) (.v 8) && AtomFn.cas.types .ret l.ty &&
      atomOperands t .cas2 .ret (.v 4) (.s 10) (.v 8) && AtomFn.cas2.types .ret t.ty && atomOperands t .cas4 .ret (.v 28) (.s 10) (.v 24) &&
      AtomFn.cas4.types .ret t.ty && AtomFn.xchg.types .dir t.ty && AtomFn.and.types .red t.ty && AtomFn.min.types .ret t.ty) = true ∧
    (∃ good bad s2, Starts (free (world t)) 0 t .write [Acc.new 0 0xC0000100 4 4 0 [1, 0, 0, 0]] good bad s2 ∧ bad.isEmpty = true) ∧
    (∃ good bad s2, Starts (free (world t)) 0 t .directed [Acc.new 0 0xC0000100 4 4 8 [1, 0, 0, 0]] good bad s2 ∧ bad.isEmpty = true) ∧
    (∃ good bad s2, Starts (free (world t)) 0 t .chunk [Acc.new 0 0xC0000100 32 32 0 []] good bad s2 ∧ bad.isEmpty = true) ∧
    ((free (world t)).setTeam 0 t).drainOver 0 [(0xC0000100, 4)] = .ok ((free (world t)).setTeam 0 t) := by
  and_intros <;> first | decide +kernel | exact startedIs_ok (by decide +kernel) | exact rfl
/-! ## Queues, knots, the tracer and the matrix unit -/

/-- The machine with queue 3 enabled, four records deep, in the third page. -/
def worldQ (t : Team) (rings : List (Nat × SubRing)) : State :=
  { world t with queues := [(queueKey 0 3, { base := 0x80030000, depth := 4, radius := 15, prio := 0, en := true, rings := rings })] }

/-- A team that names queue, knot, swatch, pattern, pleat and tracer handles in S4 to S9, and an aligned pair in S12. -/
def teamH (mode : Word) : Team :=
  { team1 [(1, 1), (4, hnd 1), (5, hnd 2), (6, hnd 3), (7, hnd 4), (8, hnd 5), (9, hnd 6), (12, 0x80040000), (14, 0xFFFF)] with mode := mode }

/-- The machine with the handle table across two pages, so that slots 1 and 2 lie one in each: two entries of given kinds. -/
def worldTwo (s : State) (k1 o1 k2 o2 : Nat) : State :=
  { s with ctxs := [(0, { ctx0 with htabBase := 0x7FFFFFE0 })]
           mem := memWriteN (memWriteN s.mem 0x3FFFFFF0 (natBytes (4096 * k1 + 1 + 2 ^ 32 * o1) 8)) 0 (natBytes (4096 * k2 + 1 + 2 ^ 32 * o2) 8) }

/-- QueueRegisterResult: an unbound register to bind, codes 0, 2 and 0x10 and 0x3F of QBIND, a die that exists, QTRY of an empty and a filled FIFO, QFENCE of no port (mask 0) and of a copy port. -/
theorem witness_queue_registers :
    let t := { teamQ [7] with qregs := (teamQ [7]).qregs.set 4 { bind := .copy, fifo := [], staged := [] } }
    Issues (world t) 0 t ∧ (t.qregs[5]).partial' = false ∧ (t.qregs[5]).whole = false ∧ (free (world t)).walkInto 0 5 = false ∧
      (2 : BitVec 8).toNat < 3 ∧ 0x10 ≤ (0x10 : BitVec 8).toNat ∧ (0x3F : BitVec 8).toNat < 0x40 ∧ ((free (world t)).physDie 0 0 0).isSome = true ∧
      t.readable (.q 1) ∧ (t.qregs[1]).fifo = [7] ∧ t.readable (.q 2) ∧ (t.qregs[2]).fifo = [] ∧
      (∀ p ∈ namedPorts t 16, (p.partial' = false ∧ p.whole = false) ∧ p.bind ≠ .fifo ∧ p.bind ≠ .unbound) ∧ (namedPorts t 16).length = 1 ∧ namedPorts t 0 = [] ∧
      t.flagFull (t.setFlag true) = false := by
  and_intros <;> first | decide +kernel | exact rfl

/-- QueueResult: the queue's handle resolves, a slot is claimed for the team's lane with nothing held before, a record is there to claim or not; and RFSRC with a handle and with 0. -/
theorem witness_queue :
    let t := teamH 0
    let ring : SubRing := { head := 0, tail := 1, published := [0] }
    Issues (worldQ t []) 0 t ∧ t.scalarSrc (.s 4) = true ∧ t.readable (.s 4) ∧ Reads t (popsOnce [(0, .s 4)]) t (fun _ _ => 0) ∧ t.vOk 24 8 = true ∧
      t.wave = none ∧ t.s 0 = 0 ∧ t.s 4 ≠ 0 ∧ t.flagFull (t.setFlag true) = false ∧ t.flagFull (t.setFlag false) = false ∧
      Got.is ((free (worldQ t [])).handle 0 t (hnd 1) .queue) (fun n s1 => n == some 3 && s1.queueOk 0 3 && (s1.queue (queueKey 0 3)).en &&
        ((s1.setTeam 0 t).claimSlots 0 0 (queueKey 0 3) 0 [] t.active).2.1 && (s1.claimRecords 0 0 (queueKey 0 3) 0 t.active).1.isEmpty) = true ∧
      Got.is ((free (worldQ t [(0, ring)])).handle 0 t (hnd 1) .queue) (fun n s1 => n == some 3 &&
        (s1.claimRecords 0 0 (queueKey 0 3) 0 t.active).1.length == 1 && s1.held (queueKey 0 3) == 1) = true :=
  ⟨⟨rfl, rfl⟩, rfl, rfl, reads_nil rfl, by decide +kernel, rfl, by decide +kernel⟩

/-- KnotLaunchResult: the knot's handle resolves, plain and with a queue's after it; a 32-byte pair; a launch record of one lane and eight registers is created. -/
theorem witness_knot_launch :
    let t := teamH 0
    let s := { worldRec t 0x40000 [0x8000, 0, 1 + 8 * 2 ^ 16, 0, 1] with queues := (worldQ t []).queues }
    Issues s 0 t ∧ t.flagFull (t.setFlag true) = false ∧ t.scalarSrc (.s 5) = true ∧ t.pair 12 % 32 = 0 ∧ t.releases = none ∧
      Reads t (popsOnce [(0, .s 5), (1, .s 1)]) t (fun _ _ => 0) ∧ Reads t (popsOnce [(0, .s 5)] ++ popsLanes t.active [(1, .v 9)]) t (fun _ _ => 0) ∧
      Got.is ((free s).handle 0 t (hnd 2) .knot) (fun n s1 => n == some 3 && s1.knotOk 0 3) = true ∧
      Got.is ((free (worldTwo s 1 3 2 5)).handle 0 t (hnd 2) .knot) (fun n s1 => n == some 5 && s1.knotOk 0 5 &&
        Got.is (s1.handle 0 t (hnd 1) .queue) fun m s2 => m == some 3 && s2.queueOk 0 3 && (s2.queue (queueKey 0 3)).en) = true ∧
      (match (free s).launchLanes 0 t [] [Acc.new 0 0x80040000 64 64 0 []] with
        | (.ok bad, s2) => bad.isEmpty && s2.grids.length == 1 && (s2.team 0).isSome
        | _ => false) = true := by
  and_intros <;> first | decide +kernel | exact rfl

/-- TracerResult: a FIFO to walk into, the tracer's handle and record, no walk yet, and a walk under way (an operation of the team). -/
theorem witness_tracer :
    let t := { teamQ [] with sregs := (teamH 0).sregs }
    let s := worldRec t 0x20500 [1 + 2 * 2 ^ 11 + 2 ^ 22]
    let o : Op := { opOf 0 t (free s) none (.trace 2 1 2 1 [] false) with mask := 0 }
    Issues s 0 t ∧ t.pushCheck (.q 2) = none ∧ t.flagFull (t.setFlag true) = false ∧ (free s).walkInto 0 2 = false ∧
      ({ free s with ops := [(0, o)] } : State).walkInto 0 2 = true ∧
      Got.is ((free s).handle 0 t (hnd 6) .tracer) (fun va s1 => va == some 0x80020500 && Got.is (s1.record 0 t 0x80020500 32 32) fun bs s2 =>
        bs.length == 32 && !s2.walkInto 0 2) = true :=
  ⟨⟨rfl, rfl⟩, by decide +kernel⟩

/-- A team of one lane with 128 registers, a window of 64 rows, and a swatch of BF16 in blocks of 16 (S13 holds 1, S40 to S45 a loop record). -/
def teamX : Team :=
  { team1 [(13, 1), (40, 0x80050000), (41, 128), (42, 0x80060000), (43, 128), (44, 1), (45, 16), (16, 0x80070000), (62, 0)] with
    nregs := 128, acwin := (team1 []).acwin.set 0 { base := 0, rows := 64 }, swatch := some 0x80020300 }

/-- AccumulatorResult: a window of no rows and of all the rows the team may hold; a row inside the window (63) and rows outside it (64); nothing spoilt, no loop in flight; a swatch's handle, and 0. -/
theorem witness_accumulator :
    let t := teamX
    let s := free (world t)
    Issues (world t) 0 t ∧ t.active = [0] ∧ t.actGroups.all (· == 0) = true ∧ t.wave = none ∧ 0 < t.groups ∧ 1024 + t.otherRows 0 ≤ Config.accRows ∧
      s.rowsBusy 0 s.stamp 0 0 Config.accRows = false ∧
      (let v := t.setWin 0 { base := 0, rows := 0 }
       let s1 := (s.setTeam 0 v).clearRows 0 0 0 Config.accRows
       s1.freeRun t.core (0, 0) 1024 = some 0 ∧ (s1.freeRows t.core (0, 0)).length = Config.accRows ∧ 1024 ≤ Config.accRows) ∧
      [(0, 63, 1)].find? t.outside = none ∧ [(0, 64, 1)].find? t.outside = some (0, 64, 1) ∧ s.rowsBusy 0 s.stamp 0 63 1 = false ∧ s.rowsSpoilt 0 (0, 63, 1) = false ∧
      t.pairSrc (.v 40) = true ∧ t.vOk 126 2 = true ∧ t.scalarSrc (.s 13) = true ∧ Reads t (popsOnce [(0, .s 13), (1, .s 13)]) t (fun _ _ => 0) ∧
      Got.is (s.handle 0 t (hnd 3) .swatch) (fun va _ => va == some 0x80020200) = true := by
  and_intros <;> first | decide +kernel | exact rfl

/-! ## Reads that may hit the TLB: what holds whichever way the free choice falls -/

/-- The cached combinations that a read of a team may use. -/
def tlbHits (s : State) (t : Team) (va : Nat) : List Xlat :=
  s.tlb.filter fun x => x.covers t.part t.ctx t.core none (va % 2 ^ 57)

/-- What a read of a team finds with the choice made. -/
def lookTr (s : State) (i : Nat) (t : Team) (va n : Nat) : Walked Tr × State :=
  if !canonical va then (.fault .s1NotMapped 0 3 0, s)
  else if s.draining t.part t.ctx 1 (some i) (va % 2 ^ 57) then (.drain, s)
  else
    match tlbHits s t va with
    | [] => s.walk t.part t.ctx (some t.core) (coreDie t.core) (some i) none va .read
    | hs =>
      let s1 : State := { s with tick := s.tick + 1 }
      match hs[n]? with
      | none => s1.walk t.part t.ctx (some t.core) (coreDie t.core) (some i) none va .read
      | some x =>
        let pa := x.pa + (va % 2 ^ 57 - x.va)
        if s1.xlatDraining t.part t.ctx (some i) pa x.nodes then (.drain, s1)
        else (x.gives (va % 2 ^ 57) .read, s1)

/-- What a read then has: a page of another device is there while that device is reached. -/
def readTr (s : State) (i : Nat) (t : Team) (va n : Nat) : Walked Tr × State :=
  match lookTr s i t va n with
  | (.ok tr, s1) => match tr.place with
    | .remote d => (if Kind.read = .none ∨ (d ≠ (s1.ctx t.part t.ctx).fabDev ∧ s1.reaches t.part t.ctx d) then .ok tr else .fault .peerUnreachable 0 3 0, s1)
    | _ => (.ok tr, s1)
  | r => r

theorem lookTr_eq (s : State) (i : Nat) (t : Team) (va : Nat) : ∃ n < (tlbHits s t va).length + 1,
    s.lookup t.part t.ctx (some t.core) (coreDie t.core) (some i) none va .read = lookTr s i t va n := by
  refine ⟨Config.pick s.tick % ((tlbHits s t va).length + 1), Nat.mod_lt _ (Nat.succ_pos _), ?_⟩
  unfold State.lookup lookTr tlbHits
  simp only [reduceCtorEq, false_and, if_false]
  generalize (s.tlb.filter _) = hs
  cases hs <;> rfl

theorem readTr_eq (s : State) (i : Nat) (t : Team) (va : Nat) : ∃ n < (tlbHits s t va).length + 1,
    s.translate t.part t.ctx (some t.core) (coreDie t.core) (some i) none va .read = readTr s i t va n := by
  obtain ⟨n, hn, h⟩ := lookTr_eq s i t va
  exact ⟨n, hn, by unfold State.translate readTr; rw [h] <;> rfl⟩

/-- A line read along a path with the choice between a copy (0) and the home made. -/
def pathBy (s : State) (k : Key) (keep : Bool) (dom : Nat) (path : Path) (since a pa n c : Nat) : List Byte × State :=
  let line := a - a % 128
  let fromHome (s : State) : List Byte × State :=
    let bs := if path = .loadStore then s.domBytes k dom line 128 else s.homeBytes k line 128
    let core := s.lineCore dom pa
    let s1 := (s.dropLines dom path line 128).evict path core
    if !keep then ((bs.drop (a - line)).take n, s.dropLines dom path line 128)
    else ((bs.drop (a - line)).take n, { s1 with lines := { dom := dom, path := path, core := core, key := line, bytes := bs, fill := s.stamp } :: s1.lines })
  match s.lines.find? fun x => x.dom == dom && x.path == path && x.key == line && decide (since ≤ x.fill) with
  | none => fromHome s
  | some x => if c = 0 then ((x.bytes.drop (a - line)).take n, { s with tick := s.tick + 1 }) else fromHome { s with tick := s.tick + 1 }

theorem pathBy_eq (s : State) (k : Key) (keep : Bool) (dom : Nat) (path : Path) (since a pa n : Nat) : ∃ c < 2,
    s.pathRead k keep dom path since a pa n = pathBy s k keep dom path since a pa n c := by
  refine ⟨(s.choose 2).1, Nat.mod_lt _ (by decide), ?_⟩
  unfold State.pathRead pathBy
  rfl

/-- A word of a table read for a team at a translation, along a path. -/
def wordBy (s : State) (i : Nat) (t : Team) (va : Nat) (r : Walked Tr × State) (c : Nat) : Got (List Byte) :=
  if va % 4 ≠ 0 then .fault (plainFault 0 va .align) s
  else
    match r with
    | (.ok tr, s1) =>
      match tr.place with
      | .mem key =>
        if s1.readHeld s.stamp i key va 4 then .hold (.behind s.stamp key va 4) s1
        else
          let (met, s2) := if s1.meetsBad i false key 4 then (true, s1) else s1.meetsCopy (s.dom t) .loadStore t.acq key 4
          if met then .fault (plainFault 0 va .memUncorr) s2
          else
            let (bs, s3) := pathBy s2 (s2.ctxMemKey t.part t.ctx) (!s2.revokes t.part t.ctx (va % 2 ^ 57)) (s.dom t) .loadStore t.acq key tr.pa 4 c
            .ok (s3.forward i va s.stamp bs) s3
      | _ => .fault (plainFault 0 va .align) s1
    | (_, s1) => .fault (plainFault 0 va .align) s1

theorem wordBy_ok {s : State} {i : Nat} {t : Team} {va : Nat} {r : Walked Tr × State}
    (hr : s.translate t.part t.ctx (some t.core) (coreDie t.core) (some i) none va .read = r) :
    ∃ c < 2, ∀ bs s1, wordBy s i t va r c = .ok bs s1 → s.tableWord i t va = .ok bs s1 := by
  obtain ⟨w, u⟩ := r
  unfold wordBy State.tableWord State.plainRead
  by_cases ha : va % 4 = 0
  · simp only [ha, ne_eq, not_true_eq_false, if_false, hr]
    cases w with
    | ok tr =>
      obtain ⟨place, pa, nodes⟩ := tr
      cases place with
      | mem key =>
        dsimp only
        by_cases hh : u.readHeld s.stamp i key va 4 = true
        · exact ⟨0, by decide, by simp [hh]⟩
        · simp only [hh]
          generalize (if u.meetsBad i false key 4 then (true, u) else u.meetsCopy (s.dom t) .loadStore t.acq key 4) = m
          obtain ⟨met, s2⟩ := m
          cases met
          · obtain ⟨c, hc, he⟩ := pathBy_eq s2 (s2.ctxMemKey t.part t.ctx) (!s2.revokes t.part t.ctx (va % 2 ^ 57)) (s.dom t) .loadStore t.acq key pa 4
            refine ⟨c, hc, ?_⟩
            simp only [he]
            exact fun _ _ h => h
          · exact ⟨0, by decide, by simp⟩
      | _ => exact ⟨0, by decide, by simp⟩
    | _ => exact ⟨0, by decide, by simp⟩
  · exact ⟨0, by decide, by simp [ha]⟩

/-- Words of a record are read and a check holds of them, whichever way the choices fall. -/
def wordsAll (i : Nat) (t : Team) (p : List Word → State → Bool) : Nat → State → Nat → List Word → Bool
  | 0, s, _, acc => p acc s
  | n + 1, s, va, acc => (List.range ((tlbHits s t va).length + 1)).all fun k => (List.range 2).all fun c =>
      Got.is (wordBy s i t va (readTr s i t va k) c) fun bs s1 => wordsAll i t p n s1 ((va + 4) % 2 ^ 64) (acc ++ [bytesWord bs])

theorem wordsAll_ok {i : Nat} {t : Team} {p : List Word → State → Bool} : ∀ {n : Nat} {s : State} {va : Nat} {acc : List Word},
    wordsAll i t p n s va acc = true → ∃ ws s1, s.recordWords i t va n = .ok ws s1 ∧ p (acc ++ ws) s1 = true := by
  intro n
  induction n with
  | zero => intro s va acc h; exact ⟨[], s, rfl, by simpa [wordsAll] using h⟩
  | succ n ih =>
    intro s va acc h
    obtain ⟨k, hk, hr⟩ := readTr_eq s i t va
    unfold wordsAll at h
    obtain ⟨c, hc, hb⟩ := wordBy_ok hr
    obtain ⟨bs, s1, hw, h2⟩ := Got.is_ok (List.all_eq_true.mp (List.all_eq_true.mp h k (List.mem_range.mpr hk)) c (List.mem_range.mpr hc))
    obtain ⟨ws, s2, h3, h4⟩ := ih h2
    refine ⟨bytesWord bs :: ws, s2, ?_, by simpa using h4⟩
    unfold State.recordWords
    rw [hb bs s1 hw]
    simp only [h3]

/-- LoopResult: a swatch of BF16 is read and valid; the window holds the rows; operands of 16 registers up to the last; a loop record that is allowed and aligned; room for the loop in a unit that is awake. -/
theorem witness_loop :
    let t := teamX
    let s := worldRec t 0x20300 [9 + 9 * 2 ^ 8, 0, 0, 0, 0, 0, 0, 0]
    let z := { teamX with mode := 0x10000000 }
    Issues s 0 t ∧ t.swatch = some 0x80020300 ∧ t.active = [0] ∧ ((t.actGroups.map fun g => (g, 0, 64)).find? t.outside = none) ∧ t.vOk 112 16 = true ∧
      z.eff = 0 ∧ z.swatch = some 0x80020300 ∧
      Got.is ((free (worldRec z 0x20300 [9 + 9 * 2 ^ 8, 0, 0, 0, 0, 0, 0, 0])).record 0 z 0x80020300 32 32) (fun bs _ => (swatchOf (bytesWords 8 bs)).isSome) = true ∧
      Got.is ((free s).record 0 t 0x80020300 32 32) (fun bs s1 => (swatchOf (bytesWords 8 bs)).isSome && s1.loopRoom 0 0 && !(s1.core 0).asleep) = true ∧
      recOk t (loopRec t 40) = true ∧ recAligned t (loopRec t 40) = true ∧ t.flagFull (t.setFlag true) = false :=
  ⟨⟨rfl, rfl⟩, by decide +kernel⟩

/-- The same with MGRP's group table, of one group of all 64 rows, read after the swatch. -/
theorem witness_group_loop :
    let t := teamX
    let s := worldRec t 0x20300 [9 + 9 * 2 ^ 8, 0, 0, 0, 0, 0, 0, 0]
    let s' : State := { s with mem := memWriteN s.mem 0x70000 (wordsBytes [1, 0, 64, 0]) }
    Issues s' 0 t ∧ t.swatch = some 0x80020300 ∧ ∃ bs s1, (free s').record 0 t 0x80020300 32 32 = .ok bs s1 ∧ (swatchOf (bytesWords 8 bs)).isSome = true ∧
      ∃ head s2, s1.recordWords 0 t 0x80070000 1 = .ok head s2 ∧ recNum head 0 = 1 ∧
        ∃ tab s3, s2.recordWords 0 t 0x80070004 3 = .ok tab s3 ∧ offsOk ((tab.take 2).map (·.toNat)) = true ∧ recNum tab 2 % 128 = 0 ∧
          (t.actGroups.all fun g => decide (0 + 64 ≤ (t.win g).rows)) = true ∧ s3.loopRoom 0 0 = true ∧ (s3.core 0).asleep = false := by
  refine ⟨⟨rfl, rfl⟩, rfl, ?_⟩
  obtain ⟨bs, s1, h1, h2⟩ := Got.is_ok (g := (free { worldRec teamX 0x20300 [9 + 9 * 2 ^ 8, 0, 0, 0, 0, 0, 0, 0] with
      mem := memWriteN (worldRec teamX 0x20300 [9 + 9 * 2 ^ 8, 0, 0, 0, 0, 0, 0, 0]).mem 0x70000 (wordsBytes [1, 0, 64, 0]) }).record 0 teamX 0x80020300 32 32)
    (p := fun bs s1 => (swatchOf (bytesWords 8 bs)).isSome && wordsAll 0 teamX (fun head s2 => recNum head 0 == 1 &&
      wordsAll 0 teamX (fun tab s3 => offsOk ((tab.take 2).map (·.toNat)) && recNum tab 2 % 128 == 0 && s3.loopRoom 0 0 && !(s3.core 0).asleep) 3 s2 0x80070004 []) 1 s1 0x80070000 [])
    (by decide +kernel)
  simp only [Bool.and_eq_true] at h2
  obtain ⟨head, s2, h3, h4⟩ := wordsAll_ok h2.2
  simp only [Bool.and_eq_true, List.nil_append, beq_iff_eq] at h4
  obtain ⟨tab, s3, h5, h6⟩ := wordsAll_ok h4.2
  simp only [Bool.and_eq_true, List.nil_append, beq_iff_eq, Bool.not_eq_true'] at h6
  exact ⟨bs, s1, h1, h2.1, head, s2, h3, h4.1, tab, s3, h5, h6.1.1.1, h6.1.1.2, by decide +kernel, h6.1.2, h6.2⟩
/-! ## Patterns, jobs, peers, pleats, and the system instructions -/

/-- The machine in a job of two devices: device 1 is package 5, partition 2, context 3, by the route table at machine address 0x7000. -/
def worldJob (t : Team) : State :=
  { world t with ctxs := [(0, { ctx0 with rten := true, rtbase := 0x7000, fabNdev := 1 })]
                 mem := memWriteN (world t).mem 0x7000 (wordsBytes [0, 0x80000000 + 5 + 2 * 2 ^ 10 + 3 * 2 ^ 16]) }

/-- PatternResult: a pattern of one dimension of 64 four-byte elements in blocks of 32 over two devices, whose table of peers lies in the fourth page: coordinates 0 (this device), 63 (the other) and 64 (outside), and the access of the lane. -/
theorem witness_pattern :
    let t := { teamH 0 with vregs := [] }
    let go (x : Nat) (p : List Acc → List (LaneFault × Acc) → State → Bool) : Bool :=
      let s0 := worldJob t
      let m := memWriteN s0.mem 0x20300 (wordsBytes [1 + 2 * 2 ^ 4, 64, 0, 0, 0, 32 + 2 * 2 ^ 16, 0, 0, 0, 0xC0000800, 0])
      let s : State := { s0 with mem := memWriteN m 0x800 (wordsBytes [0, 0x100, 1, 0x100]) }
      Got.is ((free s).handle 0 t (hnd 4) .pattern) fun va s1 => va == some 0x80020300 && Got.is (s1.record 0 t 0x80020300 64 64) fun bs s2 =>
        match patternOf (bytesWords 16 bs) with
        | none => false
        | some pt => patFits t (.v 2) (.v 3) false pt && patFits t (.v 2) (.v 3) true pt && !s2.patDraining.contains (0, 0, 4) &&
          match s2.patLanes 0 t 0x80020300 pt 2 [(0, [x], [])] with
          | .ok g b s3 => p g b s3
          | _ => false
    Issues (worldJob t) 0 t ∧ Reads t (popsOnce [(1, .s 7)]) t (fun _ _ => 0) ∧ hSlot (t.s 7) = 4 ∧ t.releases = none ∧
      go 0 (fun g b s3 => b.isEmpty && startedIs ((s3.setTeam 0 t).startAll 0 t .read g) fun g1 b1 _ => b1.isEmpty && g1.all fun a => a.remoteDev.isNone && a.va == 0x100) = true ∧
      go 63 (fun g b _ => b.isEmpty && g.all fun a => a.remoteDev == some 1 && a.va == 0x17C) = true ∧ go 64 (fun g b _ => g.isEmpty && b.length == 1) = true :=
  ⟨⟨rfl, rfl⟩, reads_nil rfl, by decide +kernel⟩

/-- JobResult: a pattern's handle, an entry not draining and one that is (with a second handle for PATCF), an owner, and pages of 4 KiB and 1 GiB at an aligned address. -/
theorem witness_job :
    let t := teamH 0
    let s := worldTwo (worldJob t) 4 0 4 0
    Issues s 0 t ∧ s.auth t = .owner ∧ t.flagFull (t.setFlag true) = false ∧
      Got.is ((free s).handle 0 t (hnd 1) .pattern) (fun va s1 => va.isSome && !s1.patDraining.contains (0, 0, 1) &&
        Got.is (s1.handle 0 t (hnd 2) .pattern) fun vb s2 => vb.isSome && ({ s2 with patDraining := [(0, 0, 1)] } : State).patDraining.contains (0, 0, 1)) = true ∧
      codeSize 0 = 4096 ∧ codeSize 3 = 2 ^ 30 ∧ t.pair 12 % codeSize 0 = 0 ∧ (0 : Nat) % codeSize 3 = 0 ∧
      (match (free (world t)).translate 0 0 (some 0) 0 (some 0) none (t.pair 12) .none with
        | (.ok _, s1) => !s1.revokes 0 0 (t.pair 12) && !(s1.revoke 0 0 (t.pair 12) 4096 none).pageDraining 0 0 (t.pair 12) &&
            (s1.revoke 0 0 (t.pair 12) 4096 none).revoking.contains (0, 0, t.pair 12, 4096, none)
        | _ => false) = true :=
  ⟨⟨rfl, rfl⟩, by decide +kernel⟩

/-- PeerResult: an access on this device (B = 0) and on the other (B = 1) starts; PEERADD of I32 and of F32, V, S and ZERO operands. -/
theorem witness_peer :
    let t := { teamL 0x01000000 with sregs := (teamL 0x01000000).sregs.set 3 1 }
    Issues (worldJob t) 0 t ∧ t.active.isEmpty = false ∧ t.ty.loads = true ∧ t.ty = .i32 ∧ t.elemSrc t.ty (.v 3) = true ∧ t.elemSrc t.ty (.sp .zero) = true ∧
      Reads t (popsLanes t.active [(0, .s 10)] ++ popsOnce [(1, .s 3)] ++ popsLanes t.active [(2, .v 3)]) t (fun _ _ => 0) ∧
      (∃ g b s2, Starts (free (worldJob t)) 0 t .read [namedAcc 0 0 0 0xC0000100 4 4 2 []] g b s2 ∧ (b.isEmpty && g.all fun a => a.remoteDev.isNone) = true) ∧
      (∃ g b s2, Starts (free (worldJob t)) 0 t .write [namedAcc 0 1 0 0xC0000100 4 4 0 [1, 2, 3, 4]] g b s2 ∧ (b.isEmpty && g.all fun a => a.remoteDev == some 1) = true) := by
  and_intros <;> first | decide +kernel | exact startedIs_ok (by decide +kernel) | exact rfl

/-- The machine in a job of two devices whose fourth page of the context's addresses is a remote leaf that names device 1 (R345). -/
def worldFar (t : Team) : State := { worldJob t with mem := memWriteN (worldJob t).mem 0x6018 (natBytes (0x11D + 2 ^ 52) 8) }

/-- ScalarStoreResult, VectorStoreResult, PatternResult, PeerResult: plain stores to another device, and releases at DEVICE scope with nothing posted, near and far; a device above and below the one that is named. -/
theorem witness_release :
    let t := teamL 0
    let u := teamL 0x01026000
    let s := (world u).after 0 u (popsOnce [(1, .s 1)])
    let f := (worldFar t).after 0 t (popsOnce [(1, .s 1)])
    t.releases = none ∧ u.releases = some 3 ∧ Issues (world u) 0 u ∧ Issues (worldFar t) 0 t ∧ u.active = [0] ∧ u.ty = .i32 ∧ u.flagFull (u.setFlag true) = false ∧
      Reads u (popsOnce [(1, .s 1)]) u (fun _ _ => 0) ∧ Reads u (popsVS u (.s 10) (.sp .zero)) u (fun _ _ => 0) ∧
      DrainedFor s 0 u (s.setTeam 0 u) ∧ DrainedFor f 0 t (f.setTeam 0 t) ∧
      (∀ n ∈ [4, 8], startOk ((s.setTeam 0 u).startMem 0 u .write (Acc.new 0 0xC0000108 n n 0 (natBytes 7 n))) = true ∧
        (match (f.setTeam 0 t).startMem 0 t .write (Acc.new 0 0xC0000108 n n 0 (natBytes 7 n)) with
          | (.ok x, _) => x.remoteDev == some 1
          | _ => false) = true) ∧
      startedIs ((s.setTeam 0 u).startAll 0 u .write [Acc.new 0 0xC0000100 4 4 0 [1, 2, 3, 4]]) (fun g b _ => b.isEmpty && g.length == 1) = true ∧
      startedIs ((((free (worldJob u)).after 0 u []).setTeam 0 u).startAll 0 u .write [namedAcc 0 1 0 0xC0000100 4 4 0 [1, 2, 3, 4]])
        (fun g b s2 => b.isEmpty && g.all fun a => a.remoteDev == some 1 && decide ((s2.ctx u.part u.ctx).fabDev ≤ 1)) = true ∧
      startedIs ((({ free (worldJob u) with ctxs := [(0, { (worldJob u).ctx 0 0 with fabDev := 2, fabNdev := 3 })] } : State).setTeam 0 u).startAll 0 u .write
        [namedAcc 0 1 2 0xC0000100 4 4 0 [1, 2, 3, 4]])
        (fun g b s2 => b.isEmpty && g.any fun x => x.remoteDev.any fun d => decide (d < (s2.ctx u.part u.ctx).fabDev)) = true := by
  and_intros <;> first | decide +kernel | exact rfl

/-- PleatResult: an object of one argument and one reply, its lane's request (the handle of a lane and of a scalar), and a wave of that object with nothing outstanding. -/
theorem witness_pleat :
    let t := teamH 0
    let obj : List Word := [1 + 2 ^ 4 + 3 * 2 ^ 8 + 8 * 2 ^ 16, 0, 0x80050000, 0, 0x8000, 0, 0, 0]
    let s := worldRec t 0x20400 (obj.map (·.toNat))
    let w : Team := { t with wave := some { object := 0x80020400, handle := hnd 5, record := obj, args := [[7]], replies := [none], reqs := [0] } }
    Issues s 0 t ∧ t.vOk 4 1 = true ∧ Reads t (popsLanes t.active [(1, .s 8)]) t (fun _ _ => 0) ∧ t.flagFull (t.setFlag false) = false ∧
      Got.is ((free s).pleatLanes 0 t none 8 [(0, hnd 5, natBytes 7 16)]) (fun xs s2 => (xs.all fun x => match x with
        | .ok _ ob => pleatFits t (.v 8) (.v 4) ob
        | .fault _ _ => false) && xs.length == 1 && match (s2.setTeam 0 t).drainAll 0 with
          | .ok _ => true
          | _ => false) = true ∧
      Got.is ((free s).handle 0 t (hnd 5) .pleat) (fun va s1 => va.isSome && Got.is (s1.pleatLanes 0 t va 8 [(0, hnd 5, natBytes 7 16)]) (fun xs _ => xs.all fun x => match x with
        | .ok _ ob => pleatFits t (.v 8) (.v 4) ob
        | .fault _ _ => false)) = true ∧
      Issues (world w) 0 w ∧ w.waveObj.isSome = true ∧ (w.waveObj.map fun x => w.vOk 4 x.2.nargs && w.vOk 31 x.2.nrep) = some true ∧
      ((free (world w)).setTeam 0 w).drainAll 0 = .ok ((free (world w)).setTeam 0 w) ∧ ((free (world w)).setTeam 0 w).teamIdle 0 = true := by
  and_intros <;> first | decide +kernel | exact rfl

/-- The machine whose context 0 has another authority, and a second context, placed. -/
def worldAs (t : Team) (a : Auth) (y : Ctx) : State := { world t with ctxs := [(0, { ctx0 with auth := a }), (1, y)], parts := [(0, { Part.fresh with linEn := true })] }

/-- SystemRegisterResult: a register that is read (SYS_STATUS, 0x100, and the team's own number), one that is written (htab.sync holds its team), counters for an auditor with and without a context, both ends of their range. -/
theorem witness_system :
    let t := { team1 [(1, 0x104), (2, 0xFFFFFFFF), (3, 0)] with mode := 0 }
    Issues (world t) 0 t ∧ (world t).physDie 0 0 0 = some 0 ∧ (world t).physDie 0 0 1 = none ∧ (world t).readCheck t 0x100 = none ∧ (free (world t)).writeCheck t 0x140 = none ∧ (free (world t)).writeCheck t 0x143 = none ∧
      Issues (worldAs t .auditor ctx0) 0 t ∧ (worldAs t .auditor ctx0).auth t = .auditor ∧
      (match (world t).sysRead t 0x100 with
        | .value w => w == 0
        | _ => false) = true ∧
      (match ((free (world t)).setTeam 0 t).sysWrite 0 t 0x140 0x1000 with
        | .done _ => true
        | _ => false) = true ∧
      (match ((free (world t)).setTeam 0 t).sysWrite 0 t 0x143 5 with
        | .sync slot _ => slot == 5
        | _ => false) = true ∧
      counterOk 0 = true ∧ counterOk 0x104 = true ∧ counterOk 0x105 = false ∧ counterOk 0x110 = true ∧ counterByCtx 0x100 = true ∧ counterByCtx 0x104 = false ∧
      ((worldAs t .auditor ctx0).ctx 0 1).en = true := by
  and_intros <;> first | decide +kernel | exact rfl

/-- TrapResult: a context with debug enabled, and one without. -/
theorem witness_trap :
    let t := team1 []
    Issues (world t) 0 t ∧ ((world t).ctx 0 0).dbg = false ∧
      Issues ({ world t with ctxs := [(0, { ctx0 with dbg := true })] } : State) 0 t ∧ (({ world t with ctxs := [(0, { ctx0 with dbg := true })] } : State).ctx 0 0).dbg = true :=
  ⟨⟨rfl, rfl⟩, by decide, ⟨rfl, rfl⟩, by decide⟩

/-- R327, R366: TRAP 0x2A parks its team past the instruction on a fault of the owner with that code, whose pc is the instruction's. -/
theorem test_trap : (match exec (.trap 0x2A) (world (team1 [])) with
    | .next s => (s.team 0).any (fun t => t.trap.isSome && t.pc == (team1 []).fall) && s.traps.all fun r => r.2.cause == .trap && r.2.scalar && r.2.code == 0x2A &&
        r.2.pc == 0x8004 && r.2.actOwn && !r.2.actOp
    | _ => false) = true := by decide +kernel

/-- ManagementResult: an operator; a context that exists and is not placed, with a map of one virtual die and of eight; one that is placed, halted or not sealed; a restart of an owner's own context. -/
theorem witness_management :
    let t := team1 [(1, 1)]
    let s := worldAs t .operator { ctx0 with fabNvd := 0, vdmap := [] }
    Issues s 0 t ∧ s.auth t = .operator ∧ s.isCtx 0 1 = true ∧ (s.ctx 0 1).fabNvd = 0 ∧ s.mapOk 0 0x01000007 = true ∧ s.mapOk 0 0x08FAC688 = true ∧
      s.mapOk 0 0x09000000 = false ∧ (s.part 0).linEn = true ∧ (s.ctx 0 1).sealed = false ∧ 1 ≠ t.ctx ∧ (world t).auth t = .owner ∧ (world t).isCtx 0 0 = true := by
  and_intros <;> first | decide +kernel | exact rfl

/-- SealResult: a placed context that is preempted with no team in flight; a challenge that is read (the report's own lines are translated as witness_vector_memory shows); a sealed context that its one blob holds, whose teams (none) all come back. The length of a blob is free (log 7), so its run is not evaluated here. -/
theorem witness_seal :
    let t := { team1 [(1, 1), (2, 4883), (10, 0xC0000100)] with mode := 0 }
    let s := worldAs t .operator { ctx0 with preempted := true }
    let s' := worldAs t .operator { ctx0 with preempted := true, sealed := true, blob := some (1, 64, 1), seq := 1 }
    Issues s 0 t ∧ Issues s' 0 t ∧ s.isCtx 0 1 = true ∧ (s.ctx 0 1).fabNvd ≠ 0 ∧ (free s).wholeHalt 0 1 = true ∧ (free s).ctxQuiet 0 1 = true ∧
      4883 ≤ (t.s 2).toNat ∧ t.pair 10 % 64 = 0 ∧
      Got.is (((free (world t)).setTeam 0 t).record 0 t 0x80000040 64 64) (fun bs _ => bs.length == 64) = true ∧
      (s'.ctx 0 1).sealed = true ∧ (s'.ctx 0 1).fabNvd ≠ 0 ∧ (s'.ctx 0 1).blob = some (1, 64, (s'.ctx 0 1).fabNvd) ∧ ((free s').unsealAll 0 1).isSome = true ∧
      Got.is ((free s').rehome 0 1 []) (fun _ _ => true) = true :=
  ⟨⟨rfl, rfl⟩, ⟨rfl, rfl⟩, by decide +kernel⟩

/-! ## A record that is read from listed bytes -/

/-- Memory, the stores and posted entries, and the partitions' keys are kept. -/
def Kept (s u : State) : Prop := u.mem = s.mem ∧ u.stores = s.stores ∧ u.posted = s.posted ∧ u.parts = s.parts
theorem Kept.refl (s : State) : Kept s s := ⟨rfl, rfl, rfl, rfl⟩
theorem Kept.trans {s u v : State} (h : Kept s u) (g : Kept u v) : Kept s v :=
  ⟨g.1.trans h.1, g.2.1.trans h.2.1, g.2.2.1.trans h.2.2.1, g.2.2.2.trans h.2.2.2⟩
theorem kept_choose (s : State) (n : Nat) : Kept s (s.choose n).2 := ⟨rfl, rfl, rfl, rfl⟩
theorem kept_entry (s : State) (p c die stage key : Nat) : Kept s (s.entry p c die stage key).2 := by
  unfold State.entry; dsimp only; split
  · exact Kept.refl _
  · split
    · exact Kept.refl _
    · exact ⟨rfl, rfl, rfl, rfl⟩
theorem kept_evict (s : State) (core : Nat) : Kept s (s.evictXlat core) := by
  unfold State.evictXlat; dsimp only; split
  · exact Kept.refl _
  · split
    · exact ⟨rfl, rfl, rfl, rfl⟩
    · exact ⟨rfl, rfl, rfl, rfl⟩
theorem kept_cacheEntry (s : State) (p c die stage key e b z : Nat) : Kept s (s.cacheEntry p c die stage key e b z) := ⟨rfl, rfl, rfl, rfl⟩
theorem kept_cacheXlat (s : State) (x : Xlat) (l) : Kept s (s.cacheXlat x l) := by
  have h0 : Kept s { s with tlb := s.tlb.filter fun y => !(y.part == x.part && y.ctx == x.ctx && y.core == x.core && y.lane == none && y.va == x.va && y.marked.isEmpty) } := ⟨rfl, rfl, rfl, rfl⟩
  refine (h0.trans (kept_evict _ x.core)).trans ?_
  exact ⟨rfl, rfl, rfl, rfl⟩
theorem kept_walk2 (p c die pa : Nat) (n : Nat) : ∀ (s : State) (table : Nat), Kept s (s.walk2 p c die pa table n).2 := by
  induction n with
  | zero => intro s t; exact Kept.refl _
  | succ n ih =>
    intro s t
    unfold State.walk2
    dsimp only
    generalize t + 8 * _ = key
    have h' := kept_entry s p c die 2 key
    by_cases h0 : s.granuleBad key = true
    · simp only [h0, if_true]; exact Kept.refl _
    · simp only [h0]
      repeat' split
      all_goals first | exact h' | exact (h'.trans (kept_cacheEntry _ _ _ _ _ _ _ _ _)).trans (ih _ _) | (rename_i hf; cases hf)
theorem kept_stage2 (s : State) (p c die : Nat) (team) (pa : Nat) (k : Kind) : Kept s (s.stage2 p c die team pa k).2 := by
  unfold State.stage2
  split
  · exact Kept.refl _
  · split
    · exact Kept.refl _
    · have h := kept_walk2 p c die pa 5 s (memKey 0 (s.ctx p c).s2root)
      split
      · rename_i x s1 e; rw [e] at h; split <;> exact h
      · exact h
theorem kept_walk1 (p c die : Nat) (team) (va : Nat) (n : Nat) : ∀ (s : State) (table : Nat) (nodes : List Nat), Kept s (s.walk1 p c die team va table nodes n).2 := by
  induction n with
  | zero => intro s t ns; exact Kept.refl _
  | succ n ih =>
    intro s t ns
    unfold State.walk1
    dsimp only
    have h := kept_stage2 s p c die team (t + 8 * levelIndex va (n + 1)) .read
    split
    · rename_i x s1 e; rw [e] at h
      split
      · exact h
      · have g := h.trans (kept_entry s1 p c die 1 x.key)
        split
        · exact g
        · split
          · split
            · exact g
            · exact (g.trans (kept_cacheEntry _ _ _ _ _ _ _ _ _)).trans (ih _ _ _)
          · exact g
    all_goals (rename_i e; rw [e] at h; exact h)
theorem kept_walk (s : State) (p c) (core) (die : Nat) (team lane) (va : Nat) (k : Kind) : Kept s (s.walk p c core die team lane va k).2 := by
  unfold State.walk
  dsimp only
  have h := kept_walk1 p c die team (va % 2 ^ 57) 5 s (s.ctx p c).s1root []
  split
  · rename_i e; rw [e] at h; exact h
  · rename_i e; rw [e] at h; exact h
  · rename_i e; rw [e] at h; exact h
  · rename_i l s1 e; rw [e] at h
    dsimp only at h
    split
    · (cases core; exact h; exact h.trans (kept_cacheXlat _ _ _))
    · split
      · exact h
      · split
        · have g := h.trans (kept_stage2 s1 p c die team (epage l.e - epage l.e % l.size + va % 2 ^ 57 % l.size) .none)
          split
          · rename_i e2; rw [e2] at g; exact g
          · rename_i e2; rw [e2] at g; exact g
          · rename_i e2; rw [e2] at g; exact g
          · rename_i e2; rw [e2] at g; exact g
          · rename_i e2; rw [e2] at g; split
            · exact g
            · (cases core; exact g; exact g.trans (kept_cacheXlat _ _ _))
        · split
          · exact h
          · have g := h.trans (kept_stage2 s1 p c die team (epage l.e - epage l.e % l.size + va % 2 ^ 57 % l.size) k)
            split
            · rename_i e2; rw [e2] at g; exact g
            · rename_i e2; rw [e2] at g; exact g
            · rename_i e2; rw [e2] at g; exact g
            · rename_i e2; rw [e2] at g; (cases core; exact g; exact g.trans (kept_cacheXlat _ _ _))

theorem kept_lookup (s : State) (p c die va) (core team lane) (k : Kind) : Kept s (s.lookup p c core die team lane va k).2 := by
  unfold State.lookup
  dsimp only
  split
  · exact Kept.refl _
  · split
    · exact Kept.refl _
    · split
      · exact kept_walk _ _ _ _ _ _ _ _ _
      · rename_i n
        split
        · exact kept_walk _ _ _ _ _ _ _ _ _
        · rename_i hits _
          split
          · exact (kept_choose s _).trans (kept_walk _ _ _ _ _ _ _ _ _)
          · repeat' split
            all_goals exact ⟨rfl, rfl, rfl, rfl⟩
theorem kept_translate (s : State) (p c die va) (core team lane) (k : Kind) : Kept s (s.translate p c core die team lane va k).2 := by
  have h := kept_lookup s p c die va core team lane k
  unfold State.translate
  split
  · rename_i e; rw [e] at h
    split <;> exact h
  · exact h
theorem kept_startMem (s : State) (i : Nat) (t : Team) (k : Kind) (a : Acc) : Kept s (s.startMem i t k a).2 := by
  unfold State.startMem
  split
  · exact Kept.refl _
  · have h := kept_translate s t.part t.ctx (coreDie t.core) a.va (some t.core) (some i) (some a.lane) k
    split <;> rename_i e <;> rw [e] at h
    · exact h
    · exact h
    · exact h
    · split
      · split <;> exact h
      · exact h

/-- The machine with a sealed context 1, whose blob is its header alone. -/
def worldSealed (t : Team) : State := worldAs t .operator { ctx0 with preempted := true, sealed := true, blob := some (1, 64, 1), seq := 1 }

/-- The same with the blob (its tag is free) at 0xC0200000. -/
def worldBlob (t : Team) : State :=
  { worldSealed t with mem := (worldSealed t).mem ++ (blobBytes ((worldSealed t).part 0).sealKey 1 64 1 1 1).zipIdx.map fun b => (0x200000 + b.2, b.1) }

/-- A run of bytes listed past a memory reads as it is. -/
theorem cellGet_past (m : Memory) (a : Nat) (d : Byte) : ∀ (bs : List Byte) (n i : Nat) (h : i < bs.length), (∀ x ∈ m, x.1 < a) →
    cellGet d (m ++ (bs.zipIdx n).map fun b => (a + b.2, b.1)) (a + (n + i)) = bs[i] := by
  induction m with
  | nil =>
    intro bs
    induction bs with
    | nil => intro n i h; cases h
    | cons b bs ih =>
      intro n i h hm
      cases i with
      | zero => simp [cellGet]
      | succ i =>
        have := ih (n + 1) i (by simpa using h) hm
        simp only [List.nil_append, List.zipIdx_cons, List.map_cons, cellGet, List.getElem_cons_succ] at this ⊢
        rw [if_neg (by omega), ← this]
        congr 1
        omega
  | cons x m ih =>
    intro bs n i h hm
    have hx := hm x (List.mem_cons_self ..)
    simp only [List.cons_append, cellGet]
    rw [if_neg (by omega)]
    exact ih bs n i h fun y hy => hm y (List.mem_cons_of_mem _ hy)

/-- SealResult: a blob that is read and verifies: UNSEAL finds every byte that it compares. -/
theorem witness_blob :
    let t := { team1 [(1, 1), (11, 0), (10, 0xC0200000)] with mode := 0 }
    let blob := blobBytes ((worldSealed t).part 0).sealKey 1 64 1 1 1
    ∃ s1, ((free (worldBlob t)).setTeam 0 t).readRun 0 t (piecesOf (t.pair 10) 64) = .ok blob s1 ∧ (s1.part 0).sealKey = ((worldSealed t).part 0).sealKey := by
  intro t blob
  have h1 : (match (((free (worldBlob t)).setTeam 0 t).startMem 0 t .read (Acc.new 0 (0xC0200000 % 2 ^ 64) 64 1 0 [])).1 with
      | .ok a => decide (a.tr.place = .mem 0x200000)
      | _ => false) = true := by decide +kernel
  have hk := kept_startMem ((free (worldBlob t)).setTeam 0 t) 0 t .read (Acc.new 0 (0xC0200000 % 2 ^ 64) 64 1 0 [])
  cases hs : ((free (worldBlob t)).setTeam 0 t).startMem 0 t .read (Acc.new 0 (0xC0200000 % 2 ^ 64) 64 1 0 []) with
  | mk r s1 =>
    rw [hs] at h1 hk
    cases r with
    | ok a =>
      simp only [decide_eq_true_eq] at h1
      obtain ⟨hm, hst, hpo, hpa⟩ := hk
      have hm : s1.mem = (worldSealed t).mem ++ blob.zipIdx.map fun b => (0x200000 + b.2, b.1) := hm
      have hst : s1.stores = [] := hst
      have hpo : s1.posted = [] := hpo
      refine ⟨s1, ?_, by unfold State.part; rw [hpa]; rfl⟩
      have hl : piecesOf (t.pair 10) 64 = [(0xC0200000, 64)] := by decide +kernel
      have hlen : blob.length = 64 := by
        show (blobBytes ((worldSealed t).part 0).sealKey 1 64 1 1 1).length = 64
        simp only [blobBytes, blobHeader, List.length_append, List.length_map, List.length_range]
        rfl
      have hb : ∀ k, s1.homeBytes k 0x200000 64 = blob := by
        intro k
        apply List.ext_getElem
        · simp [State.homeBytes, hlen]
        · intro i h1 h2
          simp only [State.homeBytes, List.getElem_map, List.getElem_range, State.homeByte, memRead, hm]
          rw [if_pos (by unfold keyTier; omega)]
          have := cellGet_past (worldSealed t).mem 0x200000 unlistedByte blob 0 i h2 (by decide +kernel)
          rwa [Nat.zero_add] at this
      rw [hl]
      simp only [State.readRun, State.record, hs, h1, State.forward, State.postedOf, hpo, List.filter_nil, List.foldl_nil, State.domBytes, State.underPlain, hst, hb, List.append_nil]
    | fault f => simp at h1
    | hold f => simp at h1

/-- InvalidateResult: size codes 0, 3 and 4, aligned, canonical and not; an owner and an operator; an unacknowledged fault of the owner; DISCARD of one page whose drain ends at once. -/
theorem witness_invalidate :
    let t := { team1 [(1, 3), (12, 0x80000000), (3, 1)] with mode := 0 }
    let f : TrapRec :=
      { part := 0, ctx := 0, team := none, pc := 0, scalar := false, posted := false, code := 0, obj := 0, cause := .align, unfinished := 0, faults := [],
        actOwn := true, actOp := false, ackOwn := false, ackOp := false, decided := false, redo := .none }
    let s : State := { world t with traps := [(9, f)] }
    Issues s 0 t ∧ s.auth t = .owner ∧ t.pair 12 % codeSize 3 = 0 ∧ canonical (t.pair 12) = true ∧ canonical (2 ^ 56) = false ∧ t.claimed = [] ∧ t.flagFull (t.setFlag true) = false ∧
      (s.unacked t 9).isSome = true ∧ ((free s).setTeam 0 t).drainAll 0 = .ok ((free s).setTeam 0 t) ∧
      ((free s).setTeam 0 t).covered (some 0) (((free s).setTeam 0 t).dom t) ((free s).setTeam 0 t).stamp = true ∧
      (worldAs t .operator ctx0).auth t = .operator ∧ ((worldAs t .operator ctx0).ctx 0 1).en = true ∧
      (match ((free s).setTeam 0 t).discardFrom 0 t (t.pair 12) (codeSize 3) 0 none 1 with
        | .ok _ => true
        | _ => false) = true := by
  and_intros <;> first | decide +kernel | exact rfl
/-! ## Steps that no word encodes -/

/-- An operation of team 0 with its accesses. -/
def opK (k : OpKind) (accs : List Acc) : Op := { opOf 0 (team1 []) State.reset none k with accs := accs }

/-- An access of lane 0 of n bytes at an address, at a place. -/
def accAt (va n : Nat) (p : Place) (data : List Byte) : Acc := { Acc.new 0 va n n 4 data with tr := { place := p, pa := 0, nodes := [] } }

/-- The machine with one operation, number 0, and the stamp past it. -/
def worldOp (t : Team) (x : Op) : State := { free (world t) with ops := [(0, x)], stamp := 1 }

/-- SequencingResult, fetch and start: a team that reaches a legal and an illegal header, one that waits for a clause of 17 words (with and without a refill source), and one in refill. -/
theorem witness_fetch :
    let t := { team1 [] with stage := .reach, base := 0x8000 }
    let s (h : Nat) := worldRec t 0x8000 [h]
    let w := { team1 [] with stage := .waiting, base := 0x8000 }
    let r := { team1 [] with stage := .waiting, base := 0x8000, refill := some (queueKey 0 3, 8), live := 0, clause := { header := 0x000FF07C, instrs := [], lits := [] } }
    t.free = true ∧ t.base.toNat % 4 = 0 ∧ headerOk 0x8000 0x000FF078 = true ∧ headerOk 0x8000 0x000FF079 = false ∧
      Got.is ((s 0x000FF078).fetchPieces 0 t [(0x8000, 4)]) (fun x s1 => (s1.iclause t ((x.2.head?).getD 0)).isNone && bytesWord x.1 == 0x000FF078) = true ∧
      Got.is ((s 0x000FF079).fetchPieces 0 t [(0x8000, 4)]) (fun x s1 => (s1.iclause t ((x.2.head?).getD 0)).isNone && bytesWord x.1 == 0x000FF079) = true ∧
      w.free = true ∧ w.waitClear = true ∧
      Got.is ((s 0x000FF078).fetchPieces 0 w (linePieces 0x8000 (4 * (1 + clauseBody w.clause.header)) 4)) (fun x s1 =>
        (s1.iclause w ((x.2.head?).getD 0)).isNone && (clauseOf (bytesWords (1 + clauseBody w.clause.header) x.1)).header == w.clause.header) = true ∧
      r.free = true ∧ bit r.clause.header 2 = true ∧
      Got.is (({ s 0x000FF07C with queues := (worldQ t [(0, { head := 0, tail := 1, published := [0] })]).queues } : State).fetchPieces 0 r
          (linePieces 0x8000 (4 * (1 + clauseBody r.clause.header)) 4)) (fun x s1 =>
        (clauseOf (bytesWords (1 + clauseBody r.clause.header) x.1)).header == r.clause.header && (s1.queue (queueKey 0 3)).en &&
          !r.vacant.isEmpty && (s1.firstRecord 0 0 (queueKey 0 3) 0).isSome) = true ∧
      ({ team1 [] with stage := .refill } : Team).free = true ∧ (team1 []).live ≠ 0 := by
  decide +kernel

/-- SequencingResult, picks: a core with no team; one whose ready team is picked with nothing that waited and no breakpoint; one whose team stands at a breakpoint. -/
theorem witness_pick :
    let go (s : State) (p : State → Option (Nat × Team) → List (Nat × Team) → Bool) : Bool :=
      let sr := s.runClock 0
      let s2 := (sr.teamsOn 0).foldl (fun s e => s.notice e.1 (sr.core 0).clk) sr
      let cands := (s2.teamsOn 0).filter fun e => s2.pickable e.1 e.2
      p s2 (s2.firstPick cands) cands
    ((free (world (team1 []))).core 0).enabled = true ∧ go { free (world (team1 [])) with teams := [] } (fun _ f _ => f.isNone) = true ∧
      go (free (world (team1 []))) (fun s2 f c => match f with
        | some (j, t) => j == 0 && match (s2.stampPick j t c).team j with
          | some y => y.pend.isEmpty && y.redo == .none && y.pushing.isNone && y.hold.isNone && !s2.breaksAt y
          | none => false
        | none => false) = true ∧
      go { free (world (team1 [])) with
          ctxs := [(0, { ctx0 with dbg := true })], breaks := [{ part := 0, ctx := 0, addr := 0x8004, clause := false }] } (fun s2 f c => match f with
        | some (j, t) => j == 0 && match (s2.stampPick j t c).team j with
          | some y => s2.breaksAt y
          | none => false
        | none => false) = true := by
  decide +kernel

/-- SequencingResult, ends: an operation that is done, a fence with its writes home, a join behind nothing, and each wait of a team that has come: FIFO entries and room, a present line, a tack. -/
theorem witness_ends :
    let t := teamQ [7]
    let s := worldOp t (opK .done [])
    s.op 0 = some (opK .done []) ∧ (s.answered 0 (opK .done [])).2.allDone = true ∧ (s.answered 0 (opK .done [])).2.kind = .done ∧
      ((worldOp t (opK .fence [])).answered 0 (opK .fence [])).2.kind = .fence ∧ ((worldOp t (opK (.join [2]) [])).answered 0 (opK (.join [2]) [])).2.kind = .join [2] ∧
      (worldOp t (opK (.join [2]) [])).ops.all (fun e => !(decide (e.1 < 0) && [2].any fun k => e.2.inQueue k)) = true ∧
      t.qregs[1]? = some { bind := .fifo, fifo := [7], staged := [] } ∧ t.qregs[2]? = some { bind := .fifo, fifo := [], staged := [] } ∧
      (s.cluster t.cluster).map (·.present 3968) = some true ∧ t.halted = false ∧ t.debug = false := by
  and_intros <;> first | decide +kernel | exact rfl

/-- PerformResult, loads and atomics: a load of a word, of two words, and one that serves every lane of a scalar address; an atomic and a directed value that are ready; a line of a copy each way, and a copy that is whole. -/
theorem witness_perform :
    let t := team1 []
    let a4 := accAt 0xC0000100 4 (.mem 0x100) []
    let ld := opK (.load .loadStore false 32 false) [a4, { a4 with tied := true }]
    let l8 := opK (.load .loadStore false 32 false) [{ a4 with size := 8 }]
    let at1 := opK (.atomic .add .i32 (some 4) false true) [{ a4 with data := [1, 0, 0, 0] }]
    let dr := opK (.atomic .add .i32 none true false) [accAt 0xC0000100 4 (.scratch 0 128) [1, 0, 0, 0, 0, 0, 0, 0]]
    let cp (inn : Bool) := opK (.copy inn false none) [{ accAt 0xC0000100 128 (.mem 0x100) [] with reg := 0 }]
    (∀ k < 2, (worldOp t ld).loadReady 0 ld k (ld.accs[k]?.getD a4) = true) ∧ (worldOp t l8).loadReady 0 l8 0 { a4 with size := 8 } = true ∧
      ((worldOp t ld).readMeets ld a4 .loadStore).1 = false ∧ (({ worldOp t ld with bad := [8] } : State).readMeets ld a4 .loadStore).1 = true ∧
      at1.unsent 0 = false ∧ at1.earlierPass { a4 with data := [1, 0, 0, 0] } = false ∧ (worldOp t at1).homeReady 0 at1 { a4 with data := [1, 0, 0, 0] } 0x100 4 = true ∧
      (worldOp t at1).rangeBad 0x100 4 = false ∧ (worldOp t dr).deliverable dr = some 0 ∧ (∀ inn, (worldOp t (cp inn)).copyTurn 0 0 = true) ∧
      (worldOp t (cp true)).rangeBad 0x100 128 = false ∧ ((worldOp t (cp false)).cluster 0).map (fun c => c.present 0 && c.spoiled.isEmpty) = some true ∧
      ({ cp true with accs := [] } : Op).allDone = true ∧
      (let w := worldOp t { cp true with accs := [] }
       w.copyLast 0 0 = true ∧ w.writesHome (some 0) 0 = true ∧ w.coveredAt 2 (some 0) 0 0 = true) := by
  decide +kernel

/-- PerformResult, stores and units: a store ready at its home, alone and of an instruction's lane; a posted entry ready to go; a unit with tokens and without; a bucket below its cap. -/
theorem witness_perform_out :
    let t := team1 []
    let wr : StoreReq :=
      { team := some 0, dom := 0, part := 0, ctx := 0, key := 0x100, va := 0xC0000100, data := [1], pa := 0x100, nodes := [], seq := 0, rel := none, op := none }
    let tr : Tr := { place := .mem 0x100, pa := 0x100, nodes := [] }
    let ps : Posted := { team := 0, op := 0, lane := 0, va := 0xC0000100, data := [1], tr := some tr, held := none, sent := false, mig := false }
    let sp : State := { free (world t) with posted := [(0, ps)] }
    let st := opK .store [accAt 0xC0000100 1 (.mem 0x100) [1]]
    let un := { opK .store [{ accAt 0xC0000100 4 (.remote 1) [1, 2, 3, 4] with aux := 1 }] with units := [{ dev := 1, cost := 2, idx := [0], stalled := false }] }
    let job : State := { worldJob t with ops := [(0, un)], cur := none, stamp := 1 }
    ({ free (world t) with stores := [(0, wr)] } : State).storeReady 0 wr = true ∧
      (let y := { wr with op := some (0, 0) }
       let s : State := { worldOp t st with stores := [(0, y)] }
       s.storeReady 0 y = true ∧ (s.homeWrite (s.ctxMemKey 0 0) 0x100 [1]).op 0 = some st) ∧
      sp.drainReady 0 ps = true ∧ (sp.postedTr t 0 ps).1 = .ok tr ∧ sp.wholeGranule 0 0x100 ps = (sp, ps) ∧ sp.fenced (some 0) 0 = false ∧
      sp.blocked (some 0) 0 0x100 1 = false ∧ sp.meetsBad 0 true 0x100 1 = false ∧ sp.readAway 0 ps = false ∧
      job.unitsGo un = true ∧ job.reaches 0 0 1 = true ∧ (job.ctx 0 0).fabDev ≠ 1 ∧ job.unitWaits 0 un { dev := 1, cost := 2, idx := [0], stalled := false } = false ∧
      2 ≤ ((job.setBucket 0 0 0 { Bucket.fresh with tokens := 2 }).bucket 0 0 0).tokens ∧
      (job.bucket 0 0 0).tokens < 2 ∧ 0 < (job.bucket 0 0 0).gain ∧ (job.bucket 0 0 0).tokens < (job.bucket 0 0 0).cap := by
  and_intros <;> first | decide +kernel | exact rfl

/-- TaskResult: a claimed record that is published and read, a DEQ with a lane to serve, a record to write, the count operations of a knot at their bounds, a firing with room for its record, a grid of one small cluster that fits, a team that waits to come back, and a fault record for the owner's queue. -/
theorem witness_task :
    let t := teamH 0
    let k := queueKey 0 3
    let ring : SubRing := { head := 0, tail := 1, published := [0] }
    let dq := opK (.deq k 8 [] false) [{ accAt 0x80030000 32 (.mem 0) [] with reg := 0, aux := 0 }]
    let en := opK (.enq k) [{ accAt 0x80030000 32 (.mem 0) (List.replicate 32 1) with reg := 0, aux := 0 }]
    let kn (n : Nat) := opK (.knot 2 (knotKey 0 3) 0 0) [{ Acc.new 0 0 0 1 0 [] with aux := n }]
    let f : Firing := { record := 0, queue := k, vdie := 0, part := 0, ctx := 0, obj := 0, op := none, who := none, data := some (List.replicate 32 1),
                        claim := none, held := false, mig := false }
    let g : Grid :=
      { part := 0, ctx := 0, roles := [{ entry := 0x8000, lanes := 1, vregs := 8, kind := 0, count := 1 }], hasRoles := false, scratch := 128, carve := 1, fuse := false,
        shape := 0, scope := 0, size := 1, start := none, done := none, doneObj := 0, waiting := false, next := 0, running := 0, die := 0, vdie := 0,
        ring := false, ahead := [] }
    let q (s : State) : State := { s with queues := (worldQ t [(0, ring)]).queues }
    (q (worldOp t dq)).deliverableRecord k dq = some 0 ∧
      Got.is ((q (worldOp t dq)).agentRead 0 0 0 0x80030000 32) (fun bs _ => bs.length == 32) = true ∧
      (q (worldOp t dq)).firstRecord 0 0 k 0 = some 0 ∧
      (q (worldOp t dq)).acquires (some 0) 0 = false ∧ (q (worldOp t en)).writeHeld 0 en = false ∧ (worldOp t (kn 1)).writeHeld 0 (kn 1) = false ∧
      Got.is ((q (worldOp t en)).writeRecord 0 0 0 0x80030000 (List.replicate 32 1)) (fun _ _ => true) = true ∧
      (((kn 1).accs.zipIdx.find? fun a => !a.1.done && a.1.size == 0).map (·.2)) = some 0 ∧ ((worldOp t (kn 1)).knot (knotKey 0 3)).count < 1 ∧
      (q (worldOp t dq)).firstRoom 0 0 k 0 = some 0 ∧
      (let s := ((q (free (world t))).setKnot (knotKey 0 3) { Knot.fresh with firing := [f] }).claimTail k 0
       Got.is ((s.2.fireReleases f).writeRecord 0 0 (s.2.fireDie f) ((s.2.queue k).recAddr 0 1) (List.replicate 32 1)) fun _ _ => true) = true ∧
      shapeOf 0 = some (1, 1) ∧ (free (world t)).physDie 0 0 0 = some 0 ∧
      ({ free (world t) with grids := [(1, g)], teams := [], clusters := [] } : State).clusterFits g 0 0 0 1 1 = true ∧
      (let y := { team1 [] with place := .spilled }
       ({ free (world t) with teams := [(0, y)] } : State).wantsBack 0 y && (({ free (world t) with teams := [(0, y)] } : State).backHome 0 y).isSome) = true ∧
      ((q (free (world t))).enqueueFault (ctxKey 0 0) 0 0 (hnd 1) (List.replicate 9 0)).2 = .queue k := by
  decide +kernel

/-- TaskResult, places: a context wholly halted with lining flips it and holds its copies; a team long not ready whose leaving lets a launch be placed. -/
theorem witness_places :
    let t := { team1 [] with halted := true }
    let s : State := { worldAs t .owner ctx0 with ctxs := [(0, { ctx0 with preempted := true })] }
    let l : State := { s with teams := [(0, { t with place := .lining })] }
    let y := { team1 [] with nlanes := 1024, nregs := 128, idle := 1, hold := some (.queueRecord 0) }
    let g : Grid :=
      { part := 0, ctx := 0, roles := [{ entry := 0x8000, lanes := 1024, vregs := 128, kind := 0, count := 1 }], hasRoles := false, scratch := 128, carve := 1, fuse := false,
        shape := 0, scope := 0, size := 1, start := none, done := none, doneObj := 0, waiting := false, next := 0, running := 0, die := 0, vdie := 0,
        ring := false, ahead := [] }
    s.flips 0 0 = true ∧ s.flipDue 0 0 0 = true ∧ s.mmaDue 0 0 0 = false ∧ s.liningHeld 0 0 1 = false ∧ l.liningHeld 0 0 0 = true ∧
      y.mayLeave = true ∧ ({ free (world y) with cores := [(0, { CoreSt.fresh with clk := 50000 })] } : State).wouldRun 0 y = false ∧
      y.idle + Config.spillCycles ≤ ((({ free (world y) with cores := [(0, { CoreSt.fresh with clk := 50000 })] } : State).core y.core).clk) + 1 ∧
      (free (world y)).noClaim 0 = true ∧ (free (world y)).tokenWait y = false ∧ (free (world y)).saveSlot y = 0 ∧ g.size = 1 := by
  and_intros <;> first | decide +kernel | exact rfl

/-! ## Engines, requests and the host -/

/-- The machine with the record of an engine queue (kind 0 gather, 1 reduction, 2 conversion) of die 0 as operation 0, and numbers in memory from offset 0x9000. -/
def worldEng (kind : Nat) (ws : List Nat) (pos : Nat) (data : List Nat) : State :=
  let s := worldRec (team1 []) 0x9000 data
  { free s with ops := [(0, opK (.engine (engineQueue 0 kind 0) 0 0 (ws.map (BitVec.ofNat 32)) pos false) [])], stamp := 1 }

/-- A copy record of one line between the fourth page and the scratch of core 0: in (1) or out (2). -/
def recWs (op : Nat) : List Word := [BitVec.ofNat 32 (op + 9 * 2 ^ 8), 0, 128, 0xC0009000, 0, 128, 1, 128, 128]

/-- EngineResult: ports that hold a record staged whole (copy, and an engine of a die that works) and a queue with room; a line of a copy record each way; an output row of a gather over two rows, an element of a reduction of two buffers, one of a conversion from F32 to BF16 without scales; the three completions; a record's fault; a tracer's push of a tile and of its end token. -/
theorem witness_engine :
    let port (b : QBind) : Team := { team1 [] with qregs := (team1 []).qregs.set 1 { bind := b, fifo := [], staged := recWs 1 } }
    let rc (op : Nat) : State := worldOp (team1 []) (opK (.recCopy (recWs op) 0) [])
    let ready (s : State) (f : Nat → Nat → List Word → Bool) : Bool := match s.op 0 with
      | some x => !x.mig && x.failed.isEmpty && match x.kind with
        | .engine k v cl ws pos false => s.engineTurn 0 k && (engineBody (queueKind k) ws).isNone && (s.targetOk cl ws).isNone && pos < engineUnits (queueKind k) ws && v == 0 && f k pos ws
        | _ => false
      | none => false
    let g := worldEng 0 [0x10C01, 0, 0x80009000, 0, 8, 2, 0xC0009010, 0, 1, 0x202, 0x40009100, 0] 0 [1, 2, 3, 4, 0, 1]
    let r := worldEng 1 ([0x11601, 0, 2 + 2 * 2 ^ 16, 1, 0x40009100, 0, 0x80009000, 0, 0xC0009004, 0] ++ List.replicate 12 0) 0 [5, 6]
    let c := worldEng 2 [0x10B01, 0, 10 + 9 * 2 ^ 8, 1, 0x80009000, 0, 0x40009100, 0, 0, 0, 0] 0 [0x3F800000]
    let done (d w1 : Nat) : State := worldEng 2 [0x10B01 + d * 2 ^ 13, w1, 10 + 9 * 2 ^ 8, 1, 0, 0, 0, 0, 0, 0, 0] 1 []
    let tr := opK (.trace 1 2 1 1 [] false) []
    let tq := worldOp (teamQ []) tr
    ((port (.engine 0 1 2)).qregs[1]).whole = true ∧
      (free (world (port (.engine 0 1 2)))).writesHome (some 0) ((port (.engine 0 1 2)).qregs[1]).since = true ∧
      (port (.engine 0 1 2)).stagedBefore ((port (.engine 0 1 2)).qregs[1]) = false ∧
      (free (world (team1 []))).physDie 0 0 0 = some 0 ∧ (free (world (team1 []))).queued (engineQueue 0 1 2) < Config.engineDepth ∧
      (rc 1).copyTurn 0 0 = true ∧ 0 < recLines (recWs 1) ∧ (rc 1).copyBody 0 (recWs 1) = none ∧ bits (recWs 1)[0] 7 0 = 1 ∧
      Got.is ((rc 1).agentGet 0 0 0 (piecesOf 0xC0009000 128)) (fun bs s1 => bs.length == 128 && (s1.op 0).isSome) = true ∧
      bits (recWs 2)[0] 7 0 = 2 ∧ (rc 2).copyBody 0 (recWs 2) = none ∧ ((rc 2).cluster 0).map (fun c => c.present 128 && c.spoiled.isEmpty) = some true ∧
      Got.is ((rc 2).agentPut 0 0 0 (some 0) 0xC0009000 (List.replicate 128 1) (piecesOf 0xC0009000 128)) (fun _ s1 => (s1.op 0).isSome) = true ∧
      ready g (fun _ pos ws => Got.is (g.agentGet 0 0 0 (piecesOf (recAddr ws 6 + 4 * (pos * 2)) 8)) fun is s1 => is == natBytes (2 ^ 32) 8 &&
        Got.is (s1.gatherRows 0 0 0 ws (bytesWords 2 is)) fun rows s2 => combRows (bits ((ws[9]?).getD 0) 15 8) rows == [4, 6] &&
          Got.is (s2.agentPut 0 0 0 (some 0) 0x40009100 (wordsBytes [4, 6]) (piecesOf 0x40009100 8)) fun _ s3 => (s3.op 0).isSome) = true ∧
      ready r (fun _ pos ws => Got.is (r.reduceSrcs 0 0 0 4 pos ((List.range 2).map fun j => recAddr ws (6 + 2 * j))) fun xs s1 => xs == [5, 6] &&
        Got.is (s1.agentPut 0 0 0 (some 0) 0x40009100 (natBytes 11 4) (piecesOf 0x40009100 4)) fun _ s3 => (s3.op 0).isSome) = true ∧
      ready c (fun _ pos ws => Got.is (c.agentGet 0 0 0 (piecesOf (recAddr ws 4 + 4 * pos) 4)) fun bs s1 => bs == natBytes 0x3F800000 4 &&
        Got.is (s1.convCodes 0 0 0 ws [pos]) fun cs s2 => cs == [none] &&
          Got.is (s2.agentPut 0 0 0 (some 0) 0x40009100 [0x80, 0x3F] (piecesOf 0x40009100 2)) fun _ s3 => (s3.op 0).isSome) = true ∧
      (done 0 0).coveredAt (recScope ([0x10B01, 0] : List Word)) (some 0) 0 0 = true ∧
      (let x := opK (.recCopy (recWs 1) 1) []
       recLines (recWs 1) ≤ 1 ∧ (worldOp (team1 []) x).copyLast 0 0 = true ∧ (worldOp (team1 []) x).writesHome (some 0) 0 = true ∧
         (worldOp (team1 []) x).coveredAt (recScope (recWs 1)) (some 0) 0 0 = true ∧ bits ((recWs 1)[0]?.getD 0) 14 13 = 0) ∧ (done 1 128).tackReachable 0 (some (scratchKey 128)) = true ∧
      Got.is ((done 2 (hnd 2).toNat).agentHandle 0 0 0 (hnd 2) .knot) (fun n s1 => match n with
        | some n => s1.knotOk 0 n
        | none => false) = true ∧
      tq.op 0 = some tr ∧ tr.kind = .trace 1 2 1 1 [] false ∧ (teamQ []).going = true ∧
      (∀ j < 2, nextTile 2 j [] = some j ∧ (match tq.push1 0 1 (tileWord 2 1 j) with
        | .ok _ => true
        | _ => false) = true) ∧
      (match tq.push1 0 1 0xFFFFFFFF with
        | .ok _ => true
        | _ => false) = true := by
  and_intros <;> first | decide +kernel | exact rfl

/-- The object of one argument and one reply whose state lies in the fourth page, at offset 0x50000. -/
def pleatWs : List Word := [BitVec.ofNat 32 (1 + 2 ^ 4 + 3 * 2 ^ 8 + 8 * 2 ^ 16), 0, 0xC0050000, 0, 0x8000, 0, 0, 0]

/-- A request of that object at a stage of its way. -/
def pleatReq (stage : ReqStage) : PleatReq :=
  { part := 0, ctx := 0, object := 0x80020400, handle := hnd 5, record := pleatWs, args := [7], core := 0, pkg := none, op := 0, lane := 0, stage := stage, reply := [9],
    aborted := stage == .aborted }

/-- RequestResult: an MMA step of a lane group that is ready and reads nothing (unit scales); the request of an object whose inbox has room, a wave that starts, a request replied, aborted and stayed; plane 35; loads, stores and additions of 4 and 8 bytes of a unit, and a unit of no member; every body of a request over the job. -/
theorem witness_request :
    let lg : LoopGrp := { g := 0, pos := 0, stopped := false, frags := List.replicate 1024 0, bufs := [] }
    let l : Loop := { fn := 0, sw := [BitVec.ofNat 32 (9 + 9 * 2 ^ 8 + 2 ^ 24), 0, 0, 0, 0, 0, 0, 0], flush := false, vbase := 0, record := [], row := 0, offs := [0, 1], stride := 0,
                      step0 := 0, groups := [lg], st := 0 }
    let lo := { opK (.loop l) [] with mask := 1 }
    let ac : Acc := { Acc.new 0 0x80020400 1 1 4 (natBytes 7 16 ++ wordsBytes pleatWs) with aux := (hnd 5).toNat, tr := noTr }
    let po := opK (.pleat 4 []) [ac]
    let ps := worldOp (team1 []) po
    let pq (st : ReqStage) : State := { worldOp (team1 []) { po with kind := .pleat 4 [0] } with pleats := [(1, pleatReq st)] }
    let u (b : FabBody) : FabUnit := { pkg := 5, spart := 2, sctx := 3, dev := 1, part := 0, ctx := 0, uid := 9, body := b }
    let job := free (worldJob (team1 []))
    let two : State := { free (worldTwo (worldJob (team1 [])) 4 0xC0020400 4 0x20500) with ctxs := [(0, { job.ctx 0 0 with htabBase := 0x7FFFFFE0 })] }
    let m (b : DrainBody) : DrainMsg := { pkg := 5, spart := 2, sctx := 3, dev := 1, part := 0, ctx := 0, uid := 9, k := 0, body := b }
    ((worldOp (team1 []) lo).stepReady 0 0 lo (team1 []) l lg && (swatchOf l.sw).isSome && !(worldOp (team1 []) lo).rowsSpoilt 0 (0, 0, 1)) = true ∧
      ((swatchOf l.sw).map fun sw => l.reads sw 0 0) = some ([], [], []) ∧
      ps.unitsGo po = true ∧ ps.coveredAt 3 po.team po.dom 0 = true ∧ ac.remoteDev = none ∧ ac.objWords = pleatWs ∧
      ((pleatOf pleatWs).map fun ob => Got.is (ps.pleatHome 0 0 0x80020400 ob) fun core s1 => decide (s1.inboxUsed core < Config.inboxSlots) && core == pleatCore 0x50000) = some true ∧
      (let w := { pq .inbox with cores := (List.range 48).map fun k => (k, { CoreSt.fresh with enabled := true }) }
       w.waveRuns 0 0 0x80020400 = false ∧ (w.ctx 0 0).runs = true ∧ (((w.inboxOf 0 0 0x80020400).take 1024).head?).map (·.1) = some 1 ∧
         ((pleatOf pleatWs).map fun ob => Got.is (w.pleatHome 0 0 0x80020400 ob) fun core s1 =>
           (s1.freeSlot core []).isSome && (s1.core core).enabled && !s1.fusedOn s1.stamp core && decide (s1.unitsUsed core + regUnitsOf 1 ob.vregs ≤ Config.regUnits)) = some true) ∧
      (∀ st ∈ [ReqStage.replied, .aborted, .stayed], recFind (pq st).pleats 1 = some (pleatReq st) ∧ (pq st).replyStays po = false) ∧ po.laneIdx 0 = some (0, ac) ∧
      ({ pq .replied with ctxs := [(0, { ctx0 with sealed := true })] } : State).replyStays po = true ∧
      35 ∉ (free (world (team1 []))).dev.planes ∧ 35 < 36 ∧
      job.member 0 0 5 2 3 1 = true ∧ job.member 0 0 5 2 3 0 = false ∧ (job.ctx 0 0).placed = true ∧ (0xC0009000 : Nat) % 4 = 0 ∧
      job.behind (u (.load 4 [(0, 0xC0009000)])) 0xC0009000 = false ∧ (FarWrite.atom 7 2).fn (natBytes 1 4) = some (.xchg, .i32) ∧
      (FarWrite.atom 7 2).fn (natBytes 2 4) = some (.xchg, .i32) ∧ (m (.patEnd (hnd 1))).body = .patEnd (hnd 1) ∧ AtomFn.xchg.size .i32 = 4 ∧
      Got.is (job.agentRead 0 0 (job.doorDie 0 0) 0xC0009000 4) (fun bs _ => bs.length == 4) = true ∧
      (∀ n ∈ [1, 4, 8], Got.is (job.agentPlace 0 0 (job.doorDie 0 0) 0xC0009000 n) (fun tr s1 => tr.place == .mem 0x9000 && !s1.rangeBad 0x9000 n) = true) ∧
      (u (.add true [(0, 0xC0009000, natBytes 1 4)])).body = .add true [(0, 0xC0009000, natBytes 1 4)] ∧
      two.member 0 0 5 2 3 1 = true ∧ two.member 0 0 5 2 3 0 = false ∧ (two.ctx 0 0).placed = true ∧
      (∀ w ∈ [false, true], Got.is (two.patCopy 0 0 (two.doorDie 0 0) (hnd 1) (hnd 2) w) (fun _ _ => true) = true) ∧ (m (.patInv (hnd 1))).body = .patInv (hnd 1) := by
  and_intros <;> first | decide +kernel | exact rfl

/-- The machine with a partition whose interface stands in RUN, so that the T bit is trusted, and whose context 0 has a ring of 16 entries and its keys. -/
def worldHost : State :=
  let x : Ctx := { ctx0 with dbg := true, keyState := .imported, ring := { ctx0.ring with log := 4, expect := 1 } }
  { free (world (team1 [])) with teams := [], clusters := [], parts := [(0, { Part.fresh with tdisp := .run })], ctxs := [(0, x), (1, { ctx0 with fabNvd := 0, dbg := false })] }

/-- HostRegisterResult: the partition answers; at S2 root 0 the operator may write and read all, and the owner neither (an access refused in part or whole, by each class); an OW page with and without trust; a queue of the partition that is disabled and empty, the last one; shapes 4 and 5; each state of a handshake and the shapes of each pair; a context to create, to remove and to keep; a debug stop in a context with debug and in one without. A blob of another length is refused; that one is good is a free value of the model (log 7), which no witness can show. -/
theorem witness_registers :
    let s := worldHost
    let m (st shape : Nat) (split : Bool) : State := { worldHost with ctxs := [], dev := { worldHost.dev with mrgState := st, shape := shape, mrgSplit := split } }
    s.live = true ∧ s.isPart 0 = true ∧ s.trusts 0 true = true ∧ s.trusts 0 false = false ∧
      regName 0x3000 = some (.s2root 0 0) ∧ s.hasReg 0 (.s2root 0 0) = true ∧ owPage 0x3000 = false ∧ owPage 0x1FFFC = false ∧ owPage 0x20000 = true ∧
      (s.regView 0 (.s2root 0 0)).opW ≠ 0 ∧ (s.regView 0 (.s2root 0 0)).ownW = 0 ∧ (s.regView 0 (.s2root 0 0)).named ≠ 0 ∧
      (s.regView 0 (.s2root 0 0)).named &&& ~~~((s.regView 0 (.s2root 0 0)).opR ||| (s.regView 0 (.s2root 0 0)).opW) = 0 ∧
      regName 0x20400 = some (.keyCtl 0 0) ∧ s.hasReg 0 (.keyCtl 0 0) = true ∧ (s.regView 0 (.keyCtl 0 0)).ownW ≠ 0 ∧
      regName (0x30000 + 0xFFF8) = some (.queue 4095 2) ∧ s.queueOk 0 4095 = true ∧ (s.queue (queueKey 0 4095)).en = false ∧ s.held (queueKey 0 4095) = 0 ∧
      regName (0x30000 + 0xFFF0) = some (.queue 4095 0) ∧ ({ s.queue 0 with en := true } : Queue).en = true ∧ (s.ctx 0 0).importing = none ∧
      bits 4 2 0 < 5 ∧ 5 ≤ bits 5 2 0 ∧ (∀ p < 4, (m 0 0 false).holdsCtx p = false) ∧
      ((m 1 2 false).mergeWhy = 0 ∧ (m 1 0 false).mergeWhy = 8) ∧ pairShape 2 0 false = some 3 ∧ pairShape 3 1 false = some 1 ∧ (m 2 2 false).dev.mrgState = 2 ∧
      (m 3 3 true).dev.mrgSplit = true ∧
      authOf (2 : BitVec 2).toNat = some .auditor ∧ (s.ctx 0 63).en = false ∧ (s.ctx 0 1).en = true ∧ (s.ctx 0 1).fabNvd = 0 ∧ (s.ctx 0 1).sealed = false ∧
      s.faulted 0 1 = false ∧ (s.ctx 0 0).en = true ∧ (s.ctx 0 0).fabNvd ≠ 0 ∧ blobGood [] = false ∧ (s.ctx 0 0).dbg = true ∧ (s.ctx 0 1).dbg = false ∧
      ({ s with teams := [(0, team1 [])] } : State).team 0 = some (team1 []) ∧ s.mayDebug 0 0 true = true ∧ s.mayDebug 0 1 true = false ∧ s.mayDebug 0 0 false = false := by
  and_intros <;> first | decide +kernel | exact rfl

/-- The machine whose ring has a command to perform: its code, a, and b. -/
def worldRing (code : Nat) (a : Word) (b : Nat) (data : Nat × List Nat) : State :=
  let e := natBytes 1 8 ++ natBytes code 4 ++ natBytes a.toNat 4 ++ natBytes b 8
  let s := worldRec (team1 []) data.1 data.2
  { free s with ctxs := [(0, { ctx0 with ring := { ctx0.ring with log := 4, cmd := some e } })], queues := (worldQ (team1 []) []).queues
                knots := [(knotKey 0 3, { Knot.fresh with count := 5 })], teams := [], clusters := [] }

/-- A ring's entry of a number, a launch, signed with a key (R388). -/
def signed (k : Key) (n : Nat) : List Byte :=
  let e := natBytes n 8 ++ natBytes 1 4 ++ natBytes 0 20
  e ++ ringTag k e

/-- HostLinkResult: the entry that a ring expects, one replayed and one out of order. -/
theorem witness_ring_entry : let x := worldHost.ctx 0 0
    x.ringFate (signed x.ringKey 1) = none ∧ ringKnown (signed x.ringKey 1) = true ∧ x.ringFate (signed x.ringKey 0) = some 1 ∧ x.ringFate (signed x.ringKey 3) = some 2 := by
  have tag (k : Key) (e : List Byte) (h : e.length = 32) : ((e ++ ringTag k e).drop 32).take 32 = ringTag k (e ++ ringTag k e) := by
    rw [List.drop_append_of_le_length (by omega), List.drop_eq_nil_of_le (by omega), List.nil_append, List.take_of_length_le (by simp [ringTag])]
    unfold ringTag
    rw [List.take_append_of_le_length (by omega), List.take_of_length_le (by omega)]
  intro x
  have ok (n : Nat) : ((signed x.ringKey n).drop 32).take 32 = ringTag x.ringKey (signed x.ringKey n) := tag _ _ (by simp [natBytes])
  have imp : x.keyState = .imported := by decide +kernel
  have exp : x.ring.expect = 1 := by decide +kernel
  have num : ∀ n ∈ [0, 1, 3], ringNumber (signed x.ringKey n) = n := by
    intro n hn
    revert n
    unfold signed ringNumber
    decide +kernel
  refine ⟨?_, by rfl, ?_, ?_⟩ <;> simp [Ctx.ringFate, ok, imp, exp, num]

/-- HostLinkResult: a ring that is off and one that is on; a ring with no entry unread and with one; a window of the LPDDR6 share, its last byte, and none; a merge that an FLR ends;  an interface of each state; each ring command with what it needs (a launch record, a queue with room, a knot of 5, htab.slots); a boot. The verdict on an image is a free value of the model (log 7): each of its two cases is one of the clauses. -/
theorem witness_host_link :
    let s := worldHost
    let l := worldRing 1 0 0x80009000 (0x9000, [0x8000, 0, 32 + 8 * 2 ^ 16, 128 + 2 ^ 16, 1, 0, 0])
    let e := worldRing 2 (hnd 1) 0xC0009000 (0x9000, [7])
    let k := worldRing 3 (hnd 2) 5 (0x9000, [])
    let w := worldRing 4 0x142 8 (0x9000, [])
    let h := s.setPart 0 { s.part 0 with hdm := some (0, 2 ^ 41) }
    let m : State := { s with dev := { s.dev with mrgState := 2 } }
    let rung (tail : Nat) (es : List (List Byte)) : Ring := { (s.ctx 0 0).ring with tail := tail, buffer := es ++ (s.ctx 0 0).ring.buffer.drop es.length }
    s.live = true ∧ s.isPart 0 = true ∧ s.trusts 0 true = true ∧ (s.ctx 0 0).en = true ∧ (s.ctx 0 0).ring.on = true ∧ (s.ctx 0 1).ring.on = false ∧
      h.exposed 0 0 64 = true ∧ h.exposed 0 (2 ^ 40 - 1) 1 = true ∧ h.exposed 0 (2 ^ 40) 1 = false ∧ s.exposed 0 0 64 = false ∧ h.writeMeetsBad (memKey 1 (2 ^ 40 - 1)) 1 = false ∧
      h.rangeBad (memKey 1 0) 64 = false ∧ (s.ctx 0 0).ring.stopped = false ∧ (s.ctx 0 0).ring.cmd = none ∧
      (rung 0 []).unread = 0 ∧ (rung 1 [[1]]).unread = 1 ∧ s.ringEntry (rung 1 [[1]]) = [1] ∧
      (s.ctx 0 0).importing = none ∧ ({ s.ctx 0 0 with importing := some [] } : Ctx).importing = some [] ∧ m.merging 0 = true ∧ m.dev.mrgState ≠ 3 ∧ ({ s.part 0 with tdisp := .unlocked } : Part).tdisp = .unlocked ∧ s.merging 0 = false ∧
      (l.ringCmd 0 0 1).isSome = true ∧ (match l.createLaunch (agentReader 0 0 0) true 0 0 0 0 0x80009000 with
        | .ok _ => true
        | _ => false) = true ∧
      (e.ringCmd 0 0 2).isSome = true ∧ (e.ctx 0 0).ring.claim = none ∧ (k.ctx 0 0).ring.fires = none ∧ Got.is (e.ringHandle 0 0 (hnd 1) .queue (fun s n => s.queueOk 0 n)) (fun n s1 => (s1.queue (queueKey 0 n)).en &&
        Got.is (s1.agentGet 0 0 0 (piecesOf 0xC0009000 32)) fun bs s2 => (s2.firstRoom 0 0 (queueKey 0 n) 0) == some 0 &&
          (let c := s2.claimTail (queueKey 0 n) 0
           Got.is (c.2.writeRecord 0 0 0 ((c.2.queue (queueKey 0 n)).recAddr 0 c.1) bs) fun _ _ => true)) = true ∧
      (k.ringCmd 0 0 3).isSome = true ∧ Got.is (k.ringHandle 0 0 (hnd 2) .knot (fun s n => s.knotOk 0 n)) (fun n s1 => (s1.knot (knotKey 0 n)).count == 5) = true ∧
      (w.ringCmd 0 0 4).isSome = true ∧ (match w.ctxSet 0 0 (w.ctx 0 0).auth 0x142 8 with
        | .done _ => true
        | _ => false) = true ∧
      State.reset.dev.fw = 0 ∧ s.dev.fw ≠ 0 ∧ ({ s.dev with fw := 2 } : Dev).fw = 2 := by
  and_intros <;> first | decide +kernel | exact rfl

/-- PlatformResult: 48 cores that come on, eight at first; a die whose 48 cores have been idle, with nothing to place; a unit idle for 10,000 cycles; two sleeping units that teams have asked for at stamps 3 and 2; throttling at 0 and at 4; a granule of the partition that is bad and one that is not; a register of a team, lane 0 and the last of 32. -/
theorem witness_platform :
    let s := free (world (team1 []))
    let off : State := { s with cores := [], teams := [] }
    let all (c : CoreSt) : State := { off with cores := (List.range 48).map fun k => (k, c) }
    let idle := all { CoreSt.fresh with enabled := true, clk := 100000 }
    let slept := all { CoreSt.fresh with enabled := true, asleep := true }
    let asks (core n : Nat) : Team := { team1 [] with core := core, hold := some (.unitAsleep n) }
    let wk : State := { slept with teams := [(0, asks 1 3), (1, asks 5 2)] }
    let bd : State := { s with bad := [5] }
    off.dieWorks 0 = true ∧ off.nextCores 0 = [0, 1, 2, 3, 4, 5, 6, 7] ∧ 7 < Config.dies ∧
      idle.placementAt 0 = false ∧ (∀ k < 48, idle.teamsOn k = [] ∧ (idle.core k).lastTeam + Config.idleCycles ≤ (idle.core k).clk) ∧
      (∀ k < 48, off.teamsOn k = [] ∧ (off.core k).enabled = false) ∧
      (idle.core 47).asleep = false ∧ idle.loopOn 47 = false ∧ (idle.core 47).lastLoop + Config.sleepCycles ≤ (idle.core 47).clk ∧
      wk.nextWake (dieCores 0) = some (2, 5) ∧ s.throttle 0 < 5 ∧ (s.setThrottle 0 4).throttle 0 < 5 ∧
      bd.bad.contains 5 = true ∧ bd.bad.contains 4 = false ∧ bd.ownerPart (32 * 5) = some 0 ∧ bd.ownerPart (memKey 1 32) = some 0 ∧
      s.team 0 = some (team1 []) ∧ 0 < (team1 []).nlanes ∧ 31 < (team1 []).nregs ∧ s.dev.next = [] ∧
      ({ s with dev := { s.dev with next := [1] } } : State).dev.next ≠ [] ∧ ({ s with bad := [] } : State).bad.contains 5 = false := by
  and_intros <;> first | decide +kernel | exact rfl

/-- StepRunsDecoded: a picked team whose next word is a NOP; one whose next instruction (SADD of S1) reads a register with an uncorrectable error; no team picked. -/
theorem witness_step :
    let s := worldRec (team1 []) 0x9000 []
    let w : State := { s with teams := [(0, { team1 [] with clause := { header := 0x000FF078, instrs := [0x00F0F0F0], lits := [] } })] }
    let e : State := { s with teams := [(0, { team1 [] with clause := { header := 0x000FF078, instrs := [0x20808181], lits := [] }, spoilt := [skey 1] })] }
    w.dev.trip = false ∧ w.cur = some 0 ∧ ((w.team 0).map (·.word)) = some 0x00F0F0F0 ∧ decodeBytes (wordBytesLE 0x00F0F0F0 ++ []) = .ok (.nop, []) ∧
      w.spoiltLanes .nop ((w.team 0).getD (team1 [])) = [] ∧ e.spoiltLanes (decode ((e.team 0).getD (team1 [])).word) ((e.team 0).getD (team1 [])) = [0] ∧
      (match exec (decode ((e.team 0).getD (team1 [])).word) e with
        | .next u => !u.stopped 0
        | _ => false) = true ∧
      (free w).cur = none ∧ (free w).enabled ≠ [] := by
  exact ⟨rfl, rfl, by decide +kernel, rfl, rfl, by decide +kernel, by decide +kernel, rfl, by decide +kernel⟩

/-- DecodeOfEncode: a well-formed instruction and its word. -/
theorem witness_encode : (Instr.vadd (.v 4) (.v 2) (.v 3)).wf = true ∧ encode (.vadd (.v 4) (.v 2) (.v 3)) = some 0x41040203 := by decide

/-- HomeMemoryRule: a run inside one tier that ends at its last byte, and an address on either side. -/
theorem witness_home : (∀ i < 4, keyTier (2 ^ 52 - 4 + i) = keyTier (2 ^ 52 - 4)) ∧ (2 ^ 52 - 5 < 2 ^ 52 - 4) ∧ memWf State.reset.mem = true ∧ keyTier (2 ^ 52 - 1) = 0 := by
  decide

/-- StepKeepsMemoryForm: a state whose memory lists bytes, and that steps. -/
theorem witness_keeps :
    let s := world { team1 [] with clause := { header := 0x000FF078, instrs := [0x00F0F0F0], lits := [] } }
    memWf s.mem = true ∧ s.mem ≠ [] ∧ (match step s with
      | .next u => memWf u.mem && decide (u.mem = s.mem)
      | _ => false) = true := by
  decide +kernel

end Sys2Proof.Tests
end

/-! # Decoding gives back what encoding packs

A selector byte names its operand again, a packed word's opcode and fields are read back whole, and so each instruction is read back from its own word. -/

namespace Sys2Proof

/-- A selector byte names the operand it was written for (R39, R40). -/
theorem selOf_selByte (x : Sel) (h : x.wf = true) : selOf (selByte x) = x := by
  cases x with
  | v n => revert n; decide
  | s n => revert n; decide
  | k n => revert n; decide
  | q n => revert n; decide
  | m n => revert n; decide
  | sp x => cases x <;> rfl
  | reserved b => revert b; decide

/-- The two bytes of a register number give it back (R54). -/
theorem pairNum_numHi_numLo (n : BitVec 16) : pairNum (numHi n) (numLo n) = n := by
  apply BitVec.eq_of_toNat_eq
  have := n.isLt
  simp only [pairNum, numHi, numLo, BitVec.toNat_ofNat]
  omega

theorem toNat_packWord (op : Nat) (d a b : BitVec 8) (h : op < 256) :
    (packWord op d a b).toNat = op * 2 ^ 24 + d.toNat * 2 ^ 16 + a.toNat * 2 ^ 8 + b.toNat := by
  have := d.isLt
  have := a.isLt
  have := b.isLt
  rw [packWord, BitVec.toNat_ofNat, Nat.mod_eq_of_lt (by omega)]

theorem toNat_fieldAt (w : Word) (lo : Nat) : (fieldAt w lo).toNat = w.toNat / 2 ^ lo % 2 ^ 8 := by
  rw [fieldAt, BitVec.toNat_ofNat]

/-- Decoding a packed word reads its opcode and its three fields (R37). -/
theorem decode_packWord (op : Nat) (d a b : BitVec 8) (h : op < 256) :
    decode (packWord op d a b) = decodeFields op d a b (packWord op d a b) := by
  have hd := d.isLt
  have ha := a.isLt
  have hb := b.isLt
  have fd : fieldAt (packWord op d a b) 16 = d := BitVec.eq_of_toNat_eq (by rw [toNat_fieldAt, toNat_packWord op d a b h]; omega)
  have fa : fieldAt (packWord op d a b) 8 = a := BitVec.eq_of_toNat_eq (by rw [toNat_fieldAt, toNat_packWord op d a b h]; omega)
  have fb : fieldAt (packWord op d a b) 0 = b := BitVec.eq_of_toNat_eq (by rw [toNat_fieldAt, toNat_packWord op d a b h]; omega)
  rw [decode, Laws.Opcodes.pack_opcode op d a b h, fd, fa, fb]

/-- A reserved opcode decodes to itself, with all its bits (R52). -/
theorem decodeFields_reserved (op : Nat) (d a b : BitVec 8) (w : Word) (h : reservedOpcode op = true) :
    decodeFields op d a b w = .illegalOpcode w := by
  simp only [reservedOpcode, Bool.or_eq_true, Bool.and_eq_true, beq_iff_eq, decide_eq_true_eq] at h
  rcases h with (((((((rfl | rfl) | ⟨h1, h2⟩) | ⟨h1, h2⟩) | rfl) | rfl) | ⟨h1, h2⟩) | ⟨h1, h2⟩) | rfl
  · rfl
  · rfl
  · interval_cases op <;> rfl
  · interval_cases op <;> rfl
  · rfl
  · rfl
  · interval_cases op <;> rfl
  · interval_cases op <;> rfl
  · rfl

/-- What the word of a packed instruction decodes to. -/
theorem decode_of_pack {i : Instr} {w : Word} {op : Nat} {d a b : BitVec 8} (he : encode i = some w) (hp : encode i = some (packWord op d a b))
    (h : op < 256) : decode w = decodeFields op d a b w := by
  obtain rfl : packWord op d a b = w := Option.some.inj (hp.symm.trans he)
  exact decode_packWord op d a b h

/-! An instruction over well-formed selectors is the one over the operands that their bytes name. -/

theorem sel1_eq {a : Sel} (f : Sel → Instr) (h : a.wf = true) : f a = f (selOf (selByte a)) := by
  rw [selOf_selByte a h]

theorem sel2_eq {a b : Sel} (f : Sel → Sel → Instr) (h : (a.wf && b.wf) = true) : f a b = f (selOf (selByte a)) (selOf (selByte b)) := by
  rw [Bool.and_eq_true] at h
  rw [selOf_selByte a h.1, selOf_selByte b h.2]

theorem sel3_eq {d a b : Sel} (f : Sel → Sel → Sel → Instr) (h : (d.wf && a.wf && b.wf) = true) :
    f d a b = f (selOf (selByte d)) (selOf (selByte a)) (selOf (selByte b)) := by
  rw [Bool.and_eq_true] at h
  rw [selOf_selByte b h.2]
  exact sel2_eq (f · · b) h.1

theorem sel1_byte_eq {a : Sel} {n : BitVec 8} (f : Sel → BitVec 8 → Instr) (h : a.wf = true) : f a n = f (selOf (selByte a)) n :=
  sel1_eq (f · n) h

theorem sel2_byte_eq {a b : Sel} {n : BitVec 8} (f : Sel → Sel → BitVec 8 → Instr) (h : (a.wf && b.wf) = true) :
    f a b n = f (selOf (selByte a)) (selOf (selByte b)) n :=
  sel2_eq (f · · n) h

/-- Decoding gives back every well-formed instruction that a word encodes. -/
theorem decode_encode (i : Instr) (w : Word) (h : i.wf = true) (he : encode i = some w) : decode w = i := by
  cases i
  case mand d a b | mor d a b | mxor d a b | mandn d a b | mgetw d a b | msetw d a b | vcmpeq d a b | vcmpne d a b | vcmplt d a b | vcmple d a b
    | sadd d a b | ssub d a b | smul d a b | smulh d a b | smulhn d a b | sand d a b | sor d a b | sxor d a b | sshl d a b | sshr d a b | ssra d a b
    | smin d a b | smax d a b | sminn d a b | smaxn d a b | scmpeq d a b | scmplt d a b | scmpltn d a b | sld d a b | sld2 d a b | sst d a b
    | sst2 d a b | sfadd d a b | sfmul d a b | sfma d a b | sdivn d a b | sdiv d a b | srem d a b | vadd d a b | vsub d a b | vmul d a b | vmulh d a b
    | vfma d a b | vfnma d a b | vmad d a b | vmin d a b | vmax d a b | vand d a b | vor d a b | vxor d a b | vshl d a b | vshr d a b | vsra d a b
    | vrot d a b | vsel d a b | vbcast d a b | vldexp d a b | vcpsgn d a b | vdot4 d a b | vdot2 d a b | vperm d a b | vextr d a b | vins d a b
    | vpack d a b | vunpk d a b | vabsd d a b | vld1 d a b | vld2 d a b | vld4 d a b | vld8 d a b | vst1 d a b | vst2 d a b | vst4 d a b | vst8 d a b
    | pld1 d a b | pld2 d a b | pld4 d a b | pst1 d a b | pst2 d a b | pst4 d a b | cld d a b | smpl d a b | tlld d a b | cpy d a b | cpyt d a b
    | cpyo d a b | dfadd d a b | dmin d a b | dmax d a b | dxchg d a b | aadd d a b | afadd d a b | amin d a b | amax d a b | aand d a b | aor d a b
    | axor d a b | axchg d a b | acas d a b | acas2 d a b | acas4 d a b | dadd d a b | deqtry d a b | knotbind d a b | qlen d a b | mma d a b
    | mgrp d a b | acrd d a b | acrdx d a b | qblk d a b | dqblk d a b | patld d a b | patst d a b | pataddr d a b | pleat d a b | peerld d a b
    | peerst d a b | peeradd d a b | hops d a b | invpg d a b | audrd d a b | discard d a b | attest d a b =>
    exact (decode_of_pack he rfl (by decide)).trans (sel3_eq _ h).symm
  case brz a b | brnz a b | brmz a b | brmnz a b | pres a b | pinv a b | pref a b | cflush a b | cinv a b | tkinit a b | tkwait a b | tkexp a b
    | rdand a b | rdor a b | rdxor a b | rdadd a b | rdfadd a b | rdmin a b | rdmax a b | knotinit a b | knotadd a b | knotdec a b | launch a b
    | aczero a b | acwr a b | acadd a b | patcf a b | fsdrain a b | fsconf a b | place a b | call d b | mmov d a | mnot d a | mcnt d a | mfirst d a
    | msumw d a | mfromv d a | smov d a | sclz d a | spopc d a | vmov d a | vabs d a | vneg d a | vnot d a | vpopc d a | vclz d a | vbrev d a
    | vrcp d a | vrsq d a | vsqrt d a | vexp2 d a | vlog2 d a | vsin d a | vcos d a | vtanh d a | vrnd d a | vfrc d a | vredadd d a | vredmin d a
    | vredmax d a | vmovp d a | vmsk d a | qtry d a | chunk d a | enq d a | deq d a | rfsrc d a | trace d a | mloop d a | acwin d a =>
    exact (decode_of_pack he rfl (by decide)).trans (sel2_eq _ h).symm
  case br b | jmp b | setmode b | waitd b | getmode d | plarg d | vdie d | qfence a | tkarr a | tkaw a | trstop a | swsel a | patinv a | plreply a
    | preempt a | resume a =>
    exact (decode_of_pack he rfl (by decide)).trans (sel1_eq _ h).symm
  case vclass d a b | scvt d a b | vcvt d a b | vshuf d a b | vscan d a b | vscant d a b | qbind d a b =>
    exact (decode_of_pack he rfl (by decide)).trans (sel2_byte_eq _ h).symm
  case fltack a b =>
    exact (decode_of_pack he rfl (by decide)).trans (sel1_byte_eq _ h).symm
  case nop | yield | exit | fence | pldone | invcf | pfence d | trap b | brk b => exact decode_of_pack he rfl (by decide)
  case srd d n => exact (decode_of_pack he rfl (by decide)).trans (congrArg₂ Instr.srd (selOf_selByte d h) (pairNum_numHi_numLo n))
  case swr n b => exact (decode_of_pack he rfl (by decide)).trans (congrArg₂ Instr.swr (pairNum_numHi_numLo n) (selOf_selByte b h))
  case illegalOpcode x =>
    cases he
    exact decodeFields_reserved _ _ _ _ _ (by simpa only [Instr.wf, Nat.shiftRight_eq_div_pow] using h)
  -- Left are SEAL and UNSEAL, whose names are keywords, and then the steps that no word encodes.
  next d a b => exact (decode_of_pack he rfl (by decide)).trans (sel3_eq _ h).symm
  next d a => exact (decode_of_pack he rfl (by decide)).trans (sel2_eq _ h).symm
  all_goals cases he

/-- The four bytes of a word, as memory holds them, are the word again (R3, R37). -/
theorem decodeBytes_wordBytesLE (w : Word) (rest : List Byte) : decodeBytes (wordBytesLE w ++ rest) = .ok (decode w, rest) := by
  have hw : BitVec.ofNat 32 ((fieldAt w 0).toNat + (fieldAt w 8).toNat * 2 ^ 8 + (fieldAt w 16).toNat * 2 ^ 16 + (fieldAt w 24).toNat * 2 ^ 24) = w := by
    apply BitVec.eq_of_toNat_eq
    have := w.isLt
    simp only [toNat_fieldAt, BitVec.toNat_ofNat]
    omega
  simp only [wordBytesLE, List.cons_append, List.nil_append, decodeBytes, hw]

/-- Settles O55: each field of a packed word is read back whole, and a selector byte names the operand it was written for. -/
theorem decodeOfEncode : Obligations.DecodeOfEncode := by
  intro i w h he
  have hd := decode_encode i w h he
  exact ⟨hd, fun rest => by rw [decodeBytes_wordBytesLE, hd]⟩
end Sys2Proof

/-! # Every step keeps memory in its canonical form

One rule for each operation of the model, in the order of the model's files: from a state whose memory is in its canonical form (log 1) it gives one in that form.
Three operations change memory: `State.homeWrite` writes a run of bytes, `State.erase` forgets a partition's HBM, and `State.powerLost` forgets everything; their rules rest on the laws of memory (Laws/Store).
Every other operation writes other fields or is made of operations before it: its proof splits along the branches of its definition (`fun_cases`, or `fun_induction` where it recurs), and on each branch `grind` chains the rules of the operations called there, each registered by a `grind_pattern` on its operation.
An operation that takes a continuation asks that the continuation keeps the form. -/

namespace Sys2Proof.Machine

/- The rules build on one another in order: elaborated one at a time, none waits on a thread of its own. -/
set_option Elab.async false

open Sys2Proof

/-! ## The form, of a state and of each kind of answer -/

/-- The memory of a state is in its canonical form (log 1). -/
def State.Formed (s : State) : Prop := memWf s.mem = true

/-- The form speaks of memory alone: an update of another field keeps it. -/
theorem State.formed_iff (s : State) : s.Formed ↔ memWf s.mem = true := Iff.rfl
grind_pattern State.formed_iff => s.Formed

/-- An outcome is formed where the next state is; a stop has none. -/
def OutFormed : Host.Outcome State Fault Refusal → Prop
  | .next s => s.Formed
  | _ => True
theorem outFormed_next (s : State) : OutFormed (.next s) ↔ s.Formed := Iff.rfl
theorem outFormed_fault (r : Fault) : OutFormed (.fault r) := trivial
theorem outFormed_refused (r : Refusal) : OutFormed (.refused r) := trivial
grind_pattern outFormed_next => OutFormed (.next s)
grind_pattern outFormed_fault => OutFormed (.fault r)
grind_pattern outFormed_refused => OutFormed (.refused r)

/-- An answer that may be no state. -/
def OptFormed : Option State → Prop
  | some s => s.Formed
  | none => True
theorem optFormed_some (s : State) : OptFormed (some s) ↔ s.Formed := Iff.rfl
theorem optFormed_none : OptFormed none := trivial
grind_pattern optFormed_some => OptFormed (some s)
grind_pattern optFormed_none => OptFormed none

/-- What draining a posted entry gives. -/
def DrainRes.Formed : DrainRes → Prop
  | .ok s => s.Formed
  | .held _ s => s.Formed
  | .wait _ s => s.Formed
theorem DrainRes.formed_ok (s : State) : (DrainRes.ok s).Formed ↔ s.Formed := Iff.rfl
theorem DrainRes.formed_held (f : LaneFault) (s : State) : (DrainRes.held f s).Formed ↔ s.Formed := Iff.rfl
theorem DrainRes.formed_wait (h : Hold) (s : State) : (DrainRes.wait h s).Formed ↔ s.Formed := Iff.rfl
grind_pattern DrainRes.formed_ok => (DrainRes.ok s).Formed
grind_pattern DrainRes.formed_held => (DrainRes.held f s).Formed
grind_pattern DrainRes.formed_wait => (DrainRes.wait h s).Formed

/-- What draining some entries gives. -/
def Drained.Formed : Drained → Prop
  | .ok s => s.Formed
  | .fault _ _ s => s.Formed
  | .wait _ s => s.Formed
theorem Drained.formed_ok (s : State) : (Drained.ok s).Formed ↔ s.Formed := Iff.rfl
theorem Drained.formed_fault (e : Nat) (f : LaneFault) (s : State) : (Drained.fault e f s).Formed ↔ s.Formed := Iff.rfl
theorem Drained.formed_wait (h : Hold) (s : State) : (Drained.wait h s).Formed ↔ s.Formed := Iff.rfl
grind_pattern Drained.formed_ok => (Drained.ok s).Formed
grind_pattern Drained.formed_fault => (Drained.fault e f s).Formed
grind_pattern Drained.formed_wait => (Drained.wait h s).Formed

/-- What one push gives. -/
def Push.Formed : Push → Prop
  | .ok s => s.Formed
  | .full => True
  | .bad => True
  | .fault _ _ s => s.Formed
  | .wait _ s => s.Formed
theorem Push.formed_ok (s : State) : (Push.ok s).Formed ↔ s.Formed := Iff.rfl
theorem Push.formed_full : Push.full.Formed := trivial
theorem Push.formed_bad : Push.bad.Formed := trivial
theorem Push.formed_fault (e : Nat) (f : LaneFault) (s : State) : (Push.fault e f s).Formed ↔ s.Formed := Iff.rfl
theorem Push.formed_wait (h : Hold) (s : State) : (Push.wait h s).Formed ↔ s.Formed := Iff.rfl
grind_pattern Push.formed_ok => (Push.ok s).Formed
grind_pattern Push.formed_full => Push.full.Formed
grind_pattern Push.formed_bad => Push.bad.Formed
grind_pattern Push.formed_fault => (Push.fault e f s).Formed
grind_pattern Push.formed_wait => (Push.wait h s).Formed

/-- What the pushes of an instruction come to. -/
def Pushed.Formed : Pushed → Prop
  | .done s => s.Formed
  | .stuck _ s => s.Formed
  | .fault _ _ s => s.Formed
theorem Pushed.formed_done (s : State) : (Pushed.done s).Formed ↔ s.Formed := Iff.rfl
theorem Pushed.formed_stuck (h : Hold) (s : State) : (Pushed.stuck h s).Formed ↔ s.Formed := Iff.rfl
theorem Pushed.formed_fault (e : Nat) (f : LaneFault) (s : State) : (Pushed.fault e f s).Formed ↔ s.Formed := Iff.rfl
grind_pattern Pushed.formed_done => (Pushed.done s).Formed
grind_pattern Pushed.formed_stuck => (Pushed.stuck h s).Formed
grind_pattern Pushed.formed_fault => (Pushed.fault e f s).Formed

/-- What an instruction's effect comes to. -/
def Res.Formed : Res → Prop
  | .ok s => s.Formed
  | .jump s _ => s.Formed
  | .push s _ _ => s.Formed
  | .stay s => s.Formed
  | .check _ _ s => s.Formed
  | .hold _ s => s.Formed
  | .trap _ s => s.Formed
theorem Res.formed_ok (s : State) : (Res.ok s).Formed ↔ s.Formed := Iff.rfl
theorem Res.formed_jump (s : State) (a : Word) : (Res.jump s a).Formed ↔ s.Formed := Iff.rfl
theorem Res.formed_push (s : State) (q : BitVec 4) (ws : List (Nat × Word)) : (Res.push s q ws).Formed ↔ s.Formed := Iff.rfl
theorem Res.formed_stay (s : State) : (Res.stay s).Formed ↔ s.Formed := Iff.rfl
theorem Res.formed_check (c : Cause) (b : Bool) (s : State) : (Res.check c b s).Formed ↔ s.Formed := Iff.rfl
theorem Res.formed_hold (h : Hold) (s : State) : (Res.hold h s).Formed ↔ s.Formed := Iff.rfl
theorem Res.formed_trap (x : TrapInfo) (s : State) : (Res.trap x s).Formed ↔ s.Formed := Iff.rfl
grind_pattern Res.formed_ok => (Res.ok s).Formed
grind_pattern Res.formed_jump => (Res.jump s a).Formed
grind_pattern Res.formed_push => (Res.push s q ws).Formed
grind_pattern Res.formed_stay => (Res.stay s).Formed
grind_pattern Res.formed_check => (Res.check c b s).Formed
grind_pattern Res.formed_hold => (Res.hold h s).Formed
grind_pattern Res.formed_trap => (Res.trap x s).Formed

/-- What starting accesses gives. -/
def Started.Formed : Started → Prop
  | .ok _ _ s => s.Formed
  | .hold _ s => s.Formed
theorem Started.formed_ok (g : List Acc) (b : List (LaneFault × Acc)) (s : State) : (Started.ok g b s).Formed ↔ s.Formed := Iff.rfl
theorem Started.formed_hold (h : Hold) (s : State) : (Started.hold h s).Formed ↔ s.Formed := Iff.rfl
grind_pattern Started.formed_ok => (Started.ok g b s).Formed
grind_pattern Started.formed_hold => (Started.hold h s).Formed

/-- What reading a record gives. -/
def Got.Formed {α : Type} : Got α → Prop
  | .ok _ s => s.Formed
  | .fault _ s => s.Formed
  | .hold _ s => s.Formed
theorem Got.formed_ok {α : Type} (a : α) (s : State) : (Got.ok a s).Formed ↔ s.Formed := Iff.rfl
theorem Got.formed_fault {α : Type} (f : LaneFault) (s : State) : (Got.fault f s : Got α).Formed ↔ s.Formed := Iff.rfl
theorem Got.formed_hold {α : Type} (h : Hold) (s : State) : (Got.hold h s : Got α).Formed ↔ s.Formed := Iff.rfl
grind_pattern Got.formed_ok => (Got.ok a s).Formed
grind_pattern Got.formed_fault => (Got.fault f s : Got α).Formed
grind_pattern Got.formed_hold => (Got.hold h s : Got α).Formed

/-- What creating a launch gives. -/
def Created.Formed : Created → Prop
  | .ok s => s.Formed
  | .fault _ s => s.Formed
  | .hold _ s => s.Formed
theorem Created.formed_ok (s : State) : (Created.ok s).Formed ↔ s.Formed := Iff.rfl
theorem Created.formed_fault (f : LaneFault) (s : State) : (Created.fault f s).Formed ↔ s.Formed := Iff.rfl
theorem Created.formed_hold (h : Hold) (s : State) : (Created.hold h s).Formed ↔ s.Formed := Iff.rfl
grind_pattern Created.formed_ok => (Created.ok s).Formed
grind_pattern Created.formed_fault => (Created.fault f s).Formed
grind_pattern Created.formed_hold => (Created.hold h s).Formed

/-- What resolving lanes gives. -/
def Resolved.Formed : Resolved → Prop
  | .ok _ _ s => s.Formed
  | .hold _ s => s.Formed
theorem Resolved.formed_ok (g : List Acc) (b : List (LaneFault × Acc)) (s : State) : (Resolved.ok g b s).Formed ↔ s.Formed := Iff.rfl
theorem Resolved.formed_hold (h : Hold) (s : State) : (Resolved.hold h s).Formed ↔ s.Formed := Iff.rfl
grind_pattern Resolved.formed_ok => (Resolved.ok g b s).Formed
grind_pattern Resolved.formed_hold => (Resolved.hold h s).Formed

/-- What a write of a system register gives. -/
def SysSet.Formed : SysSet → Prop
  | .none => True
  | .refused => True
  | .done s => s.Formed
  | .sync _ s => s.Formed
theorem SysSet.formed_none : SysSet.none.Formed := trivial
theorem SysSet.formed_refused : SysSet.refused.Formed := trivial
theorem SysSet.formed_done (s : State) : (SysSet.done s).Formed ↔ s.Formed := Iff.rfl
theorem SysSet.formed_sync (n : Nat) (s : State) : (SysSet.sync n s).Formed ↔ s.Formed := Iff.rfl
grind_pattern SysSet.formed_none => SysSet.none.Formed
grind_pattern SysSet.formed_refused => SysSet.refused.Formed
grind_pattern SysSet.formed_done => (SysSet.done s).Formed
grind_pattern SysSet.formed_sync => (SysSet.sync n s).Formed

/-! ## Updates made one after the other -/

theorem foldl_formed {α : Type} {f : State → α → State} (hf : ∀ s x, s.Formed → (f s x).Formed) {s : State} (hs : s.Formed) (l : List α) :
    (l.foldl f s).Formed := by
  induction l generalizing s with
  | nil => exact hs
  | cons x l ih => exact ih (hf s x hs)
grind_pattern foldl_formed => l.foldl f s

theorem foldl_fst_formed {α β : Type} {f : State × β → α → State × β} (hf : ∀ p x, p.1.Formed → (f p x).1.Formed) {p : State × β}
    (hp : p.1.Formed) (l : List α) : (l.foldl f p).1.Formed := by
  induction l generalizing p with
  | nil => exact hp
  | cons x l ih => exact ih (hf p x hp)
grind_pattern foldl_fst_formed => l.foldl f p


/-! ## Machine/Ops -/

theorem State.setTeam_formed {s : State} (hs : s.Formed) (i t) : (s.setTeam i t).Formed := hs
grind_pattern State.setTeam_formed => s.setTeam i t
theorem State.dropTeam_formed {s : State} (hs : s.Formed) (i) : (s.dropTeam i).Formed := hs
grind_pattern State.dropTeam_formed => s.dropTeam i
theorem State.modTeam_formed {s : State} (hs : s.Formed) (i f) : (s.modTeam i f).Formed := by
  fun_cases State.modTeam <;> grind
grind_pattern State.modTeam_formed => s.modTeam i f
theorem State.setOp_formed {s : State} (hs : s.Formed) (o x) : (s.setOp o x).Formed := hs
grind_pattern State.setOp_formed => s.setOp o x
theorem State.dropOp_formed {s : State} (hs : s.Formed) (o) : (s.dropOp o).Formed := hs
grind_pattern State.dropOp_formed => s.dropOp o
theorem State.setCtx_formed {s : State} (hs : s.Formed) (p c x) : (s.setCtx p c x).Formed := hs
grind_pattern State.setCtx_formed => s.setCtx p c x
theorem State.setPart_formed {s : State} (hs : s.Formed) (p x) : (s.setPart p x).Formed := hs
grind_pattern State.setPart_formed => s.setPart p x
theorem State.setCore_formed {s : State} (hs : s.Formed) (n x) : (s.setCore n x).Formed := hs
grind_pattern State.setCore_formed => s.setCore n x
theorem State.bump_formed {s : State} (hs : s.Formed) : s.bump.Formed := hs
grind_pattern State.bump_formed => s.bump
theorem State.choose_formed {s : State} (hs : s.Formed) (n) : (s.choose n).2.Formed := by
  unfold State.choose
  grind
grind_pattern State.choose_formed => s.choose n
theorem State.count_formed {s : State} (hs : s.Formed) (p c n) : (s.count p c n).Formed := hs
grind_pattern State.count_formed => s.count p c n
theorem State.tellOwner_formed {s : State} (hs : s.Formed) (p c die b) : (s.tellOwner p c die b).Formed := hs
grind_pattern State.tellOwner_formed => s.tellOwner p c die b
theorem State.tellOperator_formed {s : State} (hs : s.Formed) (p die r) : (s.tellOperator p die r).Formed := hs
grind_pattern State.tellOperator_formed => s.tellOperator p die r
theorem State.countCauses_formed {s : State} (hs : s.Formed) (p c codes) : (s.countCauses p c codes).Formed := by
  unfold State.countCauses
  grind
grind_pattern State.countCauses_formed => s.countCauses p c codes
theorem State.takeTrap_formed {s : State} (hs : s.Formed) (x) : (s.takeTrap x).Formed := by
  fun_cases State.takeTrap <;> grind
grind_pattern State.takeTrap_formed => s.takeTrap x
theorem State.noticeOwner_formed {s : State} (hs : s.Formed) (p c cause obj va code vdie pc) : (s.noticeOwner p c cause obj va code vdie pc).Formed :=
  hs
grind_pattern State.noticeOwner_formed => s.noticeOwner p c cause obj va code vdie pc
theorem State.breakNotice_formed {s : State} (hs : s.Formed) (i t code) : (s.breakNotice i t code).Formed := hs
grind_pattern State.breakNotice_formed => s.breakNotice i t code

/-! ## Machine/Translate -/

theorem State.entry_formed {s : State} (hs : s.Formed) (p c die stage key) : (s.entry p c die stage key).2.Formed := by
  fun_cases State.entry <;> grind
grind_pattern State.entry_formed => s.entry p c die stage key
theorem State.cacheEntry_formed {s : State} (hs : s.Formed) (p c die stage key e base size) : (s.cacheEntry p c die stage key e base size).Formed :=
  hs
grind_pattern State.cacheEntry_formed => s.cacheEntry p c die stage key e base size
theorem State.walk2_formed {s : State} (hs : s.Formed) (p c die pa table n) : (s.walk2 p c die pa table n).2.Formed := by
  fun_induction State.walk2 <;> grind
grind_pattern State.walk2_formed => s.walk2 p c die pa table n
theorem State.stage2_formed {s : State} (hs : s.Formed) (p c die team pa k) : (s.stage2 p c die team pa k).2.Formed := by
  fun_cases State.stage2 <;> grind
grind_pattern State.stage2_formed => s.stage2 p c die team pa k
theorem State.walk1_formed {s : State} (hs : s.Formed) (p c die team va table nodes n) : (s.walk1 p c die team va table nodes n).2.Formed := by
  fun_induction State.walk1 <;> grind
grind_pattern State.walk1_formed => s.walk1 p c die team va table nodes n
theorem State.evictXlat_formed {s : State} (hs : s.Formed) (core) : (s.evictXlat core).Formed := by
  fun_cases State.evictXlat <;> grind
grind_pattern State.evictXlat_formed => s.evictXlat core
theorem State.cacheXlat_formed {s : State} (hs : s.Formed) (x lane) : (s.cacheXlat x lane).Formed := by
  unfold State.cacheXlat
  grind
grind_pattern State.cacheXlat_formed => s.cacheXlat x lane
theorem State.walk_formed {s : State} (hs : s.Formed) (p c core die team lane va k) : (s.walk p c core die team lane va k).2.Formed := by
  fun_cases State.walk <;> grind
grind_pattern State.walk_formed => s.walk p c core die team lane va k
theorem State.lookup_formed {s : State} (hs : s.Formed) (p c core die team lane va k) : (s.lookup p c core die team lane va k).2.Formed := by
  fun_cases State.lookup <;> grind
grind_pattern State.lookup_formed => s.lookup p c core die team lane va k
theorem State.translate_formed {s : State} (hs : s.Formed) (p c core die team lane va k) : (s.translate p c core die team lane va k).2.Formed := by
  fun_cases State.translate <;> grind
grind_pattern State.translate_formed => s.translate p c core die team lane va k

/-! ## Machine/Mem -/

/-- The one operation that writes bytes of memory (R230): the laws of a run of writes say that it keeps the form. -/
theorem State.homeWrite_formed {s : State} (hs : s.Formed) (k a bs) : (s.homeWrite k a bs).Formed := memWf_memWriteN bs s.mem a hs
grind_pattern State.homeWrite_formed => s.homeWrite k a bs
theorem State.evict_formed {s : State} (hs : s.Formed) (path core) : (s.evict path core).Formed := by
  fun_cases State.evict <;> grind
grind_pattern State.evict_formed => s.evict path core
theorem State.updateL1_formed {s : State} (hs : s.Formed) (dom a bs) : (s.updateL1 dom a bs).Formed := hs
grind_pattern State.updateL1_formed => s.updateL1 dom a bs
theorem State.dropLines_formed {s : State} (hs : s.Formed) (dom path a n) : (s.dropLines dom path a n).Formed := hs
grind_pattern State.dropLines_formed => s.dropLines dom path a n
theorem State.meetsCopy_formed {s : State} (hs : s.Formed) (dom path since a n) : (s.meetsCopy dom path since a n).2.Formed := by
  fun_cases State.meetsCopy <;> grind
grind_pattern State.meetsCopy_formed => s.meetsCopy dom path since a n
theorem State.pathRead_formed {s : State} (hs : s.Formed) (k keep dom path since a pa n) : (s.pathRead k keep dom path since a pa n).2.Formed := by
  fun_cases State.pathRead <;> grind
grind_pattern State.pathRead_formed => s.pathRead k keep dom path since a pa n
theorem State.postedTr_formed {s : State} (hs : s.Formed) (t i e) : (s.postedTr t i e).2.Formed := by
  fun_cases State.postedTr <;> grind
grind_pattern State.postedTr_formed => s.postedTr t i e
theorem State.wholeGranule_formed {s : State} (hs : s.Formed) (n key e) : (s.wholeGranule n key e).1.Formed := by
  fun_cases State.wholeGranule <;> grind
grind_pattern State.wholeGranule_formed => s.wholeGranule n key e
theorem State.landed_formed {s : State} (hs : s.Formed) (op) : (s.landed op).Formed := by
  fun_cases State.landed <;> grind
grind_pattern State.landed_formed => s.landed op
theorem State.drainEntry_formed {s : State} (hs : s.Formed) (n e) : (s.drainEntry n e).Formed := by
  fun_cases State.drainEntry <;> grind
grind_pattern State.drainEntry_formed => s.drainEntry n e
theorem State.drainList_formed {s : State} (hs : s.Formed) (l) : (s.drainList l).Formed := by
  fun_induction State.drainList <;> grind
grind_pattern State.drainList_formed => s.drainList l
theorem State.drainAll_formed {s : State} (hs : s.Formed) (i) : (s.drainAll i).Formed := State.drainList_formed hs ..
grind_pattern State.drainAll_formed => s.drainAll i
theorem State.drainOver_formed {s : State} (hs : s.Formed) (i runs) : (s.drainOver i runs).Formed := State.drainList_formed hs ..
grind_pattern State.drainOver_formed => s.drainOver i runs
theorem State.drainFree_formed {s : State} (hs : s.Formed) (l) : (s.drainFree l).Formed := by
  fun_induction State.drainFree <;> grind
grind_pattern State.drainFree_formed => s.drainFree l
theorem State.clearOver_formed {s : State} (hs : s.Formed) (i runs) : (s.clearOver i runs).Formed := State.drainFree_formed hs ..
grind_pattern State.clearOver_formed => s.clearOver i runs
theorem State.acquire_formed {s : State} (hs : s.Formed) (i scope) : (s.acquire i scope).Formed := by
  unfold State.acquire
  grind
grind_pattern State.acquire_formed => s.acquire i scope
theorem State.leaveL1_formed {s : State} (hs : s.Formed) (t) : (s.leaveL1 t).Formed := hs
grind_pattern State.leaveL1_formed => s.leaveL1 t
theorem State.leaveCtx_formed {s : State} (hs : s.Formed) (p c) : (s.leaveCtx p c).Formed := by
  unfold State.leaveCtx
  grind
grind_pattern State.leaveCtx_formed => s.leaveCtx p c

/-! ## Machine/Operands -/

theorem State.stagedWhole_formed {s : State} (hs : s.Formed) (t bind ws) : (s.stagedWhole t bind ws).Formed := by
  fun_cases State.stagedWhole <;> grind
grind_pattern State.stagedWhole_formed => s.stagedWhole t bind ws
theorem State.push1_formed {s : State} (hs : s.Formed) (i q w) : (s.push1 i q w).Formed := by
  fun_cases State.push1 <;> grind
grind_pattern State.push1_formed => s.push1 i q w
theorem State.pushAll_formed {s : State} (hs : s.Formed) (i q l) : (s.pushAll i q l).Formed := by
  fun_induction State.pushAll <;> grind
grind_pattern State.pushAll_formed => s.pushAll i q l
theorem Res.andThen_formed {r : Res} {k : State → Res} (hr : r.Formed) (hk : ∀ s, s.Formed → (k s).Formed) : (Res.andThen r k).Formed := by
  fun_cases Res.andThen <;> grind
grind_pattern Res.andThen_formed => Res.andThen r k
theorem State.pushEnd_formed {s : State} (hs : s.Formed) (i q) : (s.pushEnd i q).Formed := by
  fun_cases State.pushEnd <;> grind
grind_pattern State.pushEnd_formed => s.pushEnd i q
theorem State.pushGo_formed {s : State} (hs : s.Formed) (i q ws) : (s.pushGo i q ws).Formed := by
  fun_cases State.pushGo <;> grind
grind_pattern State.pushGo_formed => s.pushGo i q ws
theorem settle_formed {r : Res} (hr : r.Formed) (i t) : (settle i t r).Formed := by
  fun_cases settle <;> grind
grind_pattern settle_formed => settle i t r
theorem issue_formed {s : State} (hs : s.Formed) {body : Nat → Team → State → Res} (hbody : ∀ i t s, s.Formed → (body i t s).Formed) :
    OutFormed (issue s body) := by
  fun_cases issue <;> grind
grind_pattern issue_formed => issue s body
theorem withPops_formed {s : State} (hs : s.Formed) {k : Team → (Nat → Nat → Word) → State → Res} (hk : ∀ t q s, s.Formed → (k t q s).Formed)
    (i t pops) : (withPops i t s pops k).Formed := by
  fun_cases withPops <;> grind
grind_pattern withPops_formed => withPops i t s pops k
theorem Res.unpopped_formed {r : Res} (hr : r.Formed) (i t pops pre) : (Res.unpopped r i t pops pre).Formed := by
  fun_cases Res.unpopped <;> grind
grind_pattern Res.unpopped_formed => Res.unpopped r i t pops pre
theorem withPopsAfter_formed {s : State} (hs : s.Formed) {pre : Nat → Team → State → Res} {k : Team → (Nat → Nat → Word) → State → Res}
    (hpre : ∀ i t s, s.Formed → (pre i t s).Formed) (hk : ∀ t q s, s.Formed → (k t q s).Formed) (i t pops) : (withPopsAfter i t s pops pre k).Formed := by
  fun_cases withPopsAfter <;> grind
grind_pattern withPopsAfter_formed => withPopsAfter i t s pops pre k
theorem once_formed {s : State} (hs : s.Formed) {eff : Nat → Team → (Nat → Word) → State → Res} (heff : ∀ i t q s, s.Formed → (eff i t q s).Formed)
    (checks ss) : OutFormed (once s checks ss eff) := issue_formed hs (by grind) ..
grind_pattern once_formed => once s checks ss eff
theorem onceAfter_formed {s : State} (hs : s.Formed) {pre : Nat → Team → State → Res} {eff : Nat → Team → (Nat → Word) → State → Res}
    (hpre : ∀ i t s, s.Formed → (pre i t s).Formed) (heff : ∀ i t q s, s.Formed → (eff i t q s).Formed) (checks ss) :
    OutFormed (onceAfter s checks ss pre eff) := issue_formed hs (by grind) ..
grind_pattern onceAfter_formed => onceAfter s checks ss pre eff
theorem sweepOn_formed {s : State} (hs : s.Formed) {eff : Nat → Team → (Nat → Nat → Word) → State → Res}
    (heff : ∀ i t q s, s.Formed → (eff i t q s).Formed) (checks ss lanes pops) : OutFormed (sweepOn s checks ss lanes pops eff) :=
  issue_formed hs (by grind) ..
grind_pattern sweepOn_formed => sweepOn s checks ss lanes pops eff
theorem sweepPre_formed {s : State} (hs : s.Formed) {pre : Nat → Team → State → Res} {eff : Nat → Team → (Nat → Nat → Word) → State → Res}
    (hpre : ∀ i t s, s.Formed → (pre i t s).Formed) (heff : ∀ i t q s, s.Formed → (eff i t q s).Formed) (checks ss pops) :
    OutFormed (sweepPre s checks ss pops pre eff) := issue_formed hs (by grind) ..
grind_pattern sweepPre_formed => sweepPre s checks ss pops pre eff
theorem sweep_formed {s : State} (hs : s.Formed) {eff : Nat → Team → (Nat → Nat → Word) → State → Res}
    (heff : ∀ i t q s, s.Formed → (eff i t q s).Formed) (checks ss) : OutFormed (sweep s checks ss eff) := sweepOn_formed hs (by grind) ..
grind_pattern sweep_formed => sweep s checks ss eff
theorem passesTo_formed {s : State} (hs : s.Formed) {eff : Nat → Team → List Nat → (Nat → Nat → Word) → State → Res}
    (heff : ∀ i t ls q s, s.Formed → (eff i t ls q s).Formed) (i n lanes ss l t) : (passesTo i n lanes ss eff l t s).Formed := by
  fun_induction passesTo <;> grind
grind_pattern passesTo_formed => passesTo i n lanes ss eff l t s
theorem sweepTo_formed {s : State} (hs : s.Formed) {eff : Nat → Team → List Nat → (Nat → Nat → Word) → State → Res}
    (heff : ∀ i t ls q s, s.Formed → (eff i t ls q s).Formed) (checks lanes d ss) : OutFormed (sweepTo s checks lanes d ss eff) := by
  fun_cases sweepTo <;> grind
grind_pattern sweepTo_formed => sweepTo s checks lanes d ss eff
theorem sweepHandle_formed {s : State} (hs : s.Formed) {eff : Nat → Team → (Nat → Nat → Word) → State → Res} {pre : Nat → Team → State → Res}
    (heff : ∀ i t q s, s.Formed → (eff i t q s).Formed) (hpre : ∀ i t s, s.Formed → (pre i t s).Formed) (checks h ss pops) :
    OutFormed (sweepHandle s checks h ss pops eff pre) := issue_formed hs (by grind) ..
grind_pattern sweepHandle_formed => sweepHandle s checks h ss pops eff pre
theorem ifActive_formed {s : State} (hs : s.Formed) {k : State → Res} (hk : ∀ s, s.Formed → (k s).Formed) (i t) : (ifActive i t s k).Formed := by
  fun_cases ifActive <;> grind
grind_pattern ifActive_formed => ifActive i t s k
theorem putScalar_formed {s : State} (hs : s.Formed) (i t d w) : (putScalar i t s d w).Formed := by
  fun_cases putScalar <;> grind
grind_pattern putScalar_formed => putScalar i t s d w
theorem putLanes_formed {s : State} (hs : s.Formed) (i t d ws) : (putLanes i t s d ws).Formed := by
  fun_cases putLanes <;> grind
grind_pattern putLanes_formed => putLanes i t s d ws

/-! ## Machine/Accesses -/

theorem State.startMem_formed {s : State} (hs : s.Formed) (i t k a) : (s.startMem i t k a).2.Formed := by
  fun_cases State.startMem <;> grind
grind_pattern State.startMem_formed => s.startMem i t k a
theorem State.startNamed_formed {s : State} (hs : s.Formed) (i t k a) : (s.startNamed i t k a).2.Formed := by
  fun_cases State.startNamed <;> grind
grind_pattern State.startNamed_formed => s.startNamed i t k a
theorem State.startAcc_formed {s : State} (hs : s.Formed) (i t x a) : (s.startAcc i t x a).2.Formed := by
  fun_cases State.startAcc <;> grind
grind_pattern State.startAcc_formed => s.startAcc i t x a
theorem State.startAll_formed {s : State} (hs : s.Formed) (i t x l) : (s.startAll i t x l).Formed := by
  fun_induction State.startAll <;> grind
grind_pattern State.startAll_formed => s.startAll i t x l
theorem State.ask_formed {s : State} (hs : s.Formed) (dev op k va n) : (s.ask dev op k va n).Formed := by
  fun_cases State.ask <;> grind
grind_pattern State.ask_formed => s.ask dev op k va n
theorem State.dropReplies_formed {s : State} (hs : s.Formed) (i) : (s.dropReplies i).Formed := hs
grind_pattern State.dropReplies_formed => s.dropReplies i
theorem State.forget_formed {s : State} (hs : s.Formed) : s.forget.Formed := hs
grind_pattern State.forget_formed => s.forget
theorem State.holdOp_formed {s : State} (hs : s.Formed) (o h) : (s.holdOp o h).Formed := by
  fun_cases State.holdOp <;> grind
grind_pattern State.holdOp_formed => s.holdOp o h
theorem State.parkOp_formed {s : State} (hs : s.Formed) (o x) : (s.parkOp o x).Formed := by
  fun_cases State.parkOp <;> grind
grind_pattern State.parkOp_formed => s.parkOp o x
theorem State.enterOp_formed {s : State} (hs : s.Formed) (i t x bad) : (s.enterOp i t x bad).Formed := by
  fun_cases State.enterOp <;> grind
grind_pattern State.enterOp_formed => s.enterOp i t x bad
theorem startOp_formed {s : State} (hs : s.Formed) (i t classB kind accs fill) : (startOp i t s classB kind accs fill).Formed := by
  fun_cases startOp <;> grind
grind_pattern startOp_formed => startOp i t s classB kind accs fill
theorem State.endOp_formed {s : State} (hs : s.Formed) (o x) : (s.endOp o x).Formed := by
  fun_cases State.endOp <;> grind
grind_pattern State.endOp_formed => s.endOp o x
theorem State.takeReply_formed {s : State} (hs : s.Formed) (o k) : (s.takeReply o k).2.Formed := by
  unfold State.takeReply
  grind
grind_pattern State.takeReply_formed => s.takeReply o k
theorem State.absorb_formed {s : State} (hs : s.Formed) (o x k l) : (s.absorb o x k l).1.Formed := by
  fun_induction State.absorb <;> grind
grind_pattern State.absorb_formed => s.absorb o x k l
theorem State.answered_formed {s : State} (hs : s.Formed) (o x) : (s.answered o x).1.Formed := by
  fun_cases State.answered <;> grind
grind_pattern State.answered_formed => s.answered o x
theorem State.deliverSome_formed {s : State} (hs : s.Formed) (x a ws which) : (s.deliverSome x a ws which).Formed := by
  fun_cases State.deliverSome <;> grind
grind_pattern State.deliverSome_formed => s.deliverSome x a ws which
theorem State.deliver_formed {s : State} (hs : s.Formed) (x a scalar ws) : (s.deliver x a scalar ws).Formed := by
  fun_cases State.deliver <;> grind
grind_pattern State.deliver_formed => s.deliver x a scalar ws

/-! ## Machine/LoadStore -/

theorem State.post1_formed {s : State} (hs : s.Formed) (i o a acc) : (s.post1 i o a acc).Formed := by
  unfold State.post1
  grind
grind_pattern State.post1_formed => s.post1 i o a acc
theorem State.postAll_formed {s : State} (hs : s.Formed) (i o l) : (s.postAll i o l).Formed := by
  fun_induction State.postAll <;> grind
grind_pattern State.postAll_formed => s.postAll i o l
theorem State.sendAll_formed {s : State} (hs : s.Formed) (i t o sc n l) : (s.sendAll i t o sc n l).Formed := by
  fun_induction State.sendAll <;> grind
grind_pattern State.sendAll_formed => s.sendAll i t o sc n l
theorem storeAccs_formed {s : State} (hs : s.Formed) (i t single accs) : (storeAccs i t s single accs).Formed := by
  fun_cases storeAccs <;> grind
grind_pattern storeAccs_formed => storeAccs i t s single accs
theorem scalarFault_formed {s : State} (hs : s.Formed) (i t f) : (scalarFault i t s f).Formed := by
  unfold scalarFault
  grind
grind_pattern scalarFault_formed => scalarFault i t s f
theorem scalarLoad_formed {s : State} (hs : s.Formed) (d a b size) : OutFormed (scalarLoad s d a b size) := once_formed hs (by grind) ..
grind_pattern scalarLoad_formed => scalarLoad s d a b size
theorem execSld_formed {s : State} (hs : s.Formed) (d a b) : OutFormed (execSld d a b s) := scalarLoad_formed hs ..
grind_pattern execSld_formed => execSld d a b s
theorem execSld2_formed {s : State} (hs : s.Formed) (d a b) : OutFormed (execSld2 d a b s) := scalarLoad_formed hs ..
grind_pattern execSld2_formed => execSld2 d a b s
theorem scalarStore_formed {s : State} (hs : s.Formed) (d a b size) : OutFormed (scalarStore s d a b size) := once_formed hs (by grind) ..
grind_pattern scalarStore_formed => scalarStore s d a b size
theorem execSst_formed {s : State} (hs : s.Formed) (d a b) : OutFormed (execSst d a b s) := scalarStore_formed hs ..
grind_pattern execSst_formed => execSst d a b s
theorem execSst2_formed {s : State} (hs : s.Formed) (d a b) : OutFormed (execSst2 d a b s) := scalarStore_formed hs ..
grind_pattern execSst2_formed => execSst2 d a b s
theorem vecLoad_formed {s : State} (hs : s.Formed) (d a b n) : OutFormed (vecLoad s d a b n) := by
  unfold vecLoad
  grind
grind_pattern vecLoad_formed => vecLoad s d a b n
theorem execVld1_formed {s : State} (hs : s.Formed) (d a b) : OutFormed (execVld1 d a b s) := vecLoad_formed hs ..
grind_pattern execVld1_formed => execVld1 d a b s
theorem execVld2_formed {s : State} (hs : s.Formed) (d a b) : OutFormed (execVld2 d a b s) := vecLoad_formed hs ..
grind_pattern execVld2_formed => execVld2 d a b s
theorem execVld4_formed {s : State} (hs : s.Formed) (d a b) : OutFormed (execVld4 d a b s) := vecLoad_formed hs ..
grind_pattern execVld4_formed => execVld4 d a b s
theorem execVld8_formed {s : State} (hs : s.Formed) (d a b) : OutFormed (execVld8 d a b s) := vecLoad_formed hs ..
grind_pattern execVld8_formed => execVld8 d a b s
theorem vecStore_formed {s : State} (hs : s.Formed) (d a b n) : OutFormed (vecStore s d a b n) := by
  unfold vecStore
  grind
grind_pattern vecStore_formed => vecStore s d a b n
theorem execVst1_formed {s : State} (hs : s.Formed) (d a b) : OutFormed (execVst1 d a b s) := vecStore_formed hs ..
grind_pattern execVst1_formed => execVst1 d a b s
theorem execVst2_formed {s : State} (hs : s.Formed) (d a b) : OutFormed (execVst2 d a b s) := vecStore_formed hs ..
grind_pattern execVst2_formed => execVst2 d a b s
theorem execVst4_formed {s : State} (hs : s.Formed) (d a b) : OutFormed (execVst4 d a b s) := vecStore_formed hs ..
grind_pattern execVst4_formed => execVst4 d a b s
theorem execVst8_formed {s : State} (hs : s.Formed) (d a b) : OutFormed (execVst8 d a b s) := vecStore_formed hs ..
grind_pattern execVst8_formed => execVst8 d a b s
theorem State.readMeets_formed {s : State} (hs : s.Formed) (x a path) : (s.readMeets x a path).2.Formed := by
  fun_cases State.readMeets <;> grind
grind_pattern State.readMeets_formed => s.readMeets x a path
theorem State.readFor_formed {s : State} (hs : s.Formed) (o x a path) : (s.readFor o x a path).2.Formed := by
  fun_cases State.readFor <;> grind
grind_pattern State.readFor_formed => s.readFor o x a path
theorem State.postedReply_formed {s : State} (hs : s.Formed) (e x) : (s.postedReply e x).Formed := by
  fun_cases State.postedReply <;> grind
grind_pattern State.postedReply_formed => s.postedReply e x
theorem execPostedDrain_formed {s : State} (hs : s.Formed) (e) : OutFormed (execPostedDrain e s) := by
  fun_cases execPostedDrain <;> grind
grind_pattern execPostedDrain_formed => execPostedDrain e s
theorem execStorePerform_formed {s : State} (hs : s.Formed) (w) : OutFormed (execStorePerform w s) := by
  fun_cases execStorePerform <;> grind
grind_pattern execStorePerform_formed => execStorePerform w s

/-! ## Machine/Scratch -/

theorem State.modCluster_formed {s : State} (hs : s.Formed) (c f) : (s.modCluster c f).Formed := by
  fun_cases State.modCluster <;> grind
grind_pattern State.modCluster_formed => s.modCluster c f
theorem State.scratchWrite_formed {s : State} (hs : s.Formed) (cl key bs) : (s.scratchWrite cl key bs).Formed := by
  fun_cases State.scratchWrite <;> grind
grind_pattern State.scratchWrite_formed => s.scratchWrite cl key bs
theorem State.serve1_formed {s : State} (hs : s.Formed) (a store) : ∀ p, (s.serve1 a store) = some p → p.1.Formed := by
  fun_cases State.serve1 <;> grind
grind_pattern State.serve1_formed => s.serve1 a store, some p
theorem State.serveList_formed {s : State} (hs : s.Formed) (store l) : (s.serveList store l).1.Formed := by
  fun_induction State.serveList <;> grind
grind_pattern State.serveList_formed => s.serveList store l
theorem State.serveOp_formed {s : State} (hs : s.Formed) (o i) : (s.serveOp o i).Formed := by
  fun_cases State.serveOp <;> grind
grind_pattern State.serveOp_formed => s.serveOp o i
theorem scratchAccs_formed {s : State} (hs : s.Formed) (i t classB kind accs) : (scratchAccs i t s classB kind accs).Formed := by
  fun_cases scratchAccs <;> grind
grind_pattern scratchAccs_formed => scratchAccs i t s classB kind accs
theorem scratchLoad_formed {s : State} (hs : s.Formed) (d a b n) : OutFormed (scratchLoad s d a b n) := by
  unfold scratchLoad
  grind
grind_pattern scratchLoad_formed => scratchLoad s d a b n
theorem execPld1_formed {s : State} (hs : s.Formed) (d a b) : OutFormed (execPld1 d a b s) := scratchLoad_formed hs ..
grind_pattern execPld1_formed => execPld1 d a b s
theorem execPld2_formed {s : State} (hs : s.Formed) (d a b) : OutFormed (execPld2 d a b s) := scratchLoad_formed hs ..
grind_pattern execPld2_formed => execPld2 d a b s
theorem execPld4_formed {s : State} (hs : s.Formed) (d a b) : OutFormed (execPld4 d a b s) := scratchLoad_formed hs ..
grind_pattern execPld4_formed => execPld4 d a b s
theorem scratchStore_formed {s : State} (hs : s.Formed) (d a b n) : OutFormed (scratchStore s d a b n) := by
  unfold scratchStore
  grind
grind_pattern scratchStore_formed => scratchStore s d a b n
theorem execPst1_formed {s : State} (hs : s.Formed) (d a b) : OutFormed (execPst1 d a b s) := scratchStore_formed hs ..
grind_pattern execPst1_formed => execPst1 d a b s
theorem execPst2_formed {s : State} (hs : s.Formed) (d a b) : OutFormed (execPst2 d a b s) := scratchStore_formed hs ..
grind_pattern execPst2_formed => execPst2 d a b s
theorem execPst4_formed {s : State} (hs : s.Formed) (d a b) : OutFormed (execPst4 d a b s) := scratchStore_formed hs ..
grind_pattern execPst4_formed => execPst4 d a b s
theorem execPresenceWake_formed {s : State} (hs : s.Formed) (t) : OutFormed (execPresenceWake t s) := by
  fun_cases execPresenceWake <;> grind
grind_pattern execPresenceWake_formed => execPresenceWake t s
theorem State.clearPresence_formed {s : State} (hs : s.Formed) (cl ls) : (s.clearPresence cl ls).Formed := State.modCluster_formed hs ..
grind_pattern State.clearPresence_formed => s.clearPresence cl ls
theorem State.setPresence_formed {s : State} (hs : s.Formed) (cl ls) : (s.setPresence cl ls).Formed := State.modCluster_formed hs ..
grind_pattern State.setPresence_formed => s.setPresence cl ls
theorem doneOp_formed {s : State} (hs : s.Formed) {eff : State → State} (heff : ∀ s, s.Formed → (eff s).Formed) (i t classB) :
    (doneOp i t s classB eff).Formed := by
  fun_cases doneOp <;> grind
grind_pattern doneOp_formed => doneOp i t s classB eff
theorem execPinv_formed {s : State} (hs : s.Formed) (a b) : OutFormed (execPinv a b s) := once_formed hs (by grind) ..
grind_pattern execPinv_formed => execPinv a b s
theorem execPres_formed {s : State} (hs : s.Formed) (a b) : OutFormed (execPres a b s) := once_formed hs (by grind) ..
grind_pattern execPres_formed => execPres a b s
theorem tackOp_formed {s : State} (hs : s.Formed) {eff : Nat → Team → (Nat → Word) → Nat → State → Res}
    (heff : ∀ i t q n s, s.Formed → (eff i t q n s).Formed) (checks ss) : OutFormed (tackOp s checks ss eff) := once_formed hs (by grind) ..
grind_pattern tackOp_formed => tackOp s checks ss eff
theorem execTkinit_formed {s : State} (hs : s.Formed) (a b) : OutFormed (execTkinit a b s) := tackOp_formed hs (by grind) ..
grind_pattern execTkinit_formed => execTkinit a b s
theorem execTkexp_formed {s : State} (hs : s.Formed) (a b) : OutFormed (execTkexp a b s) := tackOp_formed hs (by grind) ..
grind_pattern execTkexp_formed => execTkexp a b s
theorem tackArrival_formed {s : State} (hs : s.Formed) {k : Nat → State → Res} (hk : ∀ i s, s.Formed → (k i s).Formed) (i t key) :
    (tackArrival i t key s k).Formed := by
  fun_cases tackArrival <;> grind
grind_pattern tackArrival_formed => tackArrival i t key s k
theorem execTkarr_formed {s : State} (hs : s.Formed) (a) : OutFormed (execTkarr a s) := tackOp_formed hs (by grind) ..
grind_pattern execTkarr_formed => execTkarr a s
theorem State.tackAcquire_formed {s : State} (hs : s.Formed) (i) : (s.tackAcquire i).Formed := State.acquire_formed hs ..
grind_pattern State.tackAcquire_formed => s.tackAcquire i
theorem execTkwait_formed {s : State} (hs : s.Formed) (a b) : OutFormed (execTkwait a b s) := tackOp_formed hs (by grind) ..
grind_pattern execTkwait_formed => execTkwait a b s
theorem execTkaw_formed {s : State} (hs : s.Formed) (a) : OutFormed (execTkaw a s) := tackOp_formed hs (by grind) ..
grind_pattern execTkaw_formed => execTkaw a s
theorem execTackWake_formed {s : State} (hs : s.Formed) (t) : OutFormed (execTackWake t s) := by
  fun_cases execTackWake <;> grind
grind_pattern execTackWake_formed => execTackWake t s

/-! ## Machine/Handles -/

theorem State.record_formed {s : State} (hs : s.Formed) (i t va n align) : (s.record i t va n align).Formed := by
  fun_cases State.record <;> grind
grind_pattern State.record_formed => s.record i t va n align
theorem State.agentRead_formed {s : State} (hs : s.Formed) (p c die va n) : (s.agentRead p c die va n).Formed := by
  fun_cases State.agentRead <;> grind
grind_pattern State.agentRead_formed => s.agentRead p c die va n
theorem State.agentPlace_formed {s : State} (hs : s.Formed) (p c die va n) : (s.agentPlace p c die va n).Formed := by
  fun_cases State.agentPlace <;> grind
grind_pattern State.agentPlace_formed => s.agentPlace p c die va n
theorem State.agentSend_formed {s : State} (hs : s.Formed) (p c dev va tr bs) : (s.agentSend p c dev va tr bs).Formed := by
  fun_cases State.agentSend <;> grind
grind_pattern State.agentSend_formed => s.agentSend p c dev va tr bs
theorem State.leaveLine_formed {s : State} (hs : s.Formed) (dom key n) : (s.leaveLine dom key n).Formed := by
  fun_cases State.leaveLine <;> grind
grind_pattern State.leaveLine_formed => s.leaveLine dom key n
theorem State.agentPutGo_formed {s : State} (hs : s.Formed) (p c die dom va bs l) : (s.agentPutGo p c die dom va bs l).Formed := by
  fun_induction State.agentPutGo <;> grind
grind_pattern State.agentPutGo_formed => s.agentPutGo p c die dom va bs l
theorem State.sentDone_formed {s : State} (hs : s.Formed) (va bs ps) : (s.sentDone va bs ps).Formed := hs
grind_pattern State.sentDone_formed => s.sentDone va bs ps
theorem State.agentPut_formed {s : State} (hs : s.Formed) (p c die dom va bs ps) : (s.agentPut p c die dom va bs ps).Formed := by
  fun_cases State.agentPut <;> grind
grind_pattern State.agentPut_formed => s.agentPut p c die dom va bs ps
theorem State.keepHcopy_formed {s : State} (hs : s.Formed) (p c die slot ws) : (s.keepHcopy p c die slot ws).Formed := hs
grind_pattern State.keepHcopy_formed => s.keepHcopy p c die slot ws
theorem State.resolve_formed {s : State} (hs : s.Formed) {read : State → Nat → Got (List Byte)} (hread : ∀ s i, s.Formed → (read s i).Formed)
    (p c die h kind) : (s.resolve p c die h kind read).Formed := by
  fun_cases State.resolve <;> grind
grind_pattern State.resolve_formed => s.resolve p c die h kind read
theorem State.handle_formed {s : State} (hs : s.Formed) (i t h kind) : (s.handle i t h kind).Formed := State.resolve_formed hs (by grind) ..
grind_pattern State.handle_formed => s.handle i t h kind
theorem State.agentHandle_formed {s : State} (hs : s.Formed) (p c die h kind) : (s.agentHandle p c die h kind).Formed :=
  State.resolve_formed hs (by grind) ..
grind_pattern State.agentHandle_formed => s.agentHandle p c die h kind
theorem Got.into_formed {g : Got α} {k : α → State → Res} (hg : g.Formed) (hk : ∀ a s, s.Formed → (k a s).Formed) (i t single) :
    (Got.into g i t single k).Formed := by
  fun_cases Got.into <;> grind
grind_pattern Got.into_formed => Got.into g i t single k
theorem withHandle_formed {s : State} (hs : s.Formed) {k : Nat → State → Res} (hk : ∀ i s, s.Formed → (k i s).Formed) (i t single h kind) :
    (withHandle i t s single h kind k).Formed := by
  unfold withHandle
  grind
grind_pattern withHandle_formed => withHandle i t s single h kind k
theorem withRecord_formed {s : State} (hs : s.Formed) {k : List Word → State → Res} (hk : ∀ ws s, s.Formed → (k ws s).Formed) (i t single va n align) :
    (withRecord i t s single va n align k).Formed := by
  unfold withRecord
  grind
grind_pattern withRecord_formed => withRecord i t s single va n align k

/-! ## Machine/Copies -/

theorem State.lineTrs_formed {s : State} (hs : s.Formed) (i t k l) : (s.lineTrs i t k l).Formed := by
  fun_induction State.lineTrs <;> grind
grind_pattern State.lineTrs_formed => s.lineTrs i t k l
theorem copyStart_formed {s : State} (hs : s.Formed) (i t inn tile dst va n tk) : (copyStart i t s inn tile dst va n tk).Formed := by
  fun_cases copyStart <;> grind
grind_pattern copyStart_formed => copyStart i t s inn tile dst va n tk
theorem copyOp_formed {s : State} (hs : s.Formed) (d a b inn) : OutFormed (copyOp s d a b inn) := by
  unfold copyOp
  grind
grind_pattern copyOp_formed => copyOp s d a b inn
theorem execCpy_formed {s : State} (hs : s.Formed) (d a b) : OutFormed (execCpy d a b s) := copyOp_formed hs ..
grind_pattern execCpy_formed => execCpy d a b s
theorem execCpyo_formed {s : State} (hs : s.Formed) (d a b) : OutFormed (execCpyo d a b s) := copyOp_formed hs ..
grind_pattern execCpyo_formed => execCpyo d a b s
theorem withTile_formed {s : State} (hs : s.Formed) {k : Tile → State → Res} (hk : ∀ y s, s.Formed → (k y s).Formed) (i t single h) :
    (withTile i t s single h k).Formed := withHandle_formed hs (by grind) ..
grind_pattern withTile_formed => withTile i t s single h k
theorem preTile_formed {s : State} (hs : s.Formed) (d i t) : (preTile d i t s).Formed := by
  fun_cases preTile <;> grind
grind_pattern preTile_formed => preTile d i t s
theorem execCpyt_formed {s : State} (hs : s.Formed) (d a b) : OutFormed (execCpyt d a b s) := by
  unfold execCpyt
  grind
grind_pattern execCpyt_formed => execCpyt d a b s
theorem State.copySpoiled_formed {s : State} (hs : s.Formed) (o k x f) : (s.copySpoiled o k x f).Formed := by
  unfold State.copySpoiled
  grind
grind_pattern State.copySpoiled_formed => s.copySpoiled o k x f
theorem State.landScratch_formed {s : State} (hs : s.Formed) (cl key bs) : (s.landScratch cl key bs).Formed := by
  unfold State.landScratch
  grind
grind_pattern State.landScratch_formed => s.landScratch cl key bs
theorem State.landHome_formed {s : State} (hs : s.Formed) (x key bs) : (s.landHome x key bs).Formed := by
  unfold State.landHome
  grind
grind_pattern State.landHome_formed => s.landHome x key bs
theorem State.copyAway_formed {s : State} (hs : s.Formed) (o k x a dev body) : (s.copyAway o k x a dev body).Formed := by
  fun_cases State.copyAway <;> grind
grind_pattern State.copyAway_formed => s.copyAway o k x a dev body
theorem State.landIn_formed {s : State} (hs : s.Formed) (o k x a cl tile) : (s.landIn o k x a cl tile).Formed := by
  fun_cases State.landIn <;> grind
grind_pattern State.landIn_formed => s.landIn o k x a cl tile
theorem State.copyHolds_formed {s : State} (hs : s.Formed) (x key) : (s.copyHolds x key).Formed := by
  fun_cases State.copyHolds <;> grind
grind_pattern State.copyHolds_formed => s.copyHolds x key
theorem State.landOut_formed {s : State} (hs : s.Formed) (o k x a cl) : (s.landOut o k x a cl).Formed := by
  fun_cases State.landOut <;> grind
grind_pattern State.landOut_formed => s.landOut o k x a cl
theorem execCopyLineLand_formed {s : State} (hs : s.Formed) (o k) : OutFormed (execCopyLineLand o k s) := by
  fun_cases execCopyLineLand <;> grind
grind_pattern execCopyLineLand_formed => execCopyLineLand o k s
theorem State.arrive_formed {s : State} (hs : s.Formed) (cl key) : (s.arrive cl key).Formed := by
  fun_cases State.arrive <;> grind
grind_pattern State.arrive_formed => s.arrive cl key
theorem execCopyComplete_formed {s : State} (hs : s.Formed) (o) : OutFormed (execCopyComplete o s) := by
  fun_cases execCopyComplete <;> grind
grind_pattern execCopyComplete_formed => execCopyComplete o s

/-! ## Machine/Vector -/

theorem putElems_formed {s : State} (hs : s.Formed) (i t y d ws) : (putElems i t s y d ws).Formed := by
  fun_cases putElems <;> grind
grind_pattern putElems_formed => putElems i t s y d ws
theorem laneOp_formed {s : State} (hs : s.Formed) (d ss ok f) : OutFormed (laneOp s d ss ok f) := sweepTo_formed hs (by grind) ..
grind_pattern laneOp_formed => laneOp s d ss ok f
theorem laneOpD_formed {s : State} (hs : s.Formed) (d ss ok f) : OutFormed (laneOpD s d ss ok f) := sweep_formed hs (by grind) ..
grind_pattern laneOpD_formed => laneOpD s d ss ok f
theorem execVmov_formed {s : State} (hs : s.Formed) (d a) : OutFormed (execVmov d a s) := laneOp_formed hs ..
grind_pattern execVmov_formed => execVmov d a s
theorem execVadd_formed {s : State} (hs : s.Formed) (d a b) : OutFormed (execVadd d a b s) := laneOp_formed hs ..
grind_pattern execVadd_formed => execVadd d a b s
theorem execVsub_formed {s : State} (hs : s.Formed) (d a b) : OutFormed (execVsub d a b s) := laneOp_formed hs ..
grind_pattern execVsub_formed => execVsub d a b s
theorem execVmul_formed {s : State} (hs : s.Formed) (d a b) : OutFormed (execVmul d a b s) := laneOp_formed hs ..
grind_pattern execVmul_formed => execVmul d a b s
theorem execVmulh_formed {s : State} (hs : s.Formed) (d a b) : OutFormed (execVmulh d a b s) := laneOp_formed hs ..
grind_pattern execVmulh_formed => execVmulh d a b s
theorem execVfma_formed {s : State} (hs : s.Formed) (d a b) : OutFormed (execVfma d a b s) := by
  unfold execVfma
  grind
grind_pattern execVfma_formed => execVfma d a b s
theorem execVfnma_formed {s : State} (hs : s.Formed) (d a b) : OutFormed (execVfnma d a b s) := by
  unfold execVfnma
  grind
grind_pattern execVfnma_formed => execVfnma d a b s
theorem execVmad_formed {s : State} (hs : s.Formed) (d a b) : OutFormed (execVmad d a b s) := laneOpD_formed hs ..
grind_pattern execVmad_formed => execVmad d a b s
theorem execVmin_formed {s : State} (hs : s.Formed) (d a b) : OutFormed (execVmin d a b s) := laneOp_formed hs ..
grind_pattern execVmin_formed => execVmin d a b s
theorem execVmax_formed {s : State} (hs : s.Formed) (d a b) : OutFormed (execVmax d a b s) := laneOp_formed hs ..
grind_pattern execVmax_formed => execVmax d a b s
theorem execVabs_formed {s : State} (hs : s.Formed) (d a) : OutFormed (execVabs d a s) := by
  unfold execVabs
  grind
grind_pattern execVabs_formed => execVabs d a s
theorem execVneg_formed {s : State} (hs : s.Formed) (d a) : OutFormed (execVneg d a s) := by
  unfold execVneg
  grind
grind_pattern execVneg_formed => execVneg d a s
theorem execVabsd_formed {s : State} (hs : s.Formed) (d a b) : OutFormed (execVabsd d a b s) := laneOp_formed hs ..
grind_pattern execVabsd_formed => execVabsd d a b s
theorem bitOp_formed {s : State} (hs : s.Formed) (d ss f) : OutFormed (bitOp s d ss f) := sweepTo_formed hs (by grind) ..
grind_pattern bitOp_formed => bitOp s d ss f
theorem execVand_formed {s : State} (hs : s.Formed) (d a b) : OutFormed (execVand d a b s) := bitOp_formed hs ..
grind_pattern execVand_formed => execVand d a b s
theorem execVor_formed {s : State} (hs : s.Formed) (d a b) : OutFormed (execVor d a b s) := bitOp_formed hs ..
grind_pattern execVor_formed => execVor d a b s
theorem execVxor_formed {s : State} (hs : s.Formed) (d a b) : OutFormed (execVxor d a b s) := bitOp_formed hs ..
grind_pattern execVxor_formed => execVxor d a b s
theorem execVnot_formed {s : State} (hs : s.Formed) (d a) : OutFormed (execVnot d a s) := bitOp_formed hs ..
grind_pattern execVnot_formed => execVnot d a s
theorem shiftOp_formed {s : State} (hs : s.Formed) (d a b f) : OutFormed (shiftOp s d a b f) := sweepTo_formed hs (by grind) ..
grind_pattern shiftOp_formed => shiftOp s d a b f
theorem execVshl_formed {s : State} (hs : s.Formed) (d a b) : OutFormed (execVshl d a b s) := shiftOp_formed hs ..
grind_pattern execVshl_formed => execVshl d a b s
theorem execVshr_formed {s : State} (hs : s.Formed) (d a b) : OutFormed (execVshr d a b s) := shiftOp_formed hs ..
grind_pattern execVshr_formed => execVshr d a b s
theorem execVsra_formed {s : State} (hs : s.Formed) (d a b) : OutFormed (execVsra d a b s) := shiftOp_formed hs ..
grind_pattern execVsra_formed => execVsra d a b s
theorem execVrot_formed {s : State} (hs : s.Formed) (d a b) : OutFormed (execVrot d a b s) := shiftOp_formed hs ..
grind_pattern execVrot_formed => execVrot d a b s
theorem countOp_formed {s : State} (hs : s.Formed) (d a f) : OutFormed (countOp s d a f) := laneOp_formed hs ..
grind_pattern countOp_formed => countOp s d a f
theorem execVpopc_formed {s : State} (hs : s.Formed) (d a) : OutFormed (execVpopc d a s) := countOp_formed hs ..
grind_pattern execVpopc_formed => execVpopc d a s
theorem execVclz_formed {s : State} (hs : s.Formed) (d a) : OutFormed (execVclz d a s) := countOp_formed hs ..
grind_pattern execVclz_formed => execVclz d a s
theorem execVbrev_formed {s : State} (hs : s.Formed) (d a) : OutFormed (execVbrev d a s) := countOp_formed hs ..
grind_pattern execVbrev_formed => execVbrev d a s
theorem execVsel_formed {s : State} (hs : s.Formed) (d a b) : OutFormed (execVsel d a b s) := sweepTo_formed hs (by grind) ..
grind_pattern execVsel_formed => execVsel d a b s
theorem execVbcast_formed {s : State} (hs : s.Formed) (d a b) : OutFormed (execVbcast d a b s) := sweepOn_formed hs (by grind) ..
grind_pattern execVbcast_formed => execVbcast d a b s
theorem execVcvt_formed {s : State} (hs : s.Formed) (d a b) : OutFormed (execVcvt d a b s) := sweepTo_formed hs (by grind) ..
grind_pattern execVcvt_formed => execVcvt d a b s
theorem execVrcp_formed {s : State} (hs : s.Formed) (d a) : OutFormed (execVrcp d a s) := laneOp_formed hs ..
grind_pattern execVrcp_formed => execVrcp d a s
theorem execVrsq_formed {s : State} (hs : s.Formed) (d a) : OutFormed (execVrsq d a s) := laneOp_formed hs ..
grind_pattern execVrsq_formed => execVrsq d a s
theorem execVsqrt_formed {s : State} (hs : s.Formed) (d a) : OutFormed (execVsqrt d a s) := laneOp_formed hs ..
grind_pattern execVsqrt_formed => execVsqrt d a s
theorem execVexp2_formed {s : State} (hs : s.Formed) (d a) : OutFormed (execVexp2 d a s) := laneOp_formed hs ..
grind_pattern execVexp2_formed => execVexp2 d a s
theorem execVlog2_formed {s : State} (hs : s.Formed) (d a) : OutFormed (execVlog2 d a s) := laneOp_formed hs ..
grind_pattern execVlog2_formed => execVlog2 d a s
theorem execVsin_formed {s : State} (hs : s.Formed) (d a) : OutFormed (execVsin d a s) := laneOp_formed hs ..
grind_pattern execVsin_formed => execVsin d a s
theorem execVcos_formed {s : State} (hs : s.Formed) (d a) : OutFormed (execVcos d a s) := laneOp_formed hs ..
grind_pattern execVcos_formed => execVcos d a s
theorem execVtanh_formed {s : State} (hs : s.Formed) (d a) : OutFormed (execVtanh d a s) := laneOp_formed hs ..
grind_pattern execVtanh_formed => execVtanh d a s
theorem execVrnd_formed {s : State} (hs : s.Formed) (d a) : OutFormed (execVrnd d a s) := by
  unfold execVrnd
  grind
grind_pattern execVrnd_formed => execVrnd d a s
theorem execVfrc_formed {s : State} (hs : s.Formed) (d a) : OutFormed (execVfrc d a s) := by
  unfold execVfrc
  grind
grind_pattern execVfrc_formed => execVfrc d a s
theorem execVldexp_formed {s : State} (hs : s.Formed) (d a b) : OutFormed (execVldexp d a b s) := by
  unfold execVldexp
  grind
grind_pattern execVldexp_formed => execVldexp d a b s
theorem execVcpsgn_formed {s : State} (hs : s.Formed) (d a b) : OutFormed (execVcpsgn d a b s) := by
  unfold execVcpsgn
  grind
grind_pattern execVcpsgn_formed => execVcpsgn d a b s
theorem execVdot4_formed {s : State} (hs : s.Formed) (d a b) : OutFormed (execVdot4 d a b s) := laneOpD_formed hs ..
grind_pattern execVdot4_formed => execVdot4 d a b s
theorem execVdot2_formed {s : State} (hs : s.Formed) (d a b) : OutFormed (execVdot2 d a b s) := by
  unfold execVdot2
  grind
grind_pattern execVdot2_formed => execVdot2 d a b s
theorem scalarF_formed {s : State} (hs : s.Formed) (d a b dread f) : OutFormed (scalarF s d a b dread f) := once_formed hs (by grind) ..
grind_pattern scalarF_formed => scalarF s d a b dread f
theorem execSfadd_formed {s : State} (hs : s.Formed) (d a b) : OutFormed (execSfadd d a b s) := scalarF_formed hs ..
grind_pattern execSfadd_formed => execSfadd d a b s
theorem execSfmul_formed {s : State} (hs : s.Formed) (d a b) : OutFormed (execSfmul d a b s) := scalarF_formed hs ..
grind_pattern execSfmul_formed => execSfmul d a b s
theorem execSfma_formed {s : State} (hs : s.Formed) (d a b) : OutFormed (execSfma d a b s) := scalarF_formed hs ..
grind_pattern execSfma_formed => execSfma d a b s
theorem execScvt_formed {s : State} (hs : s.Formed) (d a b) : OutFormed (execScvt d a b s) := once_formed hs (by grind) ..
grind_pattern execScvt_formed => execScvt d a b s

/-! ## Machine/Paths -/

theorem execCld_formed {s : State} (hs : s.Formed) (d a b) : OutFormed (execCld d a b s) := by
  unfold execCld
  grind
grind_pattern execCld_formed => execCld d a b s
theorem execSmpl_formed {s : State} (hs : s.Formed) (d a b) : OutFormed (execSmpl d a b s) := by
  refine sweepHandle_formed hs (fun i t q s hs => ?_) (by grind) ..
  split <;> grind
grind_pattern execSmpl_formed => execSmpl d a b s
theorem State.deliverSample_formed {s : State} (hs : s.Formed) (o x) : (s.deliverSample o x).Formed := by
  fun_cases State.deliverSample <;> grind
grind_pattern State.deliverSample_formed => s.deliverSample o x
theorem execTlld_formed {s : State} (hs : s.Formed) (d a b) : OutFormed (execTlld d a b s) := by
  refine sweepHandle_formed hs (fun i t q s hs => ?_) (by grind) ..
  split <;> grind
grind_pattern execTlld_formed => execTlld d a b s
theorem State.arriveWords_formed {s : State} (hs : s.Formed) (o k x a ws bs) : (s.arriveWords o k x a ws bs).Formed := by
  fun_cases State.arriveWords <;> grind
grind_pattern State.arriveWords_formed => s.arriveWords o k x a ws bs
theorem State.returned_formed {s : State} (hs : s.Formed) (o k x a bs) : (s.returned o k x a bs).Formed := by
  fun_cases State.returned <;> grind
grind_pattern State.returned_formed => s.returned o k x a bs
theorem State.returnAll_formed {s : State} (hs : s.Formed) (o bs l) : (s.returnAll o bs l).Formed := by
  fun_induction State.returnAll <;> grind
grind_pattern State.returnAll_formed => s.returnAll o bs l
theorem execLoadReturn_formed {s : State} (hs : s.Formed) (o k) : OutFormed (execLoadReturn o k s) := by
  fun_cases execLoadReturn <;> grind
grind_pattern execLoadReturn_formed => execLoadReturn o k s
theorem execPfence_formed {s : State} (hs : s.Formed) (d) : OutFormed (execPfence d s) := once_formed hs (by grind) ..
grind_pattern execPfence_formed => execPfence d s
theorem State.dropPaths_formed {s : State} (hs : s.Formed) (core paths) : (s.dropPaths core paths).Formed := hs
grind_pattern State.dropPaths_formed => s.dropPaths core paths
theorem State.prefetch_formed {s : State} (hs : s.Formed) (i t l) : (s.prefetch i t l).Formed := by
  fun_induction State.prefetch <;> grind
grind_pattern State.prefetch_formed => s.prefetch i t l
theorem execPref_formed {s : State} (hs : s.Formed) (a b) : OutFormed (execPref a b s) := sweepOn_formed hs (by grind) ..
grind_pattern execPref_formed => execPref a b s
theorem flushOp_formed {s : State} (hs : s.Formed) (a b icache) : OutFormed (flushOp s a b icache) := sweepOn_formed hs (by grind) ..
grind_pattern flushOp_formed => flushOp s a b icache
theorem execCflush_formed {s : State} (hs : s.Formed) (a b) : OutFormed (execCflush a b s) := flushOp_formed hs ..
grind_pattern execCflush_formed => execCflush a b s
theorem execCinv_formed {s : State} (hs : s.Formed) (a b) : OutFormed (execCinv a b s) := flushOp_formed hs ..
grind_pattern execCinv_formed => execCinv a b s
theorem State.dropText_formed {s : State} (hs : s.Formed) (p c ks) : (s.dropText p c ks).Formed := hs
grind_pattern State.dropText_formed => s.dropText p c ks
theorem State.flushLines_formed {s : State} (hs : s.Formed) (x icache) : (s.flushLines x icache).Formed := by
  unfold State.flushLines
  grind
grind_pattern State.flushLines_formed => s.flushLines x icache

/-! ## Machine/Atomics -/

theorem homeStart_formed {s : State} (hs : s.Formed) (i t classB kind accs acq) : (homeStart i t s classB kind accs acq).Formed := by
  fun_cases homeStart <;> grind
grind_pattern homeStart_formed => homeStart i t s classB kind accs acq
theorem atomicOp_formed {s : State} (hs : s.Formed) (fn fam d a b) : OutFormed (atomicOp s fn fam d a b) := sweep_formed hs (by grind) ..
grind_pattern atomicOp_formed => atomicOp s fn fam d a b
theorem execAadd_formed {s : State} (hs : s.Formed) (d a b) : OutFormed (execAadd d a b s) := atomicOp_formed hs ..
grind_pattern execAadd_formed => execAadd d a b s
theorem execAfadd_formed {s : State} (hs : s.Formed) (d a b) : OutFormed (execAfadd d a b s) := atomicOp_formed hs ..
grind_pattern execAfadd_formed => execAfadd d a b s
theorem execAmin_formed {s : State} (hs : s.Formed) (d a b) : OutFormed (execAmin d a b s) := atomicOp_formed hs ..
grind_pattern execAmin_formed => execAmin d a b s
theorem execAmax_formed {s : State} (hs : s.Formed) (d a b) : OutFormed (execAmax d a b s) := atomicOp_formed hs ..
grind_pattern execAmax_formed => execAmax d a b s
theorem execAand_formed {s : State} (hs : s.Formed) (d a b) : OutFormed (execAand d a b s) := atomicOp_formed hs ..
grind_pattern execAand_formed => execAand d a b s
theorem execAor_formed {s : State} (hs : s.Formed) (d a b) : OutFormed (execAor d a b s) := atomicOp_formed hs ..
grind_pattern execAor_formed => execAor d a b s
theorem execAxor_formed {s : State} (hs : s.Formed) (d a b) : OutFormed (execAxor d a b s) := atomicOp_formed hs ..
grind_pattern execAxor_formed => execAxor d a b s
theorem execAxchg_formed {s : State} (hs : s.Formed) (d a b) : OutFormed (execAxchg d a b s) := atomicOp_formed hs ..
grind_pattern execAxchg_formed => execAxchg d a b s
theorem execAcas_formed {s : State} (hs : s.Formed) (d a b) : OutFormed (execAcas d a b s) := atomicOp_formed hs ..
grind_pattern execAcas_formed => execAcas d a b s
theorem execAcas2_formed {s : State} (hs : s.Formed) (d a b) : OutFormed (execAcas2 d a b s) := atomicOp_formed hs ..
grind_pattern execAcas2_formed => execAcas2 d a b s
theorem execAcas4_formed {s : State} (hs : s.Formed) (d a b) : OutFormed (execAcas4 d a b s) := atomicOp_formed hs ..
grind_pattern execAcas4_formed => execAcas4 d a b s
theorem execRdadd_formed {s : State} (hs : s.Formed) (a b) : OutFormed (execRdadd a b s) := atomicOp_formed hs ..
grind_pattern execRdadd_formed => execRdadd a b s
theorem execRdfadd_formed {s : State} (hs : s.Formed) (a b) : OutFormed (execRdfadd a b s) := atomicOp_formed hs ..
grind_pattern execRdfadd_formed => execRdfadd a b s
theorem execRdmin_formed {s : State} (hs : s.Formed) (a b) : OutFormed (execRdmin a b s) := atomicOp_formed hs ..
grind_pattern execRdmin_formed => execRdmin a b s
theorem execRdmax_formed {s : State} (hs : s.Formed) (a b) : OutFormed (execRdmax a b s) := atomicOp_formed hs ..
grind_pattern execRdmax_formed => execRdmax a b s
theorem execRdand_formed {s : State} (hs : s.Formed) (a b) : OutFormed (execRdand a b s) := atomicOp_formed hs ..
grind_pattern execRdand_formed => execRdand a b s
theorem execRdor_formed {s : State} (hs : s.Formed) (a b) : OutFormed (execRdor a b s) := atomicOp_formed hs ..
grind_pattern execRdor_formed => execRdor a b s
theorem execRdxor_formed {s : State} (hs : s.Formed) (a b) : OutFormed (execRdxor a b s) := atomicOp_formed hs ..
grind_pattern execRdxor_formed => execRdxor a b s
theorem execDadd_formed {s : State} (hs : s.Formed) (d a b) : OutFormed (execDadd d a b s) := atomicOp_formed hs ..
grind_pattern execDadd_formed => execDadd d a b s
theorem execDfadd_formed {s : State} (hs : s.Formed) (d a b) : OutFormed (execDfadd d a b s) := atomicOp_formed hs ..
grind_pattern execDfadd_formed => execDfadd d a b s
theorem execDmin_formed {s : State} (hs : s.Formed) (d a b) : OutFormed (execDmin d a b s) := atomicOp_formed hs ..
grind_pattern execDmin_formed => execDmin d a b s
theorem execDmax_formed {s : State} (hs : s.Formed) (d a b) : OutFormed (execDmax d a b s) := atomicOp_formed hs ..
grind_pattern execDmax_formed => execDmax d a b s
theorem execDxchg_formed {s : State} (hs : s.Formed) (d a b) : OutFormed (execDxchg d a b s) := atomicOp_formed hs ..
grind_pattern execDxchg_formed => execDxchg d a b s
theorem execChunk_formed {s : State} (hs : s.Formed) (d a) : OutFormed (execChunk d a s) := by
  unfold execChunk
  grind
grind_pattern execChunk_formed => execChunk d a s
theorem State.deliverOld_formed {s : State} (hs : s.Formed) (o k x a dst dir old) : (s.deliverOld o k x a dst dir old).Formed := by
  fun_cases State.deliverOld <;> grind
grind_pattern State.deliverOld_formed => s.deliverOld o k x a dst dir old
theorem State.atomLanes_formed {s : State} (hs : s.Formed) (o fn y dst dir m l) : (s.atomLanes o fn y dst dir m l).1.Formed := by
  fun_induction State.atomLanes <;> grind
grind_pattern State.atomLanes_formed => s.atomLanes o fn y dst dir m l
theorem State.chunkLanes_formed {s : State} (hs : s.Formed) (o reg rem next cmin cmax p l) : (s.chunkLanes o reg rem next cmin cmax p l).1.Formed := by
  fun_induction State.chunkLanes <;> grind
grind_pattern State.chunkLanes_formed => s.chunkLanes o reg rem next cmin cmax p l
theorem State.atomicAt_formed {s : State} (hs : s.Formed) (o k x a key) : (s.atomicAt o k x a key).Formed := by
  fun_cases State.atomicAt <;> grind
grind_pattern State.atomicAt_formed => s.atomicAt o k x a key
theorem execAtomicPerform_formed {s : State} (hs : s.Formed) (o k) : OutFormed (execAtomicPerform o k s) := by
  fun_cases execAtomicPerform <;> grind
grind_pattern execAtomicPerform_formed => execAtomicPerform o k s
theorem execDirectedDelivery_formed {s : State} (hs : s.Formed) (o) : OutFormed (execDirectedDelivery o s) := by
  fun_cases execDirectedDelivery <;> grind
grind_pattern execDirectedDelivery_formed => execDirectedDelivery o s

/-! ## Machine/Queues -/

theorem State.setQueue_formed {s : State} (hs : s.Formed) (k q) : (s.setQueue k q).Formed := hs
grind_pattern State.setQueue_formed => s.setQueue k q
theorem State.claimTail_formed {s : State} (hs : s.Formed) (k v) : (s.claimTail k v).2.Formed := by
  unfold State.claimTail
  grind
grind_pattern State.claimTail_formed => s.claimTail k v
theorem State.claimHead_formed {s : State} (hs : s.Formed) (k v) : (s.claimHead k v).2.Formed := by
  unfold State.claimHead
  grind
grind_pattern State.claimHead_formed => s.claimHead k v
theorem State.publish_formed {s : State} (hs : s.Formed) (k v slot) : (s.publish k v slot).Formed := hs
grind_pattern State.publish_formed => s.publish k v slot
theorem State.unpublish_formed {s : State} (hs : s.Formed) (k v slot) : (s.unpublish k v slot).Formed := hs
grind_pattern State.unpublish_formed => s.unpublish k v slot
theorem withQueue_formed {s : State} (hs : s.Formed) {k : Nat → State → Res} (hk : ∀ i s, s.Formed → (k i s).Formed) (i t single h) :
    (withQueue i t s single h k).Formed := withHandle_formed hs (by grind) ..
grind_pattern withQueue_formed => withQueue i t s single h k
theorem withQueueOn_formed {s : State} (hs : s.Formed) {k : Nat → State → Res} (hk : ∀ i s, s.Formed → (k i s).Formed) (i t single h) :
    (withQueueOn i t s single h k).Formed := withQueue_formed hs (by grind) ..
grind_pattern withQueueOn_formed => withQueueOn i t s single h k
theorem queueOff_formed {s : State} (hs : s.Formed) (i t) : (queueOff i t s).Formed := by
  unfold queueOff
  grind
grind_pattern queueOff_formed => queueOff i t s
theorem State.claimSlots_formed {s : State} (hs : s.Formed) (p c k u got l) : (s.claimSlots p c k u got l).2.2.Formed := by
  fun_induction State.claimSlots <;> grind
grind_pattern State.claimSlots_formed => s.claimSlots p c k u got l
theorem withRelease_formed {s : State} (hs : s.Formed) {k : State → Res} (hk : ∀ s, s.Formed → (k s).Formed) (i t) : (withRelease i t s k).Formed := by
  fun_cases withRelease <;> grind
grind_pattern withRelease_formed => withRelease i t s k
theorem execEnq_formed {s : State} (hs : s.Formed) (d a) : OutFormed (execEnq d a s) := sweepHandle_formed hs (by grind) (by grind) ..
grind_pattern execEnq_formed => execEnq d a s
theorem State.writeRecord_formed {s : State} (hs : s.Formed) (p c die va bs) : (s.writeRecord p c die va bs).Formed := State.agentPut_formed hs ..
grind_pattern State.writeRecord_formed => s.writeRecord p c die va bs
theorem execEnqPublish_formed {s : State} (hs : s.Formed) (o) : OutFormed (execEnqPublish o s) := by
  fun_cases execEnqPublish <;> grind
grind_pattern execEnqPublish_formed => execEnqPublish o s
theorem State.claimRecords_formed {s : State} (hs : s.Formed) (p c k u l) : (s.claimRecords p c k u l).2.Formed := by
  fun_induction State.claimRecords <;> grind
grind_pattern State.claimRecords_formed => s.claimRecords p c k u l
theorem State.claimNext_formed {s : State} (hs : s.Formed) (o x) : (s.claimNext o x).Formed := by
  fun_cases State.claimNext <;> grind
grind_pattern State.claimNext_formed => s.claimNext o x
theorem execDeq_formed {s : State} (hs : s.Formed) (d a) : OutFormed (execDeq d a s) := sweepHandle_formed hs (by grind) (by grind) ..
grind_pattern execDeq_formed => execDeq d a s
theorem execDeqtry_formed {s : State} (hs : s.Formed) (d a b) : OutFormed (execDeqtry d a b s) := by
  refine sweepHandle_formed hs (fun i t q s hs => ?_) (by grind) ..
  split <;> grind
grind_pattern execDeqtry_formed => execDeqtry d a b s
theorem execQlen_formed {s : State} (hs : s.Formed) (d a b) : OutFormed (execQlen d a b s) := onceAfter_formed hs (by grind) (by grind) ..
grind_pattern execQlen_formed => execQlen d a b s
theorem execRfsrc_formed {s : State} (hs : s.Formed) (d a) : OutFormed (execRfsrc d a s) := once_formed hs (by grind) ..
grind_pattern execRfsrc_formed => execRfsrc d a s
theorem State.giveRecord_formed {s : State} (hs : s.Formed) (o x k r a refill bs) : (s.giveRecord o x k r a refill bs).Formed := by
  fun_cases State.giveRecord <;> grind
grind_pattern State.giveRecord_formed => s.giveRecord o x k r a refill bs
theorem execRecordDelivery_formed {s : State} (hs : s.Formed) (o) : OutFormed (execRecordDelivery o s) := by
  fun_cases execRecordDelivery <;> grind
grind_pattern execRecordDelivery_formed => execRecordDelivery o s
theorem execDeqResume_formed {s : State} (hs : s.Formed) (t) : OutFormed (execDeqResume t s) := by
  fun_cases execDeqResume <;> grind
grind_pattern execDeqResume_formed => execDeqResume t s

/-! ## Machine/Knots -/

theorem State.setKnot_formed {s : State} (hs : s.Formed) (k x) : (s.setKnot k x).Formed := hs
grind_pattern State.setKnot_formed => s.setKnot k x
theorem withKnot_formed {s : State} (hs : s.Formed) {k : Nat → State → Res} (hk : ∀ i s, s.Formed → (k i s).Formed) (i t single h) :
    (withKnot i t s single h k).Formed := withHandle_formed hs (by grind) ..
grind_pattern withKnot_formed => withKnot i t s single h k
theorem preKnot_formed {s : State} (hs : s.Formed) (a single i t) : (preKnot a single i t s).Formed := by
  fun_cases preKnot <;> grind
grind_pattern preKnot_formed => preKnot a single i t s
theorem preQueue_formed {s : State} (hs : s.Formed) (d i t) : (preQueue d i t s).Formed := by
  fun_cases preQueue <;> grind
grind_pattern preQueue_formed => preQueue d i t s
theorem preAlign_formed {s : State} (hs : s.Formed) (b i t) : (preAlign b i t s).Formed := by
  fun_cases preAlign <;> grind
grind_pattern preAlign_formed => preAlign b i t s
theorem execKnotinit_formed {s : State} (hs : s.Formed) (a b) : OutFormed (execKnotinit a b s) := onceAfter_formed hs (by grind) (by grind) ..
grind_pattern execKnotinit_formed => execKnotinit a b s
theorem knotOp_formed {s : State} (hs : s.Formed) (a b fn) : OutFormed (knotOp s a b fn) := sweepHandle_formed hs (by grind) (by grind) ..
grind_pattern knotOp_formed => knotOp s a b fn
theorem execKnotadd_formed {s : State} (hs : s.Formed) (a b) : OutFormed (execKnotadd a b s) := knotOp_formed hs ..
grind_pattern execKnotadd_formed => execKnotadd a b s
theorem execKnotdec_formed {s : State} (hs : s.Formed) (a b) : OutFormed (execKnotdec a b s) := knotOp_formed hs ..
grind_pattern execKnotdec_formed => execKnotdec a b s
theorem execKnotbind_formed {s : State} (hs : s.Formed) (d a b) : OutFormed (execKnotbind d a b s) := onceAfter_formed hs (by grind) (by grind) ..
grind_pattern execKnotbind_formed => execKnotbind d a b s
theorem State.ringTrap_formed {s : State} (hs : s.Formed) (p c f redo) : (s.ringTrap p c f redo).Formed := by
  unfold State.ringTrap
  grind
grind_pattern State.ringTrap_formed => s.ringTrap p c f redo
theorem State.fireFault_formed {s : State} (hs : s.Formed) (k f rest x) : (s.fireFault k f rest x).Formed := by
  fun_cases State.fireFault <;> grind
grind_pattern State.fireFault_formed => s.fireFault k f rest x
theorem State.fireReleases_formed {s : State} (hs : s.Formed) (f) : (s.fireReleases f).Formed := by
  fun_cases State.fireReleases <;> grind
grind_pattern State.fireReleases_formed => s.fireReleases f
theorem State.fireHolds_formed {s : State} (hs : s.Formed) (f) : (s.fireHolds f).Formed := by
  fun_cases State.fireHolds <;> grind
grind_pattern State.fireHolds_formed => s.fireHolds f
theorem State.fireHead_formed {s : State} (hs : s.Formed) (k) : (s.fireHead k).Formed := by
  fun_cases State.fireHead <;> grind
grind_pattern State.fireHead_formed => s.fireHead k
theorem State.fireBehind_formed {s : State} (hs : s.Formed) (f) : (s.fireBehind f).1.Formed := by
  fun_cases State.fireBehind <;> grind
grind_pattern State.fireBehind_formed => s.fireBehind f
theorem State.fireNext_formed {s : State} (hs : s.Formed) (k) : (s.fireNext k).Formed := by
  fun_cases State.fireNext <;> grind
grind_pattern State.fireNext_formed => s.fireNext k
theorem State.finishGrid_formed {s : State} (hs : s.Formed) (g x) : (s.finishGrid g x).Formed := by
  fun_cases State.finishGrid <;> grind
grind_pattern State.finishGrid_formed => s.finishGrid g x
theorem State.startGrid_formed {s : State} (hs : s.Formed) (g ahead x) : (s.startGrid g ahead x).Formed := by
  fun_cases State.startGrid <;> grind
grind_pattern State.startGrid_formed => s.startGrid g ahead x
theorem State.releaseWaiters_formed {s : State} (hs : s.Formed) (k) : (s.releaseWaiters k).Formed := by
  unfold State.releaseWaiters
  grind
grind_pattern State.releaseWaiters_formed => s.releaseWaiters k
theorem State.fire_formed {s : State} (hs : s.Formed) (k part ctx vdie obj op) : (s.fire k part ctx vdie obj op).Formed := by
  fun_cases State.fire <;> grind
grind_pattern State.fire_formed => s.fire k part ctx vdie obj op
theorem State.agentDec_formed {s : State} (hs : s.Formed) (k part ctx vdie obj) : (s.agentDec k part ctx vdie obj).Formed := by
  fun_cases State.agentDec <;> grind
grind_pattern State.agentDec_formed => s.agentDec k part ctx vdie obj
theorem State.knotLane_formed {s : State} (hs : s.Formed) (o x fn key vdie obj k a) : (s.knotLane o x fn key vdie obj k a).Formed := by
  fun_cases State.knotLane <;> grind
grind_pattern State.knotLane_formed => s.knotLane o x fn key vdie obj k a
theorem execKnotOperation_formed {s : State} (hs : s.Formed) (o) : OutFormed (execKnotOperation o s) := by
  fun_cases execKnotOperation <;> grind
grind_pattern execKnotOperation_formed => execKnotOperation o s
theorem execKnotFireRetry_formed {s : State} (hs : s.Formed) (part n) : OutFormed (execKnotFireRetry part n s) := by
  unfold execKnotFireRetry
  grind
grind_pattern execKnotFireRetry_formed => execKnotFireRetry part n s

/-! ## Machine/Drains -/

theorem State.beginDrain_formed {s : State} (hs : s.Formed) (d) : (s.beginDrain d).Formed := hs
grind_pattern State.beginDrain_formed => s.beginDrain d
theorem State.releaseMigOf_formed {s : State} (hs : s.Formed) (f) : (s.releaseMigOf f).Formed := hs
grind_pattern State.releaseMigOf_formed => s.releaseMigOf f
theorem State.releaseMig_formed {s : State} (hs : s.Formed) (p c) : (s.releaseMig p c).Formed := hs
grind_pattern State.releaseMig_formed => s.releaseMig p c
theorem State.endDrains_formed {s : State} (hs : s.Formed) (i n) : (s.endDrains i n).Formed := by
  unfold State.endDrains
  grind
grind_pattern State.endDrains_formed => s.endDrains i n
theorem execInvpg_formed {s : State} (hs : s.Formed) (d a b) : OutFormed (execInvpg d a b s) := by
  refine issue_formed hs (fun i t s hs => ?_)
  dsimp only
  split
  · exact hs
  · refine withPops_formed hs (fun t q s hs => ?_) ..
    split
    · grind
    · exact hs
grind_pattern execInvpg_formed => execInvpg d a b s
theorem execInvcf_formed {s : State} (hs : s.Formed) : OutFormed (execInvcf s) := once_formed hs (by grind) ..
grind_pattern execInvcf_formed => execInvcf s

/-! ## Machine/Objects -/

theorem State.fixHome_formed {s : State} (hs : s.Formed) (h) : (s.fixHome h).Formed := hs
grind_pattern State.fixHome_formed => s.fixHome h
theorem State.homeNow_formed {s : State} (hs : s.Formed) (h) : (s.homeNow h).Formed := by
  fun_cases State.homeNow <;> grind
grind_pattern State.homeNow_formed => s.homeNow h
theorem State.pleatHome_formed {s : State} (hs : s.Formed) (p c obj x) : (s.pleatHome p c obj x).Formed := by
  fun_cases State.pleatHome <;> grind
grind_pattern State.pleatHome_formed => s.pleatHome p c obj x
theorem State.fixSlot_formed {s : State} (hs : s.Formed) (p c slot) : (s.fixSlot p c slot).Formed := by
  fun_cases State.fixSlot <;> grind
grind_pattern State.fixSlot_formed => s.fixSlot p c slot
theorem State.fixHomes_formed {s : State} (hs : s.Formed) (p c) : (s.fixHomes p c).Formed := by
  unfold State.fixHomes
  grind
grind_pattern State.fixHomes_formed => s.fixHomes p c
theorem State.dropHomes_formed {s : State} (hs : s.Formed) (p c) : (s.dropHomes p c).Formed := hs
grind_pattern State.dropHomes_formed => s.dropHomes p c

/-! ## Machine/Launch -/


/-- What reads a launch's records keeps memory in canonical form. -/
def Reader.Keeps (rd : Reader) : Prop :=
  (∀ s, s.Formed → ∀ va n a, (rd.read s va n a).Formed) ∧ ∀ s, s.Formed → ∀ h, (rd.knot s h).Formed
theorem Reader.read_formed {rd : Reader} (hrd : rd.Keeps) {s : State} (hs : s.Formed) (va n a : Nat) : (rd.read s va n a).Formed := hrd.1 s hs va n a
theorem Reader.knot_formed {rd : Reader} (hrd : rd.Keeps) {s : State} (hs : s.Formed) (h : Word) : (rd.knot s h).Formed := hrd.2 s hs h
grind_pattern Reader.read_formed => rd.read s va n a
grind_pattern Reader.knot_formed => rd.knot s h

theorem Reader.roles_formed {s : State} (hs : s.Formed) {rd : Reader} (hrd : rd.Keeps) (va n) : (rd.roles s va n).Formed := by
  fun_induction Reader.roles <;> grind
grind_pattern Reader.roles_formed => rd.roles s va n
theorem Reader.knotOf_formed {s : State} (hs : s.Formed) {rd : Reader} (hrd : rd.Keeps) (p h va) : (rd.knotOf s p h va).Formed := by
  fun_cases Reader.knotOf <;> grind
grind_pattern Reader.knotOf_formed => rd.knotOf s p h va
theorem State.createLaunch_formed {s : State} (hs : s.Formed) {rd : Reader} (hrd : rd.Keeps) (ring p c vdie die va) :
    (s.createLaunch rd ring p c vdie die va).Formed := by
  fun_cases State.createLaunch <;> grind
grind_pattern State.createLaunch_formed => s.createLaunch rd ring p c vdie die va
theorem teamReader_formed (i t) : (teamReader i t).Keeps := ⟨fun _ hs _ _ _ => State.record_formed hs .., fun _ hs _ => State.handle_formed hs ..⟩
grind_pattern teamReader_formed => teamReader i t
theorem State.launchLanes_formed {s : State} (hs : s.Formed) (i t bad l) : (s.launchLanes i t bad l).2.Formed := by
  fun_induction State.launchLanes <;> grind
grind_pattern State.launchLanes_formed => s.launchLanes i t bad l
theorem execLaunch_formed {s : State} (hs : s.Formed) (a b) : OutFormed (execLaunch a b s) := sweepOn_formed hs (by grind) ..
grind_pattern execLaunch_formed => execLaunch a b s
theorem State.carveTo_formed {s : State} (hs : s.Formed) (core carve) : (s.carveTo core carve).Formed := by
  fun_cases State.carveTo <;> grind
grind_pattern State.carveTo_formed => s.carveTo core carve
theorem State.placeTeams_formed {s : State} (hs : s.Formed) (g k cl vd n cores l) : (s.placeTeams g k cl vd n cores l).Formed := by
  fun_induction State.placeTeams <;> grind
grind_pattern State.placeTeams_formed => s.placeTeams g k cl vd n cores l
theorem State.endCluster_formed {s : State} (hs : s.Formed) (cl vdie) : (s.endCluster cl vdie).Formed := by
  fun_cases State.endCluster <;> grind
grind_pattern State.endCluster_formed => s.endCluster cl vdie
theorem State.scatter_formed {s : State} (hs : s.Formed) (abort nrep l l') : (s.scatter abort nrep l l').Formed := by
  fun_induction State.scatter <;> grind
grind_pattern State.scatter_formed => s.scatter abort nrep l l'
theorem State.endWave_formed {s : State} (hs : s.Formed) (t abort) : (s.endWave t abort).Formed := by
  fun_cases State.endWave <;> grind
grind_pattern State.endWave_formed => s.endWave t abort
theorem State.endTeam_formed {s : State} (hs : s.Formed) (i) : (s.endTeam i).Formed := by
  fun_cases State.endTeam <;> grind
grind_pattern State.endTeam_formed => s.endTeam i
theorem execExit_formed {s : State} (hs : s.Formed) : OutFormed (execExit s) := once_formed hs (by grind) ..
grind_pattern execExit_formed => execExit s

/-! ## Machine/Clauses -/

theorem State.fetchPieces_formed {s : State} (hs : s.Formed) (i t l) : (s.fetchPieces i t l).Formed := by
  fun_induction State.fetchPieces <;> grind
grind_pattern State.fetchPieces_formed => s.fetchPieces i t l
theorem State.fetchTrap_formed {s : State} (hs : s.Formed) (i t f) : (s.fetchTrap i t f).Formed := by
  unfold State.fetchTrap
  grind
grind_pattern State.fetchTrap_formed => s.fetchTrap i t f
theorem State.badHeader_formed {s : State} (hs : s.Formed) (i t c) : (s.badHeader i t c).Formed := State.takeTrap_formed hs ..
grind_pattern State.badHeader_formed => s.badHeader i t c
theorem execClauseFetch_formed {s : State} (hs : s.Formed) (t) : OutFormed (execClauseFetch t s) := by
  fun_cases execClauseFetch <;> grind
grind_pattern execClauseFetch_formed => execClauseFetch t s
theorem State.refillAt_formed {s : State} (hs : s.Formed) (i t) : (s.refillAt i t).Formed := by
  fun_cases State.refillAt <;> grind
grind_pattern State.refillAt_formed => s.refillAt i t
theorem execClauseStart_formed {s : State} (hs : s.Formed) (t) : OutFormed (execClauseStart t s) := by
  fun_cases execClauseStart <;> grind
grind_pattern execClauseStart_formed => execClauseStart t s
theorem execRefillWake_formed {s : State} (hs : s.Formed) (t) : OutFormed (execRefillWake t s) := by
  fun_cases execRefillWake <;> grind
grind_pattern execRefillWake_formed => execRefillWake t s

/-! ## Machine/Quant -/

theorem execQblk_formed {s : State} (hs : s.Formed) (d a b) : OutFormed (execQblk d a b s) := sweepTo_formed hs (by grind) ..
grind_pattern execQblk_formed => execQblk d a b s
theorem execDqblk_formed {s : State} (hs : s.Formed) (d a b) : OutFormed (execDqblk d a b s) := sweep_formed hs (by grind) ..
grind_pattern execDqblk_formed => execDqblk d a b s

/-! ## Machine/Engines -/

theorem preBind_formed {s : State} (hs : s.Formed) (d i t) : (preBind d i t s).Formed := by
  fun_cases preBind <;> grind
grind_pattern preBind_formed => preBind d i t s
theorem execQbind_formed {s : State} (hs : s.Formed) (d a b) : OutFormed (execQbind d a b s) := by
  unfold execQbind
  grind
grind_pattern execQbind_formed => execQbind d a b s
theorem execQtry_formed {s : State} (hs : s.Formed) (d a) : OutFormed (execQtry d a s) := once_formed hs (by grind) ..
grind_pattern execQtry_formed => execQtry d a s
theorem execQfence_formed {s : State} (hs : s.Formed) (a) : OutFormed (execQfence a s) := once_formed hs (by grind) ..
grind_pattern execQfence_formed => execQfence a s
theorem execFifoPopWake_formed {s : State} (hs : s.Formed) (t) : OutFormed (execFifoPopWake t s) := by
  fun_cases execFifoPopWake <;> grind
grind_pattern execFifoPopWake_formed => execFifoPopWake t s
theorem execEngineRecordEntry_formed {s : State} (hs : s.Formed) (t q) : OutFormed (execEngineRecordEntry t q s) := by
  fun_cases execEngineRecordEntry <;> grind
grind_pattern execEngineRecordEntry_formed => execEngineRecordEntry t q s
theorem State.agentGet_formed {s : State} (hs : s.Formed) (p c die l) : (s.agentGet p c die l).Formed := by
  fun_induction State.agentGet <;> grind
grind_pattern State.agentGet_formed => s.agentGet p c die l
theorem State.recordFails_formed {s : State} (hs : s.Formed) (e f) : (s.recordFails e f).Formed := by
  fun_cases State.recordFails <;> grind
grind_pattern State.recordFails_formed => s.recordFails e f
theorem copyRecStep_formed {s : State} (hs : s.Formed) (o inn) : (copyRecStep o inn s).Formed := by
  unfold copyRecStep
  dsimp only
  repeat' split
  all_goals grind
grind_pattern copyRecStep_formed => copyRecStep o inn s
theorem execEngineCopyIn_formed {s : State} (hs : s.Formed) (o) : OutFormed (execEngineCopyIn o s) := by
  unfold execEngineCopyIn
  grind
grind_pattern execEngineCopyIn_formed => execEngineCopyIn o s
theorem execEngineCopyOut_formed {s : State} (hs : s.Formed) (o) : OutFormed (execEngineCopyOut o s) := by
  unfold execEngineCopyOut
  grind
grind_pattern execEngineCopyOut_formed => execEngineCopyOut o s
theorem State.gatherRows_formed {s : State} (hs : s.Formed) (p c die ws l) : (s.gatherRows p c die ws l).Formed := by
  fun_induction State.gatherRows <;> grind
grind_pattern State.gatherRows_formed => s.gatherRows p c die ws l
theorem State.gatherUnit_formed {s : State} (hs : s.Formed) (p c die dom ws n) : (s.gatherUnit p c die dom ws n).Formed := by
  fun_cases State.gatherUnit <;> grind
grind_pattern State.gatherUnit_formed => s.gatherUnit p c die dom ws n
theorem State.reduceSrcs_formed {s : State} (hs : s.Formed) (p c die size n l) : (s.reduceSrcs p c die size n l).Formed := by
  fun_induction State.reduceSrcs <;> grind
grind_pattern State.reduceSrcs_formed => s.reduceSrcs p c die size n l
theorem State.reduceUnit_formed {s : State} (hs : s.Formed) (p c die dom ws n) : (s.reduceUnit p c die dom ws n).Formed := by
  fun_cases State.reduceUnit <;> grind
grind_pattern State.reduceUnit_formed => s.reduceUnit p c die dom ws n
theorem State.convCode_formed {s : State} (hs : s.Formed) (p c die ws t) : (s.convCode p c die ws t).Formed := by
  fun_cases State.convCode <;> grind
grind_pattern State.convCode_formed => s.convCode p c die ws t
theorem State.convCodes_formed {s : State} (hs : s.Formed) (p c die ws l) : (s.convCodes p c die ws l).Formed := by
  fun_induction State.convCodes <;> grind
grind_pattern State.convCodes_formed => s.convCodes p c die ws l
theorem State.convertUnit_formed {s : State} (hs : s.Formed) (p c die dom ws n) : (s.convertUnit p c die dom ws n).Formed := by
  fun_cases State.convertUnit <;> grind
grind_pattern State.convertUnit_formed => s.convertUnit p c die dom ws n
theorem engineStep_formed {s : State} (hs : s.Formed) {unit : State → Nat → Nat → Nat → Option Nat → List Word → Nat → Got Unit}
    (hunit : ∀ s i n m o ws k, s.Formed → (unit s i n m o ws k).Formed) (e kind) : (engineStep e kind unit s).Formed := by
  fun_cases engineStep <;> grind
grind_pattern engineStep_formed => engineStep e kind unit s
theorem execEngineGather_formed {s : State} (hs : s.Formed) (e) : OutFormed (execEngineGather e s) := by
  unfold execEngineGather
  grind
grind_pattern execEngineGather_formed => execEngineGather e s
theorem execEngineReduce_formed {s : State} (hs : s.Formed) (e) : OutFormed (execEngineReduce e s) := by
  unfold execEngineReduce
  grind
grind_pattern execEngineReduce_formed => execEngineReduce e s
theorem execEngineConvert_formed {s : State} (hs : s.Formed) (e) : OutFormed (execEngineConvert e s) := by
  unfold execEngineConvert
  grind
grind_pattern execEngineConvert_formed => execEngineConvert e s
theorem State.complete_formed {s : State} (hs : s.Formed) (e x cl v ws) : (s.complete e x cl v ws).Formed := by
  fun_cases State.complete <;> grind
grind_pattern State.complete_formed => s.complete e x cl v ws
theorem execEngineCompletion_formed {s : State} (hs : s.Formed) (e) : OutFormed (execEngineCompletion e s) := by
  fun_cases execEngineCompletion <;> grind
grind_pattern execEngineCompletion_formed => execEngineCompletion e s
theorem execEngineRecordFault_formed {s : State} (hs : s.Formed) (e) : OutFormed (execEngineRecordFault e s) := by
  fun_cases execEngineRecordFault <;> grind
grind_pattern execEngineRecordFault_formed => execEngineRecordFault e s

/-! ## Machine/Matrix -/

theorem State.setAcc_formed {s : State} (hs : s.Formed) (i g row col w) : (s.setAcc i g row col w).Formed := hs
grind_pattern State.setAcc_formed => s.setAcc i g row col w
theorem State.clearRows_formed {s : State} (hs : s.Formed) (i g row n) : (s.clearRows i g row n).Formed := hs
grind_pattern State.clearRows_formed => s.clearRows i g row n
theorem winTrap_formed {s : State} (hs : s.Formed) (i t g c) : (winTrap i t s g c).Formed := by
  unfold winTrap
  grind
grind_pattern winTrap_formed => winTrap i t s g c
theorem rowOp_formed {s : State} (hs : s.Formed) {k : State → Res} (hk : ∀ s, s.Formed → (k s).Formed) (i t runs) : (rowOp i t s runs k).Formed := by
  fun_cases rowOp <;> grind
grind_pattern rowOp_formed => rowOp i t s runs k
theorem rowRead_formed {s : State} (hs : s.Formed) {k : State → Res} (hk : ∀ s, s.Formed → (k s).Formed) (i t runs) : (rowRead i t s runs k).Formed :=
  rowOp_formed hs (by grind) ..
grind_pattern rowRead_formed => rowRead i t s runs k
theorem preWin_formed {s : State} (hs : s.Formed) (d a i t) : (preWin d a i t s).Formed := by
  fun_cases preWin <;> grind
grind_pattern preWin_formed => preWin d a i t s
theorem execAcwin_formed {s : State} (hs : s.Formed) (d a) : OutFormed (execAcwin d a s) := sweepPre_formed hs (by grind) (by grind) ..
grind_pattern execAcwin_formed => execAcwin d a s
theorem execAczero_formed {s : State} (hs : s.Formed) (a b) : OutFormed (execAczero a b s) := sweepOn_formed hs (by grind) ..
grind_pattern execAczero_formed => execAczero a b s
theorem preRows_formed {s : State} (hs : s.Formed) (a runs i t) : (preRows a runs i t s).Formed := by
  fun_cases preRows <;> grind
grind_pattern preRows_formed => preRows a runs i t s
theorem execAcrd_formed {s : State} (hs : s.Formed) (d a b) : OutFormed (execAcrd d a b s) := by
  unfold execAcrd
  grind
grind_pattern execAcrd_formed => execAcrd d a b s
theorem execAcrdx_formed {s : State} (hs : s.Formed) (d a b) : OutFormed (execAcrdx d a b s) := by
  unfold execAcrdx
  grind
grind_pattern execAcrdx_formed => execAcrdx d a b s
theorem State.writeCols_formed {s : State} (hs : s.Formed) (i f l) : (s.writeCols i f l).1.Formed := by
  fun_induction State.writeCols <;> grind
grind_pattern State.writeCols_formed => s.writeCols i f l
theorem rowWrite_formed {s : State} (hs : s.Formed) (a b reads f) : OutFormed (rowWrite s a b reads f) := sweepPre_formed hs (by grind) (by grind) ..
grind_pattern rowWrite_formed => rowWrite s a b reads f
theorem execAcwr_formed {s : State} (hs : s.Formed) (a b) : OutFormed (execAcwr a b s) := rowWrite_formed hs ..
grind_pattern execAcwr_formed => execAcwr a b s
theorem execAcadd_formed {s : State} (hs : s.Formed) (a b) : OutFormed (execAcadd a b s) := rowWrite_formed hs ..
grind_pattern execAcadd_formed => execAcadd a b s
theorem withSwatch_formed {s : State} (hs : s.Formed) {k : List Word → State → Res} (hk : ∀ ws s, s.Formed → (k ws s).Formed) (i t) :
    (withSwatch i t s k).Formed := by
  fun_cases withSwatch <;> grind
grind_pattern withSwatch_formed => withSwatch i t s k
theorem execSwsel_formed {s : State} (hs : s.Formed) (a) : OutFormed (execSwsel a s) := once_formed hs (by grind) ..
grind_pattern execSwsel_formed => execSwsel a s
theorem State.addRow_formed {s : State} (hs : s.Formed) (i g row sw flush codes a l) : (s.addRow i g row sw flush codes a l).1.Formed := by
  fun_induction State.addRow <;> grind
grind_pattern State.addRow_formed => s.addRow i g row sw flush codes a l
theorem State.addRows_formed {s : State} (hs : s.Formed) (i g row lo sw flush a cols l) : (s.addRows i g row lo sw flush a cols l).1.Formed := by
  fun_induction State.addRows <;> grind
grind_pattern State.addRows_formed => s.addRows i g row lo sw flush a cols l
theorem loopStart_formed {s : State} (hs : s.Formed) (i t l) : (loopStart i t s l).Formed := by
  fun_cases loopStart <;> grind
grind_pattern loopStart_formed => loopStart i t s l
theorem execMma_formed {s : State} (hs : s.Formed) (d a b) : OutFormed (execMma d a b s) := by
  refine sweepHandle_formed hs (fun i t q s hs => ?_) (by grind) ..
  split <;> grind
grind_pattern execMma_formed => execMma d a b s
theorem withLoop_formed {s : State} (hs : s.Formed) {k : List Word → List Word → State → Res} (hk : ∀ ws vs s, s.Formed → (k ws vs s).Formed) (i t d) :
    (withLoop i t s d k).Formed := by
  fun_cases withLoop <;> grind
grind_pattern withLoop_formed => withLoop i t s d k
theorem withAligned_formed {s : State} (hs : s.Formed) {k : State → Res} (hk : ∀ s, s.Formed → (k s).Formed) (i t r) :
    (withAligned i t s r k).Formed := by
  fun_cases withAligned <;> grind
grind_pattern withAligned_formed => withAligned i t s r k
theorem preLoop_formed {s : State} (hs : s.Formed) (d i t) : (preLoop d i t s).Formed := withLoop_formed hs (by grind) ..
grind_pattern preLoop_formed => preLoop d i t s
theorem execMloop_formed {s : State} (hs : s.Formed) (d a) : OutFormed (execMloop d a s) := sweepHandle_formed hs (by grind) (by grind) ..
grind_pattern execMloop_formed => execMloop d a s
theorem State.plainRead_formed {s : State} (hs : s.Formed) (o i dom t mine va n) : (s.plainRead o i dom t mine va n).Formed := by
  fun_cases State.plainRead <;> grind
grind_pattern State.plainRead_formed => s.plainRead o i dom t mine va n
theorem State.tableWord_formed {s : State} (hs : s.Formed) (i t va) : (s.tableWord i t va).Formed := by
  fun_cases State.tableWord <;> grind
grind_pattern State.tableWord_formed => s.tableWord i t va
theorem State.recordWords_formed {s : State} (hs : s.Formed) (i t va n) : (s.recordWords i t va n).Formed := by
  fun_induction State.recordWords <;> grind
grind_pattern State.recordWords_formed => s.recordWords i t va n
theorem withTable_formed {s : State} (hs : s.Formed) {k : List Nat → Nat → State → Res} (hk : ∀ ls i s, s.Formed → (k ls i s).Formed) (i t va) :
    (withTable i t s va k).Formed := by
  unfold withTable
  grind
grind_pattern withTable_formed => withTable i t s va k
theorem preGroups_formed {s : State} (hs : s.Formed) (d a i t) : (preGroups d a i t s).Formed := withLoop_formed hs (by grind) ..
grind_pattern preGroups_formed => preGroups d a i t s
theorem execMgrp_formed {s : State} (hs : s.Formed) (d a b) : OutFormed (execMgrp d a b s) := sweepHandle_formed hs (by grind) (by grind) ..
grind_pattern execMgrp_formed => execMgrp d a b s
theorem State.loopRead_formed {s : State} (hs : s.Formed) (o i x t l) : (s.loopRead o i x t l).Formed := by
  fun_induction State.loopRead <;> grind
grind_pattern State.loopRead_formed => s.loopRead o i x t l
theorem State.loopCompute_formed {s : State} (hs : s.Formed) (i l sw lg k a b scales) : (s.loopCompute i l sw lg k a b scales).1.Formed := by
  unfold State.loopCompute
  grind
grind_pattern State.loopCompute_formed => s.loopCompute i l sw lg k a b scales
theorem State.loopStops_formed {s : State} (hs : s.Formed) (o x l lg f) : (s.loopStops o x l lg f).Formed := hs
grind_pattern State.loopStops_formed => s.loopStops o x l lg f
theorem execMatrixStep_formed {s : State} (hs : s.Formed) (o g) : OutFormed (execMatrixStep o g s) := by
  fun_cases execMatrixStep <;> grind
grind_pattern execMatrixStep_formed => execMatrixStep o g s
theorem State.loopEnds_formed {s : State} (hs : s.Formed) (x l) : (s.loopEnds x l).Formed := by
  fun_cases State.loopEnds <;> grind
grind_pattern State.loopEnds_formed => s.loopEnds x l

/-! ## Machine/Fences -/

theorem fenceRelease_formed {s : State} (hs : s.Formed) (i t sc) : (fenceRelease i t s sc).Formed := by
  fun_cases fenceRelease <;> grind
grind_pattern fenceRelease_formed => fenceRelease i t s sc
theorem execFence_formed {s : State} (hs : s.Formed) : OutFormed (execFence s) := once_formed hs (by grind) ..
grind_pattern execFence_formed => execFence s
theorem execTrace_formed {s : State} (hs : s.Formed) (d a) : OutFormed (execTrace d a s) := once_formed hs (by grind) ..
grind_pattern execTrace_formed => execTrace d a s
theorem State.stopWalks_formed {s : State} (hs : s.Formed) (i q) : (s.stopWalks i q).Formed := hs
grind_pattern State.stopWalks_formed => s.stopWalks i q
theorem execTrstop_formed {s : State} (hs : s.Formed) (a) : OutFormed (execTrstop a s) := once_formed hs (by grind) ..
grind_pattern execTrstop_formed => execTrstop a s
theorem State.walkFault_formed {s : State} (hs : s.Formed) (o x c) : (s.walkFault o x c).Formed := State.parkOp_formed hs ..
grind_pattern State.walkFault_formed => s.walkFault o x c
theorem State.walkPosted_formed {s : State} (hs : s.Formed) (i e x f) : (s.walkPosted i e x f).Formed := State.modTeam_formed hs ..
grind_pattern State.walkPosted_formed => s.walkPosted i e x f
theorem State.walkPush_formed {s : State} (hs : s.Formed) {after : State → State} (hafter : ∀ s, s.Formed → (after s).Formed) (o i q x w) :
    (s.walkPush o i q x w after).Formed := by
  fun_cases State.walkPush <;> grind
grind_pattern State.walkPush_formed => s.walkPush o i q x w after
theorem execTracerPush_formed {s : State} (hs : s.Formed) (o) : OutFormed (execTracerPush o s) := by
  fun_cases execTracerPush <;> grind
grind_pattern execTracerPush_formed => execTracerPush o s

/-! ## Machine/Peers -/

theorem State.patLane_formed {s : State} (hs : s.Formed) (i t pt lane xs) : (s.patLane i t pt lane xs).Formed := by
  fun_cases State.patLane <;> grind
grind_pattern State.patLane_formed => s.patLane i t pt lane xs
theorem State.patLanes_formed {s : State} (hs : s.Formed) (i t rec pt reg l) : (s.patLanes i t rec pt reg l).Formed := by
  fun_induction State.patLanes <;> grind
grind_pattern State.patLanes_formed => s.patLanes i t rec pt reg l
theorem withPattern_formed {s : State} (hs : s.Formed) {k : Nat → Pattern → State → Res} (hk : ∀ i pt s, s.Formed → (k i pt s).Formed) (i t h fits) :
    (withPattern i t s h fits k).Formed := withHandle_formed hs (by grind) ..
grind_pattern withPattern_formed => withPattern i t s h fits k
theorem namedStart_formed {s : State} (hs : s.Formed) (i t fl kind accs bad0 fill) : (namedStart i t s fl kind accs bad0 fill).Formed := by
  fun_cases namedStart <;> grind
grind_pattern namedStart_formed => namedStart i t s fl kind accs bad0 fill
theorem State.postOwn_formed {s : State} (hs : s.Formed) (i o l) : (s.postOwn i o l).Formed := by
  fun_induction State.postOwn <;> grind
grind_pattern State.postOwn_formed => s.postOwn i o l
theorem namedStores_formed {s : State} (hs : s.Formed) (i t fl accs bad0 slot) : (namedStores i t s fl accs bad0 slot).Formed := by
  fun_cases namedStores <;> grind
grind_pattern namedStores_formed => namedStores i t s fl accs bad0 slot
theorem execPatld_formed {s : State} (hs : s.Formed) (d a b) : OutFormed (execPatld d a b s) := sweepHandle_formed hs (by grind) (by grind) ..
grind_pattern execPatld_formed => execPatld d a b s
theorem execPatst_formed {s : State} (hs : s.Formed) (d a b) : OutFormed (execPatst d a b s) := sweepHandle_formed hs (by grind) (by grind) ..
grind_pattern execPatst_formed => execPatst d a b s
theorem execPataddr_formed {s : State} (hs : s.Formed) (d a b) : OutFormed (execPataddr d a b s) := sweepHandle_formed hs (by grind) (by grind) ..
grind_pattern execPataddr_formed => execPataddr d a b s
theorem State.enterJob_formed {s : State} (hs : s.Formed) (i t x) : (s.enterJob i t x).Formed := hs
grind_pattern State.enterJob_formed => s.enterJob i t x
theorem execPatinv_formed {s : State} (hs : s.Formed) (a) : OutFormed (execPatinv a s) := once_formed hs (by grind) ..
grind_pattern execPatinv_formed => execPatinv a s
theorem prePat_formed {s : State} (hs : s.Formed) (a i t) : (prePat a i t s).Formed := by
  fun_cases prePat <;> grind
grind_pattern prePat_formed => prePat a i t s
theorem execPatcf_formed {s : State} (hs : s.Formed) (a b) : OutFormed (execPatcf a b s) := onceAfter_formed hs (by grind) (by grind) ..
grind_pattern execPatcf_formed => execPatcf a b s
theorem State.patCopy_formed {s : State} (hs : s.Formed) (p c die ha hb write) : (s.patCopy p c die ha hb write).Formed := by
  fun_cases State.patCopy <;> grind
grind_pattern State.patCopy_formed => s.patCopy p c die ha hb write
theorem State.endPatDrain_formed {s : State} (hs : s.Formed) (p c slot) : (s.endPatDrain p c slot).Formed := hs
grind_pattern State.endPatDrain_formed => s.endPatDrain p c slot
theorem pageOp_formed {s : State} (hs : s.Formed) {eff : Nat → Team → Nat → Nat → State → Res} (heff : ∀ i t n m s, s.Formed → (eff i t n m s).Formed)
    (a b) : OutFormed (pageOp s a b eff) := once_formed hs (by grind) ..
grind_pattern pageOp_formed => pageOp s a b eff
theorem State.revoke_formed {s : State} (hs : s.Formed) (p c va size dev) : (s.revoke p c va size dev).Formed := hs
grind_pattern State.revoke_formed => s.revoke p c va size dev
theorem State.unrevoke_formed {s : State} (hs : s.Formed) (p c va size dev) : (s.unrevoke p c va size dev).Formed := hs
grind_pattern State.unrevoke_formed => s.unrevoke p c va size dev
theorem execFsdrain_formed {s : State} (hs : s.Formed) (a b) : OutFormed (execFsdrain a b s) := pageOp_formed hs (by grind) ..
grind_pattern execFsdrain_formed => execFsdrain a b s
theorem execFsconf_formed {s : State} (hs : s.Formed) (a b) : OutFormed (execFsconf a b s) := pageOp_formed hs (by grind) ..
grind_pattern execFsconf_formed => execFsconf a b s
theorem execPeerld_formed {s : State} (hs : s.Formed) (d a b) : OutFormed (execPeerld d a b s) := by
  unfold execPeerld
  grind
grind_pattern execPeerld_formed => execPeerld d a b s
theorem execPeerst_formed {s : State} (hs : s.Formed) (d a b) : OutFormed (execPeerst d a b s) := by
  unfold execPeerst
  grind
grind_pattern execPeerst_formed => execPeerst d a b s
theorem execPeeradd_formed {s : State} (hs : s.Formed) (d a b) : OutFormed (execPeeradd d a b s) := sweepOn_formed hs (by grind) ..
grind_pattern execPeeradd_formed => execPeeradd d a b s
theorem execVdie_formed {s : State} (hs : s.Formed) (d) : OutFormed (execVdie d s) := once_formed hs (by grind) ..
grind_pattern execVdie_formed => execVdie d s
theorem execHops_formed {s : State} (hs : s.Formed) (d a b) : OutFormed (execHops d a b s) := once_formed hs (by grind) ..
grind_pattern execHops_formed => execHops d a b s
theorem State.setBucket_formed {s : State} (hs : s.Formed) (p c die b) : (s.setBucket p c die b).Formed := hs
grind_pattern State.setBucket_formed => s.setBucket p c die b
theorem execBucketRefill_formed {s : State} (hs : s.Formed) (part ctx die) : OutFormed (execBucketRefill part ctx die s) := by
  fun_cases execBucketRefill <;> grind
grind_pattern execBucketRefill_formed => execBucketRefill part ctx die s
theorem State.sendUnit_formed {s : State} (hs : s.Formed) (o x u) : (s.sendUnit o x u).Formed := hs
grind_pattern State.sendUnit_formed => s.sendUnit o x u
theorem State.ownUnit_formed {s : State} (hs : s.Formed) (o i x u) : (s.ownUnit o i x u).Formed := by
  fun_cases State.ownUnit <;> grind
grind_pattern State.ownUnit_formed => s.ownUnit o i x u
theorem State.unitsOver_formed {s : State} (hs : s.Formed) (o) : (s.unitsOver o).Formed := by
  fun_cases State.unitsOver <;> grind
grind_pattern State.unitsOver_formed => s.unitsOver o
theorem State.stall_formed {s : State} (hs : s.Formed) (p c die) : (s.stall p c die).Formed := hs
grind_pattern State.stall_formed => s.stall p c die
theorem State.unitNext_formed {s : State} (hs : s.Formed) (o x u us) : (s.unitNext o x u us).Formed := by
  fun_cases State.unitNext <;> grind
grind_pattern State.unitNext_formed => s.unitNext o x u us
theorem State.postedUnit_formed {s : State} (hs : s.Formed) (n e dev) : (s.postedUnit n e dev).Formed := by
  fun_cases State.postedUnit <;> grind
grind_pattern State.postedUnit_formed => s.postedUnit n e dev
theorem execUnitSend_formed {s : State} (hs : s.Formed) (o) : OutFormed (execUnitSend o s) := by
  fun_cases execUnitSend <;> grind
grind_pattern execUnitSend_formed => execUnitSend o s
theorem execPlaneFail_formed {s : State} (hs : s.Formed) (plane) : OutFormed (execPlaneFail plane s) := by
  fun_cases execPlaneFail <;> grind
grind_pattern execPlaneFail_formed => execPlaneFail plane s
theorem State.tellStage2_formed {s : State} (hs : s.Formed) (p c f) : (s.tellStage2 p c f).Formed := by
  fun_cases State.tellStage2 <;> grind
grind_pattern State.tellStage2_formed => s.tellStage2 p c f
theorem State.refuseLane_formed {s : State} (hs : s.Formed) (u lane f) : (s.refuseLane u lane f).Formed := by
  fun_cases State.refuseLane <;> grind
grind_pattern State.refuseLane_formed => s.refuseLane u lane f
theorem State.later_formed {s : State} (hs : s.Formed) (u body mig) : (s.later u body mig).Formed := hs
grind_pattern State.later_formed => s.later u body mig
theorem State.forwardOn_formed {s : State} (hs : s.Formed) (u lanes dev va tr body) : (s.forwardOn u lanes dev va tr body).Formed := by
  fun_cases State.forwardOn <;> grind
grind_pattern State.forwardOn_formed => s.forwardOn u lanes dev va tr body
theorem State.remoteLoad_formed {s : State} (hs : s.Formed) (u size lane va) : (s.remoteLoad u size lane va).Formed := by
  fun_cases State.remoteLoad <;> grind
grind_pattern State.remoteLoad_formed => s.remoteLoad u size lane va
theorem State.remoteWrite_formed {s : State} (hs : s.Formed) (u w ls) : (s.remoteWrite u w ls).Formed := by
  fun_cases State.remoteWrite <;> grind
grind_pattern State.remoteWrite_formed => s.remoteWrite u w ls

/-! ## Machine/Pleats -/

theorem State.pleatLane_formed {s : State} (hs : s.Formed) (i t obj lane reg h args) : (s.pleatLane i t obj lane reg h args).Formed := by
  fun_cases State.pleatLane <;> grind
grind_pattern State.pleatLane_formed => s.pleatLane i t obj lane reg h args
theorem State.pleatLanes_formed {s : State} (hs : s.Formed) (i t obj reg l) : (s.pleatLanes i t obj reg l).Formed := by
  fun_induction State.pleatLanes <;> grind
grind_pattern State.pleatLanes_formed => s.pleatLanes i t obj reg l
theorem State.pleatOut_formed {s : State} (hs : s.Formed) (o) : (s.pleatOut o).Formed := by
  fun_cases State.pleatOut <;> grind
grind_pattern State.pleatOut_formed => s.pleatOut o
theorem execPleat_formed {s : State} (hs : s.Formed) (d a b) : OutFormed (execPleat d a b s) := by
  refine sweepHandle_formed hs (fun i t q s hs => ?_) (by grind) ..
  split <;> grind
grind_pattern execPleat_formed => execPleat d a b s
theorem State.enterInbox_formed {s : State} (hs : s.Formed) (r) : (s.enterInbox r).Formed := hs
grind_pattern State.enterInbox_formed => s.enterInbox r
theorem State.acceptFirst_formed {s : State} (hs : s.Formed) (o x sent reg full l) : (s.acceptFirst o x sent reg full l).Formed := by
  fun_induction State.acceptFirst <;> grind
grind_pattern State.acceptFirst_formed => s.acceptFirst o x sent reg full l
theorem execPleatInboxAccept_formed {s : State} (hs : s.Formed) (o) : OutFormed (execPleatInboxAccept o s) := by
  fun_cases execPleatInboxAccept <;> grind
grind_pattern execPleatInboxAccept_formed => execPleatInboxAccept o s
theorem execWaveStart_formed {s : State} (hs : s.Formed) (x) : OutFormed (execWaveStart x s) := by
  fun_cases execWaveStart <;> grind
grind_pattern execWaveStart_formed => execWaveStart x s
theorem execPlarg_formed {s : State} (hs : s.Formed) (d) : OutFormed (execPlarg d s) := sweep_formed hs (by grind) ..
grind_pattern execPlarg_formed => execPlarg d s
theorem execPlreply_formed {s : State} (hs : s.Formed) (a) : OutFormed (execPlreply a s) := sweep_formed hs (by grind) ..
grind_pattern execPlreply_formed => execPlreply a s
theorem execPldone_formed {s : State} (hs : s.Formed) : OutFormed (execPldone s) := once_formed hs (by grind) ..
grind_pattern execPldone_formed => execPldone s
theorem State.abortWave_formed {s : State} (hs : s.Formed) (i) : (s.abortWave i).Formed := by
  fun_cases State.abortWave <;> grind
grind_pattern State.abortWave_formed => s.abortWave i
theorem State.pleatLands_formed {s : State} (hs : s.Formed) (o k x a reg ws cause) : (s.pleatLands o k x a reg ws cause).Formed := by
  fun_cases State.pleatLands <;> grind
grind_pattern State.pleatLands_formed => s.pleatLands o k x a reg ws cause
theorem State.replyHere_formed {s : State} (hs : s.Formed) (n r) : (s.replyHere n r).Formed := by
  fun_cases State.replyHere <;> grind
grind_pattern State.replyHere_formed => s.replyHere n r
theorem State.replyOut_formed {s : State} (hs : s.Formed) (n pkg r) : (s.replyOut n pkg r).Formed := hs
grind_pattern State.replyOut_formed => s.replyOut n pkg r
theorem State.replyHeard_formed {s : State} (hs : s.Formed) (n r) : (s.replyHeard n r).Formed := by
  fun_cases State.replyHeard <;> grind
grind_pattern State.replyHeard_formed => s.replyHeard n r
theorem State.replyAway_formed {s : State} (hs : s.Formed) (o x reg sent) : (s.replyAway o x reg sent).Formed := by
  fun_cases State.replyAway <;> grind
grind_pattern State.replyAway_formed => s.replyAway o x reg sent
theorem execPleatReply_formed {s : State} (hs : s.Formed) (k) : OutFormed (execPleatReply k s) := by
  fun_cases execPleatReply <;> grind
grind_pattern execPleatReply_formed => execPleatReply k s
theorem State.resend_formed {s : State} (hs : s.Formed) (o x sent) : (s.resend o x sent).Formed := by
  fun_cases State.resend <;> grind
grind_pattern State.resend_formed => s.resend o x sent
theorem execPleatResend_formed {s : State} (hs : s.Formed) (k) : OutFormed (execPleatResend k s) := by
  fun_cases execPleatResend <;> grind
grind_pattern execPleatResend_formed => execPleatResend k s
theorem State.refused_formed {s : State} (hs : s.Formed) (u lane c) : (s.refused u lane c).Formed := hs
grind_pattern State.refused_formed => s.refused u lane c
theorem State.remotePleat_formed {s : State} (hs : s.Formed) (u h l) : (s.remotePleat u h l).Formed := by
  fun_induction State.remotePleat <;> grind
grind_pattern State.remotePleat_formed => s.remotePleat u h l
theorem refuseAll_formed {s : State} (hs : s.Formed) (u c lanes) : (refuseAll s u c lanes).Formed := by
  unfold refuseAll
  grind
grind_pattern refuseAll_formed => refuseAll s u c lanes
theorem execRemoteAccess_formed {s : State} (hs : s.Formed) (u) : OutFormed (execRemoteAccess u s) := by
  fun_cases execRemoteAccess <;> grind
grind_pattern execRemoteAccess_formed => execRemoteAccess u s

/-! ## Machine/Completion -/

theorem State.finishOp_formed {s : State} (hs : s.Formed) (o x) : (s.finishOp o x).Formed := by
  fun_cases State.finishOp <;> grind
grind_pattern State.finishOp_formed => s.finishOp o x
theorem State.finishSample_formed {s : State} (hs : s.Formed) (o x) : (s.finishSample o x).Formed := by
  fun_cases State.finishSample <;> grind
grind_pattern State.finishSample_formed => s.finishSample o x
theorem State.finishDeq_formed {s : State} (hs : s.Formed) (o x todo) : (s.finishDeq o x todo).Formed := by
  fun_cases State.finishDeq <;> grind
grind_pattern State.finishDeq_formed => s.finishDeq o x todo
theorem State.finishLoop_formed {s : State} (hs : s.Formed) (o x l) : (s.finishLoop o x l).Formed := by
  fun_cases State.finishLoop <;> grind
grind_pattern State.finishLoop_formed => s.finishLoop o x l
theorem State.finishPres_formed {s : State} (hs : s.Formed) (o x ls) : (s.finishPres o x ls).Formed := by
  fun_cases State.finishPres <;> grind
grind_pattern State.finishPres_formed => s.finishPres o x ls
theorem State.finishPfence_formed {s : State} (hs : s.Formed) (o x ps) : (s.finishPfence o x ps).Formed := by
  fun_cases State.finishPfence <;> grind
grind_pattern State.finishPfence_formed => s.finishPfence o x ps
theorem State.finishFlush_formed {s : State} (hs : s.Formed) (o x icache) : (s.finishFlush o x icache).Formed := by
  fun_cases State.finishFlush <;> grind
grind_pattern State.finishFlush_formed => s.finishFlush o x icache
theorem State.finishJoin_formed {s : State} (hs : s.Formed) (o x qs) : (s.finishJoin o x qs).Formed := by
  fun_cases State.finishJoin <;> grind
grind_pattern State.finishJoin_formed => s.finishJoin o x qs
theorem State.finishInvcf_formed {s : State} (hs : s.Formed) (o x) : (s.finishInvcf o x).Formed := by
  fun_cases State.finishInvcf <;> grind
grind_pattern State.finishInvcf_formed => s.finishInvcf o x
theorem State.finishPatcf_formed {s : State} (hs : s.Formed) (o x a b phase) : (s.finishPatcf o x a b phase).Formed := by
  fun_cases State.finishPatcf <;> grind
grind_pattern State.finishPatcf_formed => s.finishPatcf o x a b phase
theorem State.finishJob_formed {s : State} (hs : s.Formed) (o x fn a b phase) : (s.finishJob o x fn a b phase).Formed := by
  fun_cases State.finishJob <;> grind
grind_pattern State.finishJob_formed => s.finishJob o x fn a b phase
theorem State.finishAck_formed {s : State} (hs : s.Formed) (o x pkg uid k) : (s.finishAck o x pkg uid k).Formed := by
  fun_cases State.finishAck <;> grind
grind_pattern State.finishAck_formed => s.finishAck o x pkg uid k
theorem State.completeOp_formed {s : State} (hs : s.Formed) (o x) : (s.completeOp o x).Formed := by
  fun_cases State.completeOp <;> grind
grind_pattern State.completeOp_formed => s.completeOp o x
theorem execOperationComplete_formed {s : State} (hs : s.Formed) (o) : OutFormed (execOperationComplete o s) := by
  fun_cases execOperationComplete <;> grind
grind_pattern execOperationComplete_formed => execOperationComplete o s
theorem State.answer_formed {s : State} (hs : s.Formed) (r c) : (s.answer r c).Formed := hs
grind_pattern State.answer_formed => s.answer r c
theorem State.askLater_formed {s : State} (hs : s.Formed) (r mig) : (s.askLater r mig).Formed := hs
grind_pattern State.askLater_formed => s.askLater r mig
theorem State.patPhase_formed {s : State} (hs : s.Formed) (r a b write) : (s.patPhase r a b write).Formed := by
  fun_cases State.patPhase <;> grind
grind_pattern State.patPhase_formed => s.patPhase r a b write
theorem execRemoteDrainRequest_formed {s : State} (hs : s.Formed) (r) : OutFormed (execRemoteDrainRequest r s) := by
  fun_cases execRemoteDrainRequest <;> grind
grind_pattern execRemoteDrainRequest_formed => execRemoteDrainRequest r s

/-! ## Machine/Control -/

theorem branchTo_formed {s : State} (hs : s.Formed) (i t taken b) : (branchTo i t s taken b).Formed := by
  fun_cases branchTo <;> grind
grind_pattern branchTo_formed => branchTo i t s taken b
theorem execNop_formed {s : State} (hs : s.Formed) : OutFormed (execNop s) := once_formed hs (by grind) ..
grind_pattern execNop_formed => execNop s
theorem execYield_formed {s : State} (hs : s.Formed) : OutFormed (execYield s) := once_formed hs (by grind) ..
grind_pattern execYield_formed => execYield s
theorem execBr_formed {s : State} (hs : s.Formed) (b) : OutFormed (execBr b s) := once_formed hs (by grind) ..
grind_pattern execBr_formed => execBr b s
theorem execBrz_formed {s : State} (hs : s.Formed) (a b) : OutFormed (execBrz a b s) := once_formed hs (by grind) ..
grind_pattern execBrz_formed => execBrz a b s
theorem execBrnz_formed {s : State} (hs : s.Formed) (a b) : OutFormed (execBrnz a b s) := once_formed hs (by grind) ..
grind_pattern execBrnz_formed => execBrnz a b s
theorem execBrmz_formed {s : State} (hs : s.Formed) (a b) : OutFormed (execBrmz a b s) := once_formed hs (by grind) ..
grind_pattern execBrmz_formed => execBrmz a b s
theorem execBrmnz_formed {s : State} (hs : s.Formed) (a b) : OutFormed (execBrmnz a b s) := once_formed hs (by grind) ..
grind_pattern execBrmnz_formed => execBrmnz a b s
theorem execJmp_formed {s : State} (hs : s.Formed) (b) : OutFormed (execJmp b s) := once_formed hs (by grind) ..
grind_pattern execJmp_formed => execJmp b s
theorem execCall_formed {s : State} (hs : s.Formed) (d b) : OutFormed (execCall d b s) := once_formed hs (by grind) ..
grind_pattern execCall_formed => execCall d b s
theorem execSetmode_formed {s : State} (hs : s.Formed) (b) : OutFormed (execSetmode b s) := once_formed hs (by grind) ..
grind_pattern execSetmode_formed => execSetmode b s
theorem execGetmode_formed {s : State} (hs : s.Formed) (d) : OutFormed (execGetmode d s) := once_formed hs (by grind) ..
grind_pattern execGetmode_formed => execGetmode d s
theorem execWaitd_formed {s : State} (hs : s.Formed) (b) : OutFormed (execWaitd b s) := once_formed hs (by grind) ..
grind_pattern execWaitd_formed => execWaitd b s
theorem execIllegalOpcode_formed {s : State} (hs : s.Formed) (_w) : OutFormed (execIllegalOpcode _w s) := once_formed hs (by grind) ..
grind_pattern execIllegalOpcode_formed => execIllegalOpcode _w s

/-! ## Machine/System -/

theorem trapAfter_formed {s : State} (hs : s.Formed) (i t c code) : (trapAfter i t s c code).Formed := by
  unfold trapAfter
  grind
grind_pattern trapAfter_formed => trapAfter i t s c code
theorem execTrap_formed {s : State} (hs : s.Formed) (b) : OutFormed (execTrap b s) := once_formed hs (by grind) ..
grind_pattern execTrap_formed => execTrap b s
theorem execBrk_formed {s : State} (hs : s.Formed) (b) : OutFormed (execBrk b s) := once_formed hs (by grind) ..
grind_pattern execBrk_formed => execBrk b s
theorem State.setFab_formed {s : State} (hs : s.Formed) (p c v) : (s.setFab p c v).Formed := by
  fun_cases State.setFab <;> grind
grind_pattern State.setFab_formed => s.setFab p c v
theorem State.ctxSet_formed {s : State} (hs : s.Formed) (p c a n v) : (s.ctxSet p c a n v).Formed := by
  fun_cases State.ctxSet <;> grind
grind_pattern State.ctxSet_formed => s.ctxSet p c a n v
theorem State.sysWrite_formed {s : State} (hs : s.Formed) (i t n v) : (s.sysWrite i t n v).Formed := by
  fun_cases State.sysWrite <;> grind
grind_pattern State.sysWrite_formed => s.sysWrite i t n v
theorem execSrd_formed {s : State} (hs : s.Formed) (d n) : OutFormed (execSrd d n s) := once_formed hs (by grind) ..
grind_pattern execSrd_formed => execSrd d n s
theorem execSwr_formed {s : State} (hs : s.Formed) (n b) : OutFormed (execSwr n b s) := once_formed hs (by grind) ..
grind_pattern execSwr_formed => execSwr n b s
theorem execHtabSync_formed {s : State} (hs : s.Formed) (part ctx slot) : OutFormed (execHtabSync part ctx slot s) := hs
grind_pattern execHtabSync_formed => execHtabSync part ctx slot s
theorem execAudrd_formed {s : State} (hs : s.Formed) (d a b) : OutFormed (execAudrd d a b s) := once_formed hs (by grind) ..
grind_pattern execAudrd_formed => execAudrd d a b s
theorem State.moveParts_formed {s : State} (hs : s.Formed) (p c f) : (s.moveParts p c f).Formed := hs
grind_pattern State.moveParts_formed => s.moveParts p c f
theorem execPlace_formed {s : State} (hs : s.Formed) (a b) : OutFormed (execPlace a b s) := once_formed hs (by grind) ..
grind_pattern execPlace_formed => execPlace a b s
theorem State.halt_formed {s : State} (hs : s.Formed) (p c on) : (s.halt p c on).Formed := hs
grind_pattern State.halt_formed => s.halt p c on
theorem execPreempt_formed {s : State} (hs : s.Formed) (a) : OutFormed (execPreempt a s) := once_formed hs (by grind) ..
grind_pattern execPreempt_formed => execPreempt a s
theorem State.resumeTeams_formed {s : State} (hs : s.Formed) (p c) : (s.resumeTeams p c).Formed := hs
grind_pattern State.resumeTeams_formed => s.resumeTeams p c
theorem State.undebug_formed {s : State} (hs : s.Formed) (p c) : (s.undebug p c).Formed := hs
grind_pattern State.undebug_formed => s.undebug p c
theorem execResume_formed {s : State} (hs : s.Formed) (a) : OutFormed (execResume a s) := once_formed hs (by grind) ..
grind_pattern execResume_formed => execResume a s
theorem State.placeRun_formed {s : State} (hs : s.Formed) (i t va n) : (s.placeRun i t va n).Formed := by
  fun_cases State.placeRun <;> grind
grind_pattern State.placeRun_formed => s.placeRun i t va n
theorem State.sendRun_formed {s : State} (hs : s.Formed) (p c bs l) : (s.sendRun p c bs l).Formed := by
  fun_induction State.sendRun <;> grind
grind_pattern State.sendRun_formed => s.sendRun p c bs l
theorem State.putHomes_formed {s : State} (hs : s.Formed) (t bs l) : (s.putHomes t bs l).Formed := by
  fun_induction State.putHomes <;> grind
grind_pattern State.putHomes_formed => s.putHomes t bs l
theorem State.putRun_formed {s : State} (hs : s.Formed) (t va bs as) : (s.putRun t va bs as).Formed := by
  fun_cases State.putRun <;> grind
grind_pattern State.putRun_formed => s.putRun t va bs as
theorem execAttest_formed {s : State} (hs : s.Formed) (d a b) : OutFormed (execAttest d a b s) := by
  refine once_formed hs (fun i t q s hs => ?_) ..
  dsimp only
  repeat' split
  all_goals grind
grind_pattern execAttest_formed => execAttest d a b s
theorem State.noticeDiscard_formed {s : State} (hs : s.Formed) (t page size) : (s.noticeDiscard t page size).Formed := by
  unfold State.noticeDiscard
  grind
grind_pattern State.noticeDiscard_formed => s.noticeDiscard t page size
theorem State.setDisc_formed {s : State} (hs : s.Formed) (t l) : (s.setDisc t l).Formed := by
  fun_cases State.setDisc <;> grind
grind_pattern State.setDisc_formed => s.setDisc t l
theorem State.discardFrom_formed {s : State} (hs : s.Formed) (i t va size k page n) : (s.discardFrom i t va size k page n).Formed := by
  fun_induction State.discardFrom <;> grind
grind_pattern State.discardFrom_formed => s.discardFrom i t va size k page n
theorem execDiscard_formed {s : State} (hs : s.Formed) (d a b) : OutFormed (execDiscard d a b s) := once_formed hs (by grind) ..
grind_pattern execDiscard_formed => execDiscard d a b s
theorem State.enqueueFault_formed {s : State} (hs : s.Formed) (x p c h r) : (s.enqueueFault x p c h r).1.Formed := by
  fun_cases State.enqueueFault <;> grind
grind_pattern State.enqueueFault_formed => s.enqueueFault x p c h r
theorem execFaultPartEnqueue_formed {s : State} (hs : s.Formed) (part ctx oper) : OutFormed (execFaultPartEnqueue part ctx oper s) := by
  fun_cases execFaultPartEnqueue <;> grind
grind_pattern execFaultPartEnqueue_formed => execFaultPartEnqueue part ctx oper s

/-! ## Machine/Rings -/

theorem State.ringNotice_formed {s : State} (hs : s.Formed) (p c code) : (s.ringNotice p c code).Formed := hs
grind_pattern State.ringNotice_formed => s.ringNotice p c code
theorem State.ringScan_formed {s : State} (hs : s.Formed) (p c n) : (s.ringScan p c n).Formed := by
  fun_induction State.ringScan <;> grind
grind_pattern State.ringScan_formed => s.ringScan p c n
theorem State.ringRead_formed {s : State} (hs : s.Formed) (p c) : (s.ringRead p c).Formed := by
  fun_cases State.ringRead <;> grind
grind_pattern State.ringRead_formed => s.ringRead p c
theorem State.ringEnds_formed {g : Got Unit} (hg : g.Formed) (p c) : (State.ringEnds p c g).Formed := by
  fun_cases State.ringEnds <;> grind
grind_pattern State.ringEnds_formed => State.ringEnds p c g
theorem ringDo_formed {s : State} (hs : s.Formed) {act : State → Word → Nat → Got Unit} (hact : ∀ s w i, s.Formed → (act s w i).Formed) (p c code) :
    OutFormed (ringDo p c code act s) := by
  fun_cases ringDo <;> grind
grind_pattern ringDo_formed => ringDo p c code act s
theorem agentReader_formed (p c die) : (agentReader p c die).Keeps := by
  refine ⟨fun s hs va n a => ?_, fun s hs h => State.agentHandle_formed hs ..⟩
  unfold agentReader
  grind
grind_pattern agentReader_formed => agentReader p c die
theorem execRingLaunch_formed {s : State} (hs : s.Formed) (part ctx) : OutFormed (execRingLaunch part ctx s) := ringDo_formed hs (by grind) ..
grind_pattern execRingLaunch_formed => execRingLaunch part ctx s
theorem State.ringHandle_formed {s : State} (hs : s.Formed) (p c h kind ok) : (s.ringHandle p c h kind ok).Formed := by
  fun_cases State.ringHandle <;> grind
grind_pattern State.ringHandle_formed => s.ringHandle p c h kind ok
theorem State.ringClaim_formed {s : State} (hs : s.Formed) (p c k) : ∀ r, (s.ringClaim p c k) = some r → r.2.Formed := by
  unfold State.ringClaim
  cases (s.ctx p c).ring.claimed k <;> cases s.firstRoom p c k 0 <;> grind
grind_pattern State.ringClaim_formed => s.ringClaim p c k, some r
theorem execRingEnq_formed {s : State} (hs : s.Formed) (part ctx) : OutFormed (execRingEnq part ctx s) := by
  refine ringDo_formed hs (fun s a b hs => ?_) ..
  repeat' split
  all_goals grind
grind_pattern execRingEnq_formed => execRingEnq part ctx s
theorem State.ringFires_formed {s : State} (hs : s.Formed) (p c k obj) : (s.ringFires p c k obj).Formed := by
  fun_cases State.ringFires <;> grind
grind_pattern State.ringFires_formed => s.ringFires p c k obj
theorem execRingKnotdec_formed {s : State} (hs : s.Formed) (part ctx) : OutFormed (execRingKnotdec part ctx s) := ringDo_formed hs (by grind) ..
grind_pattern execRingKnotdec_formed => execRingKnotdec part ctx s
theorem execRingSwr_formed {s : State} (hs : s.Formed) (part ctx) : OutFormed (execRingSwr part ctx s) := ringDo_formed hs (by grind) ..
grind_pattern execRingSwr_formed => execRingSwr part ctx s

/-! ## Machine/FaultAck -/

theorem State.restart_formed {s : State} (hs : s.Formed) (o i x good bad) : (s.restart o i x good bad).Formed := by
  fun_cases State.restart <;> grind
grind_pattern State.restart_formed => s.restart o i x good bad
theorem State.restartStore_formed {s : State} (hs : s.Formed) (o i t x good bad) : (s.restartStore o i t x good bad).Formed := by
  fun_cases State.restartStore <;> grind
grind_pattern State.restartStore_formed => s.restartStore o i t x good bad
theorem State.repattern_formed {s : State} (hs : s.Formed) (i t l) : (s.repattern i t l).Formed := by
  fun_induction State.repattern <;> grind
grind_pattern State.repattern_formed => s.repattern i t l
theorem State.replayHolds_formed {s : State} (hs : s.Formed) (i r h) : (s.replayHolds i r h).Formed := State.modTeam_formed hs ..
grind_pattern State.replayHolds_formed => s.replayHolds i r h
theorem State.replayStart_formed {s : State} (hs : s.Formed) (o i t x lanes) : (s.replayStart o i t x lanes).Formed := by
  fun_cases State.replayStart <;> grind
grind_pattern State.replayStart_formed => s.replayStart o i t x lanes
theorem State.replayAccs_formed {s : State} (hs : s.Formed) (o i t x lanes) : (s.replayAccs o i t x lanes).Formed := by
  fun_cases State.replayAccs <;> grind
grind_pattern State.replayAccs_formed => s.replayAccs o i t x lanes
theorem State.replayOp_formed {s : State} (hs : s.Formed) (o lanes) : (s.replayOp o lanes).Formed := by
  fun_cases State.replayOp <;> grind
grind_pattern State.replayOp_formed => s.replayOp o lanes
theorem State.unholdFiring_formed {s : State} (hs : s.Formed) (k) : (s.unholdFiring k).Formed := by
  fun_cases State.unholdFiring <;> grind
grind_pattern State.unholdFiring_formed => s.unholdFiring k
theorem State.unholdPosted_formed {s : State} (hs : s.Formed) (e) : (s.unholdPosted e).Formed := by
  fun_cases State.unholdPosted <;> grind
grind_pattern State.unholdPosted_formed => s.unholdPosted e
theorem State.redoNow_formed {s : State} (hs : s.Formed) (i t) : (s.redoNow i t).Formed := by
  fun_cases State.redoNow <;> grind
grind_pattern State.redoNow_formed => s.redoNow i t
theorem State.restartRecord_formed {s : State} (hs : s.Formed) (e) : (s.restartRecord e).Formed := by
  fun_cases State.restartRecord <;> grind
grind_pattern State.restartRecord_formed => s.restartRecord e
theorem State.restartRing_formed {s : State} (hs : s.Formed) (p c again) : (s.restartRing p c again).Formed := by
  unfold State.restartRing
  grind
grind_pattern State.restartRing_formed => s.restartRing p c again
theorem State.firingRing_formed {s : State} (hs : s.Formed) (r) : (s.firingRing r).Formed := by
  fun_cases State.firingRing <;> grind
grind_pattern State.firingRing_formed => s.firingRing r
theorem State.replayFault_formed {s : State} (hs : s.Formed) (r) : (s.replayFault r).Formed := by
  fun_cases State.replayFault <;> grind
grind_pattern State.replayFault_formed => s.replayFault r
theorem State.abortAccs_formed {s : State} (hs : s.Formed) (o lanes) : (s.abortAccs o lanes).Formed := by
  fun_cases State.abortAccs <;> grind
grind_pattern State.abortAccs_formed => s.abortAccs o lanes
theorem State.abortOp_formed {s : State} (hs : s.Formed) (o lanes) : (s.abortOp o lanes).Formed := by
  fun_cases State.abortOp <;> grind
grind_pattern State.abortOp_formed => s.abortOp o lanes
theorem State.dropFiring_formed {s : State} (hs : s.Formed) (k) : (s.dropFiring k).Formed := by
  fun_cases State.dropFiring <;> grind
grind_pattern State.dropFiring_formed => s.dropFiring k
theorem State.abortTeam_formed {s : State} (hs : s.Formed) (i t r) : (s.abortTeam i t r).Formed := by
  fun_cases State.abortTeam <;> grind
grind_pattern State.abortTeam_formed => s.abortTeam i t r
theorem State.abortFault_formed {s : State} (hs : s.Formed) (r) : (s.abortFault r).Formed := by
  fun_cases State.abortFault <;> grind
grind_pattern State.abortFault_formed => s.abortFault r
theorem State.recordAck_formed {s : State} (hs : s.Formed) (id r oper abort) : (s.recordAck id r oper abort).Formed := by
  fun_cases State.recordAck <;> grind
grind_pattern State.recordAck_formed => s.recordAck id r oper abort
theorem execFltack_formed {s : State} (hs : s.Formed) (a b) : OutFormed (execFltack a b s) := once_formed hs (by grind) ..
grind_pattern execFltack_formed => execFltack a b s

/-! ## Machine/Seal -/

theorem State.sealAway_formed {s : State} (hs : s.Formed) (p c len) : (s.sealAway p c len).Formed := by
  unfold State.sealAway
  grind
grind_pattern State.sealAway_formed => s.sealAway p c len
theorem execSeal_formed {s : State} (hs : s.Formed) (d a b) : OutFormed (execSeal d a b s) := by
  refine once_formed hs (fun i t q s hs => ?_) ..
  repeat' split
  all_goals grind
grind_pattern execSeal_formed => execSeal d a b s
theorem State.giveRows_formed {s : State} (hs : s.Formed) (i core l) : OptFormed (s.giveRows i core l) := by
  fun_induction State.giveRows <;> grind
grind_pattern State.giveRows_formed => s.giveRows i core l
theorem State.rePlace_formed {s : State} (hs : s.Formed) (i core t) : OptFormed (s.rePlace i core t) := by
  fun_cases State.rePlace <;> grind
grind_pattern State.rePlace_formed => s.rePlace i core t
theorem State.rePlaceAll_formed {s : State} (hs : s.Formed) (l) : OptFormed (s.rePlaceAll l) := by
  fun_induction State.rePlaceAll <;> grind
grind_pattern State.rePlaceAll_formed => s.rePlaceAll l
theorem State.bringBack_formed {s : State} (hs : s.Formed) (cl die) : OptFormed (s.bringBack cl die) := by
  fun_cases State.bringBack <;> grind
grind_pattern State.bringBack_formed => s.bringBack cl die
theorem State.bringAll_formed {s : State} (hs : s.Formed) (l) : OptFormed (s.bringAll l) := by
  fun_induction State.bringAll <;> grind
grind_pattern State.bringAll_formed => s.bringAll l
theorem State.rehome_formed {s : State} (hs : s.Formed) (p c l) : (s.rehome p c l).Formed := by
  fun_induction State.rehome <;> grind
grind_pattern State.rehome_formed => s.rehome p c l
theorem State.giveAll_formed {s : State} (hs : s.Formed) (l) : OptFormed (s.giveAll l) := by
  fun_induction State.giveAll <;> grind
grind_pattern State.giveAll_formed => s.giveAll l
theorem State.unsealAll_formed {s : State} (hs : s.Formed) (p c) : OptFormed (s.unsealAll p c) := by
  fun_cases State.unsealAll <;> grind
grind_pattern State.unsealAll_formed => s.unsealAll p c
theorem State.readRun_formed {s : State} (hs : s.Formed) (i t l) : (s.readRun i t l).Formed := by
  fun_induction State.readRun <;> grind
grind_pattern State.readRun_formed => s.readRun i t l
theorem execUnseal_formed {s : State} (hs : s.Formed) (d a) : OutFormed (execUnseal d a s) := by
  refine once_formed hs (fun i t q s hs => ?_) ..
  dsimp only
  repeat' split
  all_goals grind
grind_pattern execUnseal_formed => execUnseal d a s

/-! ## Machine/Placing -/

theorem execClusterPlace_formed {s : State} (hs : s.Formed) (g vd origin) : OutFormed (execClusterPlace g vd origin s) := by
  fun_cases execClusterPlace <;> grind
grind_pattern execClusterPlace_formed => execClusterPlace g vd origin s
theorem State.backHome_formed {s : State} (hs : s.Formed) (i t) : OptFormed (s.backHome i t) := by
  fun_cases State.backHome <;> grind
grind_pattern State.backHome_formed => s.backHome i t
theorem execTeamSpill_formed {s : State} (hs : s.Formed) (t) : OutFormed (execTeamSpill t s) := by
  fun_cases execTeamSpill <;> grind
grind_pattern execTeamSpill_formed => execTeamSpill t s
theorem execTeamRestore_formed {s : State} (hs : s.Formed) (t) : OutFormed (execTeamRestore t s) := by
  fun_cases execTeamRestore <;> grind
grind_pattern execTeamRestore_formed => execTeamRestore t s
theorem State.drainLining_formed {s : State} (hs : s.Formed) (core p c) : (s.drainLining core p c).Formed := by
  unfold State.drainLining
  dsimp only
  generalize (List.range _).map _ = bs
  have h := State.homeWrite_formed (s := s.bump) hs .none (memKey 0 (s.liningSlot p c core)) bs
  cases s.backed p 0 (s.liningSlot p c core)
  · exact hs
  · exact h
grind_pattern State.drainLining_formed => s.drainLining core p c
theorem execLiningFlip_formed {s : State} (hs : s.Formed) (core part ctx) : OutFormed (execLiningFlip core part ctx s) := by
  fun_cases execLiningFlip <;> grind
grind_pattern execLiningFlip_formed => execLiningFlip core part ctx s
theorem execLiningDrain_formed {s : State} (hs : s.Formed) (core part ctx) : OutFormed (execLiningDrain core part ctx s) := by
  fun_cases execLiningDrain <;> grind
grind_pattern execLiningDrain_formed => execLiningDrain core part ctx s

/-! ## Machine/Host -/

theorem State.newKey_formed {s : State} (hs : s.Formed) : s.newKey.2.Formed := by
  unfold State.newKey
  grind
grind_pattern State.newKey_formed => s.newKey
theorem State.dropPart_formed {s : State} (hs : s.Formed) (p) : (s.dropPart p).Formed := hs
grind_pattern State.dropPart_formed => s.dropPart p
theorem State.startPart_formed {s : State} (hs : s.Formed) (p) : (s.startPart p).Formed := hs
grind_pattern State.startPart_formed => s.startPart p
theorem State.startParts_formed {s : State} (hs : s.Formed) : s.startParts.Formed := by
  unfold State.startParts
  grind
grind_pattern State.startParts_formed => s.startParts
theorem State.partCfg_formed {s : State} (hs : s.Formed) (v) : (s.partCfg v).Formed := by
  fun_cases State.partCfg <;> grind
grind_pattern State.partCfg_formed => s.partCfg v
theorem execPartShapeWrite_formed {s : State} (hs : s.Formed) (v) : OutFormed (execPartShapeWrite v s) := by
  unfold execPartShapeWrite
  grind
grind_pattern execPartShapeWrite_formed => execPartShapeWrite v s
theorem State.mergeTo_formed {s : State} (hs : s.Formed) (st why) : (s.mergeTo st why).Formed := hs
grind_pattern State.mergeTo_formed => s.mergeTo st why
theorem State.mergeResume_formed {s : State} (hs : s.Formed) (h) : (s.mergeResume h).Formed := by
  unfold State.mergeResume
  grind
grind_pattern State.mergeResume_formed => s.mergeResume h
theorem State.mergeGo_formed {s : State} (hs : s.Formed) (pair split) : (s.mergeGo pair split).Formed := by
  fun_cases State.mergeGo <;> grind
grind_pattern State.mergeGo_formed => s.mergeGo pair split
theorem State.trimPart_formed {s : State} (hs : s.Formed) (p) : (s.trimPart p).Formed := hs
grind_pattern State.trimPart_formed => s.trimPart p
theorem State.mergeNext_formed {s : State} (hs : s.Formed) : s.mergeNext.Formed := by
  fun_cases State.mergeNext <;> grind
grind_pattern State.mergeNext_formed => s.mergeNext
theorem State.handshake_formed {s : State} (hs : s.Formed) (pair split) : (s.handshake pair split).Formed := by
  fun_cases State.handshake <;> grind
grind_pattern State.handshake_formed => s.handshake pair split
theorem execMerge_formed {s : State} (hs : s.Formed) (pair) : OutFormed (execMerge pair s) := by
  unfold execMerge
  grind
grind_pattern execMerge_formed => execMerge pair s
theorem execSplit_formed {s : State} (hs : s.Formed) (pair) : OutFormed (execSplit pair s) := by
  unfold execSplit
  grind
grind_pattern execSplit_formed => execSplit pair s
theorem State.clearCtx_formed {s : State} (hs : s.Formed) (p c) : (s.clearCtx p c).Formed := hs
grind_pattern State.clearCtx_formed => s.clearCtx p c
theorem State.ctxDropped_formed {s : State} (hs : s.Formed) (p c) : (s.ctxDropped p c).Formed := hs
grind_pattern State.ctxDropped_formed => s.ctxDropped p c
theorem State.ctxCtl_formed {s : State} (hs : s.Formed) (p c v) : (s.ctxCtl p c v).Formed := by
  fun_cases State.ctxCtl <;> grind
grind_pattern State.ctxCtl_formed => s.ctxCtl p c v
theorem execContextCreate_formed {s : State} (hs : s.Formed) (part ctx auth) : OutFormed (execContextCreate part ctx auth s) := by
  unfold execContextCreate
  grind
grind_pattern execContextCreate_formed => execContextCreate part ctx auth s
theorem execContextRemove_formed {s : State} (hs : s.Formed) (part ctx) : OutFormed (execContextRemove part ctx s) := by
  unfold execContextRemove
  grind
grind_pattern execContextRemove_formed => execContextRemove part ctx s
theorem State.refuseAccess_formed {s : State} (hs : s.Formed) (p off report) : (s.refuseAccess p off report).Formed := by
  fun_cases State.refuseAccess <;> grind
grind_pattern State.refuseAccess_formed => s.refuseAccess p off report
theorem State.writeQueue_formed {s : State} (hs : s.Formed) (p n w off v) : (s.writeQueue p n w off v).Formed := by
  fun_cases State.writeQueue <;> grind
grind_pattern State.writeQueue_formed => s.writeQueue p n w off v
theorem State.importKey_formed {s : State} (hs : s.Formed) (p c blob) : (s.importKey p c blob).Formed := by
  fun_cases State.importKey <;> grind
grind_pattern State.importKey_formed => s.importKey p c blob
theorem State.startImport_formed {s : State} (hs : s.Formed) (p c blob) : (s.startImport p c blob).Formed := by
  fun_cases State.startImport <;> grind
grind_pattern State.startImport_formed => s.startImport p c blob
theorem execKeyImported_formed {s : State} (hs : s.Formed) (part ctx) : OutFormed (execKeyImported part ctx s) := by
  unfold execKeyImported
  grind
grind_pattern execKeyImported_formed => execKeyImported part ctx s
theorem execKeyImport_formed {s : State} (hs : s.Formed) (part ctx trusted blob) : OutFormed (execKeyImport part ctx trusted blob s) := by
  unfold execKeyImport
  grind
grind_pattern execKeyImport_formed => execKeyImport part ctx trusted blob s
theorem State.doorbell_formed {s : State} (hs : s.Formed) (p c tail given) : (s.doorbell p c tail given).Formed := by
  unfold State.doorbell
  grind
grind_pattern State.doorbell_formed => s.doorbell p c tail given
theorem execRingDoorbell_formed {s : State} (hs : s.Formed) (part ctx tail entries) : OutFormed (execRingDoorbell part ctx tail entries s) := by
  unfold execRingDoorbell
  grind
grind_pattern execRingDoorbell_formed => execRingDoorbell part ctx tail entries s
theorem State.stopDies_formed {s : State} (hs : s.Formed) (p c m) : (s.stopDies p c m).Formed := by
  fun_cases State.stopDies <;> grind
grind_pattern State.stopDies_formed => s.stopDies p c m
theorem execDebugStop_formed {s : State} (hs : s.Formed) (part ctx mask trusted) : OutFormed (execDebugStop part ctx mask trusted s) := by
  unfold execDebugStop
  grind
grind_pattern execDebugStop_formed => execDebugStop part ctx mask trusted s
theorem execDebugBreak_formed {s : State} (hs : s.Formed) (part ctx addr clause on trusted) :
    OutFormed (execDebugBreak part ctx addr clause on trusted s) := by
  unfold execDebugBreak
  grind
grind_pattern execDebugBreak_formed => execDebugBreak part ctx addr clause on trusted s
theorem execDebugHold_formed {s : State} (hs : s.Formed) (team trusted) : OutFormed (execDebugHold team trusted s) := by
  unfold execDebugHold
  grind
grind_pattern execDebugHold_formed => execDebugHold team trusted s
theorem execDebugRead_formed {s : State} (hs : s.Formed) (team reg trusted) : OutFormed (execDebugRead team reg trusted s) := by
  unfold execDebugRead
  grind
grind_pattern execDebugRead_formed => execDebugRead team reg trusted s
theorem State.regWrite_formed {s : State} (hs : s.Formed) (p off v x) : (s.regWrite p off v x).Formed := by
  fun_cases State.regWrite <;> grind
grind_pattern State.regWrite_formed => s.regWrite p off v x
theorem State.partWrite_formed {s : State} (hs : s.Formed) (p off v trusted) : (s.partWrite p off v trusted).Formed := by
  fun_cases State.partWrite <;> grind
grind_pattern State.partWrite_formed => s.partWrite p off v trusted
theorem State.partRead_formed {s : State} (hs : s.Formed) (p off trusted) : (s.partRead p off trusted).2.Formed := by
  fun_cases State.partRead <;> grind
grind_pattern State.partRead_formed => s.partRead p off trusted
theorem State.managerWrite_formed {s : State} (hs : s.Formed) (off v) : (s.managerWrite off v).Formed := by
  fun_cases State.managerWrite <;> grind
grind_pattern State.managerWrite_formed => s.managerWrite off v
theorem execQueueDescriptorWrite_formed {s : State} (hs : s.Formed) (part off v trusted) : OutFormed (execQueueDescriptorWrite part off v trusted s) := by
  unfold execQueueDescriptorWrite
  grind
grind_pattern execQueueDescriptorWrite_formed => execQueueDescriptorWrite part off v trusted s

/-! ## Machine/Issue -/

theorem State.notice_formed {s : State} (hs : s.Formed) (i clk) : (s.notice i clk).Formed := by
  fun_cases State.notice <;> grind
grind_pattern State.notice_formed => s.notice i clk
theorem State.stampPick_formed {s : State} (hs : s.Formed) (i t cands) : (s.stampPick i t cands).Formed := by
  unfold State.stampPick
  grind
grind_pattern State.stampPick_formed => s.stampPick i t cands
theorem State.raisePend_formed {s : State} (hs : s.Formed) (i t) : (s.raisePend i t).Formed := by
  fun_cases State.raisePend <;> grind
grind_pattern State.raisePend_formed => s.raisePend i t
theorem State.issueNext_formed {s : State} (hs : s.Formed) (i t) : (s.issueNext i t).Formed := by
  fun_cases State.issueNext <;> grind
grind_pattern State.issueNext_formed => s.issueNext i t
theorem State.pickTeam_formed {s : State} (hs : s.Formed) (i t) : (s.pickTeam i t).Formed := by
  fun_cases State.pickTeam <;> grind
grind_pattern State.pickTeam_formed => s.pickTeam i t
theorem State.runClock_formed {s : State} (hs : s.Formed) (core) : (s.runClock core).Formed := hs
grind_pattern State.runClock_formed => s.runClock core
theorem execIssuePick_formed {s : State} (hs : s.Formed) (core slot) : OutFormed (execIssuePick core slot s) := by
  fun_cases execIssuePick <;> grind
grind_pattern execIssuePick_formed => execIssuePick core slot s

/-! ## Machine/Lanes -/

theorem putCompare_formed {s : State} (hs : s.Formed) (i t d rs) : (putCompare i t s d rs).Formed := by
  fun_cases putCompare <;> grind
grind_pattern putCompare_formed => putCompare i t s d rs
theorem compareOp_formed {s : State} (hs : s.Formed) (d a b ordered fi ff) : OutFormed (compareOp s d a b ordered fi ff) :=
  sweep_formed hs (by grind) ..
grind_pattern compareOp_formed => compareOp s d a b ordered fi ff
theorem execVcmpeq_formed {s : State} (hs : s.Formed) (d a b) : OutFormed (execVcmpeq d a b s) := compareOp_formed hs ..
grind_pattern execVcmpeq_formed => execVcmpeq d a b s
theorem execVcmpne_formed {s : State} (hs : s.Formed) (d a b) : OutFormed (execVcmpne d a b s) := compareOp_formed hs ..
grind_pattern execVcmpne_formed => execVcmpne d a b s
theorem execVcmplt_formed {s : State} (hs : s.Formed) (d a b) : OutFormed (execVcmplt d a b s) := compareOp_formed hs ..
grind_pattern execVcmplt_formed => execVcmplt d a b s
theorem execVcmple_formed {s : State} (hs : s.Formed) (d a b) : OutFormed (execVcmple d a b s) := compareOp_formed hs ..
grind_pattern execVcmple_formed => execVcmple d a b s
theorem execVclass_formed {s : State} (hs : s.Formed) (d a b) : OutFormed (execVclass d a b s) := sweep_formed hs (by grind) ..
grind_pattern execVclass_formed => execVclass d a b s
theorem execVshuf_formed {s : State} (hs : s.Formed) (d a b) : OutFormed (execVshuf d a b s) := sweep_formed hs (by grind) ..
grind_pattern execVshuf_formed => execVshuf d a b s
theorem execVperm_formed {s : State} (hs : s.Formed) (d a b) : OutFormed (execVperm d a b s) := sweep_formed hs (by grind) ..
grind_pattern execVperm_formed => execVperm d a b s
theorem reduceOp_formed {s : State} (hs : s.Formed) (d a c) : OutFormed (reduceOp s d a c) := by
  unfold reduceOp
  grind
grind_pattern reduceOp_formed => reduceOp s d a c
theorem execVredadd_formed {s : State} (hs : s.Formed) (d a) : OutFormed (execVredadd d a s) := reduceOp_formed hs ..
grind_pattern execVredadd_formed => execVredadd d a s
theorem execVredmin_formed {s : State} (hs : s.Formed) (d a) : OutFormed (execVredmin d a s) := reduceOp_formed hs ..
grind_pattern execVredmin_formed => execVredmin d a s
theorem execVredmax_formed {s : State} (hs : s.Formed) (d a) : OutFormed (execVredmax d a s) := reduceOp_formed hs ..
grind_pattern execVredmax_formed => execVredmax d a s
theorem scanOp_formed {s : State} (hs : s.Formed) (d a b team) : OutFormed (scanOp s d a b team) := sweep_formed hs (by grind) ..
grind_pattern scanOp_formed => scanOp s d a b team
theorem execVscan_formed {s : State} (hs : s.Formed) (d a b) : OutFormed (execVscan d a b s) := scanOp_formed hs ..
grind_pattern execVscan_formed => execVscan d a b s
theorem execVscant_formed {s : State} (hs : s.Formed) (d a b) : OutFormed (execVscant d a b s) := scanOp_formed hs ..
grind_pattern execVscant_formed => execVscant d a b s
theorem execVextr_formed {s : State} (hs : s.Formed) (d a b) : OutFormed (execVextr d a b s) := once_formed hs (by grind) ..
grind_pattern execVextr_formed => execVextr d a b s
theorem execVins_formed {s : State} (hs : s.Formed) (d a b) : OutFormed (execVins d a b s) := once_formed hs (by grind) ..
grind_pattern execVins_formed => execVins d a b s
theorem execVpack_formed {s : State} (hs : s.Formed) (d a b) : OutFormed (execVpack d a b s) := laneOpD_formed hs ..
grind_pattern execVpack_formed => execVpack d a b s
theorem execVunpk_formed {s : State} (hs : s.Formed) (d a b) : OutFormed (execVunpk d a b s) := laneOp_formed hs ..
grind_pattern execVunpk_formed => execVunpk d a b s
theorem execVmovp_formed {s : State} (hs : s.Formed) (d a) : OutFormed (execVmovp d a s) := sweep_formed hs (by grind) ..
grind_pattern execVmovp_formed => execVmovp d a s
theorem execVmsk_formed {s : State} (hs : s.Formed) (d a) : OutFormed (execVmsk d a s) := sweep_formed hs (by grind) ..
grind_pattern execVmsk_formed => execVmsk d a s

/-! ## Machine/Masks -/

theorem maskOp_formed {s : State} (hs : s.Formed) (d ss f) : OutFormed (maskOp d ss f s) := once_formed hs (by grind) ..
grind_pattern maskOp_formed => maskOp d ss f s
theorem execMmov_formed {s : State} (hs : s.Formed) (d a) : OutFormed (execMmov d a s) := maskOp_formed hs ..
grind_pattern execMmov_formed => execMmov d a s
theorem execMand_formed {s : State} (hs : s.Formed) (d a b) : OutFormed (execMand d a b s) := maskOp_formed hs ..
grind_pattern execMand_formed => execMand d a b s
theorem execMor_formed {s : State} (hs : s.Formed) (d a b) : OutFormed (execMor d a b s) := maskOp_formed hs ..
grind_pattern execMor_formed => execMor d a b s
theorem execMxor_formed {s : State} (hs : s.Formed) (d a b) : OutFormed (execMxor d a b s) := maskOp_formed hs ..
grind_pattern execMxor_formed => execMxor d a b s
theorem execMandn_formed {s : State} (hs : s.Formed) (d a b) : OutFormed (execMandn d a b s) := maskOp_formed hs ..
grind_pattern execMandn_formed => execMandn d a b s
theorem execMnot_formed {s : State} (hs : s.Formed) (d a) : OutFormed (execMnot d a s) := maskOp_formed hs ..
grind_pattern execMnot_formed => execMnot d a s
theorem maskToScalar_formed {s : State} (hs : s.Formed) (d a f) : OutFormed (maskToScalar d a f s) := once_formed hs (by grind) ..
grind_pattern maskToScalar_formed => maskToScalar d a f s
theorem execMcnt_formed {s : State} (hs : s.Formed) (d a) : OutFormed (execMcnt d a s) := maskToScalar_formed hs ..
grind_pattern execMcnt_formed => execMcnt d a s
theorem execMfirst_formed {s : State} (hs : s.Formed) (d a) : OutFormed (execMfirst d a s) := by
  unfold execMfirst
  grind
grind_pattern execMfirst_formed => execMfirst d a s
theorem execMsumw_formed {s : State} (hs : s.Formed) (d a) : OutFormed (execMsumw d a s) := maskToScalar_formed hs ..
grind_pattern execMsumw_formed => execMsumw d a s
theorem execMgetw_formed {s : State} (hs : s.Formed) (d a b) : OutFormed (execMgetw d a b s) := once_formed hs (by grind) ..
grind_pattern execMgetw_formed => execMgetw d a b s
theorem execMsetw_formed {s : State} (hs : s.Formed) (d a b) : OutFormed (execMsetw d a b s) := by
  unfold execMsetw
  grind
grind_pattern execMsetw_formed => execMsetw d a b s
theorem execMfromv_formed {s : State} (hs : s.Formed) (d a) : OutFormed (execMfromv d a s) := sweep_formed hs (by grind) ..
grind_pattern execMfromv_formed => execMfromv d a s

/-! ## Machine/Platform -/

theorem State.runImage_formed {s : State} (hs : s.Formed) (bs) : (s.runImage bs).Formed := by
  unfold State.runImage
  grind
grind_pattern State.runImage_formed => s.runImage bs
theorem execBootVerify_formed {s : State} (hs : s.Formed) : OutFormed (execBootVerify s) := by
  unfold execBootVerify
  grind
grind_pattern execBootVerify_formed => execBootVerify s
theorem State.imageWord_formed {s : State} (hs : s.Formed) (v last) : (s.imageWord v last).Formed := by
  fun_cases State.imageWord <;> grind
grind_pattern State.imageWord_formed => s.imageWord v last
theorem execMgRec_formed {s : State} (hs : s.Formed) (v last) : OutFormed (execMgRec v last s) := by
  unfold execMgRec
  grind
grind_pattern execMgRec_formed => execMgRec v last s
theorem State.setThrottle_formed {s : State} (hs : s.Formed) (die n) : (s.setThrottle die n).Formed := hs
grind_pattern State.setThrottle_formed => s.setThrottle die n
theorem execClockThrottle_formed {s : State} (hs : s.Formed) (die) : OutFormed (execClockThrottle die s) := by
  unfold execClockThrottle
  grind
grind_pattern execClockThrottle_formed => execClockThrottle die s
theorem execClockRaise_formed {s : State} (hs : s.Formed) (die) : OutFormed (execClockRaise die s) := hs
grind_pattern execClockRaise_formed => execClockRaise die s
/-- After a thermal trip memory lists nothing (R395). -/
theorem State.powerLost_formed (s : State) (d) : (s.powerLost d).Formed := rfl
grind_pattern State.powerLost_formed => s.powerLost d
theorem execThermalTrip_formed (s : State) : OutFormed (execThermalTrip s) := by
  unfold execThermalTrip
  grind
grind_pattern execThermalTrip_formed => execThermalTrip s
theorem execColdReset_formed (s : State) : OutFormed (execColdReset s) := by
  unfold execColdReset
  grind
grind_pattern execColdReset_formed => execColdReset s
theorem State.portRead_formed {s : State} (hs : s.Formed) (off) : (s.portRead off).2.Formed := by
  fun_cases State.portRead <;> grind
grind_pattern State.portRead_formed => s.portRead off
theorem execRegisterWrite_formed {s : State} (hs : s.Formed) (fn off v trusted) : OutFormed (execRegisterWrite fn off v trusted s) := by
  unfold execRegisterWrite
  grind
grind_pattern execRegisterWrite_formed => execRegisterWrite fn off v trusted s
theorem State.answerHost_formed {s : State} (hs : s.Formed) (w) : (s.answerHost w).Formed := hs
grind_pattern State.answerHost_formed => s.answerHost w
theorem execRegisterRead_formed {s : State} (hs : s.Formed) (fn off trusted) : OutFormed (execRegisterRead fn off trusted s) := by
  unfold execRegisterRead
  grind
grind_pattern execRegisterRead_formed => execRegisterRead fn off trusted s
theorem execHdmWindow_formed {s : State} (hs : s.Formed) (part window) : OutFormed (execHdmWindow part window s) := by
  unfold execHdmWindow
  grind
grind_pattern execHdmWindow_formed => execHdmWindow part window s
theorem execHostMemoryAccess_formed {s : State} (hs : s.Formed) (part ma data n) : OutFormed (execHostMemoryAccess part ma data n s) := by
  unfold execHostMemoryAccess
  grind
grind_pattern execHostMemoryAccess_formed => execHostMemoryAccess part ma data n s
theorem execHostSnoop_formed {s : State} (hs : s.Formed) (ma write) : OutFormed (execHostSnoop ma write s) := by
  unfold execHostSnoop
  grind
grind_pattern execHostSnoop_formed => execHostSnoop ma write s
theorem execSpdmRequest_formed {s : State} (hs : s.Formed) (part req) : OutFormed (execSpdmRequest part req s) := by
  unfold execSpdmRequest
  grind
grind_pattern execSpdmRequest_formed => execSpdmRequest part req s
/-- A partition that is erased loses the bytes of its HBM: what is left of the list is still in the form (R390). -/
theorem State.erase_formed {s : State} (hs : s.Formed) (p) : (s.erase p).Formed := by
  unfold State.erase
  exact memWf_filter _ _ (State.dropPart_formed hs p)
grind_pattern State.erase_formed => s.erase p
theorem execFunctionLevelReset_formed {s : State} (hs : s.Formed) (fn) : OutFormed (execFunctionLevelReset fn s) := by
  unfold execFunctionLevelReset
  grind
grind_pattern execFunctionLevelReset_formed => execFunctionLevelReset fn s
theorem execLinkTraining_formed {s : State} (hs : s.Formed) (pkg) : OutFormed (execLinkTraining pkg s) := hs
grind_pattern execLinkTraining_formed => execLinkTraining pkg s
theorem execCoreEnableBatch_formed {s : State} (hs : s.Formed) (die) : OutFormed (execCoreEnableBatch die s) := by
  unfold execCoreEnableBatch
  grind
grind_pattern execCoreEnableBatch_formed => execCoreEnableBatch die s
theorem execDieIdle_formed {s : State} (hs : s.Formed) (die) : OutFormed (execDieIdle die s) := by
  unfold execDieIdle
  grind
grind_pattern execDieIdle_formed => execDieIdle die s
theorem execMatrixSleep_formed {s : State} (hs : s.Formed) (core) : OutFormed (execMatrixSleep core s) := by
  unfold execMatrixSleep
  grind
grind_pattern execMatrixSleep_formed => execMatrixSleep core s
theorem execMatrixWake_formed {s : State} (hs : s.Formed) (die) : OutFormed (execMatrixWake die s) := by
  unfold execMatrixWake
  grind
grind_pattern execMatrixWake_formed => execMatrixWake die s
theorem State.countSoft_formed {s : State} (hs : s.Formed) (p n) : (s.countSoft p n).Formed := by
  fun_cases State.countSoft <;> grind
grind_pattern State.countSoft_formed => s.countSoft p n
theorem execPatrolScrub_formed {s : State} (hs : s.Formed) (granule) : OutFormed (execPatrolScrub granule s) := by
  unfold execPatrolScrub
  grind
grind_pattern execPatrolScrub_formed => execPatrolScrub granule s
theorem State.spoilHome_formed {s : State} (hs : s.Formed) (g) : (s.spoilHome g).Formed := hs
grind_pattern State.spoilHome_formed => s.spoilHome g
theorem State.spoilReg_formed {s : State} (hs : s.Formed) (i key) : (s.spoilReg i key).Formed := State.modTeam_formed hs ..
grind_pattern State.spoilReg_formed => s.spoilReg i key
theorem State.spoil_formed {s : State} (hs : s.Formed) (x) : (s.spoil x).Formed := by
  fun_cases State.spoil <;> grind
grind_pattern State.spoil_formed => s.spoil x
theorem execSoftError_formed {s : State} (hs : s.Formed) (site correctable) : OutFormed (execSoftError site correctable s) := by
  unfold execSoftError
  grind
grind_pattern execSoftError_formed => execSoftError site correctable s

/-! ## Machine/Scalar -/

theorem scalar1_formed {s : State} (hs : s.Formed) (d a f) : OutFormed (scalar1 d a f s) := once_formed hs (by grind) ..
grind_pattern scalar1_formed => scalar1 d a f s
theorem scalar2_formed {s : State} (hs : s.Formed) (d a b f) : OutFormed (scalar2 d a b f s) := once_formed hs (by grind) ..
grind_pattern scalar2_formed => scalar2 d a b f s
theorem execSmov_formed {s : State} (hs : s.Formed) (d a) : OutFormed (execSmov d a s) := scalar1_formed hs ..
grind_pattern execSmov_formed => execSmov d a s
theorem execSclz_formed {s : State} (hs : s.Formed) (d a) : OutFormed (execSclz d a s) := scalar1_formed hs ..
grind_pattern execSclz_formed => execSclz d a s
theorem execSpopc_formed {s : State} (hs : s.Formed) (d a) : OutFormed (execSpopc d a s) := scalar1_formed hs ..
grind_pattern execSpopc_formed => execSpopc d a s
theorem execSadd_formed {s : State} (hs : s.Formed) (d a b) : OutFormed (execSadd d a b s) := scalar2_formed hs ..
grind_pattern execSadd_formed => execSadd d a b s
theorem execSsub_formed {s : State} (hs : s.Formed) (d a b) : OutFormed (execSsub d a b s) := scalar2_formed hs ..
grind_pattern execSsub_formed => execSsub d a b s
theorem execSmul_formed {s : State} (hs : s.Formed) (d a b) : OutFormed (execSmul d a b s) := scalar2_formed hs ..
grind_pattern execSmul_formed => execSmul d a b s
theorem execSmulh_formed {s : State} (hs : s.Formed) (d a b) : OutFormed (execSmulh d a b s) := scalar2_formed hs ..
grind_pattern execSmulh_formed => execSmulh d a b s
theorem execSmulhn_formed {s : State} (hs : s.Formed) (d a b) : OutFormed (execSmulhn d a b s) := scalar2_formed hs ..
grind_pattern execSmulhn_formed => execSmulhn d a b s
theorem execSand_formed {s : State} (hs : s.Formed) (d a b) : OutFormed (execSand d a b s) := scalar2_formed hs ..
grind_pattern execSand_formed => execSand d a b s
theorem execSor_formed {s : State} (hs : s.Formed) (d a b) : OutFormed (execSor d a b s) := scalar2_formed hs ..
grind_pattern execSor_formed => execSor d a b s
theorem execSxor_formed {s : State} (hs : s.Formed) (d a b) : OutFormed (execSxor d a b s) := scalar2_formed hs ..
grind_pattern execSxor_formed => execSxor d a b s
theorem execSshl_formed {s : State} (hs : s.Formed) (d a b) : OutFormed (execSshl d a b s) := scalar2_formed hs ..
grind_pattern execSshl_formed => execSshl d a b s
theorem execSshr_formed {s : State} (hs : s.Formed) (d a b) : OutFormed (execSshr d a b s) := scalar2_formed hs ..
grind_pattern execSshr_formed => execSshr d a b s
theorem execSsra_formed {s : State} (hs : s.Formed) (d a b) : OutFormed (execSsra d a b s) := scalar2_formed hs ..
grind_pattern execSsra_formed => execSsra d a b s
theorem execSmin_formed {s : State} (hs : s.Formed) (d a b) : OutFormed (execSmin d a b s) := scalar2_formed hs ..
grind_pattern execSmin_formed => execSmin d a b s
theorem execSmax_formed {s : State} (hs : s.Formed) (d a b) : OutFormed (execSmax d a b s) := scalar2_formed hs ..
grind_pattern execSmax_formed => execSmax d a b s
theorem execSminn_formed {s : State} (hs : s.Formed) (d a b) : OutFormed (execSminn d a b s) := scalar2_formed hs ..
grind_pattern execSminn_formed => execSminn d a b s
theorem execSmaxn_formed {s : State} (hs : s.Formed) (d a b) : OutFormed (execSmaxn d a b s) := scalar2_formed hs ..
grind_pattern execSmaxn_formed => execSmaxn d a b s
theorem execScmpeq_formed {s : State} (hs : s.Formed) (d a b) : OutFormed (execScmpeq d a b s) := scalar2_formed hs ..
grind_pattern execScmpeq_formed => execScmpeq d a b s
theorem execScmplt_formed {s : State} (hs : s.Formed) (d a b) : OutFormed (execScmplt d a b s) := scalar2_formed hs ..
grind_pattern execScmplt_formed => execScmplt d a b s
theorem execScmpltn_formed {s : State} (hs : s.Formed) (d a b) : OutFormed (execScmpltn d a b s) := scalar2_formed hs ..
grind_pattern execScmpltn_formed => execScmpltn d a b s
theorem execSdivn_formed {s : State} (hs : s.Formed) (d a b) : OutFormed (execSdivn d a b s) := scalar2_formed hs ..
grind_pattern execSdivn_formed => execSdivn d a b s
theorem execSdiv_formed {s : State} (hs : s.Formed) (d a b) : OutFormed (execSdiv d a b s) := scalar2_formed hs ..
grind_pattern execSdiv_formed => execSdiv d a b s
theorem execSrem_formed {s : State} (hs : s.Formed) (d a b) : OutFormed (execSrem d a b s) := scalar2_formed hs ..
grind_pattern execSrem_formed => execSrem d a b s

/-! ## Every step -/

/-- An instruction or an internal step keeps the form: each arm by the rule of the meaning that it calls. -/
theorem exec_formed {s : State} (hs : s.Formed) (i : Instr) : OutFormed (exec i s) := by
  fun_cases exec <;> grind
grind_pattern exec_formed => exec i s

/-- A step that no word encodes keeps the form. -/
theorem Event.run_formed {s : State} (hs : s.Formed) (e : Event) : OutFormed (e.run s) := by
  fun_cases Event.run <;> grind
grind_pattern Event.run_formed => Event.run e s

theorem Event.take_formed {s : State} (hs : s.Formed) (e : Event × Source) : OutFormed (Event.take e s) := by
  fun_cases Event.take <;> grind
grind_pattern Event.take_formed => Event.take e s

theorem State.tripped_formed {s : State} (hs : s.Formed) : OutFormed s.tripped := by
  fun_cases State.tripped <;> grind
grind_pattern State.tripped_formed => s.tripped

theorem State.settled_formed {s : State} (hs : s.Formed) {r : Host.Outcome State Fault Refusal} (hr : OutFormed r) (i : Nat) (x : Instr) :
    OutFormed (s.settled i x r) := by
  fun_cases State.settled <;> grind
grind_pattern State.settled_formed => s.settled i x r

/-- One step of the machine keeps the form: the powered-off machine's, the picked team's instruction, or a step that is due. -/
theorem step_formed {s : State} (hs : s.Formed) : OutFormed (step s) := by
  fun_cases step <;> grind

/-- Settles O60: every operation of the model that a step is made of keeps memory in its canonical form. -/
theorem stepKeepsMemoryForm : Obligations.StepKeepsMemoryForm := by
  intro s u hs h
  have hu := step_formed hs
  rw [h] at hu
  exact hu

end Sys2Proof.Machine

/-! # EXIT (O8)

Past its empty list of checks EXIT comes to a test of the live set. Both halves of the statement are that test, settled. -/

namespace Sys2Proof.Machine

open Sys2Proof

/-- A team without its effective lanes: they leave the live set, and with it M0 (R15, R16). -/
def Team.exited (t : Team) : Team :=
  { t with live := t.live &&& ~~~t.eff }.setM 0 (t.m 0)

/-- The record that EXIT writes, with M0 read from the team whose live set is already less. -/
theorem exited_eq (t : Team) :
    { t with live := t.live &&& ~~~t.eff }.setM 0 ({ t with live := t.live &&& ~~~t.eff }.m 0) = t.exited := rfl

/-- EXIT where lanes stay, or a refill source may fill them again (R14): the team goes on. -/
theorem exec_exit_goesOn (s : State) (i : Nat) (t : Team) (h : Issues s i t) (hp : ({ s with cur := none } : State).regPending i t.eff = false)
    (hl : t.live &&& ~~~t.eff ≠ 0 ∨ t.refill ≠ none) : exec .exit s = .next (s.done i t.exited) := by
  have hn : ¬(t.live &&& ~~~t.eff = 0 ∧ t.refill = none) := by tauto
  show execExit s = _
  rw [execExit, once_plain s i t h _ _ rfl]
  simp only [hp, Bool.false_eq_true, if_false, hn]
  exact congrArg _ (settle_setTeam s i t t.exited)

/-- EXIT of the last lanes of a team that has nothing in flight and nothing to release: the team ends (R16, R89). -/
theorem exec_exit_ends (s : State) (i : Nat) (t : Team) (h : Issues s i t) (hp : ({ s with cur := none } : State).regPending i t.eff = false)
    (hl : t.live &&& ~~~t.eff = 0) (hf : t.refill = none) (h0 : (({ s with cur := none } : State).setTeam i t.exited).postedOf i = [])
    (hi : (({ s with cur := none } : State).setTeam i t.exited).teamIdle i = true)
    (hw : (({ s with cur := none } : State).setTeam i t.exited).waveReleases i = true) :
    exec .exit s = .next ((({ s with cur := none } : State).setTeam i t.exited).endTeam i) := by
  have hd : (({ s with cur := none } : State).setTeam i t.exited).drainAll i = .ok (({ s with cur := none } : State).setTeam i t.exited) := by
    unfold State.drainAll
    rw [h0]
    rfl
  show execExit s = _
  rw [execExit, once_plain s i t h _ _ rfl]
  simp only [hp, Bool.false_eq_true, if_false]
  rw [if_pos ⟨hl, hf⟩, exited_eq, hd]
  simp only [hi, hw, if_true]
  rfl

/-- Settles O8: with lanes or a refill source left EXIT settles on the team's record; with neither it reaches the team's end. -/
theorem exitResult : Obligations.ExitResult := by
  intro s i t h hp t1 t2
  exact ⟨exec_exit_goesOn s i t h hp, exec_exit_ends s i t h hp⟩

end Sys2Proof.Machine

/-! # Lane instructions that accumulate into D (O12) -/

namespace Sys2Proof.Machine

open Sys2Proof

section
variable {s : State} {i : Nat} {t u : Team} {q : Nat → Nat → Word} {r : BitVec 7} {a b : Sel}

/-- Sources A and B of an instruction that also reads D, and D itself where the type is not a wide one. -/
theorem elemOf_accA {pops : List Pop} (hr : Reads t pops u q) (l : Nat) :
    elemOf s u [(2, .v r), (0, a), (1, b)] q l 0 = s.elem t t.ty a l (q 0 l) := by
  simp [elemOf, reads_ty hr, reads_elem hr]
theorem elemOf_accB {pops : List Pop} (hr : Reads t pops u q) (l : Nat) :
    elemOf s u [(2, .v r), (0, a), (1, b)] q l 1 = s.elem t t.ty b l (q 1 l) := by
  simp [elemOf, reads_ty hr, reads_elem hr]
theorem elemOf_accD {pops : List Pop} (hr : Reads t pops u q) (hw : t.ty.wide = false) (l : Nat) :
    elemOf s u [(2, .v r), (0, a), (1, b)] q l 2 = (t.v l r.toNat).toNat := by
  simp [elemOf, reads_ty hr, State.elem, hw, State.src, reads_v hr]

/-- A lane instruction that accumulates into D, under a type that is not wide: lane by lane the function of A, B and D that it gives. -/
theorem laneOpD_accumulates {ok : Ty → Bool} {f : Team → Ty → (Nat → Nat) → Nat × Nat} (h : Issues s i t) (hd : t.elemDst t.ty (.v r) = true)
    (ha : t.elemSrc t.ty a = true) (hb : t.elemSrc t.ty b = true) (ra : t.readable a) (rb : t.readable b)
    (hr : Reads t (popsLanes t.active [(0, a), (1, b)]) u q) (hy : ok t.ty = true) (hw : t.ty.wide = false) (g : Nat → Nat × Nat)
    (hg : ∀ l (x : Nat → Nat), x 0 = s.elem t t.ty a l (q 0 l) → x 1 = s.elem t t.ty b l (q 1 l) → x 2 = (t.v l r.toNat).toNat →
      f u t.ty x = g l) :
    laneOpD s (.v r) [(0, a), (1, b)] ok f = .next (s.done i (u.putF (.v r) g)) := by
  rw [laneOpD_of s i t u q r _ ok f h hd (by simp [ha, hb]) (by simp [ra, rb]) hy hr]
  congr 3
  funext l
  rw [reads_ty hr]
  exact hg l _ (elemOf_accA hr l) (elemOf_accB hr l) (elemOf_accD hr hw l)

end

theorem isFloat_not_wide {y : Ty} (h : y.isFloat = true) : y.wide = false := by revert h; cases y <;> decide
theorem packs_not_wide {y : Ty} (h : y.packs = true) : y.wide = false := by revert h; cases y <;> decide

/-- The integer dot products of four and of two elements, spelled out (R124). -/
theorem intDot_four {y : Ty} (h : y.width = 8) (sat : Bool) (a b d : Nat) :
    intDot y sat a b d =
      let o : Ty := if y.signed then .i32 else .n32
      o.store sat (o.int d + y.int (slice a 8 0) * y.int (slice b 8 0) + y.int (slice a 8 1) * y.int (slice b 8 1) +
        y.int (slice a 8 2) * y.int (slice b 8 2) + y.int (slice a 8 3) * y.int (slice b 8 3)) := by
  simp [intDot, h, List.range_succ]
theorem intDot_two {y : Ty} (h : y.width = 16) (sat : Bool) (a b d : Nat) :
    intDot y sat a b d =
      let o : Ty := if y.signed then .i32 else .n32
      o.store sat (o.int d + y.int (slice a 16 0) * y.int (slice b 16 0) + y.int (slice a 16 1) * y.int (slice b 16 1)) := by
  simp [intDot, h, List.range_succ]

/-- The types of the dot products (R124). -/
theorem dot4_type {y : Ty} (hy : y = .i8 ∨ y = .n8) :
    (y == .i8 || y == .n8) = true ∧ y.width = 8 ∧ y.wide = false ∧ y.signed = decide (y = .i8) := by
  rcases hy with rfl | rfl <;> exact ⟨rfl, rfl, rfl, rfl⟩
theorem dot2_type {y : Ty} (hy : y = .i16 ∨ y = .n16) :
    (y == .i16 || y == .n16 || y == .f16 || y == .bf16) = true ∧ y.width = 16 ∧ y.wide = false ∧ y.signed = decide (y = .i16) ∧ fmtOf y = none := by
  rcases hy with rfl | rfl <;> exact ⟨rfl, rfl, rfl, rfl, rfl⟩
theorem dot2_floatType {y : Ty} (hy : y = .f16 ∨ y = .bf16) :
    (y == .i16 || y == .n16 || y == .f16 || y == .bf16) = true ∧ y.wide = false := by
  rcases hy with rfl | rfl <;> exact ⟨rfl, rfl⟩

/-- The width of a packed type (R130). -/
theorem packs_width {y : Ty} (h : y.packs = true) : y.width = 16 ∨ y.width = 8 := by
  revert h; cases y <;> decide

/-- Settles O12: each instruction is `laneOpD` of its own function, which its rule states of A, B and D. -/
theorem laneAccumulateResult : Obligations.LaneAccumulateResult := by
  intro s i t u q r a b h hd ha hb ra rb hr y x z w fin
  have hacc {ok : Ty → Bool} {f : Team → Ty → (Nat → Nat) → Nat × Nat} := laneOpD_accumulates (ok := ok) (f := f) h hd ha hb ra rb hr
  refine ⟨fun f hf hy => ⟨?vfma, ?vfnma⟩, fun hi hw => ?vmad, fun hy => ?vdot4, fun hy => ?vdot2, fun f hf hy => ?vdot2f, fun hp => ?vpack⟩
  case vfma =>
    show execVfma (.v r) a b s = _
    unfold execVfma
    refine hacc hy (isFloat_not_wide hy) _ fun l v h0 h1 h2 => ?_
    simp only [show fmtOf t.ty = some f from hf, reads_rnd hr, reads_flush hr, h0, h1, h2, x, z, w, y]
  case vfnma =>
    show execVfnma (.v r) a b s = _
    unfold execVfnma
    refine hacc hy (isFloat_not_wide hy) _ fun l v h0 h1 h2 => ?_
    simp only [show fmtOf t.ty = some f from hf, reads_rnd hr, reads_flush hr, h0, h1, h2, x, z, w, y]
  case vmad =>
    show execVmad (.v r) a b s = _
    unfold execVmad
    refine hacc (by simpa [Ty.narrowInt] using ⟨hi, hw⟩) hw _ fun l v h0 h1 h2 => ?_
    simp only [reads_sat hr, h0, h1, h2, x, z, w, y]
  case vdot4 =>
    obtain ⟨hok, hwd, hw, hsg⟩ := dot4_type hy
    show execVdot4 (.v r) a b s = _
    unfold execVdot4
    refine hacc hok hw _ fun l v h0 h1 h2 => ?_
    simp only [intDot_four hwd, hsg, decide_eq_true_eq, reads_sat hr, h0, h1, h2, x, z, w, y]
  case vdot2 =>
    obtain ⟨hok, hwd, hw, hsg, hf⟩ := dot2_type hy
    show execVdot2 (.v r) a b s = _
    unfold execVdot2
    refine hacc hok hw _ fun l v h0 h1 h2 => ?_
    simp only [hf, intDot_two hwd, hsg, decide_eq_true_eq, reads_sat hr, h0, h1, h2, x, z, w, y]
  case vdot2f =>
    obtain ⟨hok, hw⟩ := dot2_floatType hy
    show execVdot2 (.v r) a b s = _
    unfold execVdot2
    refine hacc hok hw _ fun l v h0 h1 h2 => ?_
    simp only [show fmtOf t.ty = some f from hf, reads_rnd hr, reads_flush hr, h0, h1, h2, x, z, w, y]
  case vpack =>
    show execVpack (.v r) a b s = _
    unfold execVpack
    refine hacc hp (packs_not_wide hp) _ fun l v h0 h1 h2 => ?_
    simp only [reads_rnd hr, reads_flush hr, reads_sat hr, h0, h1, h2, x, z, w, y]
    rcases packs_width (y := t.ty) hp with h16 | h8
    · simp only [h16, if_true]
    · simp only [h8, show ¬(8 = 16) by decide, if_false]

end Sys2Proof.Machine

/-! # Compares (O15) -/

namespace Sys2Proof.Machine

open Sys2Proof

/-- The type under which a compare reads its elements: B32 compares as N32 (R95). -/
def Ty.compared (y : Ty) : Ty := if y = .b32 then .n32 else y

/-- Integers and floats are compared (R95). -/
theorem compares_of_int {y : Ty} (h : y.compared.isInt = true) : y.compares = true := by
  revert h; cases y <;> decide
theorem compares_of_float {y : Ty} (h : y.compared.isFloat = true) : y.compares = true := by
  revert h; cases y <;> decide

/-- An integer type has no floating format. -/
theorem fmtOf_int {y : Ty} (h : y.isInt = true) : fmtOf y = none := by
  revert h; cases y <;> decide

section
variable {s : State} {i : Nat} {t u : Team} {q : Nat → Nat → Word} {d a b : Sel} {o : Bool} {fi : Int → Int → Bool} {ff : Val → Val → Bool}

/-- A compare past its checks with no lane active writes nothing (R65). -/
theorem compareOp_none (h : Issues s i t) (hd : cmpDst t d = true) (ra : t.readable a) (rb : t.readable b) (hl : t.active.isEmpty = true)
    (ha : t.elemSrc t.ty a = true) (hb : t.elemSrc t.ty b = true) (hy : t.ty.compares = true) :
    compareOp s d a b o fi ff = .next (s.done i t) := by
  unfold compareOp sweep
  rw [sweepOn_none s i t h _ _ _ _ _ ?_ hl, settle_none s i t h]
  simp only [hd, ha, hb, hy, need, Bool.and_self, if_true, List.cons_append, List.nil_append, firstCause]
  exact firstCause_readable t [(0, a), (1, b)] (by simp [ra, rb])

/-- A compare of integers: it sets no status bit. -/
theorem compareOp_int (h : Issues s i t) (hl : t.active.isEmpty = false) (hd : cmpDst t d = true) (ra : t.readable a) (rb : t.readable b)
    (ha : t.elemSrc t.ty a = true) (hb : t.elemSrc t.ty b = true) (hr : Reads t (popsLanes t.active [(0, a), (1, b)]) u q)
    (hy : t.ty.compared.isInt = true) :
    compareOp s d a b o fi ff = .next (s.done i (u.putCmp d fun l =>
      (fi (t.ty.compared.int (s.elem t t.ty.compared a l (q 0 l))) (t.ty.compared.int (s.elem t t.ty.compared b l (q 1 l))), 0))) := by
  refine compareOp_of s i t u q d a b o fi ff h hl hd ra rb ha hb (compares_of_int hy) hr _ fun l => ?_
  have hf : fmtOf (if t.ty = .b32 then .n32 else t.ty) = none := fmtOf_int hy
  simp only [hf]
  rfl

/-- The invalid bit of a compare that does not order, and of one that does: a signalling NaN is a NaN (R96). -/
theorem invalid_unordered (v w : Val) :
    (if anySignalling [v, w] || (false && anyNan [v, w]) then stInv else 0) = if anySignalling [v, w] then stInv else 0 := by
  rw [Bool.false_and, Bool.or_false]
theorem invalid_ordered (v w : Val) :
    (if anySignalling [v, w] || (true && anyNan [v, w]) then stInv else 0) = if anyNan [v, w] then stInv else 0 := by
  have : (anySignalling [v, w] || anyNan [v, w]) = anyNan [v, w] := by cases v <;> cases w <;> simp [anySignalling, anyNan]
  rw [Bool.true_and, this]

/-- A compare of floats: a signalling NaN is invalid, a quiet one where the compare orders (R96). -/
theorem compareOp_float (h : Issues s i t) (hl : t.active.isEmpty = false) (hd : cmpDst t d = true) (ra : t.readable a) (rb : t.readable b)
    (ha : t.elemSrc t.ty a = true) (hb : t.elemSrc t.ty b = true) (hr : Reads t (popsLanes t.active [(0, a), (1, b)]) u q)
    (hy : t.ty.compared.isFloat = true) {f : Fmt} (hf : fmtOf t.ty.compared = some f) (g : Nat → Bool × Nat)
    (hg : ∀ l v w, v = f.input t.flush (s.elem t t.ty.compared a l (q 0 l)) → w = f.input t.flush (s.elem t t.ty.compared b l (q 1 l)) →
      (ff v w, if anySignalling [v, w] || (o && anyNan [v, w]) then stInv else 0) = g l) :
    compareOp s d a b o fi ff = .next (s.done i (u.putCmp d g)) := by
  refine compareOp_of s i t u q d a b o fi ff h hl hd ra rb ha hb (compares_of_float hy) hr _ fun l => ?_
  have hf : fmtOf (if t.ty = .b32 then .n32 else t.ty) = some f := hf
  simp only [hf]
  exact hg l _ _ rfl rfl

/-- VCLASS past its checks with no lane active writes nothing (R65). -/
theorem execVclass_none (c : BitVec 8) (h : Issues s i t) (hd : cmpDst t d = true) (ra : t.readable a) (hl : t.active.isEmpty = true)
    (hy : (fmtOf t.ty).isSome = true) (ha : t.vectorSrc a = true) : execVclass d a c s = .next (s.done i t) := by
  unfold execVclass sweep
  rw [sweepOn_none s i t h _ _ _ _ _ ?_ hl, settle_none s i t h]
  simp only [hd, ha, hy, need, Bool.and_self, if_true, List.cons_append, List.nil_append, firstCause]
  exact firstCause_readable t [(0, a)] (by simp [ra])

/-- A compare's result for each lane written where the statement puts it: in a state in which operands have been read. -/
theorem settle_putCompare (s : State) (i : Nat) (t u v : Team) (d : Sel) (f : Nat → Bool) (ps : List Pop) (hd : cmpDst t d = true) :
    settle i t (putCompare i u (s.after i v ps) d (u.active.map fun l => (l, f l))) = s.done i (u.putCmp d fun l => (f l, 0)) := by
  have h0 : u.active.foldl (fun a _ => a ||| 0) 0 = 0 := by
    induction u.active with
    | nil => rfl
    | cons _ _ ih => simp
  unfold State.after
  cases d with
  | m n => simp only [putCompare, settle_setTeam_if, Team.putCmp, h0, addStatus_zero, filter_map_snd]
  | v r => simp only [putCompare, settle_setTeam_if, Team.putCmp, h0, addStatus_zero, Team.putV, List.foldl_map]
  | _ => exact absurd hd (by simp [cmpDst])

/-- VCLASS tests the bit of each lane's class (R97). -/
theorem execVclass_of (c : BitVec 8) {f : Fmt} (h : Issues s i t) (hd : cmpDst t d = true) (ra : t.readable a) (hl : t.active.isEmpty = false)
    (hf : fmtOf t.ty = some f) (ha : t.vectorSrc a = true) (hr : Reads t (popsLanes t.active [(0, a)]) u q) :
    execVclass d a c s = .next (s.done i (u.putCmp d fun l => (c.getLsbD (classBit f ((s.src t a l (q 0 l)).toNat % 2 ^ f.width)), 0))) := by
  unfold execVclass sweep
  rw [sweepOn_after s i t u q h _ _ _ _ _ ?_ hl hr]
  · simp only [reads_ty hr, hf, Option.getD_some, src_after, reads_src hr]
    rw [settle_putCompare s i t u u d _ _ hd]
    rfl
  · simp only [hd, ha, hf, Option.isSome_some, need, Bool.and_self, if_true, List.cons_append, List.nil_append, firstCause]
    exact firstCause_readable t [(0, a)] (by simp [ra])

end

/-- Settles O15: with no lane active the checks alone are left; else the four compares are `compareOp` of their test, over integers or floats. -/
theorem compareResult : Obligations.CompareResult := by
  intro s i t u q d a b h hd ra rb none1
  refine ⟨fun hl => ⟨fun ha hb hy => ?none, fun c hy ha => execVclass_none c h hd ra hl hy ha⟩, fun hl => ?_⟩
  case none =>
    have hnone {o fi ff} := compareOp_none (o := o) (fi := fi) (ff := ff) h hd ra rb hl ha hb hy
    show execVcmpeq d a b s = _ ∧ execVcmpne d a b s = _ ∧ execVcmplt d a b s = _ ∧ execVcmple d a b s = _
    exact ⟨hnone, hnone, hnone, hnone⟩
  intro y fin
  refine ⟨fun ha hb hr => ?compares, fun c f hf ha hr => execVclass_of c h hd ra hl hf ha hr⟩
  intro x z
  refine ⟨fun hy => ?int, fun f hf hy => ?float⟩
  case int =>
    show execVcmpeq d a b s = _ ∧ execVcmpne d a b s = _ ∧ execVcmplt d a b s = _ ∧ execVcmple d a b s = _
    have hint {o fi ff} := compareOp_int (o := o) (fi := fi) (ff := ff) h hl hd ra rb ha hb hr hy
    exact ⟨hint, hint, hint, hint⟩
  case float =>
    intro v w sig bad
    have hflt {o fi ff} := compareOp_float (o := o) (fi := fi) (ff := ff) h hl hd ra rb ha hb hr hy hf
    show execVcmpeq d a b s = _ ∧ execVcmpne d a b s = _ ∧ execVcmplt d a b s = _ ∧ execVcmple d a b s = _
    refine ⟨hflt _ ?eq, hflt _ ?ne, hflt _ ?lt, hflt _ ?le⟩
    case eq | ne =>
      rintro l v' w' rfl rfl
      rw [invalid_unordered]
      rfl
    case lt | le =>
      rintro l v' w' rfl rfl
      rw [invalid_ordered]
      rfl

end Sys2Proof.Machine

/-! # Queue instructions (O33) -/

namespace Sys2Proof.Machine

open Sys2Proof

/-- An instruction whose checks have passed goes on where lanes are active. -/
theorem ifActive_of (i : Nat) (t : Team) (s : State) (k : State → Res) (h : t.active.isEmpty = false) : ifActive i t s k = k s := by
  simp [ifActive, h]

/-- The checks of an instruction that tests its operands once, and its queue registers (R55). -/
theorem firstCause_operands {t : Team} {b : Bool} {c : Cause} (ss : List (Nat × Sel)) (hb : b = true) (hr : ∀ f ∈ ss, t.readable f.2) :
    firstCause ([need b c] ++ (ss.map (·.2)).map fun a => t.popCheck a) = none := by
  simp only [need, hb, if_true, List.cons_append, List.nil_append, firstCause]
  exact firstCause_readable t ss hr

/-- The posted entries that an instruction needs out first, by the ordering of the team that issues it. -/
theorem drainedFor_of_reads {s s1 : State} {i : Nat} {t u : Team} {pops : List Pop} {q : Nat → Nat → Word} (hr : Reads t pops u q)
    (hd : if t.releases.isSome then (s.setTeam i u).drainAll i = .ok s1 else s1 = s.setTeam i u) : DrainedFor s i u s1 := by
  unfold DrainedFor
  rwa [reads_releases hr]

/-- An operation that an instruction starts, settled: it is in flight, its team past the instruction. -/
theorem settle_enterOp (s : State) (i : Nat) (t u : Team) (x : Op) (bad : List (LaneFault × Acc)) :
    settle i t (.ok (s.enterOp i u x bad)) = s.started i u x bad := rfl

/-- An instruction over lanes that takes a queue's handle and eight registers, past its checks: its effect on the queue. -/
theorem sweepQueue_of (s s1 : State) (i : Nat) (t u : Team) (q : Nat → Nat → Word) (n : Nat) (a : Sel) (h : Issues s i t)
    (checks : Team → State → List (Option Cause)) (body : Nat → Team → Nat → State → Res)
    (hc : firstCause (checks t { s with cur := none } ++ [t.popCheck a]) = none) (hl : t.active.isEmpty = false)
    (hr : Reads t (popsOnce [(0, a)]) u q) (hn : s1.queueOk t.part n = true)
    (hh : (s.after i u (popsOnce [(0, a)])).handle i u (s.scalar t a (q 0 0)) .queue = .ok (some n) s1) :
    sweepHandle s checks a [a] (fun _ => popsOnce [(0, a)]) (fun i t q s1 =>
      withQueue i t s1 false (s1.scalar t a (q 0 0)) fun k s2 => ifActive i t s2 fun s3 => body i t k s3) =
    .next (settle i t ((body i u (queueKey t.part n) s1).unpopped i t (popsOnce [(0, a)]) (.ok { s with cur := none }))) := by
  rw [sweepHandle_after s i t u q h _ _ _ _ _ _ hc hl hr, scalar_after, reads_scalar hr,
    withQueue_of _ s1 i u _ _ _ n hh (by rwa [reads_part hr]), ifActive_of _ _ _ _ (by rwa [reads_active hr]), reads_part hr]

section
variable {s s1 : State} {i : Nat} {t u : Team} {q : Nat → Nat → Word} {n : Nat} {r : BitVec 7} {a b d : Sel}

/-- ENQ with room for every lane (R143): the claimed slots, with their lanes' registers, are in flight. -/
theorem exec_enq_of (h : Issues s i t) (hs : t.scalarSrc a = true) (ra : t.readable a) (hl : t.active.isEmpty = false)
    (hr : Reads t (popsOnce [(0, a)]) u q) (hv : t.vOk r 8 = true) (hn : s1.queueOk t.part n = true)
    (hh : (s.after i u (popsOnce [(0, a)])).handle i u (s.scalar t a (q 0 0)) .queue = .ok (some n) s1) (s2 s3 : State) (got : List (Nat × Nat × Nat))
    (he : (s1.queue (queueKey t.part n)).en = true ∨ t.claimed ≠ []) (hf : u.flagFull (t.setFlag true) = false)
    (hd : DrainedFor s1 i u s2)
    (hg : s2.claimSlots t.part t.ctx (queueKey t.part n) t.vdie t.claimed t.active = (got, true, s3)) :
    exec (.enq (.v r) a) s = .next (s3.started i u { opOf i u s3 (t.setFlag true) (.enq (queueKey t.part n)) with
      accs := got.map fun g => { Acc.new g.1 ((s3.queue (queueKey t.part n)).recAddr g.2.1 g.2.2) 32 32 g.2.2 (wordsBytes (t.vs g.1 r.toNat 8)) with
        aux := g.2.1 },
      rel := t.releases } []) := by
  show execEnq (.v r) a s = _
  unfold execEnq
  refine (sweepQueue_of s s1 i t u q n a h _ _ ?_ hl hr hn hh).trans ?_
  · exact firstCause_operands [(0, a)] (by simp [recordBlock, hv, hs]) (by simp [ra])
  · have hopen : (!(s1.queue (queueKey t.part n)).en && t.claimed.isEmpty) = false := by
      rcases he with he | he <;> simp [he]
    simp only [reads_setFlag hr, reads_claimed hr, hopen, hf, Bool.false_eq_true, if_false]
    rw [withRelease_of s1 s2 i u _ hd]
    simp only [reads_part hr, reads_ctx hr, reads_vdie hr, reads_active hr, reads_vs hr, reads_releases hr, hg, unpopped_ok, settle_enterOp]

/-- DEQ (R145): a dequeue that holds its team, whose first lane claims what is there. -/
theorem exec_deq_of (h : Issues s i t) (hs : t.scalarSrc a = true) (ra : t.readable a) (hl : t.active.isEmpty = false)
    (hr : Reads t (popsOnce [(0, a)]) u q) (hv : t.vOk r 8 = true) (hn : s1.queueOk t.part n = true)
    (hh : (s.after i u (popsOnce [(0, a)])).handle i u (s.scalar t a (q 0 0)) .queue = .ok (some n) s1)
    (he : (s1.queue (queueKey t.part n)).en = true) :
    let x := { opOf i u s1 none (.deq (queueKey t.part n) r.toNat t.active false) with acq := t.acqScope }
    exec (.deq (.v r) a) s = .next ((((s1.enterOp i u x []).modTeam i fun t => { t with hold := some (.opDone s1.stamp) }).claimNext s1.stamp
      { x with units := [] }).issued i) := by
  intro x
  show execDeq (.v r) a s = _
  unfold execDeq
  refine (sweepQueue_of s s1 i t u q n a h _ _ ?_ hl hr hn hh).trans ?_
  · exact firstCause_operands [(0, a)] (by simp [recordBlock, hv, hs]) (by simp [ra])
  · simp only [he, Bool.not_true, Bool.false_eq_true, if_false, reads_active hr, reads_acqScope hr, unpopped_ok]
    rfl

/-- DEQTRY (R146): the records there are go to the first lanes, which its mask names. -/
theorem exec_deqtry_of (h : Issues s i t) (hs : t.scalarSrc a = true) (ra : t.readable a) (hl : t.active.isEmpty = false)
    (hr : Reads t (popsOnce [(0, a)]) u q) (hv : t.vOk r 8 = true) (hn : s1.queueOk t.part n = true)
    (hh : (s.after i u (popsOnce [(0, a)])).handle i u (s.scalar t a (q 0 0)) .queue = .ok (some n) s1)
    (he : (s1.queue (queueKey t.part n)).en = true) (m : BitVec 3) (as : List Acc) (s2 : State) (hf : u.flagFull (t.setFlag false) = false)
    (hg : s1.claimRecords t.part t.ctx (queueKey t.part n) t.vdie t.active = (as, s2)) :
    exec (.deqtry (.v r) a (.m m)) s = .next (s2.started i (u.setM m ((t.m m &&& ~~~t.eff) ||| maskOf (as.map (·.lane))))
      { opOf i u s2 (t.setFlag false) (.deq (queueKey t.part n) r.toNat [] false) with accs := as, acq := t.acqScope } []) := by
  show execDeqtry (.v r) a (.m m) s = _
  unfold execDeqtry
  refine (sweepQueue_of s s1 i t u q n a h _ _ ?_ hl hr hn hh).trans ?_
  · exact firstCause_operands [(0, a)] (by simp [recordBlock, hv, hs]) (by simp [ra])
  · simp only [he, hf, Bool.not_true, Bool.false_eq_true, if_false, reads_setFlag hr, reads_part hr, reads_ctx hr, reads_vdie hr, reads_active hr,
      reads_acqScope hr, reads_m hr, reads_eff hr, hg, unpopped_ok, settle_enterOp]

/-- QLEN (R148): the records of all sub-rings, of one, or none where the die is not the context's. -/
theorem exec_qlen_of (h : Issues s i t) (hs : t.scalarSrc a = true) (ra : t.readable a) (hb : t.scalarSrc b = true) (rb : t.readable b)
    (pd : t.pushCheck d = none) (hr : Reads t (popsOnce [(0, a), (1, b)]) u q) (hd : u.takes d) (hn : s1.queueOk t.part n = true)
    (hh : (s.after i u (popsOnce [(0, a), (1, b)])).handle i u (s.scalar t a (q 0 0)) .queue = .ok (some n) s1) :
    let v := s1.scalar u b (q 1 0)
    exec (.qlen d a b) s = .next (s1.ends i (u.put d (BitVec.ofNat 32 (if v = 0xFFFFFFFF then s1.held (queueKey t.part n)
      else if v.toNat < (s1.ctx t.part t.ctx).vdmap.length then s1.heldIn (queueKey t.part n) v.toNat else 0)))) := by
  intro v
  show execQlen d a b s = _
  rw [execQlen, onceAfter_after s i t u q h _ _ _ _ ?_ hr]
  · rw [scalar_after, reads_scalar hr, withQueue_of _ s1 i u _ _ _ n hh (by rwa [reads_part hr])]
    rw [unpopped_putScalar, settle_put _ _ _ _ _ _ hd, reads_part hr, reads_ctx hr]
  · simp only [takes_scalarDst u d hd, hs, hb, pd, need, Bool.and_self, if_true, List.cons_append, List.nil_append, firstCause]
    exact firstCause_readable t [(0, a), (1, b)] (by simp [ra, rb])

/-- RFSRC of 0 clears the refill source (R14). -/
theorem exec_rfsrc_zero (h : Issues s i t) (hv : t.vOk r 8 = true) (hw : t.wave = none) (m : BitVec 6) (h0 : t.s m = 0) :
    exec (.rfsrc (.v r) (.s m)) s = .next (s.done i { t with refill := none }) := by
  show execRfsrc (.v r) (.s m) s = _
  rw [execRfsrc, once_plain s i t h _ _ (by simp [recordBlock, hv, isS, hw, need, firstCause])]
  rw [show ({ s with cur := none } : State).scalar t (.s m) 0 = 0 from h0, if_pos rfl, settle_setTeam]

/-- RFSRC of an enabled queue's handle sets the refill source (R14). -/
theorem exec_rfsrc_queue (h : Issues s i t) (hv : t.vOk r 8 = true) (hw : t.wave = none) (m : BitVec 6) (h0 : t.s m ≠ 0)
    (hn : s1.queueOk t.part n = true) (he : (s1.queue (queueKey t.part n)).en = true)
    (hh : ({ s with cur := none } : State).handle i t (t.s m) .queue = .ok (some n) s1) :
    exec (.rfsrc (.v r) (.s m)) s = .next (s1.ends i { t with refill := some (queueKey t.part n, r.toNat) }) := by
  show execRfsrc (.v r) (.s m) s = _
  rw [execRfsrc, once_plain s i t h _ _ (by simp [recordBlock, hv, isS, hw, need, firstCause])]
  rw [show ({ s with cur := none } : State).scalar t (.s m) 0 = t.s m from rfl, if_neg h0, withQueueOn_of _ s1 i t _ _ _ n hh hn he, settle_ends]

end

/-- Settles O33: one lemma for each instruction; ENQ, DEQ and DEQTRY share the resolution of their queue. -/
theorem queueResult : Obligations.QueueResult := by
  intro s s1 i t u q n r a b d h hs ra k
  refine ⟨fun hl hr hv hn hh => ⟨fun s2 s3 got he hf hd hg => ?enq, fun he => ⟨?deq, fun m as s2 hf hg => ?deqtry⟩⟩,
    fun hb rb pd hr hd hn hh => exec_qlen_of h hs ra hb rb pd hr hd hn hh, fun hv hw m hm => ⟨fun h0 => ?clear, fun h0 hn he hh => ?set⟩⟩
  case enq => exact exec_enq_of h hs ra hl hr hv hn hh s2 s3 got he hf (drainedFor_of_reads hr hd) hg
  case deq => exact exec_deq_of h hs ra hl hr hv hn hh he
  case deqtry => exact exec_deqtry_of h hs ra hl hr hv hn hh he m as s2 hf hg
  case clear => exact hm ▸ exec_rfsrc_zero h hv hw m h0
  case set => exact hm ▸ exec_rfsrc_queue h hv hw m h0 hn he hh

end Sys2Proof.Machine

/-! # Knot instructions and LAUNCH (O34) -/

namespace Sys2Proof.Machine

open Sys2Proof

section
variable {s s1 s2 : State} {i : Nat} {t u : Team} {q : Nat → Nat → Word} {n : Nat} {a b d : Sel}

/-- What a count operation of a knot carries (R151). -/
def countAcc (l v : Nat) : Acc := { Acc.new l 0 0 1 0 [] with aux := v }

/-- KNOTINIT (R151): one count operation, of the instruction. -/
theorem exec_knotinit_of (h : Issues s i t) (hf : u.flagFull (t.setFlag true) = false) (hs : t.scalarSrc a = true) (ra : t.readable a)
    (hn : s1.knotOk t.part n = true) (hd : DrainedFor s1 i u s2)
    (hb : t.scalarSrc b = true) (rb : t.readable b) (hr : Reads t (popsOnce [(0, a), (1, b)]) u q)
    (hh : (s.after i u (popsOnce [(0, a), (1, b)])).handle i u (s.scalar t a (q 0 0)) .knot = .ok (some n) s1) :
    exec (.knotinit a b) s = .next (s2.started i u { opOf i u s2 (t.setFlag true) (.knot 0 (knotKey t.part n) t.vdie (s2.scalar u a (q 0 0)).toNat) with
      accs := [countAcc 0 (s2.scalar u b (q 1 0)).toNat], rel := t.releases, mask := 0 } []) := by
  show execKnotinit a b s = _
  unfold execKnotinit
  refine (onceAfter_after s i t u q h _ _ _ _ ?_ hr).trans ?_
  · exact firstCause_operands [(0, a), (1, b)] (by simp [hs, hb]) (by simp [ra, rb])
  · rw [scalar_after, reads_scalar hr, withKnot_of _ s1 i u _ _ _ n hh (by rwa [reads_part hr])]
    simp only [reads_setFlag hr, hf, Bool.false_eq_true, if_false]
    rw [withRelease_of s1 s2 i u _ hd]
    simp only [reads_part hr, reads_vdie hr, reads_releases hr, unpopped_ok, settle_enterOp, countAcc]

/-- KNOTADD and KNOTDEC (R21, R151): one count operation for each active lane. -/
theorem knotOp_of (fn : Nat) (h : Issues s i t) (hf : u.flagFull (t.setFlag true) = false) (hs : t.scalarSrc a = true) (ra : t.readable a)
    (hn : s1.knotOk t.part n = true) (hd : DrainedFor s1 i u s2)
    (hl : t.active.isEmpty = false) (hb : t.vectorSrc b = true) (rb : t.readable b)
    (hr : Reads t (popsOnce [(0, a)] ++ popsLanes t.active [(1, b)]) u q)
    (hh : (s.after i u (popsOnce [(0, a)] ++ popsLanes t.active [(1, b)])).handle i u (s.scalar t a (q 0 0)) .knot = .ok (some n) s1) :
    knotOp s a b fn = .next (s2.started i u { opOf i u s2 (t.setFlag true) (.knot fn (knotKey t.part n) t.vdie (s2.scalar u a (q 0 0)).toNat) with
      accs := t.active.map fun l => countAcc l (s2.src u b l (q 1 l)).toNat, rel := t.releases } []) := by
  unfold knotOp
  refine (sweepHandle_after s i t u q h _ _ _ _ _ _ ?_ hl hr).trans ?_
  · exact firstCause_operands [(0, a), (1, b)] (by simp [hs, hb]) (by simp [ra, rb])
  · rw [scalar_after, reads_scalar hr, withKnot_of _ s1 i u _ _ _ n hh (by rwa [reads_part hr]), ifActive_of _ _ _ _ (by rwa [reads_active hr])]
    simp only [reads_setFlag hr, hf, Bool.false_eq_true, if_false]
    rw [withRelease_of s1 s2 i u _ hd]
    simp only [reads_part hr, reads_vdie hr, reads_active hr, reads_releases hr, unpopped_ok, settle_enterOp, countAcc]

/-- What KNOTBIND starts with its queue resolved, or with none (R154). -/
def State.bindStarted (s : State) (i : Nat) (t u : Team) (n : Nat) (m : BitVec 6) (qk : Option Nat) : State :=
  s.started i u { opOf i u s (t.setFlag true) (.knotbind (knotKey t.part n) (t.pair m) qk) with
    accs := [countAcc 0 0], rel := t.releases, mask := 0 } []

/-- The queue that a word of KNOTBIND names (R154): none for 0, else an enabled queue, whose handle resolves. -/
def QueueNamed (s : State) (i : Nat) (u : Team) (w : Word) (qk : Option Nat) (s1 : State) : Prop :=
  (w = 0 ∧ qk = none ∧ s1 = s) ∨
    (w ≠ 0 ∧ ∃ x, s.handle i u w .queue = .ok (some x) s1 ∧ s1.queueOk u.part x = true ∧ (s1.queue (queueKey u.part x)).en = true ∧
      qk = some (queueKey u.part x))

/-- KNOTBIND (R154): the record of its pair, and the queue that it names. -/
theorem exec_knotbind_of (h : Issues s i t) (hf : u.flagFull (t.setFlag true) = false) {m : BitVec 6} (hm : m.toNat % 2 = 0)
    (h32 : t.pair m % 32 = 0) (hs : t.scalarSrc a = true) (ra : t.readable a) (hb : t.scalarSrc d = true) (rd : t.readable d)
    (hr : Reads t (popsOnce [(0, a), (2, d)]) u q) (hn : s1.knotOk t.part n = true)
    (hh : (s.after i u (popsOnce [(0, a), (2, d)])).handle i u (s.scalar t a (q 0 0)) .knot = .ok (some n) s1) {qk : Option Nat} {s3 : State}
    (hq : QueueNamed s1 i u (s1.scalar u d (q 2 0)) qk s3) (hd : DrainedFor s3 i u s2) :
    exec (.knotbind d a (.s m)) s = .next (s2.bindStarted i t u n m qk) := by
  show execKnotbind d a (.s m) s = _
  unfold execKnotbind
  refine (onceAfter_after s i t u q h _ _ _ _ ?_ hr).trans ?_
  · exact firstCause_operands [(0, a), (2, d)] (by simp [hs, hb, pairOk, hm]) (by simp [ra, rd])
  · rw [scalar_after, reads_scalar hr, withKnot_of _ s1 i u _ _ _ n hh (by rwa [reads_part hr])]
    rcases hq with ⟨h0, rfl, rfl⟩ | ⟨h0, x, hx, ho, he, rfl⟩
    · simp only [h0, if_true, reads_pair hr, h32, ne_eq, not_true_eq_false, if_false, reads_setFlag hr, hf, Bool.false_eq_true]
      rw [withRelease_of s3 s2 i u _ hd, reads_part hr, reads_releases hr, unpopped_ok, settle_enterOp]
      rfl
    · simp only [h0, if_false]
      rw [withQueueOn_of _ s3 i u _ _ _ x hx ho he]
      simp only [reads_pair hr, h32, ne_eq, not_true_eq_false, if_false, reads_setFlag hr, hf, Bool.false_eq_true]
      rw [withRelease_of s3 s2 i u _ hd, reads_part hr, reads_releases hr, unpopped_ok, settle_enterOp]
      rfl

/-- LAUNCH (R75, R78): the launches are created at issue, after the release. -/
theorem exec_launch_of (h : Issues s i t) (hf : u.flagFull (t.setFlag true) = false) (hl : t.active.isEmpty = false)
    (ha : t.vectorSrc a = true) (hb : t.scalarSrc b = true) (ra : t.readable a) (rb : t.readable b) (hr : Reads t (popsVS t a b) u q)
    (hd : DrainedFor (s.after i u (popsVS t a b)) i u s1)
    (hc : t.releases.isSome = true → s1.coveredAt (t.releases.getD 0) (some i) (s1.dom u) s1.stamp = true) (bad : List (LaneFault × Acc)) (v : Team)
    (hg : s1.launchLanes i u [] (t.active.map fun l =>
      Acc.new l ((t.pair 62 + (s.src t a l (q 0 l)).toNat + (s.scalar t b (q 1 0)).toNat) % 2 ^ 64) 64 64 0 []) = (.ok bad, s2))
    (hv : s2.team i = some v) :
    exec (.launch a b) s = .next (s2.started i v { opOf i v s2 (t.setFlag true) .launch with rel := t.releases } bad) := by
  show execLaunch a b s = _
  unfold execLaunch
  refine (sweepOn_after s i t u q h _ _ _ _ _ ?_ hl hr).trans ?_
  · exact firstCause_operands [(0, a), (1, b)] (by simp [ha, hb]) (by simp [ra, rb])
  · have hcov : (t.releases.isSome && !s1.coveredAt (t.releases.getD 0) (some i) (s1.dom u) s1.stamp) = false := by
      cases hs : t.releases.isSome with
      | false => rfl
      | true => simp [hc hs]
    simp only [reads_setFlag hr, hf, Bool.false_eq_true, if_false]
    rw [withRelease_of _ s1 i u _ hd]
    simp only [reads_releases hr, hcov, Bool.false_eq_true, if_false, reads_active hr, Team.vecAddr, reads_pair hr, src_after, scalar_after, reads_src hr,
      reads_scalar hr, hg, hv, settle_enterOp]

end

/-- Settles O34: one lemma for each instruction, KNOTADD and KNOTDEC together; KNOTBIND by the queue that it names. -/
theorem knotLaunchResult : Obligations.KnotLaunchResult := by
  intro s s1 s2 i t u q n a b d h hf fl k released one
  refine ⟨fun hs ra hn hd => ⟨fun hb rb hr hh => ?init, fun hl hb rb hr hh => ?count⟩,
    fun m hm h2 h32 hs ra hb rd hr hn hh => ?bind, fun hl ha hb ra rb hr => ?launch⟩
  case init => exact exec_knotinit_of h hf hs ra hn (drainedFor_of_reads hr hd) hb rb hr hh
  case count =>
    have hop fn := knotOp_of fn h hf hs ra hn (drainedFor_of_reads hr hd) hl hb rb hr hh
    exact ⟨hop 1, hop 2⟩
  case bind =>
    subst hm
    have hbind {qk s3} := exec_knotbind_of (s2 := s2) (qk := qk) (s3 := s3) h hf h2 h32 hs ra hb rd hr hn hh
    rw [← reads_part hr]
    exact ⟨fun h0 hd => hbind (.inl ⟨h0, rfl, rfl⟩) (drainedFor_of_reads hr hd),
      fun x s3 h0 hx ho he hd => hbind (.inr ⟨h0, x, hx, ho, he, rfl⟩) (drainedFor_of_reads hr hd)⟩
  case launch =>
    intro s0 hd hc bad v hg hv
    exact exec_launch_of h hf hl ha hb ra rb hr (drainedFor_of_reads hr hd) hc bad v hg hv

end Sys2Proof.Machine

/-! # The steps that move a team on (O47)

Each step is a chain of tests on its team's record; a lemma for each outcome that the statement names. -/

namespace Sys2Proof.Machine

open Sys2Proof

section
variable {s s1 s2 : State} {i : Nat} {x : Team}

/-! ## CLAUSE_FETCH -/

/-- What a fetch finds at a header: memory's word, or the cached clause's where the free choice falls on it (log 53). -/
def HeaderFound (s1 : State) (x : Team) (bs : List Byte) (ks : List Nat) (h : Word) (s2 : State) : Prop :=
  (s1.iclause x ((ks.head?).getD 0) = none ∧ h = bytesWord bs ∧ s2 = s1) ∨
    ∃ c, s1.iclause x ((ks.head?).getD 0) = some c ∧ s2 = (s1.choose 2).2 ∧ h = if (s1.choose 2).1 = 0 then c.clause.header else bytesWord bs

/-- CLAUSE_FETCH of a header that is there (R42 to R44): it is checked. -/
theorem exec_clauseFetch_of {h : Word} (ht : s.team i = some x) (hx : x.free = true) (hs : x.stage = .reach) (ha : x.base.toNat % 4 = 0)
    {bs : List Byte} {ks : List Nat} (hf : s.fetchPieces i x [(x.base.toNat, 4)] = .ok (bs, ks) s1) (hh : HeaderFound s1 x bs ks h s2) :
    exec (.clauseFetch i) s =
      if headerOk x.base h then
        .next ((s2.dropReplies i).setTeam i { x with clause := { header := h, instrs := [], lits := [] }, stage := .waiting })
      else .next ((s2.dropReplies i).takeTrap (checkInfo i x false .illegalHeader 0 .fetch)) := by
  have hm : execClauseFetch.misalignedPc x.base = false := by simp [execClauseFetch.misalignedPc, ha]
  show execClauseFetch i s = _
  simp only [execClauseFetch, ht, hx, hs, beq_self_eq_true, Bool.and_self, if_true, hm, Bool.false_eq_true, if_false, hf]
  rcases hh with ⟨hc, rfl, rfl⟩ | ⟨c, hc, rfl, rfl⟩ <;> simp only [hc, State.badHeader]

/-! ## CLAUSE_START -/

/-- The clause that its bytes in memory hold (R41, R43). -/
def Team.clauseFrom (x : Team) (bs : List Byte) : Clause := clauseOf (bytesWords (1 + clauseBody x.clause.header) bs)

/-- The state with a team's clause in its core's instruction-fetch cache, in the place of an older copy. -/
def State.cacheClause (s : State) (x : Team) (ks : List Nat) (c : Clause) : State :=
  { s with icache := { core := x.core, part := x.part, ctx := x.ctx, va := x.base.toNat, keys := ks, clause := c } ::
      s.icache.filter fun y => !(y.core == x.core && y.part == x.part && y.ctx == x.ctx && y.va == x.base.toNat) }

/-- CLAUSE_START of a clause fetched from memory whose header has not changed (R42): it runs, or its refill point does (R17). -/
theorem exec_clauseStart_of (ht : s.team i = some x) (hx : x.free = true) (hs : x.stage = .waiting) (hw : x.waitClear = true)
    {bs : List Byte} {ks : List Nat}
    (hf : s.fetchPieces i x (linePieces x.base.toNat (4 * (1 + clauseBody x.clause.header)) 4) = .ok (bs, ks) s1)
    (hc : s1.iclause x ((ks.head?).getD 0) = none) (hh : (x.clauseFrom bs).header = x.clause.header) :
    exec (.clauseStart i) s =
      if bit (x.clauseFrom bs).header 2 then
        .next (((s1.dropReplies i).cacheClause x ks (x.clauseFrom bs)).refillAt i { x with clause := x.clauseFrom bs })
      else .next (((s1.dropReplies i).cacheClause x ks (x.clauseFrom bs)).setTeam i ({ x with clause := x.clauseFrom bs } : Team).begin) := by
  show execClauseStart i s = _
  unfold Team.clauseFrom at hh
  simp only [execClauseStart, ht, hx, hs, hw, beq_self_eq_true, Bool.and_self, if_true, hf, hc, hh]
  unfold Team.clauseFrom State.cacheClause
  simp only [hh]

/-- A team without a refill source runs at a refill point at once (R14, R17). -/
theorem refillAt_none (h : x.refill = none) : s.refillAt i x = s.setTeam i x.begin := by
  simp only [State.refillAt, h]

/-- An operation that enters without units, faults or a flag. -/
theorem enterOp_plain (s : State) (i : Nat) (t : Team) (y : Op) (hu : y.kind.units = false) (hf : y.flag = none) :
    s.enterOp i t y [] = (s.bump.setTeam i t).setOp s.stamp { y with failed := [], refail := [], units := [] } := by
  simp [State.enterOp, hu, hf, Team.raiseFlag]

/-- The next lane of a dequeue or refill claims the first record there is (R145, R147). -/
theorem claimNext_record {o k r l : Nat} {ls : List Nat} {refill : Bool} {y : Op} {v : Nat} (hk : y.kind = .deq k r (l :: ls) refill)
    (hi : y.team = some i) (ht : s.team i = some x) (hd : y.allDone = true) (hf : y.failed = []) (hr : y.refail = [])
    (he : (s.queue k).en = true) (hv : s.firstRecord x.part x.ctx k x.vdie = some v) :
    s.claimNext o y = (s.claimHead k v).2.setOp o { y with
      kind := .deq k r ls refill, accs := y.accs ++ [claimAcc (s.queue k) l v ((s.queue k).ring v).head] } := by
  simp only [State.claimNext, hk, hi, ht, hd, hf, hr, he, hv, List.isEmpty_nil, Bool.and_self, if_true]
  rfl

/-- A refill whose queue holds a record for its first vacant lane (R17): the lane claims it while the team holds. -/
theorem refillAt_claims {k r l : Nat} {ls : List Nat} {v : Nat} (hr : x.refill = some (k, r)) (he : (s.queue k).en = true)
    (hl : x.vacant = l :: ls) (hv : s.firstRecord x.part x.ctx k x.vdie = some v) :
    let t1 := { x with stage := Stage.refill }
    let s4 := (s.enterOp i t1 { opOf i t1 s none (.deq k r (l :: ls) true) with acq := some 4 } []).modTeam i
      fun t => { t with hold := some (.opDone s.stamp) }
    s.refillAt i x = (s4.claimHead k v).2.setOp s.stamp { opOf i t1 s none (.deq k r ls true) with
      acq := some 4, accs := [claimAcc (s.queue k) l v ((s.queue k).ring v).head] } := by
  intro t1 s4
  have hs4 : s4 = (((s.bump.setTeam i t1).setOp s.stamp { opOf i t1 s none (.deq k r (l :: ls) true) with acq := some 4 }).setTeam i
      { t1 with hold := some (.opDone s.stamp) }) := by
    simp only [s4]
    rw [enterOp_plain _ _ _ _ rfl rfl]
    exact State.modTeam_of_team _ _ t1 _ (State.team_setTeam_same ..)
  have hgo : s.refillAt i x = s4.claimNext s.stamp { opOf i t1 s none (.deq k r (l :: ls) true) with acq := some 4, units := [] } := by
    have hgoes : (x.vacant.isEmpty || !(s.queue k).en || (s.firstRecord x.part x.ctx k x.vdie).isNone) = false := by simp [hl, he, hv]
    unfold State.refillAt
    split
    next h => simp [hr] at h
    next k' r' h =>
      obtain ⟨rfl, rfl⟩ : k' = k ∧ r' = r := by simpa [hr] using h.symm
      simp only [hgoes, Bool.false_eq_true, if_false]
      rw [hl]
  rw [hgo, hs4]
  exact claimNext_record (x := { t1 with hold := some (.opDone s.stamp) }) rfl rfl (State.team_setTeam_same ..) rfl rfl rfl he hv

/-! ## Refills and picks -/

/-- REFILL_WAKE of a refill that has filled lanes (R17): the team runs. -/
theorem exec_refillWake_of (ht : s.team i = some x) (hs : x.stage = .refill) (hh : x.hold = none) (hx : x.free = true) (hl : x.live ≠ 0) :
    exec (.refillWake i) s = .next (s.setTeam i { x with stage := .run, pc := x.base + 4 }) := by
  have hy : ({ x with hold := none } : Team) = x := by rw [← hh]
  show execRefillWake i s = _
  unfold execRefillWake
  rw [ht]
  dsimp only
  rw [hy, hx, hs, hh]
  simp only [beq_self_eq_true, Bool.and_self, if_true, hl, if_false]
  unfold Team.begin
  rw [← hh]

/-- The teams of a core as a pick notices them, after its clock has gone on (R160, log 65). -/
def State.noticed (s : State) (core : Nat) : State :=
  ((s.runClock core).teamsOn core).foldl (fun s' e => s'.notice e.1 ((s.runClock core).core core).clk) (s.runClock core)

/-- The teams among which a core picks. -/
def State.candidates (s : State) (core : Nat) : List (Nat × Team) := (s.teamsOn core).filter fun e => s.pickable e.1 e.2

/-- A pick that finds no team ready. -/
theorem exec_issuePick_none {core slot : Nat} (h4 : slot < 4) (he : (s.core core).enabled = true)
    (hn : (s.noticed core).firstPick ((s.noticed core).candidates core) = none) : exec (.issuePick core slot) s = .next (s.noticed core) := by
  have hg : ¬(4 ≤ slot ∨ (!(s.core core).enabled) = true) := by simp [he]; omega
  show execIssuePick core slot s = _
  unfold State.noticed State.candidates at *
  simp only [execIssuePick, hg, if_false, hn]

/-- A pick of a team. -/
theorem exec_issuePick_some {core slot j : Nat} {t y : Team} (h4 : slot < 4) (he : (s.core core).enabled = true)
    (hn : (s.noticed core).firstPick ((s.noticed core).candidates core) = some (j, t))
    (hy : ((s.noticed core).stampPick j t ((s.noticed core).candidates core)).team j = some y) :
    exec (.issuePick core slot) s = .next (((s.noticed core).stampPick j t ((s.noticed core).candidates core)).pickTeam j y) := by
  have hg : ¬(4 ≤ slot ∨ (!(s.core core).enabled) = true) := by simp [he]; omega
  show execIssuePick core slot s = _
  unfold State.noticed State.candidates at *
  simp only [execIssuePick, hg, if_false, hn, hy]

/-- A picked team with nothing left of an earlier instruction goes on to its next one (R66). -/
theorem pickTeam_next {y : Team} (hp : y.pend = []) (hr : y.redo = .none) (hq : y.pushing = none) (hh : y.hold = none) :
    s.pickTeam i y = (s.dropReplies i).issueNext i y := by
  have hy : ({ y with hold := none } : Team) = y := by rw [← hh]
  have hd : y.pendDue = false := by simp [Team.pendDue, hp]
  have hn : s.redoDue i y = false := by simp [State.redoDue, hr]
  unfold State.pickTeam
  rw [hy, hd, hn, hq, hh]
  simp only [Bool.false_eq_true, if_false]

/-! ## OPERATION_COMPLETE -/

/-- OPERATION_COMPLETE: what other devices have answered, then the operation's own end. -/
theorem exec_operationComplete_of {o : Nat} {z y : Op} (ho : s.op o = some z) (ha : s.answered o z = (s1, y)) :
    exec (.operationComplete o) s = .next (s1.completeOp o y) := by
  show execOperationComplete o s = _
  simp only [execOperationComplete, ho, ha]

/-- An operation with everything performed and no lane that faulted is over (R45). -/
theorem finishOp_ends {o : Nat} {y : Op} (hd : y.allDone = true) (hu : y.units = []) (hf : y.failed = []) (hr : y.refail = []) :
    s.finishOp o y = s.endOp o y := by
  simp [State.finishOp, hd, hu, hf, hr]

/-- A join ends once every earlier entry of its queues has completed (R247). -/
theorem finishJoin_ends {o : Nat} {y : Op} {qs : List Nat}
    (h : s.ops.all (fun e => !(decide (e.1 < o) && qs.any fun k => e.2.inQueue k)) = true) : s.finishJoin o y qs = s.endOp o y := by
  have hn : (s.ops.any fun e => decide (e.1 < o) && qs.any fun k => e.2.inQueue k) = false := by
    rw [List.any_eq_false]
    intro e he
    simpa only [Bool.not_eq_true', Bool.not_eq_true] using List.all_eq_true.mp h e he
  simp [State.finishJoin, hn]

/-! ## Wakes -/

/-- FIFO_POP_WAKE of a team that waits for an entry which has come (R238). -/
theorem exec_fifoPopWake_entry {q : Nat} {p : QPort} (ht : s.team i = some x) (hq : x.qregs[q]? = some p) (hh : x.hold = some (.fifoEmpty q))
    (hp : p.fifo ≠ []) : exec (.fifoPopWake i) s = .next (s.setTeam i { x with hold := none }) := by
  show execFifoPopWake i s = _
  simp [execFifoPopWake, ht, hh, hq, hp]

/-- FIFO_POP_WAKE of a team that waits for room in a private FIFO (R238). -/
theorem exec_fifoPopWake_room {q : Nat} {p : QPort} (ht : s.team i = some x) (hq : x.qregs[q]? = some p) (hh : x.hold = some (.fifoFull q))
    (hb : p.bind = .fifo) (hp : p.fifo.length < Config.fifoDepth) : exec (.fifoPopWake i) s = .next (s.setTeam i { x with hold := none }) := by
  show execFifoPopWake i s = _
  simp [execFifoPopWake, ht, hh, hq, hb, hp]

/-- PRESENCE_WAKE of a team held at a line that is present (R217). -/
theorem exec_presenceWake_of {key : Nat} {c : Cluster} (ht : s.team i = some x) (h1 : x.halted = false) (h2 : x.debug = false)
    (hh : x.hold = some (.absent key)) (hc : s.cluster x.cluster = some c) (hp : c.present key = true) :
    exec (.presenceWake i) s = .next (s.setTeam i { x with hold := none }) := by
  show execPresenceWake i s = _
  simp only [execPresenceWake, ht, h1, h2, Bool.or_self, Bool.false_eq_true, if_false, hh, hc, hp, if_true]

/-- TACK_WAKE: the team goes on, having acquired at CLUSTER scope (R220, R252). -/
theorem exec_tackWake_of (ht : s.team i = some x) (h1 : x.halted = false) (h2 : x.debug = false) (hh : x.hold = some .tackDone) :
    let y := { x with hold := none }
    exec (.tackWake i) s = .next { s.setTeam i { y with acq := (s.setTeam i y).acquireAt y 2 } with stamp := s.stamp + 1 } := by
  intro y
  show execTackWake i s = _
  have hgo : x.hold = some .tackDone ∧ !x.halted ∧ !x.debug := ⟨hh, by simp [h1], by simp [h2]⟩
  unfold execTackWake
  rw [ht]
  dsimp only
  rw [if_pos hgo, State.tackAcquire, State.acquire, State.modTeam_setTeam]
  rfl

end

/-- Settles O47: a lemma for each step and outcome; CLAUSE_FETCH, CLAUSE_START and ISSUE_PICK by the last test that they make. -/
theorem sequencingResult : Obligations.SequencingResult := by
  intro s s1 i x ht
  refine ⟨fun hx hs ha bs ks h s2 hf hh => ?fetch, fun hx hs hw bs ks hf hc => ?start, fun hs hh hx hl => exec_refillWake_of ht hs hh hx hl,
    fun core slot h4 he => ?pick, fun o z y ho ha => ⟨fun hk hd hu hf hr => ?ends, fun hk => ?fence, fun qs hk hq => ?join⟩,
    fun q p hq => ⟨fun hh hp => exec_fifoPopWake_entry ht hq hh hp, fun hh hb hp => exec_fifoPopWake_room ht hq hh hb hp⟩,
    fun key c h1 h2 hh hc hp => exec_presenceWake_of ht h1 h2 hh hc hp, fun h1 h2 hh => exec_tackWake_of ht h1 h2 hh, fun part ctx slot => rfl⟩
  case fetch =>
    rw [exec_clauseFetch_of ht hx hs ha hf hh]
    exact ⟨fun hk => if_pos hk, fun hk => if_neg (by simp [hk])⟩
  case start =>
    intro c copy s3 hk
    rw [exec_clauseStart_of ht hx hs hw hf hc hk]
    refine ⟨fun hn => ?none, fun hb k r l ls v hr he hl hv => ?claims⟩
    case none =>
      by_cases hb : bit (x.clauseFrom bs).header 2 = true
      · have hr : ({ x with clause := x.clauseFrom bs } : Team).refill = none := hn.resolve_left (ne_false_of_eq_true hb)
        rw [if_pos hb, refillAt_none hr]
        rfl
      · exact if_neg hb
    case claims => exact (if_pos hb).trans (congrArg _ (refillAt_claims hr he hl hv))
  case pick =>
    intro sr s2 cands
    refine ⟨fun hn => exec_issuePick_none h4 he hn, fun j t y hn hy => ?_⟩
    intro s3 s4 hp hr hq hh
    rw [exec_issuePick_some h4 he hn hy, pickTeam_next hp hr hq hh]
    exact ⟨fun hb => congrArg _ (if_pos hb), fun hb => congrArg _ (if_neg (ne_true_of_eq_false hb))⟩
  case ends =>
    rw [exec_operationComplete_of ho ha, ← finishOp_ends hd hu hf hr]
    rcases hk with hk | hk | hk | hk | hk | ⟨p, sc, n, sg, hk⟩ <;> simp only [State.completeOp, hk]
  case fence =>
    rw [exec_operationComplete_of ho ha]
    simp only [State.completeOp, hk]
  case join =>
    rw [exec_operationComplete_of ho ha, ← finishJoin_ends hq]
    simp only [State.completeOp, hk]

end Sys2Proof.Machine

/-! # The steps of queues, knots, launches and places (O49) -/

namespace Sys2Proof.Machine

open Sys2Proof

/-! ## Records of queues -/

section
variable {s s1 : State} {o : Nat} {x : Op} {q k : Nat} {a : Acc}

/-- RECORD_DELIVERY of a published record that its slot still holds (R17, R145). -/
theorem exec_recordDelivery_of {r : Nat} {todo : List Nat} {refill : Bool} {bs : List Byte} (ho : s.op o = some x)
    (hk : x.kind = .deq q r todo refill) (hd : s.deliverableRecord q x = some k) (ha : x.accs[k]? = some a) (hm : x.mig = false)
    (hq : s.acquires x.team o = false) (hr : s.agentRead x.part x.ctx (coreDie x.core) a.va 32 = .ok bs s1) :
    exec (.recordDelivery o) s = .next ((s1.forget.giveRecord o x k r a refill bs).unpublish q a.aux a.reg) := by
  show execRecordDelivery o s = _
  simp only [execRecordDelivery, ho, hk, hd, ha, hm, hq, Bool.or_self, Bool.false_eq_true, if_false, hr]

/-- DEQ_RESUME (R145): the next lane of a DEQ claims the record that has come. -/
theorem exec_deqResume_of {i r l v : Nat} {ls : List Nat} {t : Team} (ht : s.team i = some t) (hh : t.hold = some (.opDone o)) (ho : s.op o = some x)
    (hp : t.place = .placed) (h1 : t.halted = false) (h2 : t.trap = none) (hk : x.kind = .deq q r (l :: ls) false) (hi : x.team = some i)
    (hd : x.allDone = true) (hf : x.failed = []) (hr : x.refail = []) (he : (s.queue q).en = true)
    (hv : s.firstRecord t.part t.ctx q t.vdie = some v) :
    exec (.deqResume i) s = .next ((s.claimHead q v).2.setOp o { x with
      kind := .deq q r ls false, accs := x.accs ++ [claimAcc (s.queue q) l v ((s.queue q).ring v).head] }) := by
  show execDeqResume i s = _
  simp only [execDeqResume, ht, hh, ho, hp, h1, h2, Bool.not_false, and_self, if_true]
  rw [claimNext_record hk hi ht hd hf hr he hv]

/-- The first access of an operation that is not done, as ENQ_PUBLISH looks for it. -/
theorem find_firstUndone (ha : x.accs[k]? = some a) (hd : a.done = false) (hb : ∀ j < k, ∀ b, x.accs[j]? = some b → b.done = true) :
    ((List.range x.accs.length).find? fun k => ((x.accs[k]?).map (!·.done)).getD false) = some k := by
  obtain ⟨hk, -⟩ := List.getElem?_eq_some_iff.mp ha
  rw [List.find?_range_eq_some]
  refine ⟨by simp [ha, hd], by simpa using hk, fun j hj => ?_⟩
  have hj' : x.accs[j]? = some x.accs[j] := List.getElem?_eq_getElem (by omega)
  rw [hj', Option.map_some, Option.getD_some, hb j hj _ hj']
  rfl

/-- ENQ_PUBLISH (R143): the next record is written into its slot and published. -/
theorem exec_enqPublish_of (ho : s.op o = some x) (hk : x.kind = .enq q) (ha : x.accs[k]? = some a) (hd : a.done = false)
    (hb : ∀ j < k, ∀ b, x.accs[j]? = some b → b.done = true) (hm : x.mig = false) (hw : s.writeHeld o x = false)
    (hr : s.writeRecord x.part x.ctx (coreDie x.core) a.va a.data = .ok () s1) :
    exec (.enqPublish o) s = .next ((s1.setOp o (x.markDone k)).publish q a.aux a.reg) := by
  show execEnqPublish o s = _
  simp only [execEnqPublish, ho, hk, find_firstUndone ha hd hb, ha, hm, hw, Bool.or_self, Bool.false_eq_true, if_false, hr]

/-! ## Count operations and firings of knots -/

/-- KNOT_OPERATION of a count operation (R151). -/
theorem exec_knotOperation_count {fn key vdie obj : Nat} (ho : s.op o = some x) (hw : s.writeHeld o x = false) (hk : x.kind = .knot fn key vdie obj)
    (ha : (x.accs.zipIdx.find? fun a => !a.1.done && a.1.size == 0) = some (a, k)) :
    exec (.knotOperation o) s = .next (s.knotLane o x fn key vdie obj k a) := by
  show execKnotOperation o s = _
  simp only [execKnotOperation, ho, hw, Bool.false_eq_true, if_false, hk, ha]

/-- KNOT_OPERATION of a KNOTBIND (R154). -/
theorem exec_knotOperation_bind {key rec1 : Nat} {qk : Option Nat} (ho : s.op o = some x) (hw : s.writeHeld o x = false)
    (hk : x.kind = .knotbind key rec1 qk) (ha : x.firstOpen = some (k, a)) :
    exec (.knotOperation o) s = .next ((s.setOp o (x.markDone k)).setKnot key { s.knot key with record := rec1, queue := qk }) := by
  show execKnotOperation o s = _
  simp only [execKnotOperation, ho, hw, Bool.false_eq_true, if_false, hk, ha]

section
variable (s : State) (o : Nat) (x : Op) (key vdie obj k : Nat) (a : Acc)

/-- KNOTINIT sets the count (R151). -/
theorem knotLane_init : s.knotLane o x 0 key vdie obj k a = (s.setOp o (x.markDone k)).setKnot key { s.knot key with count := a.aux } := by
  simp [State.knotLane]

/-- KNOTADD adds to it, below 2^32 (R151). -/
theorem knotLane_add (h : (s.knot key).count + a.aux < 2 ^ 32) :
    s.knotLane o x 1 key vdie obj k a = (s.setOp o (x.markDone k)).setKnot key { s.knot key with count := (s.knot key).count + a.aux } := by
  simp only [State.knotLane, Nat.one_ne_zero, if_false, if_true, h]

/-- KNOTDEC takes from it what it holds more of (R151). -/
theorem knotLane_dec (h0 : a.aux ≠ 0) (h : a.aux < (s.knot key).count) :
    s.knotLane o x 2 key vdie obj k a = (s.setOp o (x.markDone k)).setKnot key { s.knot key with count := (s.knot key).count - a.aux } := by
  have hu : ¬(s.knot key).count < a.aux := by omega
  have hz : (s.knot key).count ≠ a.aux := by omega
  simp only [State.knotLane, OfNat.ofNat_ne_zero, OfNat.ofNat_ne_one, if_false, hu, h0, hz]

/-- KNOTDEC of all that it holds fires the knot (R150). -/
theorem knotLane_fires (h0 : a.aux ≠ 0) (h : a.aux = (s.knot key).count) :
    s.knotLane o x 2 key vdie obj k a =
      ((s.setOp o { x with accs := x.accs.modify k fun a => { a with size := 1 } }).setKnot key { s.knot key with count := 0 }).fire key x.part x.ctx vdie
        obj (some (.lane o a.lane)) := by
  simp only [State.knotLane, OfNat.ofNat_ne_zero, OfNat.ofNat_ne_one, if_false, if_true, h0, h.symm, Nat.lt_irrefl]

/-- KNOTDEC of more than it holds faults (R151). -/
theorem knotLane_underflow (h : (s.knot key).count < a.aux) :
    s.knotLane o x 2 key vdie obj k a = s.setOp o (x.failLane k a .knotUnderflow) := by
  simp only [State.knotLane, OfNat.ofNat_ne_zero, OfNat.ofNat_ne_one, if_false, if_true, h]

end

end

/-- The head firing of a knot whose record has been read, in a queue with room (R150, R153): its slot is claimed, which is all that its operation waits
for, and the record is written and published. -/
theorem fireHead_publishes {s s2 : State} {kn v : Nat} {f : Firing} {rest : List Firing} {bs : List Byte} (hf : (s.knot kn).firing = f :: rest)
    (hh : f.held = false) (hm : f.mig = false) (hc : f.claim = none) (hd : f.data = some bs) (he : (s.queue f.queue).en = true)
    (hv : s.firstRoom f.part f.ctx f.queue f.vdie = some v) :
    let s1 := (s.claimTail f.queue v).2.fireReleases f
    s1.writeRecord f.part f.ctx (s1.fireDie f) ((s1.queue f.queue).recAddr v ((s.queue f.queue).ring v).tail) bs = .ok () s2 →
      s.fireHead kn = (s2.forget.setKnot kn { s2.knot kn with firing := rest }).publish f.queue v ((s.queue f.queue).ring v).tail := by
  obtain ⟨record, queue, vdie, part, ctx, obj, op, who, data, claim, held, mig⟩ := f
  subst hh hm hc hd
  intro s1 hw
  unfold State.fireHead
  rw [hf]
  simp only [Bool.or_self, Bool.false_eq_true, if_false, Option.isNone_none, Bool.true_and, he, Bool.not_true, hv, Option.map_some, if_true]
  simp only [State.fireDie, s1] at hw ⊢
  rw [hw]

theorem knot_setKnot_same (s : State) (k : Nat) (x : Knot) : (s.setKnot k x).knot k = x := cellGet_cellPut_same _ _ _ _

/-- Where the operations of the firings behind it have completed, a knot goes on with its head firing (R152, R153). -/
theorem fireNext_head {s : State} {kn : Nat} {f : Firing} {rest : List Firing} (hf : (s.knot kn).firing = f :: rest)
    (hr : ∀ g ∈ rest, g.op = none) : s.fireNext kn = (s.setKnot kn (s.knot kn)).fireHead kn := by
  have hk : ({ s.knot kn with firing := f :: rest } : Knot) = s.knot kn := by rw [← hf]
  unfold State.fireNext
  rw [hf]
  dsimp only
  rw [fireBehind_fold s rest [] hr]
  simp only [List.nil_append]
  rw [hk]

/-- KNOT_FIRE_RETRY of a firing whose queue has room (R153). -/
theorem exec_knotFireRetry_of {s s2 : State} {p n v : Nat} {f : Firing} {rest : List Firing} {bs : List Byte}
    (hf : (s.knot (knotKey p n)).firing = f :: rest) (hh : f.held = false) (hm : f.mig = false) (hc : f.claim = none) (hd : f.data = some bs)
    (hr : ∀ g ∈ rest, g.op = none) (he : (s.queue f.queue).en = true) (hv : s.firstRoom f.part f.ctx f.queue f.vdie = some v) :
    let slot := ((s.queue f.queue).ring v).tail
    let s1 := ((s.setKnot (knotKey p n) (s.knot (knotKey p n))).claimTail f.queue v).2.fireReleases f
    s1.writeRecord f.part f.ctx (s1.fireDie f) ((s1.queue f.queue).recAddr v slot) bs = .ok () s2 →
      exec (.knotFireRetry p n) s =
        .next ((s2.forget.setKnot (knotKey p n) { s2.knot (knotKey p n) with firing := rest }).publish f.queue v slot) := by
  intro slot s1 hw
  show execKnotFireRetry p n s = _
  rw [execKnotFireRetry, fireNext_head hf hr]
  exact congrArg _ (fireHead_publishes (by rw [knot_setKnot_same, hf]) hh hm hc hd he hv hw)

/-! ## Places -/

/-- CLUSTER_PLACE of a cluster that fits (R59 to R62): what the statement gives is the step's own state. -/
theorem exec_clusterPlace_of {s : State} {g vd origin h w die : Nat} {x : Grid} (hg : recFind s.grids g = some x) (hs : shapeOf x.shape = some (h, w))
    (hp : s.physDie x.part x.ctx vd = some die) (hf : s.clusterFits x die (origin / 8) (origin % 8) h w = true) :
    let cores := rectCores die (origin / 8) (origin % 8) h w
    let c : Cluster :=
      { grid := g, part := x.part, ctx := x.ctx, cid := x.next, die := die, row := origin / 8, col := origin % 8, h := h, w := w,
        share := 128 * ceilDiv x.scratch (h * w), fuse := x.fuse && decide (1 < h * w), cells := [], absent := [], spoiled := [], away := [] }
    let s1 := cores.foldl (fun s k => s.carveTo k x.carve) s.bump
    let s2 : State := { s1 with clusters := cellPut s1.clusters s.stamp c, grids := cellPut s1.grids g { x with next := x.next + 1, running := x.running + 1 } }
    exec (.clusterPlace g vd origin) s =
      .next (s2.placeTeams x x.next s.stamp vd (h * w) cores ((teamRoles x.roles).zipIdx.map fun r => (r.2, r.1))) := by
  show execClusterPlace g vd origin s = _
  simp only [execClusterPlace, hg, hs, hp, hf, if_true]

section
variable {s s1 : State} {i : Nat} {t : Team}

/-- TEAM_SPILL of a team that has been idle long enough (R162). -/
theorem exec_teamSpill_of (ht : s.team i = some t) (hp : t.place = .placed) (h1 : t.halted = false) (h2 : t.debug = false) (hl : t.mayLeave = true)
    (hr : s.wouldRun i t = false) (h0 : t.idle ≠ 0) (hi : t.idle + Config.spillCycles ≤ (s.core t.core).clk + 1) (hc : s.noClaim i = true)
    (hk : s.tokenWait t = false) (hh : s.spillHelps i t = true) :
    let va := s.saveSlot t
    let bs := (List.range (Config.sealLen s.stamp % 0x180001)).map fun k => Config.freeByte s.stamp k
    s.agentPut t.part t.ctx (coreDie t.core) none va bs (piecesOf va bs.length) = .ok () s1 →
      exec (.teamSpill i) s = .next ((s1.leaveL1 t).bump.setTeam i { t with place := .spilled }) := by
  intro va bs hw
  have hgo : (t.place == .placed && !t.halted && !t.debug && t.mayLeave && !s.wouldRun i t && t.idle != 0
      && decide (Config.spillCycles ≤ (s.core t.core).clk + 1 - t.idle) && s.noClaim i && !s.tokenWait t && s.spillHelps i t) = true := by
    simp only [hp, h1, h2, hl, hr, hc, hk, hh, bne_iff_ne, ne_eq, h0, Bool.and_eq_true, decide_eq_true_eq, beq_self_eq_true, Bool.not_false, and_self,
      not_false_eq_true, true_and, and_true]
    omega
  show execTeamSpill i s = _
  unfold execTeamSpill
  rw [ht]
  dsimp only
  rw [if_pos hgo, hw]

/-- TEAM_RESTORE of a team that finds room (R162, R364). -/
theorem exec_teamRestore_of (ht : s.team i = some t) (hw : s.wantsBack i t = true) (hb : s.backHome i t = some s1) :
    exec (.teamRestore i) s = .next (s1.modTeam i fun y => { y with idle := 0, age := s.stamp, passed := 0 }).bump := by
  show execTeamRestore i s = _
  simp only [execTeamRestore, ht, hw, if_true, hb]

end

/-- LINING_FLIP where no other context has undrained state in the core's copies (R363). -/
theorem exec_liningFlip_of {s : State} {core p c : Nat} (hf : s.flips p c = true) (hd : s.flipDue core p c = true) (hm : s.mmaDue core p c = false)
    (ho : ∀ d < 64, d ≠ c → s.liningHeld core p d = false) :
    let s1 := ((s.teamsOn core).filter fun (e : Nat × Team) => e.2.part == p && e.2.ctx == c).foldl (fun (s : State) (e : Nat × Team) => s.leaveL1 e.2) s
    exec (.liningFlip core p c) s = .next { s1 with
      teams := s1.teams.map fun (e : Nat × Team) =>
        if e.2.core == core && e.2.part == p && e.2.ctx == c then
          (if e.2.place == .placed then (e.1, { e.2 with place := .lining })
           else if e.2.rowsOn && e.2.rowsAway.isNone then (e.1, { e.2 with rowsAway := some false }) else e)
        else e
      clusters := s1.clusters.map fun (e : Nat × Cluster) =>
        if e.2.part == p && e.2.ctx == c && e.2.cores.contains core && !(e.2.away.any fun a => a.1 == core) then
          (e.1, { e.2 with away := (core, false) :: e.2.away }) else e } := by
  have hno : ((List.range 64).filter fun d => d != c && s.liningHeld core p d) = [] := by
    rw [List.filter_eq_nil_iff]
    intro d hd hb
    simp only [Bool.and_eq_true, bne_iff_ne, ne_eq] at hb
    simp [ho d (List.mem_range.mp hd) hb.1] at hb
  show execLiningFlip core p c s = _
  simp only [execLiningFlip, hf, hd, hm, Bool.not_false, Bool.and_self, if_true, hno, List.foldl_nil]

/-- LINING_DRAIN of what lies in a core's copies (R363). -/
theorem exec_liningDrain_of {s : State} {core p c : Nat} (h : s.liningHeld core p c = true) :
    exec (.liningDrain core p c) s = .next (s.drainLining core p c) := by
  show execLiningDrain core p c s = _
  simp only [execLiningDrain, h, if_true]

/-! ## Fault records -/

section
variable {s s1 : State} {p c k : Nat} {r : List Word} {rs : FaultBlock} {bs : List FaultBlock}

/-- FAULT_PART_ENQUEUE of an owner's record that enters its queue (R326). -/
theorem exec_faultPartEnqueue_owner (ho : (s.ctx p c).ownParts = (r :: rs) :: bs) (hm : (s.ctx p c).ownMig = false)
    (he : s.enqueueFault (ctxKey p c) p c (s.ctx p c).fqOwn r = (s1, .queue k)) :
    exec (.faultPartEnqueue p c false) s = .next (s1.setCtx p c { s1.ctx p c with
      ownParts := dropRecord ((r :: rs) :: bs), ownOpen := if blockLeft (r :: rs) then some k else none }) := by
  show execFaultPartEnqueue p c false s = _
  simp only [execFaultPartEnqueue, Bool.false_eq_true, if_false, ho, hm, he]

/-- The same of the operator's record. -/
theorem exec_faultPartEnqueue_operator {d : Nat} (hd : s.operatorCtx p = some d) (ho : (s.part p).opParts = (r :: rs) :: bs)
    (hm : (s.part p).opMig ≠ some d) (he : s.enqueueFault (ctxKey 4 0) p d (s.part p).fqOp r = (s1, .queue k)) :
    exec (.faultPartEnqueue p c true) s = .next (s1.setPart p { s1.part p with opParts := dropRecord ((r :: rs) :: bs) }) := by
  show execFaultPartEnqueue p c true s = _
  simp only [execFaultPartEnqueue, if_true, hd, ho, hm, if_false, he]

end

/-- Settles O49: a lemma for each step; KNOT_OPERATION is `State.knotLane`, by the function and the count. -/
theorem taskResult : Obligations.TaskResult := by
  intro s
  refine ⟨fun o x q r todo refill k a bs s1 ho hk hd ha hm hq hr => exec_recordDelivery_of ho hk hd ha hm hq hr,
    fun i t o x q r l ls v ht hh ho hp h1 h2 hk hi hd hf hr he hv => exec_deqResume_of ht hh ho hp h1 h2 hk hi hd hf hr he hv,
    fun o x q k a s1 ho hk ha hd hb hm hw hr => exec_enqPublish_of ho hk ha hd hb hm hw hr,
    fun o x ho hw => ⟨fun fn key vdie obj k a hk ha => ?count, fun key rec1 qk k a hk ha => exec_knotOperation_bind ho hw hk ha⟩,
    fun p n f rest bs v s2 hf hh hm hc hd hr he hv => exec_knotFireRetry_of hf hh hm hc hd hr he hv,
    fun g vd origin x h w die hg hs hp hf => exec_clusterPlace_of hg hs hp hf,
    fun i t s1 ht => ⟨fun hp h1 h2 hl hr h0 hi hc hk hh => exec_teamSpill_of ht hp h1 h2 hl hr h0 hi hc hk hh,
      fun hw hb => exec_teamRestore_of ht hw hb⟩,
    fun core p c hf hd hm ho => exec_liningFlip_of hf hd hm ho, fun core p c h => exec_liningDrain_of h,
    fun p c d r rs bs s1 k => ⟨fun ho hm he => exec_faultPartEnqueue_owner ho hm he, fun hd ho hm he => exec_faultPartEnqueue_operator hd ho hm he⟩⟩
  case count =>
    intro n s1
    rw [exec_knotOperation_count ho hw hk ha]
    refine ⟨?init, ?add, ?dec, ?fires, ?underflow⟩
    case init =>
      rintro rfl
      exact congrArg _ (knotLane_init ..)
    case add =>
      rintro rfl h
      exact congrArg _ (knotLane_add _ _ _ _ _ _ _ _ h)
    case dec =>
      rintro rfl h0 h
      exact congrArg _ (knotLane_dec _ _ _ _ _ _ _ _ h0 h)
    case fires =>
      rintro rfl h0 h
      exact congrArg _ (knotLane_fires _ _ _ _ _ _ _ _ h0 h)
    case underflow =>
      rintro h rfl
      exact congrArg _ (knotLane_underflow _ _ _ _ _ _ _ _ h)

end Sys2Proof.Machine

/-! # Control instructions (O6) -/

namespace Sys2Proof.Machine

open Sys2Proof

/-- An operand that names no queue register pops nothing and fails no check of one. -/
theorem popsOnce_of_not_isQ {n : Nat} {b : Sel} (h : isQ b = false) : popsOnce [(n, b)] = [] := by
  cases b with
  | q n => cases h
  | _ => rfl
theorem readable_of_not_isQ {b : Sel} (t : Team) (h : isQ b = false) : t.readable b := by
  cases b with
  | q n => cases h
  | _ => rfl

section
variable {s : State} {i : Nat} {t u : Team} {q : Nat → Nat → Word} {b d : Sel}

/-- The checks of an instruction whose one test is that of its one scalar source (R80, R237). -/
theorem firstCause_source {f : Nat} (hb : t.scalarSrc b = true) (rb : t.readable b) :
    firstCause ([need (t.scalarSrc b) .illegalOperand] ++ [(f, b)].map fun x => t.popCheck x.2) = none :=
  firstCause_operands [(f, b)] hb (by simpa using rb)

/-- An instruction that reads its operands and does nothing more leaves its team past it, with its popped words taken. -/
theorem settle_after {pops : List Pop} (h : Issues s i t) (hr : Reads t pops u q) : settle i t (.ok (s.after i u pops)) = s.done i u := by
  unfold Reads at hr
  unfold State.after
  split at hr
  case isTrue hp =>
    rw [if_pos hp, hr.1]
    exact settle_none s i t h
  case isFalse hp =>
    rw [if_neg hp]
    exact settle_setTeam s i t u

theorem exec_nop_of (h : Issues s i t) : exec .nop s = .next (s.done i t) := by
  show execNop s = _
  rw [execNop, once_plain s i t h _ _ rfl, settle_setTeam]

theorem exec_yield_of (h : Issues s i t) : exec .yield s = .next (s.bump.done i { t with age := s.stamp, passed := 0 }) := by
  show execYield s = _
  rw [execYield, once_plain s i t h _ _ rfl]
  exact congrArg _ (settle_setTeam s.bump i t _)

theorem exec_getmode_of (h : Issues s i t) (pd : t.pushCheck d = none) (hd : t.takes d) : exec (.getmode d) s = .next (s.done i (t.put d t.mode)) := by
  show execGetmode d s = _
  rw [execGetmode, once_plain s i t h _ _ (by simp [need, firstCause, takes_scalarDst t d hd, pd])]
  exact congrArg _ (settle_put_after s i t t t d t.mode [] hd)

theorem exec_setmode_of (h : Issues s i t) (hb : t.scalarSrc b = true) (rb : t.readable b) (hr : Reads t (popsOnce [(1, b)]) u q)
    (hv : modeOk (s.scalar u b (q 1 0)) = true) : exec (.setmode b) s = .next (s.done i { u with mode := s.scalar u b (q 1 0) }) := by
  show execSetmode b s = _
  rw [execSetmode, once_after s i t u q h _ _ _ (firstCause_source hb rb) hr]
  simp only [scalar_after, hv, if_true]
  exact congrArg _ (settle_setTeam_if s i t _ u _)

/-- The fields of WAITD's operand (R98): below bit 13 the reserved bits are clear, and bit 12 says whether unflagged operations count. -/
theorem waitd_reserved {v : Word} (h : v.toNat < 2 ^ 13) : bits v 31 13 = 0 := by
  simp only [bits, Nat.shiftRight_eq_div_pow]
  omega
theorem waitd_flags_only {v : Word} (h : v.toNat < 2 ^ 12) : bit v 12 = false := Nat.testBit_lt_two_pow h
theorem waitd_all {v : Word} (h : 2 ^ 12 ≤ v.toNat) (h' : v.toNat < 2 ^ 13) : bit v 12 = true := Nat.testBit_of_two_pow_le_and_two_pow_add_one_gt h h'

/-- WAITD of flags alone, all of them clear (R98). -/
theorem exec_waitd_flags (h : Issues s i t) (hb : t.scalarSrc b = true) (rb : t.readable b) (hr : Reads t (popsOnce [(1, b)]) u q)
    (hv : (s.scalar u b (q 1 0)).toNat < 2 ^ 12) (hf : ∀ n (h : n < 12), (s.scalar u b (q 1 0)).getLsbD n = true → u.flags[n] = 0) :
    exec (.waitd b) s = .next (s.done i u) := by
  have hw (s : State) (k : Nat) := waiting_false s i u _ false k hf (fun h => nomatch h)
  show execWaitd b s = _
  rw [execWaitd, once_after s i t u q h _ _ _ (firstCause_source hb rb) hr]
  simp only [scalar_after, waitd_reserved (Nat.lt_trans hv (by decide)), waitd_flags_only hv, hw, ne_eq, not_true_eq_false, if_false,
    Bool.false_eq_true]
  exact congrArg _ (settle_after h hr)

/-- WAITD with bit 12, its flags clear, once the posted entries have drained and no unflagged operation is left (R98, R284). -/
theorem exec_waitd_all {v : State} (h : Issues s i t) (hb : t.scalarSrc b = true) (hq : isQ b = false) (h12 : 2 ^ 12 ≤ (s.scalar t b 0).toNat)
    (h13 : (s.scalar t b 0).toNat < 2 ^ 13) (hd : ({ s with cur := none } : State).drainAll i = .ok v)
    (hf : ∀ n (h : n < 12), (s.scalar t b 0).getLsbD n = true → t.flags[n] = 0)
    (ho : ∀ o ∈ v.ops, o.2.team = some i → o.2.flag = none → o.2.kind.fromPush = false → v.stamp ≤ o.1) :
    exec (.waitd b) s = .next (v.modTeam i fun t => t.finish.next) := by
  have hw := waiting_false v i t _ true v.stamp hf (fun _ => ho)
  have hr : Reads t (popsOnce [(1, b)]) t (fun _ _ => 0) := by rw [popsOnce_of_not_isQ hq]; exact reads_nil t
  have hd' : (s.after i t (popsOnce [(1, b)])).drainAll i = .ok v := by rw [popsOnce_of_not_isQ hq]; exact hd
  show execWaitd b s = _
  rw [execWaitd, once_after s i t t _ h _ _ _ (firstCause_source hb (readable_of_not_isQ t hq)) hr]
  simp only [scalar_after, waitd_reserved h13, waitd_all h12 h13, ne_eq, not_true_eq_false, if_false, if_true, hd', hw, Bool.false_eq_true]
  rfl

end

/-- Settles O6: a lemma for each instruction, and for WAITD one with bit 12 and one without. -/
theorem controlResult : Obligations.ControlResult := by
  intro s i t u q d b h
  exact ⟨exec_nop_of h, exec_yield_of h, exec_getmode_of h,
    fun hb rb hr => ⟨exec_setmode_of h hb rb hr, exec_waitd_flags h hb rb hr⟩,
    fun _ hb hq h12 h13 hd hf ho => exec_waitd_all h hb hq h12 h13 hd hf ho⟩

end Sys2Proof.Machine

/-! # Branches (O7)

Past its checks every branch comes to `State.branched` of its test and target; the statement's clauses are that one outcome, by the target's alignment. -/

namespace Sys2Proof.Machine

open Sys2Proof

/-- Where a branch of team i leaves it, `u` its record to go on with (R46, R87): at the target where it is taken and the target is aligned, with ALIGN at the branch where it is not, else at the fall-through clause. -/
def State.branched (s : State) (i : Nat) (t u : Team) (pops : List Pop) (taken : Bool) (a : Word) : State :=
  if taken then
    if a.toNat % 4 = 0 then s.gone i u a else (s.after i u pops).takeTrap (checkInfo i t true .align 0 .whole)
  else s.gone i u t.fall

section
variable {s : State} {i : Nat} {t u : Team} {q : Nat → Nat → Word} {pops : List Pop} {taken : Bool} {a b d : Sel} {x : Word}

theorem branched_taken_aligned (hx : x.toNat % 4 = 0) : s.branched i t u pops true x = s.gone i u x := by simp [State.branched, hx]

theorem branched_taken_misaligned (hx : x.toNat % 4 ≠ 0) :
    s.branched i t u pops true x = (s.after i u pops).takeTrap (checkInfo i t true .align 0 .whole) := by simp [State.branched, hx]

theorem branched_aligned {p : Prop} [Decidable p] (hx : x.toNat % 4 = 0) :
    s.branched i t u pops (decide p) x = s.gone i u (if p then x else t.fall) := by
  by_cases hp : p <;> simp [State.branched, hx, hp]

theorem branched_misaligned {p : Prop} [Decidable p] (hx : x.toNat % 4 ≠ 0) :
    s.branched i t u pops (decide p) x = if p then (s.after i u pops).takeTrap (checkInfo i t true .align 0 .whole) else s.gone i u t.fall := by
  by_cases hp : p <;> simp [State.branched, hx, hp]

/-- The target's test and the jump that BR, JMP and CALL end in, settled. -/
theorem settle_target : settle i t (if misaligned x then .check .align true (s.after i u pops) else .jump ((s.after i u pops).setTeam i u) x) =
    s.branched i t u pops true x := by
  by_cases hx : x.toNat % 4 = 0
  · simp only [misaligned, State.branched, hx, ne_eq, not_true_eq_false, decide_false, Bool.false_eq_true, if_false, if_true]
    exact settle_jump_if s i t u u x _
  · simp only [misaligned, State.branched, hx, ne_eq, not_false_eq_true, decide_true, if_true, if_false]
    exact settle_check_align ..

/-- A branch's target or fall-through clause, settled. -/
theorem settle_branchTo (hf : u.fall = t.fall) :
    settle i t (branchTo i u (s.after i u pops) taken b) = s.branched i t u pops taken (s.scalar u b 0) := by
  cases taken
  case true =>
    simp only [branchTo, if_true, scalar_after]
    exact settle_target
  case false =>
    simp only [branchTo, State.branched, Bool.false_eq_true, if_false, hf]
    exact settle_jump_if s i t u u t.fall _

/-- A branch in its clause's last place, past its checks (R46, R87). -/
theorem branch_of (ok : Team → Bool) (ss : List (Nat × Sel)) (p : Team → (Nat → Word) → State → Bool) (h : Issues s i t) (hl : t.isLast = true)
    (hb : t.slotOk b = true) (ho : ok t = true) (rs : ∀ f ∈ ss, t.readable f.2) (hr : Reads t (popsOnce ss) u q) :
    once s (branchChecks b ok) ss (fun i t q s1 => branchTo i t s1 (p t q s1) b) =
      .next (s.branched i t u (popsOnce ss) (p u (fun f => q f 0) (s.after i u (popsOnce ss))) (s.scalar t b 0)) := by
  rw [once_after s i t u q h _ _ _ ?_ hr]
  · rw [settle_branchTo (reads_fall hr), reads_scalar hr]
  · simpa [branchChecks, need, hl, ho, hb, firstCause, Function.comp_def] using firstCause_readable t ss rs

section
variable (h : Issues s i t) (hl : t.isLast = true)
include h hl

theorem exec_br_of (hb : t.slotOk b = true) : exec (.br b) s = .next (s.branched i t t [] true (s.scalar t b 0)) :=
  branch_of (fun _ => true) [] (fun _ _ _ => true) h hl hb rfl (by simp) (reads_nil t)

theorem exec_brz_of (hb : t.slotOk b = true) (ha : t.scalarSrc a = true) (ra : t.readable a) (hr : Reads t (popsOnce [(0, a)]) u q) :
    exec (.brz a b) s = .next (s.branched i t u (popsOnce [(0, a)]) (decide (s.scalar u a (q 0 0) = 0)) (s.scalar t b 0)) := by
  rw [← scalar_after s i u u (popsOnce [(0, a)])]
  exact branch_of (fun t => t.scalarSrc a) [(0, a)] (fun t q s1 => decide (s1.scalar t a (q 0) = 0)) h hl hb ha (by simpa using ra) hr

theorem exec_brnz_of (hb : t.slotOk b = true) (ha : t.scalarSrc a = true) (ra : t.readable a) (hr : Reads t (popsOnce [(0, a)]) u q) :
    exec (.brnz a b) s = .next (s.branched i t u (popsOnce [(0, a)]) (decide (s.scalar u a (q 0 0) ≠ 0)) (s.scalar t b 0)) := by
  rw [← scalar_after s i u u (popsOnce [(0, a)])]
  exact branch_of (fun t => t.scalarSrc a) [(0, a)] (fun t q s1 => decide (s1.scalar t a (q 0) ≠ 0)) h hl hb ha (by simpa using ra) hr

theorem exec_brmz_of (hb : t.slotOk b = true) (ha : maskSrc a = true) :
    exec (.brmz a b) s = .next (s.branched i t t [] (decide (t.mask a = 0)) (s.scalar t b 0)) :=
  branch_of (fun _ => maskSrc a) [] (fun t _ _ => decide (t.mask a = 0)) h hl hb ha (by simp) (reads_nil t)

theorem exec_brmnz_of (hb : t.slotOk b = true) (ha : maskSrc a = true) :
    exec (.brmnz a b) s = .next (s.branched i t t [] (decide (t.mask a ≠ 0)) (s.scalar t b 0)) :=
  branch_of (fun _ => maskSrc a) [] (fun t _ _ => decide (t.mask a ≠ 0)) h hl hb ha (by simp) (reads_nil t)

theorem exec_jmp_of (n : BitVec 6) : exec (.jmp (.s n)) s = .next (s.branched i t t [] true (t.s n)) := by
  show execJmp (.s n) s = _
  rw [execJmp, once_plain s i t h _ _ (by simp [need, hl, isS, firstCause])]
  exact congrArg _ (settle_target (u := t) (pops := []))

/-- CALL goes on at its target with the fall-through address in D (R88). -/
theorem exec_call_of (hd : isS d = true ∨ d = .sp .zero) (hb : isS b = true ∨ t.slotOk b = true) :
    exec (.call d b) s = .next (s.branched i t (t.put d t.fall) [] true (s.scalar t b 0)) := by
  show execCall d b s = _
  rw [execCall, once_plain s i t h _ _ (by simp [need, hl, hd, hb, firstCause])]
  cases d
  case s n => exact congrArg _ (settle_target (u := t.setS n t.fall) (pops := []))
  case sp x => exact congrArg _ (settle_target (u := t) (pops := []))
  all_goals simp [isS] at hd

end

end

/-- Settles O7: each instruction comes to `State.branched`, which goes to an aligned target, traps on a misaligned one or falls through. -/
theorem branchResult : Obligations.BranchResult := by
  intro s i t u q a b h hl
  refine ⟨fun hb hx => ?aligned, fun n hx => ?register, fun hb hx => ?misaligned, fun n hx => ?registerMisaligned⟩
  case aligned =>
    refine ⟨?br, fun ha ra hr => ⟨?brz, ?brnz⟩, fun ha => ⟨?brmz, ?brmnz⟩, ?call, fun m => ?callLink⟩
    case br => rw [exec_br_of h hl hb, branched_taken_aligned hx]
    case brz => rw [exec_brz_of h hl hb ha ra hr, branched_aligned hx]
    case brnz => rw [exec_brnz_of h hl hb ha ra hr, branched_aligned hx, ite_not]
    case brmz => rw [exec_brmz_of h hl hb ha, branched_aligned hx]
    case brmnz => rw [exec_brmnz_of h hl hb ha, branched_aligned hx, ite_not]
    case call => rw [exec_call_of h hl (.inr rfl) (.inr hb), branched_taken_aligned hx]; rfl
    case callLink => rw [exec_call_of h hl (.inl rfl) (.inr hb), branched_taken_aligned hx]; rfl
  case register =>
    refine ⟨?jmp, ?call, fun m => ?callLink⟩
    case jmp => rw [exec_jmp_of h hl, branched_taken_aligned hx]
    case call => rw [exec_call_of h hl (.inr rfl) (.inl rfl)]; exact congrArg _ (branched_taken_aligned hx)
    case callLink => rw [exec_call_of h hl (.inl rfl) (.inl rfl)]; exact congrArg _ (branched_taken_aligned hx)
  case misaligned =>
    refine ⟨?br, fun ha ra hr => ⟨?brz, ?brnz⟩, fun ha => ⟨?brmz, ?brmnz⟩, fun d hd => ?call⟩
    case br => rw [exec_br_of h hl hb, branched_taken_misaligned hx]; rfl
    case brz => rw [exec_brz_of h hl hb ha ra hr, branched_misaligned hx, apply_ite Host.Outcome.next]
    case brnz => rw [exec_brnz_of h hl hb ha ra hr, branched_misaligned hx, ite_not, apply_ite Host.Outcome.next]
    case brmz => rw [exec_brmz_of h hl hb ha, branched_misaligned hx, apply_ite Host.Outcome.next]; rfl
    case brmnz => rw [exec_brmnz_of h hl hb ha, branched_misaligned hx, ite_not, apply_ite Host.Outcome.next]; rfl
    case call => rw [exec_call_of h hl hd (.inr hb), branched_taken_misaligned hx]; rfl
  case registerMisaligned =>
    refine ⟨?jmp, fun d hd => ?call⟩
    case jmp => rw [exec_jmp_of h hl, branched_taken_misaligned hx]; rfl
    case call => rw [exec_call_of h hl hd (.inl rfl)]; exact congrArg _ (branched_taken_misaligned hx)

end Sys2Proof.Machine

/-! # TRAP, BRK and the reserved opcodes (O43) -/

namespace Sys2Proof.Machine

open Sys2Proof

section
variable {s : State} {i : Nat} {t : Team}

theorem exec_trap_of (c : BitVec 8) (h : Issues s i t) :
    exec (.trap c) s = .next ((({ s with cur := none } : State).setTeam i t.finish.next).takeTrap (checkInfo i t true .trap c.toNat .none)) := by
  show execTrap c s = _
  rw [execTrap, once_plain s i t h _ _ rfl]
  rfl

/-- BRK where debug is off is a trap (R366). -/
theorem exec_brk_trap (c : BitVec 8) (h : Issues s i t) (hd : (s.ctx t.part t.ctx).dbg = false) :
    exec (.brk c) s = .next ((({ s with cur := none } : State).setTeam i t.finish.next).takeTrap (checkInfo i t true .brk c.toNat .none)) := by
  have hd' : (({ s with cur := none } : State).ctx t.part t.ctx).dbg = false := hd
  show execBrk c s = _
  rw [execBrk, once_plain s i t h _ _ rfl, hd']
  rfl

/-- BRK where debug is on stops its team and tells the owner (R366). -/
theorem exec_brk_debug (c : BitVec 8) (h : Issues s i t) (hd : (s.ctx t.part t.ctx).dbg = true) :
    exec (.brk c) s = .next ((({ s with cur := none } : State).setTeam i { t.finish.next with debug := true }).breakNotice i t c.toNat) := by
  have hd' : (({ s with cur := none } : State).ctx t.part t.ctx).dbg = true := hd
  show execBrk c s = _
  rw [execBrk, once_plain s i t h _ _ rfl, hd']
  rfl

/-- An instruction that executes once and fails a check has no effect but the trap (R55). -/
theorem once_check {c : Cause} (h : Issues s i t) (checks : Team → State → List (Option Cause)) (ss : List (Nat × Sel))
    (eff : Nat → Team → (Nat → Word) → State → Res) (hc : firstCause (checks t { s with cur := none } ++ ss.map fun f => t.popCheck f.2) = some c) :
    once s checks ss eff = .next (settle i t (.check c true { s with cur := none })) := by
  rw [once, issue_of s i t h, hc]

theorem exec_illegalOpcode_of (w : BitVec 32) (h : Issues s i t) :
    exec (.illegalOpcode w) s = .next (({ s with cur := none } : State).takeTrap (checkInfo i t true .illegalOpcode 0 .whole)) := by
  show execIllegalOpcode w s = _
  rw [execIllegalOpcode, once_check h _ _ _ rfl]
  rfl

end

/-- Settles O43: a lemma for each instruction, and for BRK one with debug on and one with debug off. -/
theorem trapResult : Obligations.TrapResult := by
  intro s i t b w h
  exact ⟨exec_trap_of b h, exec_brk_trap b h, exec_brk_debug b h, exec_illegalOpcode_of w h⟩

end Sys2Proof.Machine

/-! # Sample words (O56) -/

namespace Sys2Proof

/-- Settles O56: each of the words encodes the instruction that it should decode to. -/
theorem sampleWords : Obligations.SampleWords := by
  and_intros <;> exact decode_encode _ _ rfl rfl

end Sys2Proof

/-! # One step (O57) -/

namespace Sys2Proof.Machine

open Sys2Proof

section
variable {s : State} {i : Nat} {t : Team} {x : Instr}

/-- A step with a team picked is the instruction that its next word encodes (R42, R66). -/
theorem step_picked (hp : s.dev.trip = false) (hc : s.cur = some i) (ht : s.team i = some t) (hx : decode t.word = x) :
    step s = s.settled i x (exec x s) := by
  have hf : s.fetched i = some x := by simp only [State.fetched, ht, hx]
  simp only [step, hp, hc, hf, Bool.false_eq_true, if_false]

/-- An instruction that reads no spoilt register comes to what it does (R397). -/
theorem settled_clean (r : Host.Outcome State Fault Refusal) (ht : s.team i = some t) (hs : s.spoiltLanes x t = []) : s.settled i x r = r := by
  simp only [State.settled, ht, hs]

/-- One that passes its checks and reads a spoilt register comes to MEM_UNCORR in the lanes that do (R397). -/
theorem settled_spoilt {l : Nat} {ls : List Nat} {u : State} (ht : s.team i = some t) (hs : s.spoiltLanes x t = l :: ls) (hu : u.stopped i = false) :
    s.settled i x (.next u) = .next (({ s with cur := none } : State).takeTrap
      (lanesInfo i t t.pc.toNat (!sweeps x) ((l :: ls).map fun n => plainFault n 0 .memUncorr) .whole)) := by
  simp only [State.settled, ht, hs, hu, Bool.false_eq_true, if_false]

/-- A step is always due: a die's cores may be enabled (R392). -/
theorem coreEnableBatch_enabled (s : State) : (.coreEnableBatch 0, .own) ∈ s.enabled := by
  have hd : Event.coreEnableBatch 0 ∈ ((List.range Config.dies).map s.dieEvents).flatten :=
    List.mem_flatten.mpr ⟨s.dieEvents 0, List.mem_map.mpr ⟨0, by decide, rfl⟩, by simp [State.dieEvents]⟩
  have ho : Event.coreEnableBatch 0 ∈ s.ownEvents := by
    simp only [State.ownEvents, List.mem_append]
    exact .inl (.inr hd)
  simp only [State.enabled, List.mem_append]
  exact .inl (.inl (List.mem_map.mpr ⟨_, ho, rfl⟩))

/-- A free choice among some things names one of them (log 2). -/
theorem choose_lt {n : Nat} (h : 0 < n) : (s.choose n).1 < n := by
  unfold State.choose
  split
  · exact h
  · exact Nat.mod_lt _ h

/-- A step with no team picked takes one of the steps that are due, by a free choice (log 2). -/
theorem step_unpicked (hp : s.dev.trip = false) (hc : s.cur = none) : ∃ e ∈ s.enabled, step s = Event.take e { s with tick := s.tick + 1 } := by
  cases hs : s.enabled with
  | nil => exact absurd (hs ▸ coreEnableBatch_enabled s) (by simp)
  | cons e es =>
    have hl : (s.choose (e :: es).length).1 < (e :: es).length := choose_lt (Nat.succ_pos _)
    refine ⟨(e :: es)[(s.choose (e :: es).length).1], List.getElem_mem hl, ?_⟩
    have hstep : step s = Event.take (e :: es)[(s.choose (e :: es).length).1] (s.choose (e :: es).length).2 := by
      simp only [step, hp, hc, hs, Bool.false_eq_true, if_false, List.getElem?_eq_getElem hl, Option.getD_some]
    exact hstep

end

/-- Settles O57: the picked team's next word is decoded and `State.settled` looks at the registers that it reads; with no team picked some step is always due. -/
theorem stepRunsDecoded : Obligations.StepRunsDecoded := by
  intro s hp
  refine ⟨fun i t x rest hc ht hx => ?picked, step_unpicked hp⟩
  case picked =>
    have hd : decode t.word = x := congrArg Prod.fst (Except.ok.inj ((decodeBytes_wordBytesLE t.word rest).symm.trans hx))
    have hr : step s = s.settled i x (exec x s) := step_picked hp hc ht hd
    exact ⟨hr, fun hs => hr.trans (settled_clean _ ht hs), fun l ls u hs he hu => by rw [hr, he, settled_spoilt ht hs hu]⟩

end Sys2Proof.Machine

/-! # Lane arithmetic of one and two sources (O10, O11) -/

namespace Sys2Proof.Machine

open Sys2Proof

section
variable {s : State} {i : Nat} {t u : Team} {q : Nat → Nat → Word} {d a b : Sel}

/-- The elements that a lane instruction of one source, or of two, computes from. -/
theorem elemOf_one {pops : List Pop} (hr : Reads t pops u q) (l : Nat) : elemOf s u [(0, a)] q l 0 = s.elem t t.ty a l (q 0 l) := by
  simp [elemOf, reads_ty hr, reads_elem hr]
theorem elemOf_twoA {pops : List Pop} (hr : Reads t pops u q) (l : Nat) :
    elemOf s u [(0, a), (1, b)] q l 0 = s.elem t t.ty a l (q 0 l) := by
  simp [elemOf, reads_ty hr, reads_elem hr]
theorem elemOf_twoB {pops : List Pop} (hr : Reads t pops u q) (l : Nat) :
    elemOf s u [(0, a), (1, b)] q l 1 = s.elem t t.ty b l (q 1 l) := by
  simp [elemOf, reads_ty hr, reads_elem hr]

/-- A lane instruction of one source: lane by lane the function of its element that it gives. -/
theorem laneOp_one {ok : Ty → Bool} {f : Team → Ty → (Nat → Nat) → Nat × Nat} (h : Issues s i t) (hd : t.elemDst t.ty d = true)
    (ha : t.elemSrc t.ty a = true) (ra : t.readable a) (pd : t.pushCheck d = none)
    (hr : Reads t (popsLanes t.active [(0, a)]) u q) (ht : u.takesAll d t.active.length) (hy : ok t.ty = true) (g : Nat → Nat × Nat)
    (hg : ∀ l (x : Nat → Nat), x 0 = s.elem t t.ty a l (q 0 l) → f u t.ty x = g l) :
    laneOp s d [(0, a)] ok f = .next (s.done i (u.putF d g)) := by
  rw [laneOp_of s i t u q d _ ok f h hd (by simp [ha]) (by simp [ra]) hy pd hr (by rwa [reads_active hr])]
  congr 3
  funext l
  rw [reads_ty hr]
  exact hg l _ (elemOf_one hr l)

/-- A lane instruction of two sources, likewise. -/
theorem laneOp_two {ok : Ty → Bool} {f : Team → Ty → (Nat → Nat) → Nat × Nat} (h : Issues s i t) (hd : t.elemDst t.ty d = true)
    (ha : t.elemSrc t.ty a = true) (hb : t.elemSrc t.ty b = true) (ra : t.readable a) (rb : t.readable b) (pd : t.pushCheck d = none)
    (hr : Reads t (popsLanes t.active [(0, a), (1, b)]) u q) (ht : u.takesAll d t.active.length) (hy : ok t.ty = true) (g : Nat → Nat × Nat)
    (hg : ∀ l (x : Nat → Nat), x 0 = s.elem t t.ty a l (q 0 l) → x 1 = s.elem t t.ty b l (q 1 l) → f u t.ty x = g l) :
    laneOp s d [(0, a), (1, b)] ok f = .next (s.done i (u.putF d g)) := by
  rw [laneOp_of s i t u q d _ ok f h hd (by simp [ha, hb]) (by simp [ra, rb]) hy pd hr (by rwa [reads_active hr])]
  congr 3
  funext l
  rw [reads_ty hr]
  exact hg l _ (elemOf_twoA hr l) (elemOf_twoB hr l)

end

/-- The types of R113: integers and floats. -/
theorem arith_of_int {y : Ty} (h : y.isInt = true) : y.arith = true := by simp [Ty.arith, h]
theorem arith_of_float {y : Ty} (h : y.isFloat = true) : y.arith = true := by simp [Ty.arith, h]

section
variable {y : Ty} {rm : Rnd} {flush sat : Bool} {a b : Nat}

/-- The arithmetic of an integer type (R111, R113). -/
theorem elAdd_int (h : y.isInt = true) : elAdd y rm flush sat a b = y.store sat (y.int a + y.int b) := by
  simp only [elAdd, fmtOf_int h]
theorem elSub_int (h : y.isInt = true) : elSub y rm flush sat a b = y.store sat (y.int a - y.int b) := by
  simp only [elSub, fmtOf_int h]
theorem elMul_int (h : y.isInt = true) : elMul y rm flush sat a b = y.store sat (y.int a * y.int b) := by
  simp only [elMul, fmtOf_int h]
theorem elAbsd_int (h : y.isInt = true) : elAbsd y rm flush sat a b = y.store sat ((y.int a - y.int b).natAbs : Int) := by
  simp only [elAbsd, fmtOf_int h]
theorem elMinmax_min (h : y.isInt = true) : elMinmax y flush false a b = (y.extend (min (y.int a) (y.int b)), 0) := by
  simp only [elMinmax, fmtOf_int h, Bool.bne_false, decide_eq_true_eq, min_def]
theorem elMinmax_max (h : y.isInt = true) : elMinmax y flush true a b = (y.extend (max (y.int a) (y.int b)), 0) := by
  simp only [elMinmax, fmtOf_int h, Bool.bne_true, Bool.not_eq_true', decide_eq_false_iff_not, max_def, ite_not]

/-- The arithmetic of a floating type is its format's (R110). -/
theorem elAdd_float {f : Fmt} (h : fmtOf y = some f) : elAdd y rm flush sat a b = f.add rm flush a b := by simp only [elAdd, h]
theorem elSub_float {f : Fmt} (h : fmtOf y = some f) : elSub y rm flush sat a b = f.sub rm flush a b := by simp only [elSub, h]
theorem elMul_float {f : Fmt} (h : fmtOf y = some f) : elMul y rm flush sat a b = f.mul rm flush a b := by simp only [elMul, h]
theorem elMinmax_float {f : Fmt} {top : Bool} (h : fmtOf y = some f) : elMinmax y flush top a b = f.minmax flush top a b := by
  simp only [elMinmax, h]

end

/-- A value of a format times 2 to a signed exponent, held to a thousand either way (R123): past that no format tells the results apart. -/
def Fmt.ldexp (f : Fmt) (rm : Rnd) (flush : Bool) (x n : Nat) : Nat × Nat :=
  match f.input flush x with
  | .nan sg => f.nanOut sg
  | .inf neg => (f.signed neg (f.maxCode + 1), 0)
  | .fin neg m e =>
    let n := signedOf 32 n
    f.round rm flush false neg m (e + (if n > 1000 then 1000 else if n < -1000 then -1000 else n))

/-- Of a finite value and an exponent inside the bounds: the exact product, rounded once. -/
theorem ldexp_finite (f : Fmt) (rm : Rnd) (flush : Bool) (x n : Nat) {neg : Bool} {m : Nat} {e : Int} (hv : f.input flush x = .fin neg m e)
    (h1 : -1000 ≤ signedOf 32 n) (h2 : signedOf 32 n ≤ 1000) : f.ldexp rm flush x n = f.round rm flush false neg m (e + signedOf 32 n) := by
  simp only [Fmt.ldexp, hv, show ¬signedOf 32 n > 1000 by omega, show ¬signedOf 32 n < -1000 by omega, if_false]

/-- Settles O10: each instruction is `laneOp` of its own function of two elements, which R113, R123 or R130 states. -/
theorem laneArithmeticResult : Obligations.LaneArithmeticResult := by
  intro s i t u q d a b h hd ha hb ra rb pd hr ht y x z fin
  have hlane {ok : Ty → Bool} {f : Team → Ty → (Nat → Nat) → Nat × Nat} := laneOp_two (ok := ok) (f := f) h hd ha hb ra rb pd hr ht
  refine ⟨fun hi => ?int, fun f hf hy => ?float, fun hp => ?unpk⟩
  case int =>
    show execVadd d a b s = _ ∧ execVsub d a b s = _ ∧ execVmul d a b s = _ ∧ (_ → execVmulh d a b s = _) ∧ execVmin d a b s = _ ∧
      execVmax d a b s = _ ∧ execVabsd d a b s = _
    have harith {f : Team → Ty → (Nat → Nat) → Nat × Nat} := hlane (f := f) (arith_of_int hi)
    refine ⟨harith _ fun l v h0 h1 => ?add, harith _ fun l v h0 h1 => ?sub, harith _ fun l v h0 h1 => ?mul,
      fun hw => hlane (by simpa [Ty.narrowInt] using ⟨hi, hw⟩) _ fun l v h0 h1 => ?mulh, harith _ fun l v h0 h1 => ?min,
      harith _ fun l v h0 h1 => ?max, harith _ fun l v h0 h1 => ?absd⟩
    case add => rw [elAdd_int hi, reads_sat hr, h0, h1]
    case sub => rw [elSub_int hi, reads_sat hr, h0, h1]
    case mul => rw [elMul_int hi, reads_sat hr, h0, h1]
    case mulh => rw [h0, h1]
    case min => rw [elMinmax_min hi, h0, h1]
    case max => rw [elMinmax_max hi, h0, h1]
    case absd => rw [elAbsd_int hi, reads_sat hr, h0, h1]
  case float =>
    show execVadd d a b s = _ ∧ execVsub d a b s = _ ∧ execVmul d a b s = _ ∧ execVmin d a b s = _ ∧ execVmax d a b s = _ ∧
      execVabsd d a b s = _ ∧ execVcpsgn d a b s = _ ∧ ∃ g : Nat → Nat × Nat, execVldexp d a b s = fin g ∧ _
    have hf' : fmtOf t.ty = some f := hf
    have harith {f : Team → Ty → (Nat → Nat) → Nat × Nat} := hlane (f := f) (arith_of_float hy)
    refine ⟨harith _ fun l v h0 h1 => ?add, harith _ fun l v h0 h1 => ?sub, harith _ fun l v h0 h1 => ?mul, harith _ fun l v h0 h1 => ?min,
      harith _ fun l v h0 h1 => ?max, harith _ fun l v h0 h1 => ?absd, hlane hy _ fun l v h0 h1 => ?cpsgn,
      fun l => f.ldexp t.rnd t.flush (x l) (z l), hlane hy _ fun l v h0 h1 => ?ldexp,
      fun l neg m e hv hlo hhi => ldexp_finite f t.rnd t.flush (x l) (z l) hv hlo hhi⟩
    case add => rw [elAdd_float hf', reads_rnd hr, reads_flush hr, h0, h1]
    case sub => rw [elSub_float hf', reads_rnd hr, reads_flush hr, h0, h1]
    case mul => rw [elMul_float hf', reads_rnd hr, reads_flush hr, h0, h1]
    case min => rw [elMinmax_float hf', reads_flush hr, h0, h1]
    case max => rw [elMinmax_float hf', reads_flush hr, h0, h1]
    case absd => rw [reads_rnd hr, reads_flush hr, reads_sat hr, h0, h1]
    case cpsgn => simp only [hf', h0, h1, x, z, y]
    case ldexp =>
      simp only [hf', h0, h1, reads_rnd hr, reads_flush hr]
      rfl
  case unpk =>
    show execVunpk d a b s = _
    refine hlane hp _ fun l v h0 h1 => ?_
    rw [reads_rnd hr, reads_flush hr, reads_sat hr, h0, h1]

/-- The types of VABS and VNEG. -/
theorem signedArith_of_signed {y : Ty} (h : y.signed = true) : y.signedArith = true := by simp [Ty.signedArith, h]
theorem signedArith_of_float {y : Ty} (h : y.isFloat = true) : y.signedArith = true := by simp [Ty.signedArith, h]

/-- The ones among an element's bits. -/
theorem popCount_low (x w : Nat) : popCount (x % 2 ^ w) w = (List.range w).countP fun k => x.testBit k := by
  rw [popCount_eq]
  refine List.countP_congr fun k hk => ?_
  rw [Nat.testBit_mod_two_pow, decide_eq_true (List.mem_range.mp hk), Bool.true_and]

/-- The leading zeros among an element's bits: as many bits are clear, and the next is set. -/
theorem leadingZeros_low (x w : Nat) : leadingZeros (x % 2 ^ w) w ≤ w ∧
    (∀ k, w - leadingZeros (x % 2 ^ w) w ≤ k → k < w → x.testBit k = false) ∧
    (leadingZeros (x % 2 ^ w) w < w → x.testBit (w - 1 - leadingZeros (x % 2 ^ w) w) = true) := by
  obtain ⟨hle, hclear, hset⟩ := leadingZeros_spec (x % 2 ^ w) w
  refine ⟨hle, fun k h1 h2 => ?_, fun h1 => ?_⟩
  · have := hclear k h1 h2
    rwa [Nat.testBit_mod_two_pow, decide_eq_true h2, Bool.true_and] at this
  · have := hset h1
    rw [Nat.testBit_mod_two_pow, Bool.and_eq_true] at this
    exact this.2

/-- An element's bits in reverse. -/
theorem bitReverse_low (x w k : Nat) : (bitReverse (x % 2 ^ w) w).testBit k = (decide (k < w) && x.testBit (w - 1 - k)) := by
  rw [bitReverse_testBit, Nat.testBit_mod_two_pow]
  by_cases hk : k < w
  · rw [decide_eq_true (show w - 1 - k < w by omega), Bool.true_and]
  · rw [decide_eq_false hk, Bool.false_and, Bool.false_and]

/-- Settles O11: each instruction is `laneOp` of its own function of one element; the counts are those of the element's bits below its width. -/
theorem laneUnaryResult : Obligations.LaneUnaryResult := by
  intro s i t u q d a h hd ha ra pd hr ht y x fin
  have hlane {ok : Ty → Bool} {f : Team → Ty → (Nat → Nat) → Nat × Nat} := laneOp_one (ok := ok) (f := f) h hd ha ra pd hr ht
  refine ⟨?mov, fun hi hsg => ?int, fun f hf hy => ?float, fun hy => ?bits⟩
  case mov =>
    show execVmov d a s = _
    refine hlane (ok := fun _ => true) rfl _ fun l v h0 => ?_
    rw [h0]
  case int =>
    show execVabs d a s = _ ∧ execVneg d a s = _
    have hf : fmtOf t.ty = none := fmtOf_int hi
    have hsigned {f : Team → Ty → (Nat → Nat) → Nat × Nat} := hlane (f := f) (signedArith_of_signed hsg)
    refine ⟨hsigned _ fun l v h0 => ?abs, hsigned _ fun l v h0 => ?neg⟩
    case abs | neg => simp only [hf, reads_sat hr, h0, x, y]
  case float =>
    show execVabs d a s = _ ∧ execVneg d a s = _ ∧ execVrnd d a s = _ ∧ execVfrc d a s = _ ∧ execVrcp d a s = _ ∧ execVrsq d a s = _ ∧
      execVsqrt d a s = _ ∧ execVexp2 d a s = _ ∧ execVlog2 d a s = _ ∧ execVsin d a s = _ ∧ execVcos d a s = _ ∧ execVtanh d a s = _
    have hf' : fmtOf t.ty = some f := hf
    have hsigned {f : Team → Ty → (Nat → Nat) → Nat × Nat} := hlane (f := f) (signedArith_of_float hy)
    have helem (fn : ElemFn) : laneOp s d [(0, a)] Ty.isFloat (fun t y x => elemFn fn y t.rnd t.flush (x 0)) =
        fin fun l => elemFn fn y t.rnd t.flush (x l) :=
      hlane hy _ fun l v h0 => by rw [reads_rnd hr, reads_flush hr, h0]
    refine ⟨hsigned _ fun l v h0 => ?abs, hsigned _ fun l v h0 => ?neg, hlane hy _ fun l v h0 => ?rnd, hlane hy _ fun l v h0 => ?frc,
      helem .rcp, helem .rsq, helem .sqrt, helem .exp2, helem .log2, helem .sin, helem .cos, helem .tanh⟩
    case abs => simp only [hf', h0, x, y]
    case neg => simp only [hf', Fmt.negate, h0, x, y]
    case rnd | frc => simp only [hf', reads_rnd hr, reads_flush hr, h0, x, y]
  case bits =>
    show execVpopc d a s = _ ∧ (∃ g : Nat → Nat, execVclz d a s = _ ∧ _) ∧ ∃ g : Nat → Nat, execVbrev d a s = _ ∧ _
    have hcount (f : Nat → Nat → Nat) : countOp s d a f = fin fun l => (y.extend (f (x l % 2 ^ y.width) y.width : Nat), 0) :=
      hlane hy _ fun l v h0 => by rw [h0]
    refine ⟨(hcount popCount).trans ?popc, ⟨_, hcount leadingZeros, fun l => leadingZeros_low (x l) y.width⟩,
      ⟨_, hcount bitReverse, fun l k => bitReverse_low (x l) y.width k⟩⟩
    case popc => simp only [popCount_low]

end Sys2Proof.Machine

/-! # Lane bitwise logic, shifts and rotates (O13) -/

namespace Sys2Proof.Machine

open Sys2Proof

section
variable {s : State} {i : Nat} {t u : Team} {q : Nat → Nat → Word} {d a b : Sel}

/-- The words that a bitwise instruction of one source, or of two, computes from. -/
theorem wordOf_one {pops : List Pop} (hr : Reads t pops u q) (l : Nat) : wordOf s u [(0, a)] q l 0 = s.src t a l (q 0 l) := by
  simp [wordOf, reads_src hr]
theorem wordOf_twoA {pops : List Pop} (hr : Reads t pops u q) (l : Nat) : wordOf s u [(0, a), (1, b)] q l 0 = s.src t a l (q 0 l) := by
  simp [wordOf, reads_src hr]
theorem wordOf_twoB {pops : List Pop} (hr : Reads t pops u q) (l : Nat) : wordOf s u [(0, a), (1, b)] q l 1 = s.src t b l (q 1 l) := by
  simp [wordOf, reads_src hr]

end

/-- An element's bits moved right by its width or more leave nothing (R116). -/
theorem shiftRight_low (x w c : Nat) : (if w ≤ c then 0 else (((x % 2 ^ w) >>> c : Nat) : Int)) = ((x % 2 ^ w / 2 ^ c : Nat) : Int) := by
  rw [Nat.shiftRight_eq_div_pow]
  split
  · next hc =>
    have hx : x % 2 ^ w < 2 ^ c := Nat.lt_of_lt_of_le (Nat.mod_lt _ (Nat.two_pow_pos w)) (Nat.pow_le_pow_right (by decide) hc)
    rw [Nat.div_eq_of_lt hx]
    rfl
  · rfl

/-- A rotate by c moves each bit of an element c places up, and past the top round to the bottom (R116). -/
theorem rotate_testBit (x w c k : Nat) (hx : x < 2 ^ w) (hk : k < w) :
    ((x <<< (c % w)) ||| (x >>> (w - c % w))).testBit ((k + c) % w) = x.testBit k := by
  have hr : c % w < w := Nat.mod_lt _ (by omega)
  have high (j : Nat) (hj : w ≤ j) : x.testBit j = false :=
    Nat.testBit_lt_two_pow (Nat.lt_of_lt_of_le hx (Nat.pow_le_pow_right (by decide) hj))
  rw [← Nat.add_mod_mod, Nat.testBit_or, Nat.testBit_shiftLeft, Nat.testBit_shiftRight]
  rcases Nat.lt_or_ge (k + c % w) w with hlow | hround
  · rw [Nat.mod_eq_of_lt hlow, high (w - c % w + (k + c % w)) (by omega), decide_eq_true (by omega : k + c % w ≥ c % w),
      show k + c % w - c % w = k by omega, Bool.true_and, Bool.or_false]
  · have hm : (k + c % w) % w = k + c % w - w := by
      rw [Nat.mod_eq_sub_mod hround, Nat.mod_eq_of_lt (by omega)]
    rw [hm, decide_eq_false (by omega : ¬k + c % w - w ≥ c % w), show w - c % w + (k + c % w - w) = k by omega, Bool.false_and, Bool.false_or]

/-- Settles O13: the bitwise instructions are `bitOp` of their function; the shifts are `shiftOp`, whose function acts on an element below its width. -/
theorem laneBitsResult : Obligations.LaneBitsResult := by
  intro s i t u q d a b h ra rb pd ht y
  refine ⟨fun hd ha => ?logic, fun hd ha hb hy hr => ?shifts⟩
  case logic =>
    intro x z fin
    refine ⟨fun hb hr => ?two, fun hr => ?one⟩
    case two =>
      show execVand d a b s = _ ∧ execVor d a b s = _ ∧ execVxor d a b s = _
      have htwo (g : Word → Word → Word) : bitOp s d [(0, a), (1, b)] (fun v => g (v 0) (v 1)) = fin fun l => g (x l) (z l) := by
        rw [bitOp_of s i t u q d _ _ h hd (by simp [ha, hb]) (by simp [ra, rb]) pd hr (by rwa [reads_active hr])]
        simp only [wordOf_twoA hr, wordOf_twoB hr, reads_active hr, fin, x, z]
      exact ⟨htwo (· &&& ·), htwo (· ||| ·), htwo (· ^^^ ·)⟩
    case one =>
      show execVnot d a s = _
      unfold execVnot
      rw [bitOp_of s i t u q d _ _ h hd (by simp [ha]) (by simp [ra]) pd hr (by rwa [reads_active hr])]
      simp only [wordOf_one hr, reads_active hr, fin, x]
  case shifts =>
    intro x c fin
    show execVshl d a b s = _ ∧ execVshr d a b s = _ ∧ execVsra d a b s = _ ∧ ∃ g : Nat → Nat, execVrot d a b s = _ ∧ _
    have hshift (f : Ty → Nat → Nat → Int) : shiftOp s d a b f = fin fun l => f y (x l) (c l) := by
      rw [shiftOp_of s i t u q d a b f h hd ha hb ra rb hy pd hr (by rwa [reads_active hr])]
      simp only [reads_ty hr, reads_active hr, reads_elem hr, reads_src hr, fin, x, c, y]
    refine ⟨(hshift _).trans ?left, (hshift _).trans ?right, hshift _, _, hshift _, fun l k hk => ?rotate⟩
    case left => simp only [Nat.shiftLeft_eq]
    case right => simp only [x, shiftRight_low]
    case rotate => exact rotate_testBit (x l) y.width (c l) k (Nat.mod_lt _ (Nat.two_pow_pos _)) hk

end Sys2Proof.Machine

/-! # VSEL, VBCAST and VCVT (O14) -/

namespace Sys2Proof.Machine

open Sys2Proof

/-- Reading operands leaves the guard. -/
theorem reads_guardMask {t u : Team} {pops : List Pop} {q : Nat → Nat → Word} (h : Reads t pops u q) : u.guardMask = t.guardMask := by
  obtain ⟨_, _, rfl⟩ := reads_frame h
  rfl

section
variable {s : State} {i : Nat} {t u : Team} {q : Nat → Nat → Word} {d a b : Sel}

/-- Words that an instruction writes for its lanes, with the status bits of every one, settled. -/
theorem settle_putW (v : Team) (pops : List Pop) (f : Nat → Nat × Nat) (ht : u.takesAll d u.active.length) :
    settle i t (putLanes i (u.addStatus (orBits (u.active.map fun l => (l, f l)))) (s.after i v pops) d
      ((u.active.map fun l => (l, f l)).map fun r => (r.1, BitVec.ofNat 32 r.2.1))) =
    s.done i (u.putW d fun l => (BitVec.ofNat 32 (f l).1, (f l).2)) := by
  unfold State.after
  rw [settle_putLanes _ _ _ _ _ _ _ _ (by simpa using takesAll_addStatus u d _ _ ht)]
  simp only [Team.putW, orBits, List.foldl_map, List.map_map, Function.comp_def]

/-- VSEL over lanes of M0 (R117). -/
theorem exec_vsel_of (h : Issues s i t) (ra : t.readable a) (rb : t.readable b) (pd : t.pushCheck d = none) (hd : t.elemDst t.ty d = true)
    (ha : t.elemSrc t.ty a = true) (hb : t.elemSrc t.ty b = true) (hg : t.guard ≠ 0) (hl : (lanesBelow (t.m 0) t.nlanes).isEmpty = false)
    (hr : Reads t (popsLanes (lanesBelow (t.m 0) t.nlanes) [(0, a), (1, b)]) u q) (ht : u.takesAll d (lanesBelow (t.m 0) t.nlanes).length) :
    exec (.vsel d a b) s = .next (s.done i (u.putE t.ty d ((lanesBelow (t.m 0) t.nlanes).map fun l =>
      (l, if t.guardMask.getLsbD l then s.elem t t.ty a l (q 0 l) else s.elem t t.ty b l (q 1 l))))) := by
  show execVsel d a b s = _
  unfold execVsel
  rw [sweepTo_after s i t u q h _ _ _ _ _ ?_ hl hr ht]
  · simp only [reads_m hr, reads_nlanes hr, reads_guardMask hr, reads_ty hr, elem_after, reads_elem hr]
    unfold State.after
    rw [settle_putElems _ _ _ _ _ _ _ _ _ (by simpa using ht)]
    rfl
  · simp only [hd, ha, hb, bne_iff_ne.mpr hg, pd, need, Bool.and_self, if_true, List.cons_append, List.nil_append, firstCause]
    exact firstCause_readable t [(0, a), (1, b)] (by simp [ra, rb])

/-- The checks of VBCAST, past which it reads one lane of A (R118). -/
theorem vbcast_checks {r : BitVec 7} (rb : t.readable b) (pd : t.pushCheck d = none) (hd : t.vectorDst d = true) (hv : t.vOk r 1 = true)
    (hb : t.scalarSrc b = true) :
    firstCause ([need (t.vectorDst d && isV (.v r) && t.vectorSrc (.v r) && t.scalarSrc b) .illegalOperand, t.pushCheck d] ++
      [b].map fun a => t.popCheck a) = none := by
  have hsrc : t.vectorSrc (.v r) = true := hv
  simp only [hd, hsrc, hb, isV, pd, need, Bool.and_self, if_true, List.cons_append, List.nil_append, firstCause]
  exact firstCause_readable t [(1, b)] (by simp [rb])

/-- VBCAST with no lane active (R65). -/
theorem exec_vbcast_none {r : BitVec 7} (h : Issues s i t) (rb : t.readable b) (pd : t.pushCheck d = none) (hd : t.vectorDst d = true)
    (hv : t.vOk r 1 = true) (hb : t.scalarSrc b = true) (hl : t.active.isEmpty = true) : exec (.vbcast d (.v r) b) s = .next (s.done i t) := by
  show execVbcast d (.v r) b s = _
  unfold execVbcast
  rw [sweepOn_none s i t h _ _ _ _ _ (vbcast_checks rb pd hd hv hb) hl, settle_none s i t h]

/-- VBCAST of one lane's register, or of 0 where the lane does not exist (R118). -/
theorem exec_vbcast_of {r : BitVec 7} (h : Issues s i t) (rb : t.readable b) (pd : t.pushCheck d = none) (hd : t.vectorDst d = true)
    (hv : t.vOk r 1 = true) (hb : t.scalarSrc b = true) (hl : t.active.isEmpty = false) (hr : Reads t (popsOnce [(1, b)]) u q)
    (ht : u.takesAll d t.active.length) :
    exec (.vbcast d (.v r) b) s = .next (s.done i (u.putV d (t.active.map fun l =>
      (l, if (s.scalar t b (q 1 0)).toNat < t.nlanes then t.v (s.scalar t b (q 1 0)).toNat r.toNat else 0)))) := by
  show execVbcast d (.v r) b s = _
  unfold execVbcast
  rw [sweepOn_after s i t u q h _ _ _ _ _ (vbcast_checks rb pd hd hv hb) hl hr]
  simp only [scalar_after, reads_scalar hr, reads_nlanes hr, reads_active hr, src_after, reads_src hr]
  unfold State.after
  rw [settle_putLanes _ _ _ _ _ _ _ _ (by simpa using ht)]
  rfl

/-- VCVT of every active lane (R119). -/
theorem exec_vcvt_of {c : BitVec 8} {o : Ty} (h : Issues s i t) (ra : t.readable a) (pd : t.pushCheck d = none) (hc : convertCode c = some o)
    (hy : t.ty.converts = true) (hd : t.vectorDst d = true) (ha : t.vectorSrc a = true) (hr : Reads t (popsLanes t.active [(0, a)]) u q)
    (ht : u.takesAll d t.active.length) :
    exec (.vcvt d a c) s = .next (s.done i (u.putW d fun l =>
      (BitVec.ofNat 32 (convert t.ty o t.rnd t.flush t.sat (s.src t a l (q 0 l)).toNat).1,
        (convert t.ty o t.rnd t.flush t.sat (s.src t a l (q 0 l)).toNat).2))) := by
  have hchecks : firstCause ([need (t.vectorDst d && t.vectorSrc a && (convertCode c).isSome) .illegalOperand, need t.ty.converts .illegalOperand,
      t.pushCheck d] ++ ([(0, a)].map (·.2)).map fun a => t.popCheck a) = none := by
    simp only [hd, ha, hc, hy, Option.isSome_some, pd, need, Bool.and_self, if_true, List.cons_append, List.nil_append, firstCause]
    exact firstCause_readable t [(0, a)] (by simp [ra])
  show execVcvt d a c s = _
  unfold execVcvt
  rcases hl : t.active.isEmpty with _ | _
  case true =>
    have h0 : t.active = [] := List.isEmpty_iff.mp hl
    obtain rfl := reads_lanesNone (h0 ▸ hr)
    rw [sweepTo_none s i u h _ _ _ _ _ hchecks hl, settle_none s i u h, putW_none _ _ _ h0]
  case false =>
    rw [sweepTo_after s i t u q h _ _ _ _ _ hchecks hl hr ht]
    simp only [hc, Option.getD_some, reads_ty hr, reads_rnd hr, reads_flush hr, reads_sat hr, src_after, reads_src hr]
    rw [settle_putW _ _ _ (by rwa [reads_active hr])]

end

/-- Settles O14: one lemma for each instruction, and for VBCAST one with lanes and one without. -/
theorem laneSelectResult : Obligations.LaneSelectResult := by
  intro s i t u q d a b h ra rb pd y
  exact ⟨fun hd ha hb hg hl hr ht => exec_vsel_of h ra rb pd hd ha hb hg hl hr ht,
    fun r hd hv hb => ⟨exec_vbcast_none h rb pd hd hv hb, fun hl hr ht => exec_vbcast_of h rb pd hd hv hb hl hr ht⟩,
    fun c o hc hy hd ha hr ht => exec_vcvt_of h ra pd hc hy hd ha hr ht⟩

end Sys2Proof.Machine

/-! # Scalar loads (O19) -/

namespace Sys2Proof.Machine

open Sys2Proof

/-- An even register names a pair (R105). -/
theorem pairOk_even {n : BitVec 6} (h : n.toNat % 2 = 0) : pairOk (.s n) = true := by simpa [pairOk] using h

section
variable {s s2 : State} {i : Nat} {t u : Team} {q : Nat → Nat → Word} {r n : BitVec 6} {b : Sel} {size : Nat}
variable (h : Issues s i t) (hn : n.toNat % 2 = 0) (hb : t.scalarSrc b = true) (rb : t.readable b) (hr : Reads t (popsOnce [(1, b)]) u q)
  (hf : u.flagFull (t.setFlag false) = false) (hd : (if size = 8 then pairOk (.s r) else isS (.s r)) = true)
include h hn hb rb hr hf hd

/-- A scalar load past its checks, with room on its flag: what the start of its access makes of it (R105). -/
theorem scalarLoad_start :
    let acc := Acc.new 0 ((t.pair n + sext64 (s.scalar t b (q 1 0))) % 2 ^ 64) size size r.toNat []
    scalarLoad s (.s r) (.s n) b size = .next (settle i t
      (match ((s.after i u (popsOnce [(1, b)])).setTeam i u).startMem i u .read acc with
      | (.hold h, s2) => .hold h s2
      | (.fault f, s2) => scalarFault i u s2 f
      | (.ok x, s2) => .ok (s2.enterOp i u { opOf i u s2 (t.setFlag false) (.load .loadStore true 32 false) with
          accs := [x], acq := t.acqScope, mask := 0 } []))) := by
  intro acc
  unfold scalarLoad
  rw [once_after s i t u q h _ _ _ ?_ hr]
  · simp only [reads_setFlag hr, hf, Bool.false_eq_true, if_false, Team.scalarAddr, reads_pair hr, scalar_after, reads_scalar hr,
      reads_acqScope hr]
    rfl
  · simp only [hd, pairOk_even hn, hb, need, Bool.and_self, if_true, List.cons_append, List.nil_append, firstCause]
    exact firstCause_readable t [(1, b)] (by simp [rb])

/-- Its access starts: it is in flight on the flag of class A. -/
theorem scalarLoad_goes {x : Acc} (hs : ((s.after i u (popsOnce [(1, b)])).setTeam i u).startMem i u .read
      (Acc.new 0 ((t.pair n + sext64 (s.scalar t b (q 1 0))) % 2 ^ 64) size size r.toNat []) = (.ok x, s2)) :
    scalarLoad s (.s r) (.s n) b size = .next (s2.started i u { opOf i u s2 (t.setFlag false) (.load .loadStore true 32 false) with
      accs := [x], acq := t.acqScope, mask := 0 } []) := by
  rw [scalarLoad_start h hn hb rb hr hf hd, hs]
  rfl

/-- Its access faults: a scalar record, and the instruction executes whole at its replay (R106). -/
theorem scalarLoad_traps {f : LaneFault} (hs : ((s.after i u (popsOnce [(1, b)])).setTeam i u).startMem i u .read
      (Acc.new 0 ((t.pair n + sext64 (s.scalar t b (q 1 0))) % 2 ^ 64) size size r.toNat []) = (.fault f, s2)) :
    scalarLoad s (.s r) (.s n) b size = .next ((s2.setTeam i u).takeTrap (lanesInfo i u t.pc.toNat true [f] .whole)) := by
  rw [scalarLoad_start h hn hb rb hr hf hd, hs, ← reads_pc hr]
  rfl

end

/-- Settles O19: SLD and SLD2 are `scalarLoad` of their size, whose access starts or faults. -/
theorem scalarLoadResult : Obligations.ScalarLoadResult := by
  intro s s2 i t u q r n b h hn hb rb hr hf acc start fin trap
  have hgoes {size : Nat} {x : Acc} := scalarLoad_goes (s2 := s2) (r := r) (size := size) (x := x) h hn hb rb hr hf
  have htraps {size : Nat} {f : LaneFault} := scalarLoad_traps (s2 := s2) (r := r) (size := size) (f := f) h hn hb rb hr hf
  refine ⟨fun x hs => ?sld, fun f hs => ?sldTrap, fun he => ⟨fun x hs => ?sld2, fun f hs => ?sld2Trap⟩⟩
  case sld =>
    show execSld (.s r) (.s n) b s = _
    exact hgoes rfl hs
  case sldTrap =>
    show execSld (.s r) (.s n) b s = _
    exact htraps rfl hs
  case sld2 =>
    show execSld2 (.s r) (.s n) b s = _
    exact hgoes (pairOk_even he) hs
  case sld2Trap =>
    show execSld2 (.s r) (.s n) b s = _
    exact htraps (pairOk_even he) hs

end Sys2Proof.Machine

/-! # Vector loads (O21) -/

namespace Sys2Proof.Machine

open Sys2Proof

section
variable {s s2 : State} {i : Nat} {t u : Team} {q : Nat → Nat → Word} {r : BitVec 7} {a b : Sel} {n : Nat}
  {good : List Acc} {bad : List (LaneFault × Acc)}

/-- The sources of a vector access, one for each lane and one for all, are readable. -/
theorem firstCause_vs (ra : t.readable a) (rb : t.readable b) : firstCause ([a, b].map fun a => t.popCheck a) = none :=
  firstCause_readable t [(0, a), (1, b)] (by simp [ra, rb])

/-- The bytes of a lane's element under mode.type, or of n registers (R134). -/
def vecSize (y : Ty) (n : Nat) : Nat := if n = 0 then y.width / 8 else 4 * n
/-- The bits of one word that a vector load delivers. -/
def vecBits (y : Ty) (n : Nat) : Nat := if n = 0 then y.width else 32

/-- The address of each lane's access: S63:S62 plus A plus B, modulo 2^64 (R132). -/
theorem vecAddr_after {ps pops : List Pop} (hr : Reads t pops u q) (v : Team) (l : Nat) :
    u.vecAddr ((s.after i v ps).src u a l (q 0 l)) ((s.after i v ps).scalar u b (q 1 0)) =
      (t.pair 62 + (s.src t a l (q 0 l)).toNat + (s.scalar t b (q 1 0)).toNat) % 2 ^ 64 := by
  simp only [Team.vecAddr, reads_pair hr, src_after, reads_src hr, scalar_after, reads_scalar hr]

variable (h : Issues s i t) (ha : t.vectorSrc a = true) (hb : t.scalarSrc b = true) (ra : t.readable a) (rb : t.readable b)
include h ha hb ra rb

/-- A vector load with no lane active makes its checks and does nothing more (R65). -/
theorem vecLoad_none (hv : t.vOk r (max n 1) = true) (hy : (n != 0 || t.ty.loads) = true) (hl : t.active.isEmpty = true) :
    vecLoad s (.v r) a b n = .next (s.done i t) := by
  unfold vecLoad
  rw [sweepOn_none s i t h _ _ _ _ _ ?_ hl, settle_none s i t h]
  simp only [hv, hy, ha, hb, need, Bool.and_self, if_true, List.cons_append, List.nil_append, firstCause]
  exact firstCause_vs ra rb

/-- A vector load whose accesses have started: they are in flight on the flag of class A, the faulting lanes kept with them (R134, R137). -/
theorem vecLoad_goes (hv : t.vOk r (max n 1) = true) (hy : (n != 0 || t.ty.loads) = true) (hl : t.active.isEmpty = false)
    (hr : Reads t (popsVS t a b) u q) (hf : u.flagFull (t.setFlag false) = false)
    (hs : Starts (s.after i u (popsVS t a b)) i u .read (t.active.map fun l =>
      Acc.new l ((t.pair 62 + (s.src t a l (q 0 l)).toNat + (s.scalar t b (q 1 0)).toNat) % 2 ^ 64) (vecSize t.ty n) (vecSize t.ty n) r.toNat [])
      good bad s2) :
    vecLoad s (.v r) a b n = .next (s2.started i u
      { opOf i u s2 (t.setFlag false) (.load .loadStore false (vecBits t.ty n) (n == 0 && t.ty.signed)) with accs := good, acq := t.acqScope } bad) := by
  unfold vecLoad
  rw [sweepOn_after s i t u q h _ _ _ _ _ ?_ hl hr]
  · simp only [reads_active hr, reads_ty hr, vecAddr_after hr, reads_acqScope hr]
    rw [startOp_of _ s2 i u false _ _ good bad _ (by rwa [reads_setFlag hr]) hs, settle_enterOp, reads_setFlag hr]
    rfl
  · simp only [hv, hy, ha, hb, need, Bool.and_self, if_true, List.cons_append, List.nil_append, firstCause]
    exact firstCause_vs ra rb

/-- CLD with no lane active (R65, R253). -/
theorem exec_cld_none (hv : t.vOk r 1 = true) (hl : t.active.isEmpty = true) : exec (.cld (.v r) a b) s = .next (s.done i t) := by
  show execCld (.v r) a b s = _
  unfold execCld
  rw [sweepOn_none s i t h _ _ _ _ _ ?_ hl, settle_none s i t h]
  simp only [hv, ha, hb, need, Bool.and_self, if_true, List.cons_append, List.nil_append, firstCause]
  exact firstCause_vs ra rb

/-- CLD whose accesses have started: they go by the constant path, and a scalar A ties them to one read (R253). -/
theorem exec_cld_of (hv : t.vOk r 1 = true) (hl : t.active.isEmpty = false) (hr : Reads t (popsVS t a b) u q)
    (hf : u.flagFull (t.setFlag false) = false) (hs : Starts (s.after i u (popsVS t a b)) i u .read (t.active.map fun l =>
      { Acc.new l ((t.pair 62 + (s.src t a l (q 0 l)).toNat + (s.scalar t b (q 1 0)).toNat) % 2 ^ 64) 4 4 r.toNat [] with tied := oneSource a })
      good bad s2) :
    exec (.cld (.v r) a b) s = .next (s2.started i u
      { opOf i u s2 (t.setFlag false) (.load .const false 32 false) with accs := good, acq := none } bad) := by
  show execCld (.v r) a b s = _
  unfold execCld
  rw [sweepOn_after s i t u q h _ _ _ _ _ ?_ hl hr]
  · simp only [reads_active hr, vecAddr_after hr]
    rw [startOp_of _ s2 i u false _ _ good bad _ (by rwa [reads_setFlag hr]) hs, settle_enterOp, reads_setFlag hr]
    rfl
  · simp only [hv, ha, hb, need, Bool.and_self, if_true, List.cons_append, List.nil_append, firstCause]
    exact firstCause_vs ra rb

end

/-- Settles O21: VLD1 to VLD8 are `vecLoad` of their registers; CLD starts its accesses by the constant path. -/
theorem vectorLoadResult : Obligations.VectorLoadResult := by
  intro s s2 i t u q r a b good bad h ha hb ra rb
  refine ⟨fun hl => ?none, fun hl hr hf => ?some⟩
  case none =>
    have hnone {n : Nat} := vecLoad_none (r := r) (n := n) h ha hb ra rb
    show (_ → _ → execVld1 (.v r) a b s = _) ∧ (_ → execVld2 (.v r) a b s = _) ∧ (_ → execVld4 (.v r) a b s = _) ∧
      (_ → execVld8 (.v r) a b s = _) ∧ _
    exact ⟨fun hv hy => hnone hv hy hl, fun hv => hnone hv rfl hl, fun hv => hnone hv rfl hl, fun hv => hnone hv rfl hl,
      fun hv => exec_cld_none h ha hb ra rb hv hl⟩
  case some =>
    have hgoes {n : Nat} := vecLoad_goes (s2 := s2) (u := u) (q := q) (r := r) (n := n) (good := good) (bad := bad) h ha hb ra rb
    intro starts fin
    show (_ → _ → _ → execVld1 (.v r) a b s = _) ∧ (_ → _ → execVld2 (.v r) a b s = _) ∧ (_ → _ → execVld4 (.v r) a b s = _) ∧
      (_ → _ → execVld8 (.v r) a b s = _) ∧ _
    exact ⟨fun hv hy hs => hgoes hv hy hl hr hf hs, fun hv hs => hgoes hv rfl hl hr hf hs, fun hv hs => hgoes hv rfl hl hr hf hs,
      fun hv hs => hgoes hv rfl hl hr hf hs, fun hv hs => exec_cld_of h ha hb ra rb hv hl hr hf hs⟩

end Sys2Proof.Machine

/-! # Vector stores (O22) -/

namespace Sys2Proof.Machine

open Sys2Proof

/-- A D whose words a vector store of n registers takes, or of an element where n is 0 (R134). -/
def Team.storable (t : Team) (n : Nat) : Sel → Bool
  | .v r => t.vOk r (max n 1)
  | .s _ => n == 0
  | .k m => n == 0 && t.litOk m
  | .sp .zero => n == 0
  | _ => false

/-- The bytes that a vector store writes for a lane (R134). -/
def State.storeBytes (s : State) (t : Team) (d : Sel) (n l : Nat) : List Byte :=
  match d with
  | .v r => if n = 0 then natBytes (t.v l r.toNat).toNat (vecSize t.ty n) else wordsBytes (t.vs l r.toNat n)
  | _ => natBytes (s.src t d l 0).toNat (vecSize t.ty n)

/-- What a store leaves of its accesses that started: those of this device posted and the others in flight, or, as a release, all on their way (R135, R284). -/
def State.storesOut (s : State) (i : Nat) (u : Team) (good : List Acc) (bad : List (LaneFault × Acc)) : State :=
  let x := opOf i u s (u.setFlag true) .store
  let ws := lastWriters good
  match u.releases with
  | none => (s.enterOp i u { x with accs := ws.filter (·.remoteDev.isSome) } bad).postAll i s.stamp (ws.filter (·.remoteDev.isNone))
  | some sc => (s.enterOp i u { x with accs := ws, rel := some sc } bad).sendAll i u s.stamp sc 0 ws

section
variable {s s1 s2 : State} {i : Nat} {t u : Team} {q : Nat → Nat → Word} {d a b : Sel} {n : Nat}
  {good : List Acc} {bad : List (LaneFault × Acc)}

/-- A vector store by its names: the test of D is `Team.storable`, and each lane sends `State.storeBytes`. -/
theorem vecStore_eq (s : State) (d a b : Sel) (n : Nat) :
    vecStore s d a b n = sweepOn s (fun t _ => [need (t.storable n d && t.vectorSrc a && t.scalarSrc b) .illegalOperand,
        need (n != 0 || t.ty.loads) .illegalOperand]) [a, b] (fun t => t.active) (fun t => popsVS t a b) fun i t q s1 =>
      storeAccs i t s1 false (t.active.map fun l => Acc.new l (t.vecAddr (s1.src t a l (q 0 l)) (s1.scalar t b (q 1 0))) (vecSize t.ty n)
        (vecSize t.ty n) 0 (s1.storeBytes t d n l)) := rfl

/-- Reading operands leaves the bytes to store. -/
theorem storeBytes_after {ps pops : List Pop} (hr : Reads t pops u q) (v : Team) (l : Nat) :
    (s.after i v ps).storeBytes u d n l = s.storeBytes t d n l := by
  cases d <;> simp only [State.storeBytes, reads_v hr, reads_vs hr, reads_ty hr, src_after, reads_src hr]

/-- What a store leaves, by the ordering of the team as it was before it read its operands. -/
theorem storesOut_of_reads {pops : List Pop} (hr : Reads t pops u q) :
    s.storesOut i u good bad =
      match t.releases with
      | none => (s.enterOp i u { opOf i u s (t.setFlag true) .store with accs := (lastWriters good).filter (·.remoteDev.isSome) } bad).postAll i s.stamp
          ((lastWriters good).filter (·.remoteDev.isNone))
      | some sc => (s.enterOp i u { opOf i u s (t.setFlag true) .store with accs := lastWriters good, rel := some sc } bad).sendAll i u s.stamp sc 0
          (lastWriters good) := by
  unfold State.storesOut
  rw [reads_releases hr, reads_setFlag hr]

variable (hd : t.storable n d = true) (hy : (n != 0 || t.ty.loads) = true) (ha : t.vectorSrc a = true) (hb : t.scalarSrc b = true)
  (ra : t.readable a) (rb : t.readable b)
include hd hy ha hb ra rb

/-- The checks of a vector store. -/
theorem vecStore_checks :
    firstCause ([need (t.storable n d && t.vectorSrc a && t.scalarSrc b) .illegalOperand, need (n != 0 || t.ty.loads) .illegalOperand] ++
      [a, b].map fun a => t.popCheck a) = none := by
  simp only [hd, hy, ha, hb, need, Bool.and_self, if_true, List.cons_append, List.nil_append, firstCause]
  exact firstCause_vs ra rb

/-- A vector store with no lane active makes its checks and does nothing more (R65). -/
theorem vecStore_none (h : Issues s i t) (hl : t.active.isEmpty = true) : vecStore s d a b n = .next (s.done i t) := by
  rw [vecStore_eq, sweepOn_none s i t h _ _ _ _ _ (vecStore_checks hd hy ha hb ra rb) hl, settle_none s i t h]

/-- A vector store whose accesses have started, past what its team's ordering asks to drain first (R136, R281, R284). -/
theorem vecStore_goes (h : Issues s i t) (hl : t.active.isEmpty = false) (hr : Reads t (popsVS t a b) u q)
    (hf : u.flagFull (t.setFlag true) = false) (hdr : DrainedFor (s.after i u (popsVS t a b)) i u s1)
    (hs : s1.startAll i u .write (t.active.map fun l =>
      Acc.new l ((t.pair 62 + (s.src t a l (q 0 l)).toNat + (s.scalar t b (q 1 0)).toNat) % 2 ^ 64) (vecSize t.ty n) (vecSize t.ty n) 0
        (s.storeBytes t d n l)) = .ok good bad s2) :
    vecStore s d a b n = .next ((s2.storesOut i u good bad).issued i) := by
  rw [vecStore_eq, sweepOn_after s i t u q h _ _ _ _ _ (vecStore_checks hd hy ha hb ra rb) hl hr]
  simp only [reads_active hr, reads_ty hr, vecAddr_after hr, storeBytes_after hr]
  rw [storeAccs_go _ s1 s2 i u false _ good bad (by rwa [reads_setFlag hr]) hdr hs]
  rfl

end

/-- Settles O22: VST1 to VST8 are `vecStore` of their registers, VST1 also of an S register, a literal or ZERO. -/
theorem vectorStoreResult : Obligations.VectorStoreResult := by
  intro s s1 s2 i t u q a b good bad h ha hb ra rb
  refine ⟨fun hl => ?none, fun hl hr hf hdr => ?some⟩
  case none =>
    intro none1 r
    have hnone {n : Nat} (hd : t.storable n (.v r) = true) (hy : (n != 0 || t.ty.loads) = true) := vecStore_none hd hy ha hb ra rb h hl
    show (_ → _ → execVst1 (.v r) a b s = _) ∧ (_ → execVst2 (.v r) a b s = _) ∧ (_ → execVst4 (.v r) a b s = _) ∧
      (_ → execVst8 (.v r) a b s = _)
    exact ⟨fun hv hy => hnone hv hy, fun hv => hnone hv rfl, fun hv => hnone hv rfl, fun hv => hnone hv rfl⟩
  case some =>
    intro starts ws fin one
    have hfin : .next ((s2.storesOut i u good bad).issued i) = fin := by
      simp only [storesOut_of_reads hr, fin]
      cases t.releases <;> rfl
    have hgoes {d : Sel} {n : Nat} (hd : t.storable n d = true) (hy : (n != 0 || t.ty.loads) = true)
        (hs : starts (vecSize t.ty n) (s.storeBytes t d n)) : vecStore s d a b n = fin :=
      (vecStore_goes hd hy ha hb ra rb h hl hr hf hdr hs).trans hfin
    refine ⟨fun hy => ?vst1, ?wide⟩
    case vst1 =>
      show (∀ r, _ → _ → execVst1 (.v r) a b s = _) ∧ (∀ n, _ → execVst1 (.s n) a b s = _) ∧ (∀ k, _ → _ → execVst1 (.k k) a b s = _) ∧
        (_ → execVst1 (.sp .zero) a b s = _)
      exact ⟨fun r hv hs => hgoes hv hy hs, fun n hs => hgoes rfl hy hs, fun k hk hs => hgoes hk hy hs, fun hs => hgoes rfl hy hs⟩
    case wide =>
      show (∀ r, _ → _ → execVst2 (.v r) a b s = _) ∧ (∀ r, _ → _ → execVst4 (.v r) a b s = _) ∧ (∀ r, _ → _ → execVst8 (.v r) a b s = _)
      exact ⟨fun r hv hs => hgoes hv rfl hs, fun r hv hs => hgoes hv rfl hs, fun r hv hs => hgoes hv rfl hs⟩

end Sys2Proof.Machine

/-! # Reductions and scans (O17) -/

namespace Sys2Proof.Machine

open Sys2Proof

/-- A D that a reduction takes: a V register or ZERO for the groups, S registers for the team (R127). -/
def Team.reduceDst (t : Team) (d : Sel) : Bool :=
  match d with
  | .v _ => t.elemDst t.ty d
  | .s n => !t.ty.wide || n.toNat % 2 == 0
  | .sp .zero => true
  | _ => false

section
variable {s : State} {i : Nat} {t u : Team} {q : Nat → Nat → Word} {d a : Sel} {c : Comb}

/-- Lane results given as a list, with their bits, settled where the list is that of a function of the active lanes. -/
theorem settle_putF (v : Team) (pops : List Pop) (f : Nat → Nat × Nat) {rs : List (Nat × Nat)} {bits : Nat}
    (hrs : rs = u.active.map fun l => (l, (f l).1)) (hbits : bits = orBits (u.active.map fun l => (l, f l))) (hd : u.takesAll d u.active.length) :
    settle i t (putElems i (u.addStatus bits) (s.after i v pops) u.ty d rs) = s.done i (u.putF d f) := by
  subst hrs hbits
  unfold State.after
  rw [settle_putElems _ _ _ _ _ _ _ _ _ (by simpa using takesAll_addStatus u d _ _ hd)]
  simp only [Team.putF, List.map_map, Function.comp_def]

/-- The elements of the active lanes, after the sources are read. -/
theorem tagLanes_after (hr : Reads t (popsLanes t.active [(0, a)]) u q) :
    (u.active.map fun l => (l, (s.after i u (popsLanes t.active [(0, a)])).elem u u.ty a l (q 0 l))) =
      tagLanes (fun l => s.elem t t.ty a l (q 0 l)) u.active := by
  simp only [tagLanes, elem_after, reads_ty hr, reads_elem hr]

variable (h : Issues s i t) (ha : t.elemSrc t.ty a = true) (hy : t.ty.arith = true) (ra : t.readable a)

include ha hy ra in
/-- A reduction's checks (R55, R127). -/
theorem reduce_checks (hd : t.reduceDst d = true) :
    firstCause ([need (t.reduceDst d) .illegalOperand, need (t.elemSrc t.ty a) .illegalOperand, need (redTypes t.ty) .illegalOperand] ++
      ([(0, a)].map (·.2)).map fun a => t.popCheck a) = none := by
  have hy' : redTypes t.ty = true := hy
  simp only [hd, ha, hy', need, if_true, List.cons_append, List.nil_append, firstCause]
  exact firstCause_readable t [(0, a)] (by simp [ra])

include ha hy ra in
/-- A scan's checks (R55, R128). -/
theorem scan_checks {r : BitVec 7} {b : BitVec 8} (hd : t.elemDst t.ty (.v r) = true) (hb : scanComb b = some c) :
    firstCause ([need (isV (.v r) && t.elemDst t.ty (.v r) && t.elemSrc t.ty a && (scanComb b).isSome) .illegalOperand,
      need (redTypes t.ty) .illegalOperand] ++ ([(0, a)].map (·.2)).map fun a => t.popCheck a) = none := by
  have hy' : redTypes t.ty = true := hy
  simp only [isV, hd, ha, hb, hy', Option.isSome_some, need, Bool.and_self, if_true, List.cons_append, List.nil_append, firstCause]
  exact firstCause_readable t [(0, a)] (by simp [ra])

include h ha hy ra

/-- A reduction with no lane active writes nothing (R65). -/
theorem reduceOp_none (hd : t.reduceDst d = true) (hl : t.active.isEmpty = true) : reduceOp s d a c = .next (s.done i t) := by
  unfold reduceOp sweep
  rw [sweepOn_none s i t h _ _ _ _ _ (reduce_checks ha hy ra hd) hl, settle_none s i t h]

/-- A reduction over the groups (R127): each active lane gets what its group combines to. -/
theorem reduceOp_groups (hd : t.reduceDst d = true) (hs : (∃ r, d = .v r) ∨ d = .sp .zero) (hl : t.active.isEmpty = false)
    (hr : Reads t (popsLanes t.active [(0, a)]) u q) :
    reduceOp s d a c = .next (s.done i (u.putF d fun l =>
      combineAll c t.ty t.rnd t.flush t.sat ((t.active.filter fun k => k / 32 == l / 32).map fun l => s.elem t t.ty a l (q 0 l)))) := by
  have htake : u.takesAll d u.active.length := by
    rcases hs with ⟨r, rfl⟩ | rfl <;> trivial
  have heff : reduceOp s d a c = sweep s (fun t _ => [need (t.reduceDst d) .illegalOperand, need (t.elemSrc t.ty a) .illegalOperand,
      need (redTypes t.ty) .illegalOperand]) [(0, a)] fun i t q s1 =>
        let gs := (byGroup (t.active.map fun l => (l, s1.elem t t.ty a l (q 0 l)))).map fun g => scanList c t.ty t.rnd t.flush t.sat none g
        putElems i (t.addStatus (orBits gs.flatten)) s1 t.ty d ((gs.map fun g => match g.getLast? with
          | some x => g.map fun e => (e.1, x.2.1)
          | none => []).flatten) := by
    rcases hs with ⟨r, rfl⟩ | rfl <;> rfl
  obtain ⟨hvals, hbits⟩ := groups_red c u.ty u.rnd u.flush u.sat (fun l => s.elem t t.ty a l (q 0 l)) u.active (active_sorted u) (active_lt u)
  rw [heff, sweep, sweepOn_after s i t u q h _ _ _ _ _ (reduce_checks ha hy ra hd) hl hr]
  simp only [tagLanes_after hr]
  refine congrArg _ ((settle_putF u _ _ hvals hbits htake).trans ?_)
  simp only [foldLanes, reads_ty hr, reads_rnd hr, reads_flush hr, reads_sat hr, reads_active hr]

/-- A reduction over the team (R127): what all active lanes combine to, in an S register, or in two for a 64-bit element. -/
theorem reduceOp_team {n : BitVec 6} (hn : t.ty.wide = false ∨ n.toNat % 2 = 0) (hl : t.active.isEmpty = false)
    (hr : Reads t (popsLanes t.active [(0, a)]) u q) :
    let r := combineAll c t.ty t.rnd t.flush t.sat (t.active.map fun l => s.elem t t.ty a l (q 0 l))
    let v := (u.addStatus r.2).setS n (BitVec.ofNat 32 r.1)
    reduceOp s (.s n) a c = .next (s.done i (if t.ty.wide then v.setS (n + 1) (BitVec.ofNat 32 (r.1 / 2 ^ 32)) else v)) := by
  intro r v
  have hd : t.reduceDst (.s n) = true := by
    rcases hn with hn | hn <;> simp [Team.reduceDst, hn]
  have hne : t.active ≠ [] := fun h0 => by simp [h0] at hl
  obtain ⟨l, b, hlast⟩ := scan_last c t.ty t.rnd t.flush t.sat (fun l => s.elem t t.ty a l (q 0 l)) t.active hne
  unfold reduceOp sweep
  rw [sweepOn_after s i t u q h _ _ _ _ _ (reduce_checks ha hy ra hd) hl hr]
  simp only [tagLanes_after hr]
  simp only [reads_ty hr, reads_rnd hr, reads_flush hr, reads_sat hr, reads_active hr, hlast, scan_bits]
  unfold State.after
  rw [settle_setTeam_if]
  rfl

/-- A scan that starts again at each group (R128): a lane gets what the active lanes of its group up to it combine to. -/
theorem scanOp_groups {r : BitVec 7} {b : BitVec 8} (hd : t.elemDst t.ty (.v r) = true) (hb : scanComb b = some c)
    (hl : t.active.isEmpty = false) (hr : Reads t (popsLanes t.active [(0, a)]) u q) :
    scanOp s (.v r) a b false = .next (s.done i (u.putF (.v r) fun l => combineAll c t.ty t.rnd t.flush t.sat
      (((t.active.filter fun k => k / 32 == l / 32).filter fun k => decide (k ≤ l)).map fun l => s.elem t t.ty a l (q 0 l)))) := by
  obtain ⟨hvals, hbits⟩ := groups_scan c u.ty u.rnd u.flush u.sat (fun l => s.elem t t.ty a l (q 0 l)) u.active (active_sorted u) (active_lt u)
  unfold scanOp sweep
  rw [sweepOn_after s i t u q h _ _ _ _ _ (scan_checks ha hy ra hd hb) hl hr]
  simp only [tagLanes_after hr, hb, Option.getD_some, Bool.false_eq_true, if_false]
  rw [settle_putF (d := .v r) u _ _ hvals hbits trivial]
  simp only [foldLanes, lanesUpTo, reads_ty hr, reads_rnd hr, reads_flush hr, reads_sat hr, reads_active hr]

/-- A scan across the team (R128): a lane gets what the active lanes up to it combine to. -/
theorem scanOp_team {r : BitVec 7} {b : BitVec 8} (hd : t.elemDst t.ty (.v r) = true) (hb : scanComb b = some c)
    (hl : t.active.isEmpty = false) (hr : Reads t (popsLanes t.active [(0, a)]) u q) :
    scanOp s (.v r) a b true = .next (s.done i (u.putF (.v r) fun l => combineAll c t.ty t.rnd t.flush t.sat
      ((t.active.filter fun k => decide (k ≤ l)).map fun l => s.elem t t.ty a l (q 0 l)))) := by
  have hvals := scan_values c u.ty u.rnd u.flush u.sat (fun l => s.elem t t.ty a l (q 0 l)) u.active (active_sorted u)
  have hbits := (scan_bits c u.ty u.rnd u.flush u.sat (fun l => s.elem t t.ty a l (q 0 l)) u.active).trans
    (bits_upTo c u.ty u.rnd u.flush u.sat (fun l => s.elem t t.ty a l (q 0 l)) u.active (active_sorted u)).symm
  unfold scanOp sweep
  rw [sweepOn_after s i t u q h _ _ _ _ _ (scan_checks ha hy ra hd hb) hl hr]
  simp only [tagLanes_after hr, hb, Option.getD_some, if_true]
  rw [settle_putF (d := .v r) u _ _ hvals hbits trivial]
  simp only [foldLanes, lanesUpTo, reads_ty hr, reads_rnd hr, reads_flush hr, reads_sat hr, reads_active hr]

end

/-- Settles O17: a reduction is `reduceOp` of its combination, by the form of D; a scan is `scanOp`, over the groups or the team. -/
theorem reductionResult : Obligations.ReductionResult := by
  intro s i t u q a h hy ha ra
  refine ⟨fun hl d hd => ?none, fun hl hr => ?some⟩
  case none =>
    have hdst : t.reduceDst d = true := by
      rcases hd with rfl | ⟨r, rfl, hd⟩ | ⟨n, rfl, hd | hd⟩
      · rfl
      · exact hd
      · simp [Team.reduceDst, hd]
      · simp [Team.reduceDst, hd]
    show execVredadd d a s = _ ∧ execVredmin d a s = _ ∧ execVredmax d a s = _
    have hnone (c : Comb) := reduceOp_none (c := c) h ha hy ra hdst hl
    exact ⟨hnone .add, hnone .min, hnone .max⟩
  case some =>
    intro fold group upTo none0
    refine ⟨fun r hd => ?vector, ?zero, fun n hn => ?scalar⟩
    case vector =>
      show execVredadd (.v r) a s = _ ∧ execVredmin (.v r) a s = _ ∧ execVredmax (.v r) a s = _ ∧
        ∀ b c, _ → execVscan (.v r) a b s = _ ∧ execVscant (.v r) a b s = _
      have hgroups (c : Comb) := reduceOp_groups (d := .v r) (c := c) h ha hy ra hd (.inl ⟨r, rfl⟩) hl hr
      exact ⟨hgroups .add, hgroups .min, hgroups .max, fun b c hb => ⟨scanOp_groups h ha hy ra hd hb hl hr, scanOp_team h ha hy ra hd hb hl hr⟩⟩
    case zero =>
      show execVredadd (.sp .zero) a s = _ ∧ execVredmin (.sp .zero) a s = _ ∧ execVredmax (.sp .zero) a s = _
      have hgroups (c : Comb) := reduceOp_groups (d := .sp .zero) (c := c) h ha hy ra rfl (.inr rfl) hl hr
      exact ⟨hgroups .add, hgroups .min, hgroups .max⟩
    case scalar =>
      show execVredadd (.s n) a s = _ ∧ execVredmin (.s n) a s = _ ∧ execVredmax (.s n) a s = _
      have hteam (c : Comb) := reduceOp_team (c := c) h ha hy ra hn hl hr
      exact ⟨hteam .add, hteam .min, hteam .max⟩

end Sys2Proof.Machine

/-! # MMA, MLOOP and MGRP (O37) -/

namespace Sys2Proof.Machine

open Sys2Proof

section
variable {s s1 s2 s3 : State} {i : Nat} {t u : Team} {q : Nat → Nat → Word} {pops : List Pop} {va : Nat} {bs : List Byte} {sw : Swatch}

/-- Under an empty effective mask no lane and no lane group is active. -/
theorem active_of_eff (h : t.eff = 0) : t.active = [] := by
  have hz : ∀ k, ¬(t.eff.toNat.testBit k = true) := fun k => by rw [h, ← BitVec.getLsbD, BitVec.ofNat_eq_ofNat, BitVec.getLsbD_zero]; decide
  exact List.filter_eq_nil_iff.mpr fun k _ => hz k
theorem actGroups_of_eff (h : t.eff = 0) : t.actGroups = [] := by
  have hz : ∀ g, maskWord t.eff g = 0 := fun g => by
    rw [h, maskWord, BitVec.ofNat_eq_ofNat, BitVec.toNat_zero, Nat.zero_shiftRight]
    rfl
  exact List.filter_eq_nil_iff.mpr fun g _ => by rw [hz g]; decide

/-- An operand in no queue register is not popped. -/
theorem popsOnce_plain {a : Sel} (h : isQ a = false) : popsOnce [(0, a)] = [] := by
  cases a with
  | q n => cases h
  | _ => rfl

/-- Reading operands leaves the swatch. -/
theorem reads_swatch (h : Reads t pops u q) : u.swatch = t.swatch := by
  obtain ⟨_, _, rfl⟩ := reads_frame h
  rfl

/-- The swatch of a team is read and valid, after its operands have been. -/
theorem swatchRead_of (hr : Reads t pops u q) (hv : t.swatch = some va) (hs : s.record i u va 32 32 = .ok bs s1)
    (hw : swatchOf (bytesWords 8 bs) = some sw) : SwatchRead s i u (bytesWords 8 bs) s1 :=
  ⟨va, bs, sw, (reads_swatch hr).trans hv, hs, rfl, hw⟩

/-- A loop has room also for its team with the operands read. -/
theorem loopRoom_of_reads {l : Loop} (hr : Reads t pops u q) (h : LoopRoom s i t l) : LoopRoom s i u l := by
  obtain ⟨hflag, hroom, hawake⟩ := h
  refine ⟨?_, ?_, ?_⟩
  · rwa [reads_flagFull hr, reads_setFlag hr]
  · rwa [reads_core hr]
  · rwa [reads_core hr]

/-- The first checks of MLOOP and MGRP, past them: F of the record is allowed and the swatch valid (R165, R195). -/
theorem withLoop_of {n : BitVec 6} {ws : List Word} (hn : recOk u (loopRec u n) = true) (hs : SwatchRead s i u ws s1)
    (k : List Word → List Word → State → Res) :
    withLoop i u s (.s n) k = k (loopRec u n) ws s1 := by
  simp only [withLoop, hn, Bool.not_true, Bool.false_eq_true, if_false]
  exact withSwatch_of s s1 i u ws _ hs

/-- The images of a loop record are aligned (R197). -/
theorem withAligned_of {r : List Word} (h : recAligned u r = true) (k : State → Res) : withAligned i u s r k = k s := by
  simp only [withAligned, h, Bool.not_true, Bool.false_eq_true, if_false]

/-- MGRP's table, past its checks: its row offsets and the stride of its images (R166, R204). -/
theorem withTable_of {base : Nat} {head tab : List Word} (hh : s.recordWords i u base 1 = .ok head s1) (h1 : 1 ≤ recNum head 0)
    (h64 : recNum head 0 ≤ 64) (ht : s1.recordWords i u ((base + 4) % 2 ^ 64) (recNum head 0 + 2) = .ok tab s2)
    (ho : offsOk ((tab.take (recNum head 0 + 1)).map (·.toNat)) = true) (hs : recNum tab (recNum head 0 + 1) % 128 = 0)
    (k : List Nat → Nat → State → Res) :
    withTable i u s base k = k ((tab.take (recNum head 0 + 1)).map (·.toNat)) (recNum tab (recNum head 0 + 1)) s2 := by
  have hcount : ¬(recNum head 0 = 0 ∨ 64 < recNum head 0) := by omega
  simp only [withTable, hh, Got.into, if_neg hcount, ht, ho, hs, Bool.not_true, Bool.false_eq_true, ne_eq, not_true_eq_false, or_self, if_false]

/-- Rows that lie inside the windows of the active groups (R189). -/
theorem windows_of_rows {top row : Nat} (h : ∀ g ∈ t.actGroups, row + top ≤ (t.win g).rows) :
    (t.actGroups.find? fun g => decide ((t.win g).rows < row + top)) = none := by
  rw [List.find?_eq_none]
  intro g hg
  have := h g hg
  simp only [decide_eq_true_eq]
  omega

end

section
variable {s s1 s2 s3 : State} {i : Nat} {t u : Team} {q : Nat → Nat → Word} {n : BitVec 6} {a b : Sel} {ws : List Word}

section
variable {ra rb : BitVec 7} (h : Issues s i t) (hn : n.toNat ≤ 62) (ha : t.vOk ra 16 = true) (hb : t.vOk rb 16 = true)

include hn ha hb in
/-- MMA's checks of its operands (R202). -/
theorem mma_checks :
    firstCause ([need (decide (n.toNat ≤ 62) && (t.vOk ra 16 && t.vOk rb 16)) .illegalOperand] ++ ([] : List Sel).map fun a => t.popCheck a) = none := by
  simp [need, hn, ha, hb, firstCause]

include h hn ha hb

/-- MMA with no lane active makes its checks and does nothing more (R65). -/
theorem exec_mma_none (he : t.eff = 0) (hs : SwatchRead { s with cur := none } i t ws s1) :
    exec (.mma (.s n) (.v ra) (.v rb)) s = .next (s1.ends i t) := by
  show execMma (.s n) (.v ra) (.v rb) s = _
  unfold execMma sweepHandle
  rw [issue_of s i t h]
  refine congrArg _ ?_
  rw [mma_checks hn ha hb]
  simp only [active_of_eff he, List.isEmpty_nil, if_true, isQ, Bool.not_true, Bool.or_self, Bool.false_eq_true, if_false]
  rw [withSwatch_of _ s1 i t ws _ hs, ifActive, active_of_eff he]
  exact settle_ends s1 i t t

/-- MMA over rows inside the windows enters the matrix unit as a loop of one step (R202). -/
theorem exec_mma_of (hl : t.active.isEmpty = false) (hs : SwatchRead { s with cur := none } i t ws s1)
    (hw : (t.actGroups.map fun g => (g, (t.s n).toNat, 64)).find? t.outside = none) :
    let l : Loop :=
      { fn := 0, sw := ws, flush := t.flush, vbase := t.pair 62, record := [], row := (t.s n).toNat, offs := [0, 64], stride := 0,
        step0 := (t.s (n + 1)).toNat, st := 0, groups := t.newGroups fun g => fragRegs t s1 g ra.toNat ++ fragRegs t s1 g rb.toNat }
    LoopRoom s1 i t l →
      exec (.mma (.s n) (.v ra) (.v rb)) s = .next ((s1.setTeam i t).started i t (opOf i t s1 (t.setFlag true) (.loop l)) []) := by
  intro l hroom
  show execMma (.s n) (.v ra) (.v rb) s = _
  unfold execMma
  rw [sweepHandle_after s i t t (fun _ _ => 0) h _ _ _ _ _ _ (mma_checks hn ha hb) hl (reads_nil t), unpopped_nil]
  simp only [State.after, if_true]
  rw [withSwatch_of _ s1 i t ws _ hs, ifActive_of i t s1 _ hl, hw]
  simp only
  rw [loopStart_of s1 i t l hroom, settle_enterOp]

end

section
variable (h : Issues s i t) (hn : n.toNat ≤ 58) (ha : t.scalarSrc a = true) (ra : t.readable a) (hrec : recOk t (loopRec t n) = true)
  (hal : recAligned t (loopRec t n) = true)

include hn ha ra in
/-- MLOOP's checks of its operands (R203). -/
theorem mloop_checks :
    firstCause ([need (recReg (.s n) && t.scalarSrc a) .illegalOperand] ++ [a].map fun a => t.popCheck a) = none :=
  firstCause_operands [(0, a)] (by simp [recReg, hn, ha]) (by simp [ra])

include h hn ha ra hrec hal

/-- MLOOP with no lane active and its row in no queue register makes its checks and does nothing more (R65). -/
theorem exec_mloop_none (hq : isQ a = false) (he : t.eff = 0) (hs : SwatchRead { s with cur := none } i t ws s1) :
    exec (.mloop (.s n) a) s = .next (s1.ends i t) := by
  show execMloop (.s n) a s = _
  unfold execMloop sweepHandle
  rw [issue_of s i t h]
  refine congrArg _ ?_
  rw [mloop_checks hn ha ra]
  simp only [active_of_eff he, List.isEmpty_nil, if_true, hq, popsOnce_plain hq, Bool.not_true, Bool.or_self, Bool.false_eq_true, if_false]
  rw [withLoop_of hrec hs]
  simp only [actGroups_of_eff he, List.map_nil, List.find?_nil]
  rw [withAligned_of hal, ifActive, active_of_eff he]
  exact settle_ends s1 i t t

/-- MLOOP over rows inside the windows enters the matrix unit (R203). -/
theorem exec_mloop_of (hl : t.active.isEmpty = false) (hr : Reads t (popsOnce [(0, a)]) u q)
    (hs : SwatchRead (s.after i u (popsOnce [(0, a)])) i u ws s1)
    (hw : (t.actGroups.map fun g => (g, (s1.scalar u a (q 0 0)).toNat, 64)).find? t.outside = none) :
    let l : Loop :=
      { fn := 1, sw := ws, flush := t.flush, vbase := t.pair 62, record := loopRec t n, row := (s1.scalar u a (q 0 0)).toNat, offs := [0, 64],
        stride := 0, step0 := 0, st := 0, groups := t.newGroups fun _ => [] }
    LoopRoom s1 i t l → exec (.mloop (.s n) a) s = .next ((s1.setTeam i u).started i u (opOf i u s1 (t.setFlag true) (.loop l)) []) := by
  intro l hroom
  show execMloop (.s n) a s = _
  unfold execMloop
  rw [sweepHandle_after s i t u q h _ _ _ _ _ _ (mloop_checks hn ha ra) hl hr,
    withLoop_of (by rwa [reads_recOk hr, reads_loopRec hr]) hs]
  simp only [reads_actGroups hr, reads_outside hr, hw]
  rw [withAligned_of (by rwa [reads_recAligned hr, reads_loopRec hr]), ifActive_of i u s1 _ (by rwa [reads_active hr])]
  simp only [reads_flush hr, reads_pair hr, reads_loopRec hr, reads_newGroups hr]
  rw [loopStart_of s1 i u l (loopRoom_of_reads hr hroom), unpopped_ok, settle_enterOp, reads_setFlag hr]

/-- MGRP whose table is valid, over row groups inside the windows, enters the matrix unit (R166, R204). -/
theorem exec_mgrp_of (hb : t.scalarSrc b = true) (rb : t.readable b) (hl : t.active.isEmpty = false)
    (hr : Reads t (popsOnce [(0, a), (1, b)]) u q) (hs : SwatchRead (s.after i u (popsOnce [(0, a), (1, b)])) i u ws s1) {head tab : List Word}
    (hh : s1.recordWords i u ((t.pair 62 + (s1.scalar u a (q 0 0)).toNat) % 2 ^ 64) 1 = .ok head s2)
    (h1 : 1 ≤ recNum head 0) (h64 : recNum head 0 ≤ 64)
    (ht : s2.recordWords i u (((t.pair 62 + (s1.scalar u a (q 0 0)).toNat) % 2 ^ 64 + 4) % 2 ^ 64) (recNum head 0 + 2) = .ok tab s3) :
    let row := (s3.scalar u b (q 1 0)).toNat
    let offs := (tab.take (recNum head 0 + 1)).map (·.toNat)
    let stride := recNum tab (recNum head 0 + 1)
    offsOk offs = true → stride % 128 = 0 → (∀ g ∈ t.actGroups, row + (offs.getLast?).getD 0 ≤ (t.win g).rows) →
      let l : Loop :=
        { fn := 2, sw := ws, flush := t.flush, vbase := t.pair 62, record := loopRec t n, row := row, offs := offs, stride := stride,
          step0 := 0, st := 0, groups := t.newGroups fun _ => [] }
      LoopRoom s3 i t l → exec (.mgrp (.s n) a b) s = .next ((s3.setTeam i u).started i u (opOf i u s3 (t.setFlag true) (.loop l)) []) := by
  intro row offs stride ho hst hw l hroom
  show execMgrp (.s n) a b s = _
  unfold execMgrp
  rw [sweepHandle_after s i t u q h _ _ _ _ _ _
      (firstCause_operands [(0, a), (1, b)] (by simp [recReg, hn, ha, hb]) (by simp [ra, rb])) hl hr,
    withLoop_of (by rwa [reads_recOk hr, reads_loopRec hr]) hs, tableAt, reads_pair hr, withTable_of hh h1 h64 ht ho hst]
  simp only [reads_actGroups hr, reads_win hr, windows_of_rows hw, offs, row]
  rw [withAligned_of (by rwa [reads_recAligned hr, reads_loopRec hr]), ifActive_of i u s3 _ (by rwa [reads_active hr])]
  simp only [reads_flush hr, reads_loopRec hr, reads_newGroups hr]
  rw [loopStart_of s3 i u l (loopRoom_of_reads hr hroom), unpopped_ok, settle_enterOp, reads_setFlag hr]

end

end

/-- Settles O37: one lemma for each instruction, and for MMA and MLOOP one with no lane active. -/
theorem loopResult : Obligations.LoopResult := by
  intro s s1 i t n a b va bs sw h hv hsw ws roomFor windows
  refine ⟨fun ra rb hn ha hb hs => ?mma, fun hn ha ra hrec hal =>
    ⟨fun hq he hs => ?mloopNone, fun hl u q hr hs => ?mloop, fun hl hb rb u q hr hs => ?mgrp⟩⟩
  case mma =>
    have hread := swatchRead_of (reads_nil t) hv hs hsw
    exact ⟨fun he => exec_mma_none h hn ha hb he hread, fun hl hw => exec_mma_of h hn ha hb hl hread hw⟩
  case mloopNone => exact exec_mloop_none h hn ha ra hrec hal hq he (swatchRead_of (reads_nil t) hv hs hsw)
  case mloop => exact fun hw hroom => exec_mloop_of h hn ha ra hrec hal hl hr (swatchRead_of hr hv hs hsw) hw hroom
  case mgrp =>
    intro base head tab s2 s3 hh h1 h64 ht
    exact exec_mgrp_of h hn ha ra hrec hal hb rb hl hr (swatchRead_of hr hv hs hsw) hh h1 h64 ht

end Sys2Proof.Machine

/-! # The steps in which accesses are performed (O48) -/

namespace Sys2Proof.Machine

open Sys2Proof

/-! ## Loads -/

section
variable {s : State} {o k : Nat} {x : Op} {a : Acc} {p : Path} {sc sg : Bool} {n : Nat} {bs : List Byte}

/-- LOAD_RETURN of a load that is ready and not of another device: its lanes fault where the read meets an error, else the bytes read go to each (R67, R397). -/
theorem exec_loadReturn_of (ho : s.op o = some x) (ha : x.accs[k]? = some a) (hk : x.kind = .load p sc n sg) (hd : a.data = [])
    (hr : s.loadReady o x k a = true) (hp : ∀ dev, a.tr.place ≠ .remote dev) :
    exec (.loadReturn o k) s = .next
      (if (s.readMeets x a p).1 then (s.readMeets x a p).2.setOp o (x.failAll .memUncorr (x.servedWith k a))
       else ((s.readMeets x a p).2.readFor o x a p).2.returnAll o ((s.readMeets x a p).2.readFor o x a p).1 (x.servedWith k a)) := by
  show execLoadReturn o k s = _
  unfold execLoadReturn
  simp only [ho, ha, hk, hd, OpKind.isRead, OpKind.isLoad, OpKind.path, hr, List.isEmpty_nil, Bool.not_true, Bool.and_false, Bool.false_and,
    Bool.and_self, Bool.false_eq_true, if_false, if_true]
  cases hpl : a.tr.place with
  | remote dev => exact absurd hpl (hp dev)
  | _ => split <;> rfl

/-- A read leaves the operation that it is for. -/
theorem op_afterRead (s : State) (o : Nat) (x : Op) (a : Acc) (p : Path) : ((s.readMeets x a p).2.readFor o x a p).2.op o = s.op o := by
  rw [readFor_op, State.op, readMeets_ops]
  rfl

/-- An access that no others share its read with (R253). -/
theorem servedWith_untied (h : a.tied = false) : x.servedWith k a = [k] := by
  simp only [Op.servedWith, h, Bool.false_eq_true, if_false]

/-- Bytes that go to one access. -/
theorem returnAll_one (ho : s.op o = some x) (ha : x.accs[k]? = some a) : s.returnAll o bs [k] = s.returned o k x a bs := by
  simp only [State.returnAll, ho, ha]

/-- Bytes of a vector load, or of a scalar one of one word, go to its registers together (R67, R134). -/
theorem returned_whole (hk : x.kind = .load p sc n sg) (hw : sc = false ∨ (loadWords n sg bs).length < 2) :
    s.returned o k x a bs = (s.setOp o (x.markDone k)).deliver x a sc (loadWords n sg bs) := by
  unfold State.returned
  rw [hk]
  cases sc with
  | false => rfl
  | true =>
    have hw : (loadWords n sg bs).length < 2 := hw.resolve_left (by decide)
    exact if_pos hw

/-- Words of a scalar load of several, none of which has arrived: a free choice of them arrives now (R67, R106). -/
theorem returned_some (hk : x.kind = .load p true n sg) (hd : a.data = []) (hw : 2 ≤ (loadWords n sg bs).length) :
    let ws := loadWords n sg bs
    let full := 2 ^ ws.length - 1
    let m := (s.choose (full + 1)).1
    let s1 := (s.choose (full + 1)).2.deliverSome x a ws (m &&& (full ^^^ a.got))
    s.returned o k x a bs = if m = full then s1.setOp o (x.markDone k)
      else s1.setOp o { x with accs := x.accs.modify k fun a => { a with got := m, data := bs } } := by
  intro ws full m s1
  have hws : s.returned o k x a bs = s.arriveWords o k x a ws bs := by simp only [State.returned, hk, ws]
  rw [hws, State.arriveWords, if_neg (Nat.not_lt.mpr hw)]
  simp only [hd, List.isEmpty_nil, if_true]
  rfl

/-- LOAD_RETURN of a scratch load that has been served (R217). -/
theorem exec_loadReturn_pload (ho : s.op o = some x) (ha : x.accs[k]? = some a) (hdn : a.done = false) (hk : x.kind = .pload n sg) (hd : a.data ≠ []) :
    exec (.loadReturn o k) s = .next ((s.setOp o (x.markDone k)).deliver x a false (loadWords n sg a.data)) := by
  have he : a.data.isEmpty = false := by simpa using hd
  show execLoadReturn o k s = _
  simp only [execLoadReturn, ho, ha, hk, hdn, he, Bool.or_self, Bool.false_eq_true, if_false]

end

/-! ## Atomics -/

section
variable {s : State} {o k key : Nat} {x : Op} {a : Acc} {fn : AtomFn} {y : Ty} {dst : Option Nat} {dir ret : Bool}

/-- ATOMIC_PERFORM of a request that is ready at its home (R265). -/
theorem exec_atomicPerform_of (ho : s.op o = some x) (ha : x.accs[k]? = some a) (hdn : a.done = false) (hk : x.kind = .atomic fn y dst dir ret)
    (hp : a.tr.place = .mem key) (hu : x.unsent k = false) (he : x.earlierPass a = false) (hr : s.homeReady o x a key a.size = true)
    (hb : s.rangeBad key a.size = false) :
    let mk := s.ctxMemKey x.part x.ctx
    let r := s.atomLanes o fn y dst dir (bytesNat (s.homeBytes mk key a.size)) (x.group k)
    exec (.atomicPerform o k) s = .next ((r.1.homeWrite mk key (natBytes r.2 a.size)).dropLines x.dom .loadStore key a.size) := by
  intro mk r
  show execAtomicPerform o k s = _
  unfold execAtomicPerform
  simp only [ho, ha, hdn, hk, hp, hu, he, hr, OpKind.atHome, Bool.not_true, Bool.or_self, Bool.false_eq_true, if_false, if_true]
  refine congrArg _ ?_
  simp only [State.atomicAt, hk, hb, Bool.false_eq_true, if_false]
  rfl

/-- DIRECTED_DELIVERY of an old value to its recipient and its tack (R273). -/
theorem exec_directedDelivery_of {cl : Nat} (ho : s.op o = some x) (ha : x.accs[k]? = some a) (hk : x.kind = .atomic fn y dst true ret)
    (hd : s.deliverable x = some k) (hp : a.tr.place = .scratch cl key) :
    exec (.directedDelivery o) s = .next (((s.setOp o (x.markDone k)).scratchWrite cl key (a.data.take 4)).arrive cl (key + 4)) := by
  show execDirectedDelivery o s = _
  simp only [execDirectedDelivery, ho, hk, hd, ha, hp]

end

/-! ## Copies -/

section
variable {s : State} {o k i key : Nat} {x : Op} {a : Acc} {t : Team} {tack : Option Nat}

/-- COPY_LINE_LAND of a line into scratch: its bytes are written and its presence bit set (R217, R218). -/
theorem exec_copyLineLand_in (ho : s.op o = some x) (ha : x.accs[k]? = some a) (hdn : a.done = false) (hi : x.team = some i) (ht : s.team i = some t)
    (hc : s.copyTurn i o = true) (hp : a.tr.place = .mem key) (hk : x.kind = .copy true false tack) (hb : s.rangeBad key 128 = false) :
    exec (.copyLineLand o k) s = .next (((s.setOp o (x.markDone k)).scratchWrite t.cluster a.reg
      (s.homeBytes (s.ctxMemKey x.part x.ctx) key 128)).setPresence t.cluster [lineOf a.reg]) := by
  show execCopyLineLand o k s = _
  simp only [execCopyLineLand, ho, hk, hi, ha, ht, hdn, hc, Bool.not_true, Bool.and_false, Bool.false_and, Bool.or_self, Bool.false_eq_true, if_false,
    if_true]
  refine congrArg _ ?_
  simp only [State.landIn, hp, hb, Bool.false_eq_true, if_false]
  rfl

/-- COPY_LINE_LAND of a line out of scratch, which is present: its bytes are written at home (R217, R218). -/
theorem exec_copyLineLand_out {c : Cluster} {tile : Bool} (ho : s.op o = some x) (ha : x.accs[k]? = some a) (hdn : a.done = false)
    (hi : x.team = some i) (ht : s.team i = some t) (hcl : s.cluster t.cluster = some c) (hc : s.copyTurn i o = true) (hp : a.tr.place = .mem key)
    (hk : x.kind = .copy false tile tack) (hpr : c.present a.reg = true) (hsp : ∀ j < 4, c.spoiled.contains (a.reg / 32 + j) = false) :
    let s1 := s.setOp o (x.markDone k)
    exec (.copyLineLand o k) s =
      .next ((s1.homeWrite (s1.ctxMemKey x.part x.ctx) key (c.bytes a.reg 128)).dropLines x.dom .loadStore key (c.bytes a.reg 128).length) := by
  intro s1
  have hclean : ((List.range 4).any fun j => c.spoiled.contains (a.reg / 32 + j)) = false := by
    rw [List.any_eq_false]
    intro j hj
    rw [hsp j (List.mem_range.mp hj)]
    decide
  show execCopyLineLand o k s = _
  simp only [execCopyLineLand, ho, hk, hi, ha, ht, hdn, hc, Bool.not_true, Bool.false_and, Bool.or_self, Bool.false_eq_true, if_false]
  refine congrArg _ ?_
  simp only [State.landOut, hcl, hpr, hclean, hp, Bool.not_true, Bool.false_eq_true, if_false]
  rfl

/-- COPY_COMPLETE of a copy whose lines have moved, once the tack's line is there (R218, R288). -/
theorem exec_copyComplete_of {inn tile : Bool} (ho : s.op o = some x) (hk : x.kind = .copy inn tile tack) (hi : x.team = some i) (ht : s.team i = some t)
    (hd : x.allDone = true) (hf : x.refail = []) (hl : s.copyLast i o = true) (hw : s.writesHome (some i) o = true)
    (hcv : s.coveredAt 2 (some i) x.dom o = true) (htk : s.tackReachable t.cluster tack = true) :
    exec (.copyComplete o) s = .next ((tack.elim s (s.arrive t.cluster)).endOp o x) := by
  show execCopyComplete o s = _
  simp only [execCopyComplete, ho, hk, hi, ht, hd, hf, hl, hw, hcv, htk, List.isEmpty_nil, Bool.and_self, if_true]
  cases tack <;> rfl

/-- An arrival that a tack takes (R219, R220). -/
theorem arrive_of {cl : Nat} {v : Word} (h : tackArrive (s.scratchWord cl key) = some v) : s.arrive cl key = s.scratchWrite cl key (natBytes v.toNat 4) := by
  simp only [State.arrive, h]

/-- A tack whose line is present is reachable (R217). -/
theorem tackReachable_of {cl : Nat} {c : Cluster} (hc : s.cluster cl = some c) (hp : c.present key = true) : s.tackReachable cl (some key) = true := by
  simp only [State.tackReachable, hc, hp]

end

/-! ## Stores and posted entries -/

section
variable {s : State} {w n : Nat} {y : StoreReq} {e : Posted}

/-- STORE_PERFORM of a write that is ready at its home; a release updates its L1's copy (R228, R276). -/
theorem exec_storePerform_of (hw : recFind s.stores w = some y) (hr : s.storeReady w y = true) :
    let s1 : State := { s with stores := cellDel s.stores w }.homeWrite (s.ctxMemKey y.part y.ctx) y.key y.data
    let s2 := if y.rel.isSome then s1.updateL1 y.dom y.key (s1.underPlain y.dom y.key y.data) else s1
    exec (.storePerform w) s = .next (s2.landed y.op) := by
  intro s1 s2
  show execStorePerform w s = _
  simp only [execStorePerform, hw, hr, if_true]
  rfl

/-- An access that has come home is performed. -/
theorem landed_of {o k : Nat} {x : Op} (ho : s.op o = some x) : s.landed (some (o, k)) = s.setOp o (x.markDone k) := by
  simp only [State.landed, ho]

/-- A posted entry of a team drains: to the L1's copy, and on its way home (R276, R284). -/
theorem drainEntry_of {t : Team} {tr : Tr} {s1 : State} {key : Nat} (ht : s.team e.team = some t) (hh : e.held = none) (hm : e.mig = false)
    (htr : s.postedTr t e.team e = (.ok tr, s1)) (hp : tr.place = .mem key) (hg : (s1.wholeGranule n key e).2 = e)
    (hf : s1.fenced (some e.team) n = false) (hb : s1.blocked (some e.team) n key e.data.length = false) (hr : s1.readAway n e = false)
    (hbad : (s1.wholeGranule n key e).1.meetsBad e.team true key e.data.length = false) :
    let s2 := (s1.wholeGranule n key e).1
    let s3 := s2.updateL1 (s2.dom t) key e.data
    s.drainEntry n e = .ok { s3.bump with
      posted := cellDel s3.posted n
      stores := cellPut s3.stores s3.stamp
        { team := some e.team, dom := s2.dom t, part := t.part, ctx := t.ctx, key := key, va := e.va, data := e.data, pa := tr.pa, nodes := tr.nodes,
          seq := n, rel := none, op := e.lands } } := by
  intro s2 s3
  obtain ⟨v, hv⟩ : ∃ v, s1.wholeGranule n key e = (v, e) := ⟨_, Prod.ext rfl hg⟩
  rw [hv] at hbad
  unfold State.drainEntry
  simp only [ht, hh, hm, htr, hp, hv, Nat.sub_self, Nat.sub_zero, hf, hb, hr, hbad, Bool.false_eq_true, or_self, if_false, s3, s2]

/-- POSTED_DRAIN of an entry that is ready (R284). -/
theorem exec_postedDrain_of {s1 : State} (hn : recFind s.posted n = some e) (hs : e.sent = false) (hr : s.drainReady n e = true)
    (hd : s.drainEntry n e = .ok s1) : exec (.postedDrain n) s = .next s1 := by
  show execPostedDrain n s = _
  simp only [execPostedDrain, hn, hs, hr, hd, Bool.false_eq_true, if_false, if_true]

end

/-! ## Units and buckets -/

section
variable {s : State} {o : Nat} {x : Op} {u : FabUnit} {us : List FabUnit}

/-- UNIT_SEND of an operation's next unit, whose device is another one that can be reached: it goes where the bucket holds its tokens, else it is counted
once as stalled (R320, R321). -/
theorem exec_unitSend_of (ho : s.op o = some x) (hu : x.units = u :: us) (hg : s.unitsGo x = true) (hd : u.dev ≠ (s.ctx x.part x.ctx).fabDev)
    (hr : s.reaches x.part x.ctx u.dev = true) (hw : s.unitWaits o x u = false) :
    let die := coreDie x.core
    let b := s.bucket x.part x.ctx die
    exec (.unitSend o) s = .next
      (if u.cost ≤ b.tokens ∨ u.cost = 0 then
        (((s.setBucket x.part x.ctx die { b with tokens := b.tokens - u.cost }).sendUnit o x u).setOp o { x with units := us }).unitsOver o
       else if u.stalled then s
       else (s.stall x.part x.ctx die).setOp o { x with units := { u with stalled := true } :: us }) := by
  intro die b
  have hown : (u.dev == (s.ctx x.part x.ctx).fabDev) = false := beq_false_of_ne hd
  show execUnitSend o s = _
  simp only [execUnitSend, ho, hu, hg, if_true]
  simp only [State.unitNext, hown, hr, hw, Bool.not_true, Bool.false_eq_true, if_false]
  rfl

/-- BUCKET_REFILL of a bucket of a positive rate that is not full (R321). -/
theorem exec_bucketRefill_of {p c die : Nat} (hc : c < 64) (hd : die < 8) (hg : 0 < (s.bucket p c die).gain)
    (ht : (s.bucket p c die).tokens < (s.bucket p c die).cap) :
    exec (.bucketRefill p c die) s = .next (s.setBucket p c die { s.bucket p c die with tokens := (s.bucket p c die).tokens + 1 }) := by
  show execBucketRefill p c die s = _
  exact if_neg (by omega)

end

/-- Settles O48: a lemma for each step; LOAD_RETURN by what its read meets and how its words arrive, UNIT_SEND by the tokens in its bucket. -/
theorem performResult : Obligations.PerformResult := by
  intro s
  refine ⟨fun o k x a ho ha hdn => ⟨fun p sc n sg hk hd hr hp => ?load, fun n sg hk hd => exec_loadReturn_pload ho ha hdn hk hd,
      fun fn y dst dir ret key hk hp hu he hr hb => exec_atomicPerform_of ho ha hdn hk hp hu he hr hb,
      fun fn y dst ret cl key hk hd hp => exec_directedDelivery_of ho ha hk hd hp,
      fun i t tile tack key c hi ht hcl hc hp => ⟨fun hk hb => exec_copyLineLand_in ho ha hdn hi ht hc hp hk hb,
        fun hk hpr hsp => exec_copyLineLand_out ho ha hdn hi ht hcl hc hp hk hpr hsp⟩⟩,
    fun w y hw hr => ?store, fun n e t tr s1 key hn hs hrd ht hh hm htr hp hg hf hb hr => ?drain,
    fun p i t inn tile tack z ho hk hi ht hd hf hl hw hcv => ?copy, fun o x u us ho hu hg hd hr hw => ?unit,
    fun p c die hc hd => exec_bucketRefill_of hc hd⟩
  case load =>
    have hex := exec_loadReturn_of ho ha hk hd hr hp
    intro bad
    refine ⟨fun hmet => hex.trans ?met, fun hmet => ?read⟩
    case met => exact congrArg _ (if_pos hmet)
    case read =>
      intro r ws
      have hop : r.2.op o = some x := (op_afterRead s o x a p).trans ho
      have hex : exec (.loadReturn o k) s = .next (r.2.returnAll o r.1 (x.servedWith k a)) :=
        hex.trans (congrArg _ (if_neg (ne_true_of_eq_false hmet)))
      refine ⟨fun htied hw => ?whole, fun htied hsc hw => ?some, fun htied => ?tied⟩
      case whole => rw [hex, servedWith_untied htied, returnAll_one hop ha, returned_whole hk hw]
      case some =>
        subst hsc
        rw [hex, servedWith_untied htied, returnAll_one hop ha, returned_some hk hd hw]
      case tied => exact hex.trans (congrArg _ (congrArg _ (if_pos htied)))
  case store =>
    intro s1 s2
    have hex := exec_storePerform_of hw hr
    refine ⟨fun hop => hex.trans ?alone, fun o k x hop ho => hex.trans ?lane⟩
    case alone => rw [hop]; rfl
    case lane => rw [hop, landed_of ho]
  case drain =>
    intro s2 hbad s3 w
    exact exec_postedDrain_of hn hs hrd (drainEntry_of ht hh hm htr hp hg hf hb hr hbad)
  case copy =>
    have hex := exec_copyComplete_of ho hk hi ht hd hf hl hw hcv
    refine ⟨fun htk => ?none, fun key c v htk hcl hpr harr => ?some⟩
    case none =>
      subst htk
      exact hex rfl
    case some =>
      subst htk
      rw [hex (tackReachable_of hcl hpr), Option.elim_some, arrive_of harr]
  case unit =>
    intro die b
    have hex := exec_unitSend_of ho hu hg hd hr hw
    refine ⟨fun hc => hex.trans (congrArg _ (if_pos (.inl hc))), fun hc hst => hex.trans (congrArg _ ?stall)⟩
    case stall =>
      have hfew : ¬(u.cost ≤ b.tokens ∨ u.cost = 0) := by omega
      have hfirst : ¬u.stalled = true := by rw [hst]; decide
      exact (if_neg hfew).trans (if_neg hfirst)

end Sys2Proof.Machine

/-! # Scalar instructions (O1, O2) -/

namespace Sys2Proof.Machine

open Sys2Proof

/-! ## What a word's shifts, counts and quotients are (R99 to R102) -/

/-- A shift whose count is the word's width or more leaves no bit of it (R101). -/
theorem shiftLeft_past (x : Word) (n : Nat) : (if 32 ≤ n then 0 else x <<< n) = x <<< n := by
  split
  · next hn => exact (BitVec.shiftLeft_eq_zero hn).symm
  · rfl

theorem ushiftRight_past (x : Word) (n : Nat) : (if 32 ≤ n then 0 else x >>> n) = x >>> n := by
  split
  · next hn => exact (BitVec.ushiftRight_eq_zero hn).symm
  · rfl

/-- An arithmetic shift as far leaves the sign in every bit (R101). -/
theorem sshiftRight_past (x : Word) (n : Nat) :
    (if 32 ≤ n then (if x.msb then 0xFFFFFFFF else 0) else x.sshiftRight n) = x.sshiftRight n := by
  split
  · next hn =>
    refine BitVec.eq_of_getLsbD_eq fun k hk => ?_
    have hpast : ¬n + k < 32 := by omega
    rw [BitVec.getLsbD_sshiftRight, if_neg hpast, decide_eq_false (Nat.not_le.mpr hk), Bool.not_false, Bool.true_and]
    cases x.msb with
    | false => exact BitVec.getLsbD_zero
    | true => exact (BitVec.getLsbD_allOnes (v := 32)).trans (decide_eq_true hk)
  · rfl

/-- A count of zeros from the top is the one n below whose place a one stands, if any does (R99). -/
theorem leadingZeros_unique {x w n : Nat} (hn : n ≤ w) (hclear : ∀ k, w - n ≤ k → k < w → x.testBit k = false)
    (hset : n = w ∨ x.testBit (w - 1 - n) = true) : leadingZeros x w = n := by
  obtain ⟨hle, hclear', hset'⟩ := leadingZeros_spec x w
  rcases Nat.lt_trichotomy (leadingZeros x w) n with hlt | heq | hgt
  · have := hset' (by omega)
    rw [hclear _ (by omega) (by omega)] at this
    cases this
  · exact heq
  · have := hset.resolve_left (by omega)
    rw [hclear' _ (by omega) (by omega)] at this
    cases this

/-- The unsigned quotient, the truncated one and its remainder are the words' own (R102): the most negative word by -1 wraps to itself. -/
theorem ofNat_toNat_div (x y : Word) : BitVec.ofNat 32 (x.toNat / y.toNat) = x / y := by
  rw [← BitVec.toNat_udiv, BitVec.ofNat_toNat, BitVec.setWidth_eq]

theorem ofInt_tdiv (x y : Word) : BitVec.ofInt 32 (x.toInt.tdiv y.toInt) = x.sdiv y :=
  BitVec.eq_of_toInt_eq ((BitVec.toInt_ofInt _).trans (BitVec.toInt_sdiv x y).symm)

theorem ofInt_tmod (x y : Word) : BitVec.ofInt 32 (x.toInt.tmod y.toInt) = x.srem y := by
  rw [← BitVec.toInt_srem, BitVec.ofInt_toInt]

/-- Settles O1: each instruction is `scalar2` or `scalar1` of its function of the sources' words. -/
theorem scalarIntegerResult : Obligations.ScalarIntegerResult := by
  intro s i t u q d a b h ha ra pd hd x y fin
  refine ⟨fun hb rb hr => ?two, fun hr => ?one⟩
  case two =>
    have htwo {f : Word → Word → Word} {w : Word} (hw : f x y = w) : scalar2 d a b f s = fin w :=
      hw ▸ scalar2_of s i t u q d a b f h ha hb ra rb pd hr hd
    have hzero {r w z : Word} (hw : r = w) : (if y = 0 then z else r) = if y = 0 then z else w := hw ▸ rfl
    show execSadd d a b s = _ ∧ execSsub d a b s = _ ∧ execSmul d a b s = _ ∧ execSmulh d a b s = _ ∧ execSmulhn d a b s = _ ∧
      execSand d a b s = _ ∧ execSor d a b s = _ ∧ execSxor d a b s = _ ∧ execSshl d a b s = _ ∧ execSshr d a b s = _ ∧
      execSsra d a b s = _ ∧ execSmin d a b s = _ ∧ execSmax d a b s = _ ∧ execSminn d a b s = _ ∧ execSmaxn d a b s = _ ∧
      execScmpeq d a b s = _ ∧ execScmplt d a b s = _ ∧ execScmpltn d a b s = _ ∧ execSdivn d a b s = _ ∧ execSdiv d a b s = _ ∧
      execSrem d a b s = _
    exact ⟨htwo rfl, htwo rfl, htwo rfl, htwo rfl, htwo rfl, htwo rfl, htwo rfl, htwo rfl,
      htwo (shiftLeft_past x y.toNat), htwo (ushiftRight_past x y.toNat), htwo (sshiftRight_past x y.toNat),
      htwo rfl, htwo rfl, htwo rfl, htwo rfl, htwo rfl, htwo rfl, htwo rfl,
      htwo (hzero (ofNat_toNat_div x y)), htwo (hzero (ofInt_tdiv x y)), htwo (hzero (ofInt_tmod x y))⟩
  case one =>
    have hone {f : Word → Word} {w : Word} (hw : f x = w) : scalar1 d a f s = fin w :=
      hw ▸ scalar1_of s i t u q d a f h ha ra pd hr hd
    show execSmov d a s = _ ∧ (∀ n, _ → _ → _ → execSclz d a s = _) ∧ execSpopc d a s = _
    exact ⟨hone rfl, fun n hn hclear hset => hone (congrArg (BitVec.ofNat 32) (leadingZeros_unique hn hclear hset)),
      hone (congrArg (BitVec.ofNat 32) (popCount_eq x.toNat 32))⟩

/-- SCVT past its checks: the conversion of VCVT, of one word (R104). -/
theorem exec_scvt_of {s : State} {i : Nat} {t v : Team} {q : Nat → Nat → Word} {d a : Sel} {c : BitVec 8} {y : Ty} (h : Issues s i t)
    (ha : t.scalarSrc a = true) (ra : t.readable a) (pd : t.pushCheck d = none) (hr : Reads t (popsOnce [(0, a)]) v q) (hd : v.takes d)
    (hc : convertCode c = some y) (hy : t.ty.converts = true) :
    let r := convert v.ty y v.rnd v.flush v.sat (s.scalar v a (q 0 0)).toNat
    exec (.scvt d a c) s = .next (s.done i ((v.addStatus r.2).put d (BitVec.ofNat 32 r.1))) := by
  intro r
  show execScvt d a c s = _
  unfold execScvt
  rw [once_after s i t v q h _ _ _ ?checks hr]
  case checks =>
    simp only [takes_scalarDst v d hd, ha, hc, hy, pd, need, Option.isSome_some, Bool.and_self, if_true, List.cons_append, List.nil_append, firstCause]
    exact firstCause_readable t [(0, a)] (by simp [ra])
  simp only [scalar_after, hc, Option.getD_some]
  rw [settle_put_after s i t _ v d _ _ (takes_addStatus v d r.2 hd)]

/-- Settles O2: SFADD, SFMUL and SFMA are `scalarF` of their function, SFMA reading its D too; SCVT converts. -/
theorem scalarFloatResult : Obligations.ScalarFloatResult := by
  intro s i t u q d a b h ha hb ra rb pd hr hd x y fin
  have hf (dread : Bool) (f : Rnd → Bool → Nat → Nat → Nat → Nat × Nat) (hs : dread = true → isS d = true) :=
    scalarF_of s i t u q d a b dread f h hs ha hb ra rb pd hr hd
  refine ⟨?add, ?mul, fun n hn => ?fma, fun c y' v q' hr' hd' hc hy => exec_scvt_of h ha ra pd hr' hd' hc hy⟩
  case add =>
    show execSfadd d a b s = _
    exact hf false _ (fun hn => nomatch hn)
  case mul =>
    show execSfmul d a b s = _
    exact hf false _ (fun hn => nomatch hn)
  case fma =>
    subst hn
    show execSfma (.s n) a b s = _
    exact hf true _ fun _ => rfl

end Sys2Proof.Machine

/-! # Mask instructions (O3, O4, O5) -/

namespace Sys2Proof.Machine

open Sys2Proof

/-! ## Bits of masks (R64, R81, R93) -/

/-- A word built by setting the bits of the numbers below n that a test spares has exactly those. -/
theorem foldl_bits_getLsbD {w : Nat} (p : Nat → Prop) [DecidablePred p] (n k : Nat) :
    ((List.range n).foldl (fun acc g => if p g then acc else acc ||| (1#w <<< g)) 0#w).getLsbD k =
      (decide (k < w) && decide (k < n) && decide (¬p k)) := by
  induction n with
  | zero => simp
  | succ n ih =>
    have hbit : (1#w <<< n).getLsbD k = (decide (n < w) && decide (n = k)) := by
      rw [← BitVec.twoPow_eq, BitVec.getLsbD_twoPow]
    rw [List.range_succ, List.foldl_append, List.foldl_cons, List.foldl_nil]
    split
    · next hp =>
      rw [ih]
      grind
    · next hp =>
      rw [BitVec.getLsbD_or, ih, hbit]
      grind

/-- The summary word's bits are its mask's words that are not zero (R64). -/
theorem maskSummary_getLsbD (m : Mask) {g : Nat} (hg : g < 32) : (maskSummary m).getLsbD g = decide (maskWord m g ≠ 0) := by
  unfold maskSummary
  rw [BitVec.ofNat_eq_ofNat, foldl_bits_getLsbD, decide_eq_true hg]
  rfl

theorem maskWord_getLsbD (m : Mask) (w : Nat) {k : Nat} (hk : k < 32) : (maskWord m w).getLsbD k = m.getLsbD (32 * w + k) := by
  rw [maskWord, BitVec.getLsbD_ofNat, decide_eq_true hk, Bool.true_and, Nat.testBit_shiftRight]
  rfl

/-- A mask with one word replaced holds that word's bits there, and its own elsewhere (R93). -/
theorem maskSetWord_getLsbD (m : Mask) (w : Nat) (x : Word) {l : Nat} (hl : l < 1024) :
    (maskSetWord m w x).getLsbD l = if 32 * w ≤ l ∧ l < 32 * w + 32 then x.getLsbD (l - 32 * w) else m.getLsbD l := by
  have hhole : (BitVec.ofNat 1024 (0xFFFFFFFF <<< (32 * w))).getLsbD l = decide (32 * w ≤ l ∧ l < 32 * w + 32) := by
    rw [BitVec.getLsbD_ofNat, decide_eq_true hl, Bool.true_and, Nat.testBit_shiftLeft, show 0xFFFFFFFF = 2 ^ 32 - 1 from rfl,
      Nat.testBit_two_pow_sub_one, ← Bool.decide_and]
    exact decide_eq_decide.mpr (by omega)
  have hword : (BitVec.ofNat 1024 (x.toNat <<< (32 * w))).getLsbD l = (decide (32 * w ≤ l) && x.getLsbD (l - 32 * w)) := by
    rw [BitVec.getLsbD_ofNat, decide_eq_true hl, Bool.true_and, Nat.testBit_shiftLeft]
    rfl
  have hout (h : ¬l < 32 * w + 32) : x.getLsbD (l - 32 * w) = false := BitVec.getLsbD_of_ge x _ (by omega)
  simp only [maskSetWord, BitVec.getLsbD_or, BitVec.getLsbD_and, BitVec.getLsbD_not, hhole, hword, decide_eq_true hl, Bool.true_and]
  split
  · next h => simp [h]
  · next h =>
    rw [decide_eq_false h, Bool.not_false, Bool.and_true]
    by_cases hlo : 32 * w ≤ l
    · rw [hout (fun hhi => h ⟨hlo, hhi⟩), Bool.and_false, Bool.or_false]
    · rw [decide_eq_false hlo, Bool.false_and, Bool.or_false]

/-- The lanes that exist, bit by bit (R57). -/
theorem lanesMask_getLsbD (n l : Nat) : (lanesMask n).getLsbD l = (decide (l < 1024) && decide (l < n)) := by
  rw [lanesMask, BitVec.getLsbD_ofNat, Nat.testBit_two_pow_sub_one]

/-- A mask register that is written holds its bits of lanes that exist, and M0 those of live lanes (R15, R81). -/
theorem setM_m_same (t : Team) (n : BitVec 3) (x : Mask) :
    (t.setM n x).m n = if n = 0 then x &&& t.lanes &&& t.live else x &&& t.lanes := by
  simp [Team.setM, Team.m]

/-- The other mask registers keep what they hold (R81). -/
theorem setM_m_ne (t : Team) {n m : BitVec 3} (x : Mask) (h : m ≠ n) : (t.setM n x).m m = t.m m := by
  have hne : n.toNat ≠ m.toNat := fun he => h (BitVec.eq_of_toNat_eq he.symm)
  simp only [Team.setM, Team.m]
  rw [Vector.getElem_set, if_neg hne]

theorem setM_getLsbD (t : Team) (n : BitVec 3) (x : Mask) (l : Nat) (h : t.nlanes ≤ 1024) :
    ((t.setM n x).m n).getLsbD l = (x.getLsbD l && decide (l < t.nlanes) && (n != 0 || t.live.getLsbD l)) := by
  have hlanes : t.lanes.getLsbD l = decide (l < t.nlanes) := by
    rw [Team.lanes, lanesMask_getLsbD, ← Bool.decide_and]
    exact decide_eq_decide.mpr (by omega)
  rw [setM_m_same]
  split
  · next h0 => rw [h0, BitVec.getLsbD_and, BitVec.getLsbD_and, hlanes, bne_self_eq_false, Bool.false_or]
  · next h0 => rw [BitVec.getLsbD_and, hlanes, bne_iff_ne.mpr h0, Bool.true_or, Bool.and_true]

/-- The lowest lane of a mask, and none of an empty one (R92). -/
theorem head_lanesBelow {m : Mask} {l : Nat} (hl : l < 1024) (hm : m.getLsbD l = true) (hlow : ∀ k, k < l → m.getLsbD k = false) :
    (lanesBelow m 1024).head? = some l := by
  rw [lanesBelow, List.head?_filter, List.find?_range_eq_some]
  exact ⟨hm, List.mem_range.mpr hl, fun k hk => congrArg not (hlow k hk)⟩

theorem lanesBelow_zero (n : Nat) : lanesBelow 0 n = [] := by
  simp only [lanesBelow, BitVec.ofNat_eq_ofNat, BitVec.toNat_zero, Nat.zero_testBit, List.filter_false]

section
variable {s : State} {i : Nat} {t u : Team} {q : Nat → Nat → Word} {d a b : Sel}

/-- MGETW past its checks: the word that B names, modulo 32 (R92). -/
theorem exec_mgetw_of (h : Issues s i t) (ha : maskSrc a = true) (pd : t.pushCheck d = none) (hb : t.scalarSrc b = true) (rb : t.readable b)
    (hr : Reads t (popsOnce [(1, b)]) u q) (hd : u.takes d) :
    exec (.mgetw d a b) s = .next (s.done i (u.put d (maskWord (u.mask a) ((s.scalar u b (q 1 0)).toNat % 32)))) := by
  show execMgetw d a b s = _
  unfold execMgetw
  rw [once_after s i t u q h _ _ _ ?checks hr]
  case checks =>
    simp only [takes_scalarDst u d hd, ha, hb, pd, need, Bool.and_self, if_true, List.cons_append, List.nil_append, firstCause]
    exact firstCause_readable t [(1, b)] (by simp [rb])
  rw [settle_put_after s i t u u d _ _ hd, scalar_after]
  rfl

/-- MSETW past its checks: the word that A names, modulo 32, replaced by B (R93). -/
theorem exec_msetw_of (n : BitVec 3) (h : Issues s i t) (ha : t.scalarSrc a = true) (hb : t.scalarSrc b = true) (ra : t.readable a)
    (rb : t.readable b) (hr : Reads t (popsOnce [(0, a), (1, b)]) u q) :
    exec (.msetw (.m n) a b) s =
      .next (s.done i (u.setM n (maskSetWord (u.m n) ((s.scalar u a (q 0 0)).toNat % 32) (s.scalar u b (q 1 0))))) := by
  show execMsetw (.m n) a b s = _
  unfold execMsetw
  rw [once_after s i t u q h _ _ _ ?checks hr]
  case checks => exact firstCause_operands [(0, a), (1, b)] (by simp [ha, hb]) (by simp [ra, rb])
  simp only [scalar_after]
  exact congrArg _ (settle_setTeam_if s i t _ u _)

/-- MFROMV past its checks, with lanes active: the active lanes whose source is not zero (R94). -/
theorem exec_mfromv_of (h : Issues s i t) (hd : maskDst d = true) (ha : t.vectorSrc a = true) (ra : t.readable a)
    (hl : t.active.isEmpty = false) (hr : Reads t (popsLanes t.active [(0, a)]) u q) :
    exec (.mfromv d a) s = .next (s.done i (u.putMask d (maskOf (u.active.filter fun l => s.src u a l (q 0 l) ≠ 0)))) := by
  show execMfromv d a s = _
  unfold execMfromv sweep
  rw [sweepOn_after s i t u q h _ _ _ _ _ ?checks hl hr]
  case checks => exact firstCause_operands [(0, a)] (by simp [hd, ha]) (by simp [ra])
  simp only [src_after]
  exact congrArg _ (settle_setTeam_if s i t _ u _)

end

/-- Settles O3: each instruction is `maskOp` of its function of the whole sources. -/
theorem maskLogicResult : Obligations.MaskLogicResult := by
  intro s i t d a b h hd ha hb fin
  have hone {f : Team → Mask} : maskOp d [a] f s = fin (f t) := maskOp_of s i t d [a] f h hd (by simp [ha])
  have htwo {f : Team → Mask} : maskOp d [a, b] f s = fin (f t) := maskOp_of s i t d [a, b] f h hd (by simp [ha, hb])
  exact ⟨hone, htwo, htwo, htwo, htwo, hone⟩

/-- Settles O4: the rule of R81 bit by bit, and the summary's bits. -/
theorem maskWriteRule : Obligations.MaskWriteRule := by
  intro t n m x l hn
  exact ⟨setM_getLsbD t n x l hn, fun g hg => maskSummary_getLsbD _ hg, setM_m_ne t x⟩

/-- Settles O5: the words of a mask bit by bit, then each instruction; MCNT, MFIRST and MSUMW are `maskToScalar` of their function. -/
theorem maskReadResult : Obligations.MaskReadResult := by
  refine ⟨fun m w k x l hw hk hl => ⟨maskWord_getLsbD m w hk, maskSummary_getLsbD m hw, maskSetWord_getLsbD m w x hl⟩,
    fun s i t d a h => ⟨fun ha pd hd => ?scalar, fun b u q ha pd hb rb hr hd => exec_mgetw_of h ha pd hb rb hr hd,
      fun n b u q ha hb ra rb hr => exec_msetw_of n h ha hb ra rb hr,
      fun u q hd ha ra hl hr => exec_mfromv_of h hd ha ra hl hr⟩⟩
  case scalar =>
    intro fin
    have hscalar {f : Mask → Word} {w : Word} (hw : f (t.mask a) = w) : maskToScalar d a f s = fin w :=
      hw ▸ maskToScalar_of s i t d a f h ha pd hd
    show execMcnt d a s = _ ∧ (∀ l, _ → _ → _ → execMfirst d a s = _) ∧ (_ → execMfirst d a s = _) ∧ execMsumw d a s = _
    exact ⟨hscalar (congrArg (BitVec.ofNat 32) (popCount_eq (t.mask a).toNat 1024)),
      fun l hl hm hlow => hscalar (by rw [head_lanesBelow hl hm hlow]), fun h0 => hscalar (by rw [h0, lanesBelow_zero]; rfl), hscalar rfl⟩

end Sys2Proof.Machine

/-! # Scalar stores (O20) -/

namespace Sys2Proof.Machine

open Sys2Proof

/-- An access to memory that starts is the one asked for, with its translation (R134, R345). -/
theorem startMem_ok {s s2 : State} {i : Nat} {t : Team} {k : Kind} {a x : Acc} (h : s.startMem i t k a = (.ok x, s2)) : ∃ tr, x = { a with tr := tr } := by
  unfold State.startMem at h
  split at h
  · cases h
  · split at h
    · cases h
    · cases h
    · cases h
    · next tr s1 _ =>
      split at h
      · split at h
        · cases h
        · cases h
          exact ⟨tr, rfl⟩
      · cases h
        exact ⟨tr, rfl⟩

/-- An instruction's one write that names no device starts as it does alone (R137, R345). -/
theorem startAll_write_one {s s2 : State} {i : Nat} {t : Team} {a x : Acc} (ha : a.aux = 0) (h : s.startMem i t .write a = (.ok x, s2)) :
    s.startAll i t .write [a] = .ok [x] [] s2 := by
  have hacc : s.startAcc i t .write a = (.ok x, s2) := by
    rw [← h, State.startAcc, State.startNamed, ha]
    rfl
  simp only [State.startAll, hacc]

theorem lastWriters_one (x : Acc) : lastWriters [x] = [x] := rfl

theorem natBytes_length (n : Nat) : ∀ x, (natBytes x n).length = n := by
  induction n with
  | zero => exact fun _ => rfl
  | succ n ih => exact fun x => congrArg (· + 1) (ih (x / 256))

/-- A run of 16 bytes or fewer is one piece, posted as one entry at its own address (R135, R284). -/
theorem postAll_one (s : State) (i o : Nat) (x : Acc) (h : x.data.length ≤ 16) :
    s.postAll i o [x] = { s.bump with posted := cellPut s.posted s.stamp {
        team := i, op := o, lane := x.lane, va := x.va, data := x.data, tr := some (x.tr.shift 0), held := none, sent := false, mig := false } } := by
  simp only [State.postAll, State.post1, storePieces, if_pos h, List.foldl_cons, List.foldl_nil, Nat.sub_self]

/-- A D whose words SST or SST2 store (R105). -/
def scalarStorable (size : Nat) (d : Sel) : Bool := if size = 8 then pairOk d else isS d || d == .sp .zero

/-- What they store of it: a pair, a register, or zeros (R105). -/
def Team.stored (t : Team) (size : Nat) : Sel → Nat
  | .s r => if size = 8 then t.pair r else (t.s r).toNat
  | _ => 0

/-- The access of a scalar store of n's pair plus B (R105, R106). -/
def State.storeAcc (s : State) (t : Team) (n : BitVec 6) (b : Sel) (w : Word) (size v : Nat) : Acc :=
  Acc.new 0 (t.scalarAddr n (s.scalar t b w)) size size 0 (natBytes v size)

/-- What a scalar store does with its access: a fault or a hold of its start stops it, else it is a store of one access. -/
def storeOne (i : Nat) (t : Team) (s : State) (a : Acc) : Res :=
  match (s.setTeam i t).startMem i t .write a with
  | (.fault f, s1) => scalarFault i t s1 f
  | (.hold h, s1) => .hold h s1
  | (.ok _, _) => storeAccs i t s true [a]

theorem storeOne_of {s s1 : State} {i : Nat} {t : Team} {a x : Acc} (h : (s.setTeam i t).startMem i t .write a = (.ok x, s1)) :
    storeOne i t s a = storeAccs i t s true [a] := by
  rw [storeOne, h]

/-- A scalar store by these names. -/
theorem scalarStore_eq (s : State) (d b : Sel) (n : BitVec 6) (size : Nat) :
    scalarStore s d (.s n) b size = once s (fun t _ => [need (scalarStorable size d && pairOk (.s n) && t.scalarSrc b) .illegalOperand]) [(1, b)]
      fun i t q s1 => storeOne i t s1 (s1.storeAcc t n b (q 1) size (t.stored size d)) := rfl

/-- A scalar store whose access has started, in flight: `accs` are what its operation waits for, `rel` the release it is. -/
def State.storeOp (s : State) (i : Nat) (u : Team) (rel : Option Nat) (accs : List Acc) : State :=
  s.enterOp i u { opOf i u s (u.setFlag true) .store with mask := 0, accs := accs, rel := rel } []

/-- Where the access of a scalar store goes: sent as a release, to another device, or posted (R135, R284). -/
def State.storeOut (s : State) (i : Nat) (u : Team) (x : Acc) : State :=
  match u.releases with
  | some sc => (s.storeOp i u (some sc) [x]).sendAll i u s.stamp sc 0 [x]
  | none => if x.remoteDev.isSome then s.storeOp i u none [x] else (s.storeOp i u none []).postAll i s.stamp [x]

theorem storeOut_release {s : State} {i : Nat} {u : Team} {x : Acc} {sc : Nat} (hrel : u.releases = some sc) :
    s.storeOut i u x = (s.storeOp i u (some sc) [x]).sendAll i u s.stamp sc 0 [x] := by
  rw [State.storeOut, hrel]

theorem storeOut_far {s : State} {i : Nat} {u : Team} {x : Acc} (hrel : u.releases = none) (hx : x.remoteDev.isSome = true) :
    s.storeOut i u x = s.storeOp i u none [x] := by
  rw [State.storeOut, hrel]
  exact if_pos hx

theorem storeOut_near {s : State} {i : Nat} {u : Team} {x : Acc} (hrel : u.releases = none) (hx : x.remoteDev = none) :
    s.storeOut i u x = (s.storeOp i u none []).postAll i s.stamp [x] := by
  rw [State.storeOut, hrel, hx]
  rfl

/-- A store of one access that has started, past what its team's ordering asks to drain first. -/
theorem storeAccs_one {s s1 s2 : State} {i : Nat} {u : Team} {a x : Acc} (hf : u.flagFull (u.setFlag true) = false) (hd : DrainedFor s i u s1)
    (hs : s1.startAll i u .write [a] = .ok [x] [] s2) : storeAccs i u s true [a] = .ok (s2.storeOut i u x) := by
  rw [storeAccs_go s s1 s2 i u true [a] [x] [] hf hd hs, lastWriters_one]
  cases hrel : u.releases with
  | some sc =>
    rw [storeOut_release hrel]
    rfl
  | none =>
    cases hx : x.remoteDev with
    | some dev =>
      rw [storeOut_far hrel (by rw [hx]; rfl)]
      simp only [List.filter_cons, List.filter_nil, hx]
      rfl
    | none =>
      rw [storeOut_near hrel hx]
      simp only [List.filter_cons, List.filter_nil, hx]
      rfl

section
variable {s s1 s2 s3 : State} {i : Nat} {t u : Team} {q : Nat → Nat → Word} {n : BitVec 6} {b d : Sel} {size : Nat} {x x0 : Acc}

/-- Reading operands leaves the access as it was. -/
theorem storeAcc_after {ps pops : List Pop} (hr : Reads t pops u q) (w : Word) :
    (s.after i u ps).storeAcc u n b w size (u.stored size d) = s.storeAcc t n b w size (t.stored size d) := by
  have hstored : u.stored size d = t.stored size d := by
    cases d <;> simp only [Team.stored, reads_pair hr, reads_s hr]
  simp only [State.storeAcc, Team.scalarAddr, hstored, reads_pair hr, scalar_after, reads_scalar hr]

/-- A scalar store past its checks, whose access can start and starts once the team's ordering has had its posted entries drained (R105, R281, R284). -/
theorem scalarStore_goes (h : Issues s i t) (hn : n.toNat % 2 = 0) (hb : t.scalarSrc b = true) (rb : t.readable b)
    (hr : Reads t (popsOnce [(1, b)]) u q) (hf : u.flagFull (t.setFlag true) = false) (hd : scalarStorable size d = true)
    (h0 : ((s.after i u (popsOnce [(1, b)])).setTeam i u).startMem i u .write (s.storeAcc t n b (q 1 0) size (t.stored size d)) = (.ok x0, s3))
    (hdr : DrainedFor (s.after i u (popsOnce [(1, b)])) i u s1)
    (hs : s1.startMem i u .write (s.storeAcc t n b (q 1 0) size (t.stored size d)) = (.ok x, s2)) :
    scalarStore s d (.s n) b size = .next ((s2.storeOut i u x).issued i) := by
  rw [scalarStore_eq, once_after s i t u q h _ _ _ ?checks hr, storeAcc_after hr, storeOne_of h0,
    storeAccs_one (by rwa [reads_setFlag hr]) hdr (startAll_write_one rfl hs)]
  case checks => exact firstCause_operands [(1, b)] (by rw [hd, pairOk_even hn, hb]; rfl) (by simp [rb])
  rfl

end

/-- Settles O20: SST and SST2 are `scalarStore` of their size, whose access goes by the team's ordering and its place. -/
theorem scalarStoreResult : Obligations.ScalarStoreResult := by
  intro s s1 s2 i t u q n b h hn hb rb hr hf va start out away sent goes fin
  have hout (rel : Option Nat) (accs : List Acc) :
      s2.storeOp i u rel accs = s2.enterOp i u { opOf i u s2 (t.setFlag true) .store with mask := 0, accs := accs, rel := rel } [] := by
    rw [State.storeOp, reads_setFlag hr]
  refine ⟨fun hrel => ?plain, fun sc hrel => ?release⟩
  case plain =>
    have hrel' : u.releases = none := (reads_releases hr).trans hrel
    have hdr : DrainedFor (s.after i u (popsOnce [(1, b)])) i u ((s.after i u (popsOnce [(1, b)])).setTeam i u) := drainedFor_of_reads hr (by rw [hrel]; rfl)
    have hnear {size : Nat} {d : Sel} {x : Acc} (hd : scalarStorable size d = true) (hsize : size ≤ 16) (hx : x.remoteDev = none)
        (hs : start size (t.stored size d) = (.ok x, s2)) : scalarStore s d (.s n) b size = fin x := by
      rw [scalarStore_goes h hn hb rb hr hf hd hs hdr hs]
      obtain ⟨tr, rfl⟩ := startMem_ok hs
      rw [storeOut_near hrel' hx, postAll_one _ _ _ _ ((natBytes_length size _).le.trans hsize), hout]
      rfl
    have hfar {size : Nat} {d : Sel} {x : Acc} (hd : scalarStorable size d = true) (hx : x.remoteDev.isSome = true)
        (hs : start size (t.stored size d) = (.ok x, s2)) : scalarStore s d (.s n) b size = away x := by
      rw [scalarStore_goes h hn hb rb hr hf hd hs hdr hs, storeOut_far hrel' hx, hout]
    show (∀ r x, _ → _ → execSst (.s r) (.s n) b s = _) ∧ (∀ x, _ → _ → execSst (.sp .zero) (.s n) b s = _) ∧
      (∀ r x, _ → _ → _ → execSst2 (.s r) (.s n) b s = _) ∧ (∀ r x, _ → _ → execSst (.s r) (.s n) b s = _) ∧
      (∀ r x, _ → _ → _ → execSst2 (.s r) (.s n) b s = _)
    exact ⟨fun r x hx hs => hnear (d := .s r) rfl (by decide) hx hs, fun x hx hs => hnear (d := .sp .zero) rfl (by decide) hx hs,
      fun r x he hx hs => hnear (d := .s r) (pairOk_even he) (by decide) hx hs, fun r x hx hs => hfar (d := .s r) rfl hx hs,
      fun r x he hx hs => hfar (d := .s r) (pairOk_even he) hx hs⟩
  case release =>
    have hsent {size : Nat} {d : Sel} {x : Acc} (hd : scalarStorable size d = true) (hg : goes size (t.stored size d) x) :
        scalarStore s d (.s n) b size = sent sc x := by
      obtain ⟨⟨x0, s3, h0⟩, hdr, hs⟩ := hg
      rw [scalarStore_goes h hn hb rb hr hf hd h0 hdr hs, storeOut_release ((reads_releases hr).trans hrel), hout]
    show (∀ r x, _ → execSst (.s r) (.s n) b s = _) ∧ (∀ x, _ → execSst (.sp .zero) (.s n) b s = _) ∧
      (∀ r x, _ → _ → execSst2 (.s r) (.s n) b s = _)
    exact ⟨fun r x hg => hsent (d := .s r) rfl hg, fun x hg => hsent (d := .sp .zero) rfl hg, fun r x he hg => hsent (d := .s r) (pairOk_even he) hg⟩

end Sys2Proof.Machine

/-! # Arithmetic on numbers (O9) -/

namespace Sys2Proof.Machine

open Sys2Proof

/-! ## Integers of a type (R111, R182) -/

theorem width_pos (y : Ty) : 0 < y.width := by cases y <;> decide

/-- Only the types of 64 bits are wider than a register (R108). -/
theorem width_le_of_not_wide {y : Ty} (h : y.wide = false) : y.width ≤ 32 := by
  cases y with
  | i64 | n64 => exact absurd h (by decide)
  | _ => decide

theorem lowBits_modEq (n : Nat) (x : Int) : (lowBits n x : Int) ≡ x [ZMOD 2 ^ n] := by
  rw [lowBits, Int.toNat_of_nonneg (Int.emod_nonneg x (by positivity))]
  exact Int.mod_modEq x _

/-- Two's complement and the plain number are the same modulo 2^n, and the former lies in its range. -/
theorem signedOf_modEq (n x : Nat) : signedOf n x ≡ x [ZMOD 2 ^ n] := by
  unfold signedOf
  split
  · exact Int.mod_modEq _ _
  · exact (Int.sub_modulus_modEq_iff.mpr Int.ModEq.rfl).trans (Int.mod_modEq _ _)

theorem signedOf_mem {n : Nat} (hn : 0 < n) (x : Nat) : -2 ^ (n - 1) ≤ signedOf n x ∧ signedOf n x ≤ 2 ^ (n - 1) - 1 := by
  obtain ⟨k, rfl⟩ := Nat.exists_eq_add_one.mpr hn
  have hlt : x % 2 ^ (k + 1) < 2 ^ (k + 1) := Nat.mod_lt _ (Nat.two_pow_pos _)
  have hcast : (x : Int) % 2 ^ (k + 1) = ((x % 2 ^ (k + 1) : Nat) : Int) := by push_cast; rfl
  have hpow : (2 : Int) ^ k = ((2 ^ k : Nat) : Int) := by push_cast; rfl
  rw [signedOf, hcast, Nat.add_sub_cancel]
  generalize x % 2 ^ (k + 1) = r at *
  rw [pow_succ] at hlt
  rw [pow_succ (2 : Int), hpow]
  split <;> omega

/-- An element and the integer that it holds are the same modulo 2^w, which its type's range holds. -/
theorem int_modEq (y : Ty) (x : Nat) : y.int x ≡ x [ZMOD 2 ^ y.width] := by
  unfold Ty.int
  split
  · exact signedOf_modEq _ _
  · push_cast
    exact Int.mod_modEq _ _

theorem int_mem (y : Ty) (x : Nat) : y.lo ≤ y.int x ∧ y.int x ≤ y.hi := by
  unfold Ty.int Ty.lo Ty.hi
  split
  · exact signedOf_mem (width_pos y) x
  · have hlt : ((x % 2 ^ y.width : Nat) : Int) < ((2 ^ y.width : Nat) : Int) := Int.ofNat_lt.mpr (Nat.mod_lt _ (Nat.two_pow_pos _))
    exact ⟨Int.natCast_nonneg _, Int.le_sub_one_of_lt (by exact_mod_cast hlt)⟩

theorem extend_modEq (y : Ty) (x : Int) : (y.extend x : Int) ≡ x [ZMOD 2 ^ y.width] := by
  have hlow := lowBits_modEq y.width x
  unfold Ty.extend
  split
  · exact hlow
  · next hw =>
    split
    · have hdvd : (2 : Int) ^ y.width ∣ 2 ^ 32 := pow_dvd_pow 2 (width_le_of_not_wide (Bool.not_eq_true _ ▸ hw))
      exact ((lowBits_modEq 32 _).of_dvd hdvd).trans ((signedOf_modEq _ _).trans hlow)
    · exact hlow

/-- A type has 2^w integers. -/
theorem hi_eq (y : Ty) : y.hi = y.lo + 2 ^ y.width - 1 := by
  obtain ⟨k, hk⟩ := Nat.exists_eq_add_one.mpr (width_pos y)
  unfold Ty.hi Ty.lo
  rw [hk, Nat.add_sub_cancel, pow_succ]
  split <;> ring

theorem lo_le_hi (y : Ty) : y.lo ≤ y.hi := (int_mem y 0).1.trans (int_mem y 0).2

/-- A wrapped result: the integer of the type's range that is the same modulo 2^w (R111). -/
theorem int_extend_modEq (y : Ty) (x : Int) : x ≡ y.int (y.extend x) [ZMOD 2 ^ y.width] :=
  ((int_modEq y _).trans (extend_modEq y x)).symm

/-- An integer of the type's range is stored as it is: the range holds no other that is the same modulo 2^w. -/
theorem int_extend_of_mem {y : Ty} {x : Int} (hlo : y.lo ≤ x) (hhi : x ≤ y.hi) : y.int (y.extend x) = x := by
  obtain ⟨hlo', hhi'⟩ := int_mem y (y.extend x)
  have hdvd := (int_extend_modEq y x).dvd
  have hrange := hi_eq y
  have hsmall : |y.int (y.extend x) - x| < 2 ^ y.width := abs_lt.mpr ⟨by omega, by omega⟩
  exact Int.sub_eq_zero.mp (Int.eq_zero_of_abs_lt_dvd hdvd hsmall)

theorem clamp_of_mem {y : Ty} {x : Int} (hlo : y.lo ≤ x) (hhi : x ≤ y.hi) : y.clamp x = x := by
  rw [Ty.clamp, if_neg (not_lt.mpr hlo), if_neg (not_lt.mpr hhi)]
theorem clamp_below {y : Ty} {x : Int} (h : x < y.lo) : y.clamp x = y.lo := if_pos h
theorem clamp_above {y : Ty} {x : Int} (h : y.hi < x) : y.clamp x = y.hi := by
  rw [Ty.clamp, if_neg (not_lt.mpr ((lo_le_hi y).trans h.le)), if_pos h]

/-- A result that the clamp changed holds the bound that it was clamped to, and sets st.sat (R182). -/
theorem store_sat_clamped {y : Ty} {x c : Int} (hc : y.clamp x = c) (hne : c ≠ x) (hlo : y.lo ≤ c) (hhi : c ≤ y.hi) :
    y.int (y.store true x).1 = c ∧ (y.store true x).2 = stSat := by
  rw [Ty.store, if_pos rfl, hc, if_neg hne]
  exact ⟨int_extend_of_mem hlo hhi, rfl⟩

theorem store_sat_kept {y : Ty} {x : Int} (hlo : y.lo ≤ x) (hhi : x ≤ y.hi) :
    y.int (y.store true x).1 = x ∧ (y.store true x).2 = 0 := by
  rw [Ty.store, if_pos rfl, clamp_of_mem hlo hhi, if_pos rfl]
  exact ⟨int_extend_of_mem hlo hhi, rfl⟩

/-! ## Rounding to a multiple (R178) -/

theorem roundAt_exact {q e : Int} (h : q ≤ e) (rm : Rnd) (neg : Bool) (m : Nat) : roundAt rm neg m e q = (m * 2 ^ (e - q).toNat, true) := if_pos h

theorem roundAt_cut {q e : Int} (h : e < q) (rm : Rnd) (neg : Bool) (m : Nat) :
    roundAt rm neg m e q =
      (if roundsUp rm neg (m / 2 ^ (q - e).toNat % 2 == 1) (m % 2 ^ (q - e).toNat) (q - e).toNat then m / 2 ^ (q - e).toNat + 1
        else m / 2 ^ (q - e).toNat, m % 2 ^ (q - e).toNat == 0) := if_neg (not_le.mpr h)

/-- Where nothing is cut off, no mode rounds up. -/
theorem roundsUp_zero (rm : Rnd) (neg odd : Bool) (sh : Nat) : roundsUp rm neg odd 0 sh = false := by
  have := Nat.two_pow_pos sh
  cases rm with
  | rne | rna =>
    simp only [roundsUp]
    grind
  | rz => rfl
  | ru | rd => simp [roundsUp]

theorem roundsUp_toward_zero {rm : Rnd} {neg : Bool} (h : rm = .rz ∨ (rm = .ru ∧ neg = true) ∨ (rm = .rd ∧ neg = false)) (odd : Bool)
    (rem sh : Nat) : roundsUp rm neg odd rem sh = false := by
  obtain rfl | ⟨rfl, rfl⟩ | ⟨rfl, rfl⟩ := h <;> rfl

theorem roundsUp_away {rm : Rnd} {neg : Bool} (h : (rm = .ru ∧ neg = false) ∨ (rm = .rd ∧ neg = true)) (odd : Bool) (rem sh : Nat) :
    roundsUp rm neg odd rem sh = true ↔ rem ≠ 0 := by
  obtain ⟨rfl, rfl⟩ | ⟨rfl, rfl⟩ := h <;> simp [roundsUp]

theorem roundsUp_rne {sh k : Nat} (hk : 2 ^ sh = k) (neg odd : Bool) (rem : Nat) :
    roundsUp .rne neg odd rem sh = true ↔ k < 2 * rem ∨ (2 * rem = k ∧ odd = true) := by
  simp [roundsUp, hk]

theorem roundsUp_rna {sh k : Nat} (hk : 2 ^ sh = k) (neg odd : Bool) (rem : Nat) : roundsUp .rna neg odd rem sh = true ↔ k ≤ 2 * rem := by
  simp [roundsUp, hk]

/-- n times k is the multiple of k = 2^sh that a mode takes for m: the one that m's rest is cut off to, or the next where the mode rounds that rest up. -/
def Neighbour (rm : Rnd) (neg : Bool) (m sh k n : Nat) : Prop :=
  let up := roundsUp rm neg (m / k % 2 == 1) (m % k) sh
  2 ^ sh = k ∧ m % k < k ∧ ((up = true ∧ n = m / k + 1 ∧ n * k + m % k = m + k) ∨ (¬up = true ∧ n = m / k ∧ n * k + m % k = m))

theorem roundAt_neighbour {e q : Int} (h : e < q) (rm : Rnd) (neg : Bool) (m : Nat) :
    Neighbour rm neg m (q - e).toNat (2 ^ (q - e).toNat) (roundAt rm neg m e q).1 := by
  have hm := Nat.div_add_mod' m (2 ^ (q - e).toNat)
  refine ⟨rfl, Nat.mod_lt _ (Nat.two_pow_pos _), ?_⟩
  rw [roundAt_cut h]
  split
  · next hup => exact .inl ⟨hup, rfl, by rw [Nat.succ_mul]; omega⟩
  · next hup => exact .inr ⟨hup, rfl, hm⟩

theorem roundAt_exact_iff {e q : Int} (h : e < q) (rm : Rnd) (neg : Bool) (m : Nat) :
    (roundAt rm neg m e q).2 = true ↔ 2 ^ (q - e).toNat ∣ m := by
  rw [roundAt_cut h, beq_iff_eq, Nat.dvd_iff_mod_eq_zero]

section
variable {rm : Rnd} {neg : Bool} {m sh k n : Nat}

theorem Neighbour.of_dvd (h : Neighbour rm neg m sh k n) (hd : k ∣ m) : n * k = m := by
  obtain ⟨-, -, hn⟩ := h
  simp only [Nat.dvd_iff_mod_eq_zero.mp hd, roundsUp_zero, Bool.false_eq_true, false_and, false_or] at hn
  omega

theorem Neighbour.toward_zero (h : Neighbour rm neg m sh k n) (hmode : rm = .rz ∨ (rm = .ru ∧ neg = true) ∨ (rm = .rd ∧ neg = false)) :
    n * k ≤ m ∧ m < n * k + k := by
  obtain ⟨-, hrem, hn⟩ := h
  simp only [roundsUp_toward_zero hmode, Bool.false_eq_true, false_and, false_or] at hn
  omega

theorem Neighbour.away (h : Neighbour rm neg m sh k n) (hmode : (rm = .ru ∧ neg = false) ∨ (rm = .rd ∧ neg = true)) :
    m ≤ n * k ∧ n * k < m + k := by
  obtain ⟨-, hrem, hn⟩ := h
  rw [roundsUp_away hmode] at hn
  omega

theorem Neighbour.nearest (h : Neighbour rm neg m sh k n) (hmode : rm = .rne ∨ rm = .rna) :
    2 * (n * k) ≤ 2 * m + k ∧ 2 * m ≤ 2 * (n * k) + k := by
  obtain ⟨hk, hrem, hn⟩ := h
  obtain rfl | rfl := hmode
  · rw [roundsUp_rne hk] at hn
    omega
  · rw [roundsUp_rna hk] at hn
    omega

/-- RNE takes the even multiple of two that are as near, RNA the greater. -/
theorem Neighbour.tie_even (h : Neighbour rm neg m sh k n) (hmode : rm = .rne)
    (htie : 2 * (n * k) = 2 * m + k ∨ 2 * m = 2 * (n * k) + k) : n % 2 = 0 := by
  obtain ⟨hk, hrem, hn⟩ := h
  rw [hmode, roundsUp_rne hk, beq_iff_eq] at hn
  omega

theorem Neighbour.tie_away (h : Neighbour rm neg m sh k n) (hmode : rm = .rna) : 2 * m ≠ 2 * (n * k) + k := by
  obtain ⟨hk, hrem, hn⟩ := h
  rw [hmode, roundsUp_rna hk] at hn
  omega

end

/-! ## Exact values (R171, R172, R178) -/

theorem fmt_width_pos {y : Ty} {f : Fmt} (h : fmtOf y = some f) : 0 < f.width := by
  cases y with
  | f32 | f16 | bf16 | e4m3 | e5m2 =>
    cases h
    decide
  | _ => cases h

/-- A code is its sign and its magnitude. -/
theorem signed_neg_mag {f : Fmt} (hw : 0 < f.width) {x : Nat} (hx : x < 2 ^ f.width) : f.signed (f.neg x) (f.mag x) = x := by
  obtain ⟨k, hk⟩ := Nat.exists_eq_add_one.mpr hw
  rw [hk, pow_succ] at hx
  have hbits : x % 2 ^ k + 2 ^ k * (x.testBit k).toNat = x := by
    rw [Nat.toNat_testBit, Nat.mod_eq_of_lt (Nat.div_lt_of_lt_mul hx), Nat.mod_add_div]
  rw [Fmt.signed, Fmt.neg, Fmt.mag, hk, Nat.add_sub_cancel]
  cases hneg : x.testBit k with
  | true =>
    rw [hneg, Bool.toNat_true, Nat.mul_one] at hbits
    exact hbits
  | false =>
    rw [hneg, Bool.toNat_false, Nat.mul_zero] at hbits
    exact hbits

/-- A finite code: its magnitude is the fraction of a subnormal, or an exponent that is not 0 and a fraction (R172). -/
theorem val_fin {f : Fmt} {x m : Nat} {neg : Bool} {e : Int} (h : f.val x = .fin neg m e) :
    neg = f.neg x ∧ f.mag x ≤ f.maxCode ∧
      ((m = f.mag x ∧ m < 2 ^ f.mbits ∧ e = 1 - (f.bias : Int) - f.mbits) ∨
        ∃ ex fr, ex ≠ 0 ∧ fr < 2 ^ f.mbits ∧ f.mag x = ex * 2 ^ f.mbits + fr ∧ m = 2 ^ f.mbits + fr ∧ e = (ex : Int) - f.bias - f.mbits) := by
  have hmod : f.mag x / 2 ^ f.mbits * 2 ^ f.mbits + f.mag x % 2 ^ f.mbits = f.mag x := Nat.div_add_mod' _ _
  have hfr : f.mag x % 2 ^ f.mbits < 2 ^ f.mbits := Nat.mod_lt _ (Nat.two_pow_pos _)
  unfold Fmt.val at h
  simp only at h
  split at h
  · split at h <;> cases h
  · next hmax =>
    split at h
    · next hex =>
      rw [hex, Nat.zero_mul, Nat.zero_add] at hmod
      cases h
      exact ⟨rfl, not_lt.mp hmax, .inl ⟨hmod, hfr, rfl⟩⟩
    · next hex =>
      cases h
      exact ⟨rfl, not_lt.mp hmax, .inr ⟨_, _, hex, hfr, hmod.symm, rfl, rfl⟩⟩

theorem log2_of_fraction {mb fr : Nat} (h : fr < 2 ^ mb) : (2 ^ mb + fr).log2 = mb :=
  (Nat.log2_eq_iff (by positivity)).mpr ⟨Nat.le_add_right _ _, by rw [pow_succ]; omega⟩

/-- A normal value of the format rounds to its code. -/
theorem round_normal {f : Fmt} {ex fr : Nat} (hex : ex ≠ 0) (hfr : fr < 2 ^ f.mbits) (hmax : ex * 2 ^ f.mbits + fr ≤ f.maxCode) (rm : Rnd)
    (flush sat neg : Bool) :
    f.round rm flush sat neg (2 ^ f.mbits + fr) ((ex : Int) - f.bias - f.mbits) = (f.signed neg (ex * 2 ^ f.mbits + fr), 0) := by
  have hm : 2 ^ f.mbits + fr ≠ 0 := by positivity
  have hn : 2 ^ f.mbits + fr ≠ 2 ^ (f.mbits + 1) := by rw [pow_succ]; omega
  have htop : (f.mbits : Int) + ((ex : Int) - f.bias - f.mbits) = ex - f.bias := by ring
  have hemin : ¬(ex : Int) - f.bias < 1 - f.bias := by omega
  have hcode : ((ex : Int) - f.bias + f.bias).toNat = ex := by omega
  unfold Fmt.round
  simp only [hm, if_false, log2_of_fraction hfr, htop, roundAt_exact le_rfl, sub_self, Int.toNat_zero, pow_zero, Nat.mul_one, hn, hemin,
    hcode, Nat.add_sub_cancel_left, not_lt.mpr hmax, if_true]

/-- A subnormal value of the format rounds to its code, which is its fraction. -/
theorem round_subnormal {f : Fmt} {m : Nat} (hm : m < 2 ^ f.mbits) (rm : Rnd) (sat neg : Bool) :
    f.round rm false sat neg m (1 - (f.bias : Int) - f.mbits) = (f.signed neg m, 0) := by
  unfold Fmt.round
  split
  · next h0 => rw [h0]
  next h0 =>
  have hlog : m.log2 < f.mbits := (Nat.log2_lt h0).mpr hm
  have hshift : (1 - (f.bias : Int) - f.mbits - (m.log2 + (1 - (f.bias : Int) - f.mbits) - f.mbits)).toNat = f.mbits - m.log2 := by omega
  have hn : m * 2 ^ (f.mbits - m.log2) ≠ 2 ^ (f.mbits + 1) := by
    refine ne_of_lt ?_
    calc m * 2 ^ (f.mbits - m.log2) < 2 ^ (m.log2 + 1) * 2 ^ (f.mbits - m.log2) :=
          Nat.mul_lt_mul_of_pos_right Nat.lt_log2_self (Nat.two_pow_pos _)
      _ = 2 ^ (f.mbits + 1) := by rw [← pow_add]; congr 1; omega
  have htiny : (m.log2 : Int) + (1 - (f.bias : Int) - f.mbits) < 1 - f.bias := by omega
  simp only [roundAt_exact (show (m.log2 : Int) + (1 - (f.bias : Int) - f.mbits) - f.mbits ≤ 1 - (f.bias : Int) - f.mbits by omega),
    roundAt_exact le_rfl, hshift, hn, if_false, htiny, if_true, sub_self, Int.toNat_zero, pow_zero, Nat.mul_one, Bool.false_and, Bool.false_eq_true]

/-- Every finite value of a format rounds to its own code (R171, R172). -/
theorem round_val {f : Fmt} (hw : 0 < f.width) {x m : Nat} {neg : Bool} {e : Int} (hx : x < 2 ^ f.width) (h : f.val x = .fin neg m e) (rm : Rnd) :
    f.round rm false false neg m e = (x, 0) := by
  obtain ⟨rfl, hmax, ⟨rfl, hm, rfl⟩ | ⟨ex, fr, hex, hfr, hmag, rfl, rfl⟩⟩ := val_fin h
  · rw [round_subnormal hm, signed_neg_mag hw hx]
  · rw [round_normal hex hfr (hmag ▸ hmax), ← hmag, signed_neg_mag hw hx]

/-- Settles O9: integers by their residue modulo 2^w, a rounding by the rest that it cuts off, exact values by the two kinds of finite code. -/
theorem numberRule : Obligations.NumberRule := by
  refine ⟨fun y x _ => ⟨⟨rfl, (int_extend_modEq y x).dvd, int_mem y _⟩, store_sat_kept, fun h => ?low, fun h => ?high⟩,
    fun rm neg m e q h => ?rounding, fun y f rm x neg m e hf hx hv => round_val (fmt_width_pos hf) hx hv rm⟩
  case low => exact store_sat_clamped (clamp_below h) h.ne' le_rfl (lo_le_hi y)
  case high => exact store_sat_clamped (clamp_above h) h.ne (lo_le_hi y) le_rfl
  case rounding =>
    have hn := roundAt_neighbour h rm neg m
    exact ⟨roundAt_exact_iff h rm neg m, hn.of_dvd, hn.toward_zero, hn.away, hn.nearest, hn.tie_even, hn.tie_away⟩

end Sys2Proof.Machine

/-! # Instructions that read other lanes' registers (O16) -/

namespace Sys2Proof.Machine

open Sys2Proof

/-- The position of VSHUF's pattern within the group of 32 (R125): an exclusive or, a rotation, a shift down and a shift up. -/
theorem shufflePos_eq (c p : Nat) : shufflePos c p =
    if c < 0x20 then p ^^^ c
    else if c < 0x40 then (p + c - 0x20) % 32
    else if c < 0x60 then (if p + c - 0x40 < 32 then p + c - 0x40 else p)
    else if c ≤ p + 0x60 then p + 0x60 - c else p := by
  unfold shufflePos
  by_cases h1 : c < 0x20
  · simp only [h1, if_true]
  by_cases h2 : c < 0x40
  · simp only [h1, h2, if_true, if_false, show p + (c - 0x20) = p + c - 0x20 by omega]
  by_cases h3 : c < 0x60
  · simp only [h1, h2, h3, if_true, if_false, show p + (c - 0x40) = p + c - 0x40 by omega]
  · simp only [h1, h2, h3, if_false, show c - 0x60 ≤ p ↔ c ≤ p + 0x60 by omega, show p - (c - 0x60) = p + 0x60 - c by omega]

/-- The values of a list's lanes beside the numbers from 0 on. -/
theorem range_zip_map (xs : List Nat) (f : Nat → Word) :
    (List.range xs.length).zip (xs.map f) = (List.range xs.length).map fun k => (k, f (xs[k]?.getD 0)) := by
  refine List.ext_getElem (by simp) fun k hk _ => ?_
  have hk' : k < xs.length := by simpa using hk
  simp [hk']

/-- The checks of an instruction that tests its operands once and pushes to D, past which it goes on (R55). -/
theorem firstCause_operandsTo {t : Team} {b : Bool} {c : Cause} {d : Sel} (ss : List (Nat × Sel)) (hb : b = true) (pd : t.pushCheck d = none)
    (hr : ∀ f ∈ ss, t.readable f.2) : firstCause ([need b c, t.pushCheck d] ++ (ss.map (·.2)).map fun a => t.popCheck a) = none := by
  simp only [need, hb, pd, if_true, List.cons_append, List.nil_append, firstCause]
  exact firstCause_readable t ss hr

theorem vectorSrc_v (t : Team) (r : BitVec 7) : t.vectorSrc (.v r) = t.vOk r 1 := rfl

section
variable {s : State} {i : Nat} {t u : Team} {q : Nat → Nat → Word} {d a b : Sel} {r : BitVec 7}

/-- Words written for a list of lanes, in the state after the sources are read, settled. -/
theorem settle_putLanes_after (v : Team) (pops : List Pop) (ws : List (Nat × Word)) (ht : u.takesAll d ws.length) :
    settle i t (putLanes i u (s.after i v pops) d ws) = s.done i (u.putV d ws) := settle_putLanes s i t u v d ws _ ht

/-- A vector instruction that writes a word for each active lane, past its checks. -/
theorem sweep_words (h : Issues s i t) (hl : t.active.isEmpty = false) {checks : Team → State → List (Option Cause)} {ss : List (Nat × Sel)}
    {f : Team → (Nat → Nat → Word) → State → Nat → Word} {g : Nat → Word}
    (hc : firstCause (checks t { s with cur := none } ++ (ss.map (·.2)).map fun a => t.popCheck a) = none)
    (hr : Reads t (popsLanes t.active ss) u q) (ht : u.takesAll d t.active.length)
    (hf : ∀ l, f u q (s.after i u (popsLanes t.active ss)) l = g l) :
    sweep s checks ss (fun i t q s1 => putLanes i t s1 d (t.active.map fun l => (l, f t q s1 l))) =
      .next (s.done i (u.putV d (t.active.map fun l => (l, g l)))) := by
  unfold sweep
  rw [sweepOn_after s i t u q h _ _ _ _ _ hc hl hr]
  simp only [hf, reads_active hr]
  rw [settle_putLanes_after _ _ _ (by simpa using ht)]

/-- VSHUF past its checks (R125). -/
theorem exec_vshuf_of {c : BitVec 8} (h : Issues s i t) (hl : t.active.isEmpty = false) (hd : t.vectorDst d = true) (pd : t.pushCheck d = none)
    (hv : t.vOk r 1 = true) (hc : c.toNat < 0x80) (ht : t.takesAll d t.active.length) :
    exec (.vshuf d (.v r) c) s =
      .next (s.done i (t.putV d (t.active.map fun l => (l, t.other (.v r) (l - l % 32 + shufflePos c.toNat (l % 32)))))) :=
by
  show execVshuf d (.v r) c s = _
  unfold execVshuf
  refine sweep_words h hl ?checks (reads_nil t) ht fun _ => rfl
  case checks => exact firstCause_operandsTo [] (by simp [hd, isV, vectorSrc_v, hv, hc]) pd (by simp)

/-- VPERM past its checks (R126). -/
theorem exec_vperm_of (h : Issues s i t) (hl : t.active.isEmpty = false) (hd : t.vectorDst d = true) (pd : t.pushCheck d = none)
    (hv : t.vOk r 1 = true) (hb : t.vectorSrc b = true) (rb : t.readable b) (hr : Reads t (popsLanes t.active [(1, b)]) u q)
    (ht : u.takesAll d t.active.length) :
    exec (.vperm d (.v r) b) s =
      .next (s.done i (u.putV d (t.active.map fun l => (l, t.other (.v r) (s.src t b l (q 1 l)).toNat)))) :=
by
  show execVperm d (.v r) b s = _
  unfold execVperm
  refine sweep_words h hl ?checks hr ht fun l => ?value
  case checks => exact firstCause_operandsTo [(1, b)] (by simp [hd, isV, vectorSrc_v, hv, hb]) pd (by simp [rb])
  case value => rw [src_after, reads_src hr, reads_other _ _ _ _ hr]

/-- VMSK past its checks: the set bits of the mask below each lane (R131). -/
theorem exec_vmsk_of (h : Issues s i t) (hl : t.active.isEmpty = false) (hd : t.vectorDst d = true) (pd : t.pushCheck d = none)
    (hb : maskSrc b = true) (ht : t.takesAll d t.active.length) :
    exec (.vmsk d b) s = .next (s.done i (t.putV d (t.active.map fun l =>
      (l, BitVec.ofNat 32 ((List.range l).countP fun k => (t.mask b).getLsbD k))))) :=
by
  show execVmsk d b s = _
  unfold execVmsk
  refine sweep_words h hl ?checks (reads_nil t) ht fun l => congrArg (BitVec.ofNat 32) (popCount_eq (t.mask b).toNat l)
  case checks => exact firstCause_operandsTo [] (by simp [hd, hb]) pd (by simp)

/-- VMOVP past its checks: the active lanes' values go to lanes 0 onwards (R131). -/
theorem exec_vmovp_of {e : BitVec 7} (h : Issues s i t) (hl : t.active.isEmpty = false) (he : t.vOk e 1 = true) (hv : t.vOk r 1 = true) :
    exec (.vmovp (.v e) (.v r)) s = .next (s.done i (t.putV (.v e)
      ((List.range t.active.length).map fun k => (k, t.other (.v r) ((t.active[k]?).getD 0))))) := by
  show execVmovp (.v e) (.v r) s = _
  unfold execVmovp sweep
  rw [sweepOn_after s i t t _ h _ _ _ _ _ ?checks hl (reads_nil t)]
  case checks => exact firstCause_operands [] (by simp [isV, vectorSrc_v, he, hv]) (by simp)
  rw [settle_putLanes_after (d := .v e) _ _ _ trivial, range_zip_map]

/-- VEXTR past its checks, which test no mask (R129). -/
theorem exec_vextr_of (h : Issues s i t) (hv : t.vOk r 1 = true) (pd : t.pushCheck d = none) (hb : t.scalarSrc b = true) (rb : t.readable b)
    (hr : Reads t (popsOnce [(1, b)]) u q) (hd : u.takes d) :
    exec (.vextr d (.v r) b) s = .next (s.done i (u.put d (t.other (.v r) (s.scalar t b (q 1 0)).toNat))) := by
  show execVextr d (.v r) b s = _
  unfold execVextr
  rw [once_after s i t u q h _ _ _ ?checks hr]
  case checks =>
    exact firstCause_operandsTo [(1, b)] (by simp [takes_scalarDst u d hd, isV, vectorSrc_v, hv, hb]) pd (by simp [rb])
  rw [settle_put_after s i t u u d _ _ hd, scalar_after, reads_scalar hr, reads_other _ _ _ _ hr]

/-- VINS past its checks: a lane that does not exist is not written (R129). -/
theorem exec_vins_of (h : Issues s i t) (hv : t.vOk r 1 = true) (ha : t.scalarSrc a = true) (ra : t.readable a) (hb : t.scalarSrc b = true)
    (rb : t.readable b) (hr : Reads t (popsOnce [(0, a), (1, b)]) u q) :
    exec (.vins (.v r) a b) s = .next (s.done i (if (s.scalar t b (q 1 0)).toNat < t.nlanes then
      u.setV (s.scalar t b (q 1 0)).toNat r.toNat (s.scalar t a (q 0 0)) else u)) := by
  show execVins (.v r) a b s = _
  unfold execVins
  rw [once_after s i t u q h _ _ _ ?checks hr]
  case checks => exact firstCause_operands [(0, a), (1, b)] (by simp [isV, vectorSrc_v, hv, ha, hb]) (by simp [ra, rb])
  simp only [scalar_after, reads_scalar hr, reads_nlanes hr]
  exact congrArg _ (settle_setTeam_if s i t _ u _)

end

/-- Settles O16: one lemma for each instruction; a lane's register as another lane reads it is the model's `Team.other`. -/
theorem crossLaneResult : Obligations.CrossLaneResult := by
  intro s i t u q d b r h hv other
  refine ⟨fun hl hd pd ht => ⟨fun c hu hc => ?shuf, fun hb rb hr => exec_vperm_of h hl hd pd hv hb rb hr ht, fun hu hb => ?msk⟩,
    fun hl e he => exec_vmovp_of h hl he hv, fun pd hb rb hr hd => exec_vextr_of h hv pd hb rb hr hd,
    fun a ha ra hb rb hr => exec_vins_of h hv ha ra hb rb hr⟩
  case shuf =>
    subst hu
    simp only [exec_vshuf_of h hl hd pd hv hc ht, shufflePos_eq]
    rfl
  case msk =>
    subst hu
    exact exec_vmsk_of h hl hd pd hb ht

end Sys2Proof.Machine

/-! # The checks of an access before it starts (O25) -/

namespace Sys2Proof.Machine

open Sys2Proof

section
variable {s : State} {i : Nat} {t : Team} {k : Kind} {a : Acc} {c : Cluster}

/-- A misaligned access to memory goes no further than its first check (R134, R137). -/
theorem startMem_misaligned (h : a.va % a.align ≠ 0) : s.startMem i t k a = (.fault (plainFault a.lane a.va .align), s) := by
  rw [State.startMem, if_pos h]

theorem startScratch_misaligned (h : a.va % a.align ≠ 0) : s.startScratch t a = .fault (plainFault a.lane a.va .align) := by
  rw [State.startScratch, if_pos h]

/-- An aligned scratch access with a good address that no uncorrectable error meets starts there (R215). -/
theorem startScratch_inside (hc : recFind s.clusters t.cluster = some c) (h : a.va % a.align = 0) (hin : scratchOk c a.va a.size = true)
    (hs : c.spoiled = []) :
    s.startScratch t a = .ok { a with tr := { place := .scratch t.cluster (scratchKey a.va), pa := 0, nodes := [] } } := by
  rw [State.startScratch, if_neg (not_not.mpr h), hc]
  simp [hin, hs]

/-- An aligned one with another address takes SCRATCH_BOUNDS, whatever the cluster's words hold (R215). -/
theorem startScratch_outside (hc : recFind s.clusters t.cluster = some c) (h : a.va % a.align = 0) (ho : scratchOk c a.va a.size = false) :
    s.startScratch t a = .fault (plainFault a.lane a.va .scratchBounds) := by
  rw [State.startScratch, if_neg (not_not.mpr h), hc]
  simp [ho]

end

/-- A good scratch address: its reserved bits are clear, its core is in the shape, its run inside the share (R215, R224). -/
theorem scratchOk_iff (c : Cluster) (va n : Nat) :
    scratchOk c va n = true ↔ va < 2 ^ 24 ∧ va / 2 ^ 20 < c.h * c.w ∧ va % 2 ^ 20 + n ≤ c.share := by
  simp only [scratchOk, Bool.and_eq_true, decide_eq_true_eq, and_assoc]

/-- Settles O25: the alignment check is the first of both starts, and the bounds of scratch are `scratchOk`. -/
theorem accessCheckRule : Obligations.AccessCheckRule := by
  intro s i t k a c hc good
  have hgood : scratchOk c a.va a.size = true ↔ good := scratchOk_iff c a.va a.size
  refine ⟨startMem_misaligned, startScratch_misaligned, fun h hbad => ?outside, fun h hin hs => ?inside⟩
  case outside => exact startScratch_outside hc h (Bool.eq_false_iff.mpr (mt hgood.mp hbad))
  case inside => exact startScratch_inside hc h (hgood.mpr hin) hs

end Sys2Proof.Machine

/-! # Atomics, reductions and directed forms (O31) -/

namespace Sys2Proof.Machine

open Sys2Proof

/-- The forms that take a D, each with its function and its family (R263). -/
def formsOfD (d a b : Sel) : List (Instr × AtomFn × Family) :=
  [(.aadd d a b, .add, .ret), (.afadd d a b, .fadd, .ret), (.amin d a b, .min, .ret), (.amax d a b, .max, .ret), (.aand d a b, .and, .ret),
   (.aor d a b, .or, .ret), (.axor d a b, .xor, .ret), (.axchg d a b, .xchg, .ret), (.acas d a b, .cas, .ret), (.acas2 d a b, .cas2, .ret),
   (.acas4 d a b, .cas4, .ret), (.dadd d a b, .add, .dir), (.dfadd d a b, .fadd, .dir), (.dmin d a b, .min, .dir), (.dmax d a b, .max, .dir),
   (.dxchg d a b, .xchg, .dir)]

/-- The reductions, which have no D (R263, R272). -/
def reductionForms (a b : Sel) : List (Instr × AtomFn × Family) :=
  [(.rdadd a b, .add, .red), (.rdfadd a b, .fadd, .red), (.rdmin a b, .min, .red), (.rdmax a b, .max, .red), (.rdand a b, .and, .red),
   (.rdor a b, .or, .red), (.rdxor a b, .xor, .red)]

theorem exec_formsOfD (s : State) (d a b : Sel) : ∀ e ∈ formsOfD d a b, exec e.1 s = atomicOp s e.2.1 e.2.2 d a b := by
  simp only [formsOfD, List.forall_mem_cons]
  exact ⟨rfl, rfl, rfl, rfl, rfl, rfl, rfl, rfl, rfl, rfl, rfl, rfl, rfl, rfl, rfl, rfl, List.forall_mem_nil _⟩

theorem exec_reductionForms (s : State) (a b : Sel) : ∀ e ∈ reductionForms a b, exec e.1 s = atomicOp s e.2.1 e.2.2 (.sp .zero) a b := by
  simp only [reductionForms, List.forall_mem_cons]
  exact ⟨rfl, rfl, rfl, rfl, rfl, rfl, rfl, List.forall_mem_nil _⟩

/-- Every atomic is `atomicOp` of its function and its family, a reduction with ZERO as its D. -/
theorem exec_atomForm {s : State} {d a b : Sel} {x : Instr} {fn : AtomFn} {fam : Family}
    (h : (x, fn, fam) ∈ formsOfD d a b ++ (if d = .sp .zero then reductionForms a b else [])) : exec x s = atomicOp s fn fam d a b := by
  rcases List.mem_append.mp h with h | h
  · exact exec_formsOfD s d a b _ h
  · split at h
    · next hd => exact hd ▸ exec_reductionForms s a b _ h
    · exact absurd h List.not_mem_nil

/-- CHUNK past its checks: once the posted entries that it needs out have drained, each lane's access of the counter is in flight on the flag of class A (R158). -/
theorem exec_chunk_of {s s1 s2 : State} {i : Nat} {t : Team} {r : BitVec 7} {n : BitVec 6} {good : List Acc} {bad : List (LaneFault × Acc)}
    (h : Issues s i t) (hl : t.active.isEmpty = false) (hv : t.vOk r 2 = true) (hn : n.toNat % 2 = 0) (hf : t.flagFull (t.setFlag false) = false)
    (hd : (if t.releases.isSome then (({ s with cur := none } : State).setTeam i t).drainAll i
      else (({ s with cur := none } : State).setTeam i t).drainOver i
        ((t.active.map fun l => Acc.new l (t.pair n) 32 32 0 []).map fun x => (x.va, x.size))) = .ok s1)
    (hs : Starts s1 i t .chunk (t.active.map fun l => Acc.new l (t.pair n) 32 32 0 []) good bad s2) :
    exec (.chunk (.v r) (.s n)) s = .next (s2.started i t
      { opOf i t s2 (t.setFlag false) (.chunk r.toNat) with accs := good, acq := t.acqScope, rel := t.releases } bad) := by
  have hop : (t.vOk r 2 && pairOk (.s n)) = true := by rw [hv, pairOk_even hn]; rfl
  show execChunk (.v r) (.s n) s = _
  unfold execChunk sweep
  rw [sweepOn_after s i t t (fun _ _ => 0) h _ _ _ _ _ (firstCause_operands [] hop (List.forall_mem_nil _)) hl (reads_nil t)]
  exact congrArg (fun r => Host.Outcome.next (settle i t r))
    (homeStart_of { s with cur := none } s1 s2 i t false (.chunk r.toNat) _ good bad t.acqScope hf hd hs)

/-- Settles O31: the atomics are `atomicOp` of their function and family; CHUNK starts its accesses the same way. -/
theorem atomicResult : Obligations.AtomicResult := by
  intro s s1 s2 i t u q d a b good bad h hl drained
  refine ⟨fun ra rb hr x fn fam hx ho hty => ?atomic, ?chunk⟩
  case atomic =>
    rintro size hf ⟨hd, hs⟩
    rw [exec_atomForm hx]
    exact atomicOp_of s s1 s2 i t u q d a b good bad h hl ra rb hr fn fam ho hty hf hd hs
  case chunk =>
    rintro rfl r n rfl hv rfl hn hf ⟨hd, hs⟩
    exact exec_chunk_of h hl hv hn hf hd hs

end Sys2Proof.Machine

/-! # The host's register accesses (O52) -/

namespace Sys2Proof.Machine

open Sys2Proof

/-! ## Words of a partition function's pages (R354) -/

/-- The fields of a word that an authority may read: the owner by a trusted access, else the operator (R354). -/
def RegView.mayRead (x : RegView) (own : Bool) : Word := if own then x.ownR else x.opR
/-- The fields that it may write. -/
def RegView.mayWrite (x : RegView) (own : Bool) : Word := if own then x.ownW else x.opW

section
variable {s : State} {p off n w : Nat} {v : Word} {trusted : Bool} {r : RegName}

/-- An untrusted write of an OW page is refused and reported (R354). -/
theorem partWrite_untrusted (hw : owPage off = true) (ht : s.trusts p trusted = false) :
    s.partWrite p off v trusted = s.refuseAccess p off true := by
  simp only [State.partWrite, hw, ht]
  rfl

/-- So is an untrusted read, which gives zero. -/
theorem partRead_untrusted (hw : owPage off = true) (ht : s.trusts p trusted = false) :
    s.partRead p off trusted = (0, s.refuseAccess p off true) := by
  simp only [State.partRead, hw, ht]
  rfl

theorem access_not_denied {own : Bool} (h : owPage off = false ∨ own = true) : (owPage off && !own) = false := by
  rcases h with h | h <;> rw [h]
  · rfl
  · exact Bool.and_false _

section
variable (h : owPage off = false ∨ s.trusts p trusted = true) (hn : regName off = some r) (hr : s.hasReg p r = true)
include h hn hr

/-- A write of a word that the partition has acts where its authority may write a field of it, and else is refused if the word has a field (R354). -/
theorem partWrite_of :
    s.partWrite p off v trusted =
      if (s.regView p r).mayWrite (s.trusts p trusted) ≠ 0 then s.regWrite p off v r
      else if (s.regView p r).named = 0 then s
      else s.refuseAccess p off (s.trusts p trusted && !owPage off) := by
  simp only [State.partWrite, access_not_denied h, hn, hr]
  rfl

/-- A read of a word of whose fields its authority may read or write each gives those that it may read (R354). -/
theorem partRead_of
    (hall : (s.regView p r).named &&& ~~~((s.regView p r).mayRead (s.trusts p trusted) ||| (s.regView p r).mayWrite (s.trusts p trusted)) = 0) :
    s.partRead p off trusted = ((s.regView p r).value &&& (s.regView p r).mayRead (s.trusts p trusted), s) := by
  simp only [State.partRead, access_not_denied h, hn, hr]
  exact congrArg (Prod.mk _) (if_pos hall)

end

/-! ## Accesses by function (R380) -/

theorem funcOf_part (h : p < 4) : funcOf (p + 1) = some (.part p) := by
  rw [funcOf, if_neg (by omega), if_pos (by omega)]
  rfl

theorem funcOf_audit (h : p < 4) : funcOf (p + 5) = some (.audit p) := by
  rw [funcOf, if_neg (by omega), if_neg (by omega), if_pos (by omega)]
  rfl

section
variable (hl : s.live = true) (hp : s.isPart p = true)
include hl hp

theorem exec_registerWrite_part (hp4 : p < 4) (ha : off % 4 = 0) :
    exec (.registerWrite (p + 1) off v trusted) s = .next (s.partWrite p off v trusted) := by
  show execRegisterWrite (p + 1) off v trusted s = _
  simp only [execRegisterWrite, funcOf_part hp4, hl, hp, ha]
  rfl

theorem exec_registerRead_part (hp4 : p < 4) (ha : off % 4 = 0) :
    exec (.registerRead (p + 1) off trusted) s = .next ((s.partRead p off trusted).2.answerHost (s.partRead p off trusted).1) := by
  show execRegisterRead (p + 1) off trusted s = _
  simp only [execRegisterRead, funcOf_part hp4, hl, hp, ha]
  rfl

theorem exec_registerWrite_audit (hp4 : p < 4) :
    exec (.registerWrite (p + 5) off v trusted) s = .next (s.count p (s.reportCtx p none) 0x100) := by
  show execRegisterWrite (p + 5) off v trusted s = _
  simp only [execRegisterWrite, funcOf_audit hp4, hl, hp]
  rfl

theorem exec_registerRead_audit (hp4 : p < 4) :
    exec (.registerRead (p + 5) off trusted) s = .next ((s.count p (s.reportCtx p none) 0x100).answerHost 0) := by
  show execRegisterRead (p + 5) off trusted s = _
  simp only [execRegisterRead, funcOf_audit hp4, hl, hp]
  rfl

end

theorem exec_registerWrite_manager (hl : s.live = true) : exec (.registerWrite 0 off v true) s = .next (s.count 0 (s.reportCtx 0 none) 0x100) := by
  show execRegisterWrite 0 off v true s = _
  simp only [execRegisterWrite, show funcOf 0 = some .manager from rfl, hl]
  rfl

theorem exec_registerRead_manager (hl : s.live = true) :
    exec (.registerRead 0 off true) s = .next ((s.count 0 (s.reportCtx 0 none) 0x100).answerHost 0) := by
  show execRegisterRead 0 off true s = _
  simp only [execRegisterRead, show funcOf 0 = some .manager from rfl, hl]
  rfl

/-! ## Queue descriptors (R140, R141) -/

/-- The owner may write a field of each of a descriptor's first three words (R140). -/
theorem queueWord_owned (hw : w < 3) : (s.regView p (.queue n w)).ownW ≠ 0 := by
  obtain rfl | rfl | rfl : w = 0 ∨ w = 1 ∨ w = 2 := by omega
  · exact (by decide : (0xFFFFFFE0 : Word) ≠ 0)
  · exact (by decide : (0xFFFFFFFF : Word) ≠ 0)
  · exact (by decide : (0xFFFFFFFF : Word) ≠ 0)

/-- The owner's write of such a word is `State.writeQueue` of it. -/
theorem exec_queueDescriptorWrite_of (hl : s.live = true) (hp : s.isPart p = true) (hoff : off < 0x10000) (ha : off % 4 = 0) (hw : w < 3)
    (hn : regName (0x30000 + off) = some (.queue n w)) (hq : s.queueOk p n = true) (ht : s.trusts p true = true) :
    exec (.queueDescriptorWrite p off v true) s = .next (s.writeQueue p n w (0x30000 + off) v) := by
  have hmay : (s.regView p (.queue n w)).mayWrite (s.trusts p true) ≠ 0 := by
    rw [ht]
    exact queueWord_owned hw
  show execQueueDescriptorWrite p off v true s = _
  simp only [execQueueDescriptorWrite, hl, hp, decide_eq_true hoff, ha, Nat.sub_zero, Bool.and_self, if_true]
  rw [partWrite_of (.inr ht) hn hq, if_pos hmay]
  rfl

/-- Word 2 of a queue that is disabled and holds no record (R141). -/
theorem writeQueue_unused (he : (s.queue (queueKey p n)).en = false) (hh : s.held (queueKey p n) = 0) :
    s.writeQueue p n 2 off v = s.setQueue (queueKey p n) { s.queue (queueKey p n) with
      depth := bits v 15 0, radius := bits v 19 16, prio := bits v 21 20, en := bit v 31 } := by
  simp only [State.writeQueue, he, hh]
  rfl

/-- A word of an enabled queue: base and depth stay, and the write is reported (R141). -/
theorem writeQueue_enabled (hw : w < 3) (he : (s.queue (queueKey p n)).en = true) :
    let s1 := if w = 2 then s.setQueue (queueKey p n) { s.queue (queueKey p n) with
      radius := bits v 19 16, prio := bits v 21 20, en := bit v 31 } else s
    s.writeQueue p n w off v = s1.noticeOwner p (s1.reportCtx p none) .rights 0 off 0 0 0 := by
  obtain rfl | rfl | rfl : w = 0 ∨ w = 1 ∨ w = 2 := by omega
  all_goals
    simp only [State.writeQueue, he, Bool.true_or]
    rfl

/-! ## PART_CFG and the handshake (R376, R378) -/

theorem partCfg_good (hv : bits v 2 0 < 5) (hc : ∀ p < 4, s.holdsCtx p = false) :
    s.partCfg v = ({ s with dev := { s.dev with shape := bits v 2 0, partErr := s.dev.partErr && !bit v 3 } } : State).startParts := by
  have hnone : (List.range 4).any s.holdsCtx = false :=
    List.any_eq_false.mpr fun p hp => by rw [hc p (List.mem_range.mp hp)]; decide
  simp only [State.partCfg, decide_eq_true hv, hnone]
  rfl

theorem partCfg_bad (hv : 5 ≤ bits v 2 0) : s.partCfg v = { s with dev := { s.dev with partErr := true } } := by
  simp only [State.partCfg, decide_eq_false (not_lt.mpr hv)]
  rfl

theorem exec_partShapeWrite (hl : s.live = true) : exec (.partShapeWrite v) s = .next (s.partCfg v) := by
  show execPartShapeWrite v s = _
  rw [execPartShapeWrite, if_pos hl]

section
variable {pair split : Bool}

theorem exec_merge (hl : s.live = true) : exec (.merge pair) s = .next (s.handshake pair false) := by
  show execMerge pair s = _
  rw [execMerge, if_pos hl]

theorem exec_split (hl : s.live = true) : exec (.split pair) s = .next (s.handshake pair true) := by
  show execSplit pair s = _
  rw [execSplit, if_pos hl]

/-- With no handshake under way, one starts (R378). -/
theorem handshake_starts (h : s.dev.mrgState = 0 ∨ 4 ≤ s.dev.mrgState) :
    s.handshake pair split = { s with dev := { s.dev with mrgPair := pair, mrgSplit := split, mrgState := 1, mrgWhy := 0 } } := by
  have hidle : ¬(1 ≤ s.dev.mrgState ∧ s.dev.mrgState ≤ 3) := by omega
  rw [State.handshake, if_neg hidle, State.mergeGo, if_neg hidle]

/-- One under way goes on (R378). -/
theorem handshake_goes (hp : s.dev.mrgPair = pair) (hs : s.dev.mrgSplit = split) (h1 : 1 ≤ s.dev.mrgState) (h3 : s.dev.mrgState ≤ 3) :
    s.handshake pair split = s.mergeNext := by
  rw [State.handshake, if_pos ⟨h1, h3⟩, if_pos ⟨hp, hs⟩]

/-- A step of MERGE or of SPLIT by which the pair's handshake goes on. -/
theorem exec_handshake_goes {u : State} (hl : s.live = true) (hp : s.dev.mrgPair = pair) (h1 : 1 ≤ s.dev.mrgState) (h3 : s.dev.mrgState ≤ 3)
    (hu : s.mergeNext = u) :
    (s.dev.mrgSplit = false → exec (.merge pair) s = .next u) ∧ (s.dev.mrgSplit = true → exec (.split pair) s = .next u) := by
  rw [exec_merge hl, exec_split hl]
  exact ⟨fun hs => congrArg _ ((handshake_goes hp hs h1 h3).trans hu), fun hs => congrArg _ ((handshake_goes hp hs h1 h3).trans hu)⟩

/-- The check: the handshake goes on, or is refused (R378). -/
theorem mergeNext_check (h : s.dev.mrgState = 1) :
    s.mergeNext = if s.mergeWhy = 0 then s.mergeTo 2 0 else (s.mergeTo 5 s.mergeWhy).mergeResume (if s.dev.mrgPair then 1 else 0) := by
  rw [State.mergeNext, if_pos h]

/-- A merge rewrites the shape, once the upper partition is gone (R378). -/
theorem mergeNext_merge {n : Nat} (h : s.dev.mrgState = 2) (hs : s.dev.mrgSplit = false)
    (hn : pairShape s.dev.shape (if s.dev.mrgPair then 1 else 0) false = some n) :
    let s1 := s.dropPart (2 * (if s.dev.mrgPair then 1 else 0) + 1)
    s.mergeNext = ({ s1 with dev := { s1.dev with shape := n } } : State).mergeTo 3 0 := by
  have hsplit : (s.dropPart (2 * (if s.dev.mrgPair then 1 else 0) + 1)).dev.mrgSplit = false := hs
  have hcheck : ¬s.dev.mrgState = 1 := by omega
  rw [State.mergeNext, if_neg hcheck, if_pos h]
  simp only [hs, hn, Bool.false_eq_true, if_false, hsplit]

/-- The shoot-down, after which the resulting partitions run (R378). -/
theorem mergeNext_shootDown (h : s.dev.mrgState = 3) :
    let k := if s.dev.mrgPair then 1 else 0
    s.mergeNext = ((({ s with
      tlb := s.tlb.filter fun x => x.part / 2 != k
      walks := s.walks.filter fun x => x.part / 2 != k
      posted := s.posted.map fun (e : Nat × Posted) =>
        if (s.team e.2.team).any (fun t : Team => t.part / 2 == k) then (e.1, { e.2 with tr := none }) else e } : State).releaseMigOf
        fun p _ => p / 2 == k).mergeTo 4 0).mergeResume k := by
  intro k
  rw [State.mergeNext, h]
  rfl

end

end

/-! ## Contexts (R403) -/

section
variable {s : State} {p c : Nat} {v : Word} {a : Auth}

/-- A write of CTX_CTL that creates a context: its keys are the device's next two. -/
theorem ctxCtl_create (ha : authOf (bits v 2 1) = some a) (hset : bit v 0 = true) (hkeep : bit v 3 = false) (he : (s.ctx p c).en = false) :
    s.ctxCtl p c v = ({ s with dev := { s.dev with keys := s.dev.keys + 1 + 1 } } : State).setCtx p c
      ((s.ctx p c).created a (.random (s.dev.keys + 1)) (.random (s.dev.keys + 1 + 1))) := by
  simp only [State.ctxCtl, ha, hset, hkeep, he, Bool.not_false, Bool.and_true]
  rfl

/-- One that removes a context that no fabric or seal holds: what it leaves is cleared, and its keys are new ones. -/
theorem ctxCtl_remove (ha : authOf (bits v 2 1) = some (s.ctx p c).auth) (hclear : bit v 0 = false) (hkeep : bit v 3 = false)
    (he : (s.ctx p c).en = true) (hf : (s.ctx p c).fabNvd = 0) (hs : (s.ctx p c).sealed = false) (ht : s.faulted p c = false) :
    let s1 := s.clearCtx p c
    s.ctxCtl p c v = ({ s1 with dev := { s1.dev with keys := s1.dev.keys + 1 + 1 } } : State).setCtx p c
      ((s.ctx p c).removed (.random (s1.dev.keys + 1)) (.random (s1.dev.keys + 1 + 1))) := by
  intro s1
  simp only [State.ctxCtl, ha, hclear, hkeep, he, hf, hs, ht, Bool.not_false, Bool.and_true, ne_eq, not_true_eq_false, if_false, if_true,
    Bool.false_eq_true, or_self]
  rfl

/-- One that would remove a context that has a place in the fabric or is sealed is dropped. -/
theorem ctxCtl_kept (ha : authOf (bits v 2 1) = some (s.ctx p c).auth) (hclear : bit v 0 = false) (he : (s.ctx p c).en = true)
    (h : (s.ctx p c).fabNvd ≠ 0 ∨ (s.ctx p c).sealed = true) : s.ctxCtl p c v = s.ctxDropped p c := by
  have hkept : (s.ctx p c).fabNvd ≠ 0 ∨ (s.ctx p c).sealed = true ∨ s.faulted p c = true := h.imp_right .inl
  simp only [State.ctxCtl, ha, hclear, he, ne_eq, not_true_eq_false, if_false, if_true, Bool.false_eq_true]
  exact if_pos hkept

end

/-- The word that CONTEXT_CREATE writes: its authority, with ctx.en set and ctx.err left (R403). -/
theorem createWord_fields (auth : BitVec 2) :
    let v := BitVec.ofNat 32 (1 + 2 * auth.toNat)
    bits v 2 1 = auth.toNat ∧ bit v 0 = true ∧ bit v 3 = false := by
  revert auth
  decide

/-- The word that CONTEXT_REMOVE writes: the authority as it is, with ctx.en clear. -/
theorem removeWord_fields (a : Auth) :
    let v := BitVec.ofNat 32 (2 * a.code)
    authOf (bits v 2 1) = some a ∧ bit v 0 = false ∧ bit v 3 = false := by
  cases a <;> exact ⟨rfl, rfl, rfl⟩

section
variable {s : State} {p c : Nat} (hl : s.live = true) (hp : s.isPart p = true) (hc : c < 64)
include hl hp hc

/-- The device answers an access of one of a partition's contexts. -/
theorem access_answered : (s.live && s.isPart p && decide (c < 64)) = true := by
  rw [hl, hp, decide_eq_true hc]
  rfl

theorem exec_contextCreate {auth : BitVec 2} :
    exec (.contextCreate p c auth) s = .next (s.ctxCtl p c (BitVec.ofNat 32 (1 + 2 * auth.toNat))) := by
  show execContextCreate p c auth s = _
  rw [execContextCreate, if_pos (access_answered hl hp hc)]

theorem exec_contextRemove : exec (.contextRemove p c) s = .next (s.ctxCtl p c (BitVec.ofNat 32 (2 * (s.ctx p c).auth.code))) := by
  show execContextRemove p c s = _
  rw [execContextRemove, if_pos (access_answered hl hp hc)]

/-! ## Keys (R386, R387) -/

/-- An untrusted key.go is refused and reported. -/
theorem exec_keyImport_untrusted {trusted : Bool} {blob : List Byte} (ht : s.trusts p trusted = false) :
    exec (.keyImport p c trusted blob) s = .next (s.refuseAccess p (0x20408 + 16 * c) true) := by
  show execKeyImport p c trusted blob s = _
  simp only [execKeyImport, access_answered hl hp hc, ht]
  rfl

/-- A trusted one, of a context that exists, starts an import. -/
theorem exec_keyImport_trusted {trusted : Bool} {blob : List Byte} (ht : s.trusts p trusted = true) (he : (s.ctx p c).en = true) :
    exec (.keyImport p c trusted blob) s = .next (s.startImport p c blob) := by
  show execKeyImport p c trusted blob s = _
  simp only [execKeyImport, access_answered hl hp hc, ht, he]
  rfl

/-! ## Debuggers (R35, R366, R391) -/

/-- A trusted debug stop of a context that exists. -/
theorem exec_debugStop_of {m : BitVec 8} (ht : s.trusts p true = true) (he : (s.ctx p c).en = true) :
    exec (.debugStop p c m true) s = .next (s.stopDies p c m.toNat) := by
  show execDebugStop p c m true s = _
  simp only [execDebugStop, access_answered hl hp hc, ht, he]
  rfl

/-- A breakpoint of a context that exists, set or taken away by a debugger that may. -/
theorem run_debugBreak_of {addr : BitVec 32} {clause on trusted : Bool} (he : (s.ctx p c).en = true) (hd : s.mayDebug p c trusted = true) :
    let b : Break := { part := p, ctx := c, addr := addr, clause := clause }
    let rest := s.breaks.filter (· != b)
    Event.run (.debugBreak p c addr clause on trusted) s = .next { s with breaks := if on then rest ++ [b] else rest } := by
  show execDebugBreak p c addr clause on trusted s = _
  simp only [execDebugBreak, access_answered hl hp hc, he, hd]
  rfl

/-- One that may not is counted. -/
theorem run_debugBreak_refused {addr : BitVec 32} {clause on trusted : Bool} (he : (s.ctx p c).en = true) (hd : s.mayDebug p c trusted = false) :
    Event.run (.debugBreak p c addr clause on trusted) s = .next (s.count p c 0x100) := by
  show execDebugBreak p c addr clause on trusted s = _
  simp only [execDebugBreak, access_answered hl hp hc, he, hd]
  rfl

end

section
variable {s : State} {p c : Nat} {blob : List Byte}

theorem startImport_free (h : (s.ctx p c).importing = none) :
    s.startImport p c blob = s.setCtx p c { s.ctx p c with keyState := .busy, importing := some blob } := by
  simp only [State.startImport, h]
  rfl

theorem startImport_busy (h : (s.ctx p c).importing.isSome = true) : s.startImport p c blob = s := by
  rw [State.startImport, if_pos h]

theorem run_keyImported (h : (s.ctx p c).importing = some blob) : Event.run (.keyImported p c) s = .next (s.importKey p c blob) := by
  show execKeyImported p c s = _
  rw [execKeyImported, h]

/-- A blob of another format, or one for key slot 0 (R384). -/
theorem importKey_badFormat (h : blobGood blob = false ∨ c = 0) :
    s.importKey p c blob = s.setCtx p c { s.ctx p c with importing := none, keyState := .badFormat } := by
  have hbad : (!blobGood blob) = true ∨ c = 0 := h.imp_left fun h => by rw [h]; rfl
  rw [State.importKey, if_pos hbad]

end

section
variable {s : State} {i : Nat} {t : Team} {reg : DbgReg} {trusted : Bool} (hl : s.live = true) (ht : s.team i = some t)

theorem stopDies_debug {p c m : Nat} (h : (s.ctx p c).dbg = true) :
    s.stopDies p c m = { s with
      teams := s.teams.map fun e => if e.2.part == p && e.2.ctx == c && m.testBit e.2.vdie then (e.1, { e.2 with debug := true }) else e } := by
  rw [State.stopDies, if_pos h]

theorem stopDies_refused {p c m : Nat} (h : (s.ctx p c).dbg = false) : s.stopDies p c m = s.count p c 0x100 := by
  rw [State.stopDies, if_neg (ne_true_of_eq_false h)]

include hl ht

/-- A debugger that may stops a team and reads its registers. -/
theorem run_debugTeam_of (h : s.mayDebug t.part t.ctx trusted = true) :
    Event.run (.debugHold i trusted) s = .next (s.setTeam i { t with debug := true }) ∧
    Event.run (.debugRead i reg trusted) s = .next { s with outputs := s.outputs ++ [Output.debugWord (t.dbgWord reg)] } := by
  show execDebugHold i trusted s = _ ∧ execDebugRead i reg trusted s = _
  simp only [execDebugHold, execDebugRead, ht, hl, h]
  exact ⟨rfl, rfl⟩

/-- One that may not is counted and reads zero. -/
theorem run_debugTeam_refused (h : s.mayDebug t.part t.ctx trusted = false) :
    Event.run (.debugHold i trusted) s = .next (s.count t.part t.ctx 0x100) ∧
    Event.run (.debugRead i reg trusted) s =
      .next { s.count t.part t.ctx 0x100 with outputs := (s.count t.part t.ctx 0x100).outputs ++ [Output.debugWord 0] } := by
  show execDebugHold i trusted s = _ ∧ execDebugRead i reg trusted s = _
  simp only [execDebugHold, execDebugRead, ht, hl, h]
  exact ⟨rfl, rfl⟩

end

/-- Settles O52: a lemma for each access and outcome, and for MERGE and SPLIT one for each phase of the handshake. -/
theorem hostRegisterResult : Obligations.HostRegisterResult := by
  intro s p c hl hp hc
  refine ⟨fun off v trusted r hp4 ha hn hr => ?word, fun off v n hoff ha hn hq ht he hh => ?unused, fun off v n w hoff ha hw hn hq ht he => ?enabled,
    fun v => ?shape, fun pair => ?handshake, ?context, fun blob => ?key, fun m ht he => ?stop, fun off v trusted hp4 => ?audit, fun off v => ?manager,
    fun addr clause trusted he => ?breakpoint, fun i t reg trusted ht => ⟨run_debugTeam_of hl ht, run_debugTeam_refused hl ht⟩⟩
  case word =>
    rw [exec_registerWrite_part hl hp hp4 ha, exec_registerRead_part hl hp hp4 ha]
    refine ⟨fun how => ⟨fun hmay => ?acts, fun hno hnamed => ?refused, fun hall => ?read⟩, fun hw ht => ?untrusted⟩
    case acts => exact congrArg _ ((partWrite_of how hn hr).trans (if_pos hmay))
    case refused => exact congrArg _ ((partWrite_of how hn hr).trans ((if_neg (not_not.mpr hno)).trans (if_neg hnamed)))
    case read =>
      rw [partRead_of how hn hr hall]
      rfl
    case untrusted =>
      rw [partWrite_untrusted hw ht, partRead_untrusted hw ht]
      exact ⟨rfl, rfl⟩
  case unused => rw [exec_queueDescriptorWrite_of hl hp hoff ha (by decide) hn hq ht, writeQueue_unused he hh]
  case enabled => rw [exec_queueDescriptorWrite_of hl hp hoff ha hw hn hq ht, writeQueue_enabled hw he]
  case shape =>
    rw [exec_partShapeWrite hl]
    exact ⟨fun hv hnone => congrArg _ (partCfg_good hv hnone), fun hv => congrArg _ (partCfg_bad hv)⟩
  case handshake =>
    intro k
    refine ⟨fun h => ?starts, fun hpair h => ?check, fun n hpair h hs hn => ?rewrite, fun hpair h => ?shootDown⟩
    case starts =>
      rw [exec_merge hl, exec_split hl, handshake_starts h, handshake_starts h]
      exact ⟨rfl, rfl⟩
    all_goals subst hpair
    case check => exact exec_handshake_goes hl rfl (by omega) (by omega) (mergeNext_check h)
    case rewrite => exact (exec_handshake_goes hl rfl (by omega) (by omega) (mergeNext_merge h hs hn)).1 hs
    case shootDown => exact exec_handshake_goes hl rfl (by omega) (by omega) (mergeNext_shootDown h)
  case context =>
    obtain ⟨hauth, hclear, hkeep⟩ := removeWord_fields (s.ctx p c).auth
    rw [exec_contextRemove hl hp hc]
    refine ⟨fun auth a ha he => ?create, fun he hf hs ht => congrArg _ (ctxCtl_remove hauth hclear hkeep he hf hs ht),
      fun he hf => congrArg _ (ctxCtl_kept hauth hclear he hf)⟩
    case create =>
      obtain ⟨hb, hset, hkeep⟩ := createWord_fields auth
      rw [exec_contextCreate hl hp hc, ctxCtl_create (hb ▸ ha) hset hkeep he]
  case key =>
    refine ⟨fun ht he hi => ?go, fun hi hbad => ?ends, fun ht => exec_keyImport_untrusted hl hp hc ht⟩
    case go => rw [exec_keyImport_trusted hl hp hc ht he, startImport_free hi]
    case ends => rw [run_keyImported hi, importKey_badFormat hbad]
  case stop =>
    rw [exec_debugStop_of hl hp hc ht he]
    exact ⟨fun h => congrArg _ (stopDies_debug h), fun h => congrArg _ (stopDies_refused h)⟩
  case audit => exact ⟨exec_registerWrite_audit hl hp hp4, exec_registerRead_audit hl hp hp4⟩
  case manager => exact ⟨exec_registerWrite_manager hl, exec_registerRead_manager hl⟩
  case breakpoint =>
    exact ⟨fun hd => ⟨run_debugBreak_of hl hp hc he hd, run_debugBreak_of hl hp hc he hd⟩, fun hd _ => run_debugBreak_refused hl hp hc he hd⟩

end Sys2Proof.Machine

/-! # Rings, host memory, messages, resets and images (O53) -/

namespace Sys2Proof.Machine

open Sys2Proof

/-! ## Doorbells and entries (R388, R389) -/

/-- The ring after a doorbell: its new tail, and the entries that the driver gave. -/
def Ring.rung (r : Ring) (tail : Nat) (es : List (List Byte)) : Ring := { r with tail := tail, buffer := es ++ r.buffer.drop es.length }

/-- The ring past the entry at its head. -/
def Ring.passed (r : Ring) : Ring := { r with head := r.index r.head 1, buffer := r.buffer.drop 1 }

section
variable {s : State} {p c : Nat}

/-- An owner's doorbell of a context that exists (R388). -/
theorem exec_ringDoorbell_of {tail : BitVec 16} {es : List (List Byte)} (hl : s.live = true) (hp : s.isPart p = true) (hc : c < 64)
    (ht : s.trusts p true = true) (he : (s.ctx p c).en = true) :
    exec (.ringDoorbell p c tail es) s =
      .next ((s.setCtx p c { s.ctx p c with ring := (s.ctx p c).ring.rung tail.toNat es }).ringRead p c) := by
  show execRingDoorbell p c tail es s = .next (s.doorbell p c tail.toNat es)
  simp only [execRingDoorbell, access_answered hl hp hc, ht, he]
  rfl

section
variable {x : Ctx} (hx : s.ctx p c = x)
include hx

/-- A ring that is off reads nothing. -/
theorem ringRead_off (h : x.ring.on = false) : s.ringRead p c = s := by
  simp only [State.ringRead, hx, h, Bool.and_false, Bool.false_and, Bool.false_eq_true, if_false]

/-- One that may read on reads its unread entries. -/
theorem ringRead_on (he : x.en = true) (ho : x.ring.on = true) (hs : x.ring.stopped = false) (hc : x.ring.cmd = none)
    (hm : s.merging p = false) : s.ringRead p c = s.ringScan p c x.ring.unread := by
  simp only [State.ringRead, hx, he, ho, hs, hc, hm]
  rfl

/-- An entry with a fault is passed, with a notice of its code, and the next one is read. -/
theorem ringScan_dropped {n code : Nat} (h : x.ringFate (s.ringEntry x.ring) = some code) :
    s.ringScan p c (n + 1) = ((s.setCtx p c { x with ring := x.ring.passed }).ringNotice p c code).ringScan p c n := by
  simp only [State.ringScan, hx, h]
  rfl

/-- The entry that the ring expects, of a command that it knows, is the one to perform. -/
theorem ringScan_accepted {n : Nat} (h : x.ringFate (s.ringEntry x.ring) = none) (hk : ringKnown (s.ringEntry x.ring) = true) :
    s.ringScan p c (n + 1) =
      s.setCtx p c { x with ring := { x.ring.passed with expect := x.ring.expect + 1, cmd := some (s.ringEntry x.ring) } } := by
  simp only [State.ringScan, hx, h, hk, if_true]
  rfl

end

end

/-! ## Commands (R389) -/

section
variable {s s1 s2 s3 : State} {p c : Nat} {e : List Byte}

/-- A command that has been performed makes way for the next entry. -/
theorem ringDo_of {code : Nat} {act : State → Word → Nat → Got Unit} (hc : s.ringCmd p c code = some e)
    (ha : act s (ringA e) (ringB e) = .ok () s1) : ringDo p c code act s = .next (State.ringEnds p c (.ok () s1)) := by
  simp only [ringDo, hc, ha]

theorem exec_ringLaunch_of (hc : s.ringCmd p c 1 = some e)
    (h : s.createLaunch (agentReader p c (s.ringDie p c)) true p c 0 (s.ringDie p c) (ringB e) = .ok s1) :
    exec (.ringLaunch p c) s = .next (State.ringEnds p c (.ok () s1)) := by
  show execRingLaunch p c s = _
  exact ringDo_of hc (by simp only [h])

/-- The state in which the ring's ENQ has claimed the next slot of queue k on virtual die v (R143). -/
def State.ringClaims (s : State) (p c k v : Nat) : State :=
  (s.claimTail k v).2.setCtx p c { s.ctx p c with ring := { (s.ctx p c).ring with claim := some (k, v, (s.claimTail k v).1) } }

/-- A ring that holds no claim claims a slot on the first virtual die with room. -/
theorem ringClaim_of {k v : Nat} (hn : (s.ctx p c).ring.claim = none) (hv : s.firstRoom p c k 0 = some v) :
    s.ringClaim p c k = some ((v, (s.claimTail k v).1), s.ringClaims p c k v) := by
  have hfree : (s.ctx p c).ring.claimed k = none := by rw [Ring.claimed, hn]; rfl
  simp only [State.ringClaim, hfree, hv]
  rfl

/-- RING_ENQ whose queue has room: its record is written to the slot and published. -/
theorem exec_ringEnq_of {n v : Nat} {bs : List Byte} (hc : s.ringCmd p c 2 = some e)
    (hh : s.ringHandle p c (ringA e) .queue (fun s n => s.queueOk p n) = .ok n s1) (hen : (s1.queue (queueKey p n)).en = true)
    (hg : s1.agentGet p c (s.ringDie p c) (piecesOf (ringB e) 32) = .ok bs s2) (hn : (s2.ctx p c).ring.claim = none)
    (hv : s2.firstRoom p c (queueKey p n) 0 = some v)
    (hw : (s2.ringClaims p c (queueKey p n) v).writeRecord p c (s.ringDie p c)
      (((s2.ringClaims p c (queueKey p n) v).queue (queueKey p n)).recAddr v (s2.claimTail (queueKey p n) v).1) bs = .ok () s3) :
    exec (.ringEnq p c) s = .next (State.ringEnds p c (.ok () (s3.publish (queueKey p n) v (s2.claimTail (queueKey p n) v).1))) := by
  show execRingEnq p c s = _
  refine ringDo_of hc ?_
  simp only [hh, hen, hg, ringClaim_of hn hv, hw, Bool.not_true, Bool.false_and, Bool.false_eq_true, if_false]

section
variable {n : Nat} (hc : s.ringCmd p c 3 = some e) (hf : (s.ctx p c).ring.fires = none)
  (hh : s.ringHandle p c (ringA e) .knot (fun s n => s.knotOk p n) = .ok n s1) (h0 : ringB e ≠ 0)
include hc hf hh h0

/-- RING_KNOTDEC that leaves its knot above zero (R151). -/
theorem exec_ringKnotdec_lower (hb : ringB e < (s1.knot (knotKey p n)).count) :
    exec (.ringKnotdec p c) s = .next (State.ringEnds p c (.ok ()
      (s1.setKnot (knotKey p n) { s1.knot (knotKey p n) with count := (s1.knot (knotKey p n)).count - ringB e }))) := by
  show execRingKnotdec p c s = _
  refine ringDo_of hc ?_
  simp only [hf, hh, if_neg hb.not_gt, if_neg h0, if_neg hb.ne']

/-- One that takes it to zero, whose firing is over (R150, R153). -/
theorem exec_ringKnotdec_zero (hb : ringB e = (s1.knot (knotKey p n)).count) :
    let s2 := s1.setKnot (knotKey p n) { s1.knot (knotKey p n) with count := (s1.knot (knotKey p n)).count - ringB e }
    let s4 := (s2.setCtx p c { s2.ctx p c with ring := { (s2.ctx p c).ring with fires := some true } }).fire (knotKey p n) p c 0 (ringA e).toNat
      (some .ring)
    (s4.ctx p c).ring.stopped = false → (s4.ctx p c).ring.fires ≠ some true → exec (.ringKnotdec p c) s = .next (State.ringEnds p c (.ok () s4)) := by
  intro s2 s4 hs hfire
  have hgo : s2.ringFires p c (knotKey p n) (ringA e).toNat = .ok () s4 := by
    have hdone : ((s4.ctx p c).ring.stopped || (s4.ctx p c).ring.fires == some true) = false := by
      rw [hs, beq_false_of_ne hfire]
      rfl
    exact if_neg (ne_true_of_eq_false hdone)
  show execRingKnotdec p c s = _
  refine ringDo_of hc ?_
  simp only [hf, hh, if_neg hb.symm.not_lt, if_neg h0, if_pos hb.symm]
  exact hgo

end

theorem exec_ringSwr_of (hc : s.ringCmd p c 4 = some e) (h : s.ctxSet p c (s.ctx p c).auth (ringA e).toNat (loWord (ringB e)) = .done s1) :
    exec (.ringSwr p c) s = .next (State.ringEnds p c (.ok () s1)) := by
  show execRingSwr p c s = _
  exact ringDo_of hc (by simp only [h])

end

/-! ## Memory and messages of the host (R383, R384) -/

section
variable {s : State} {p ma n : Nat} {bs : List Byte} (hl : s.live = true)
include hl

/-- HDM writes and reads of the exposed window meet memory under key slot 0 (R383). -/
theorem exec_hostMemoryAccess_write (hp : s.isPart p = true) (hx : s.exposed p ma bs.length = true)
    (hb : s.writeMeetsBad (memKey 1 ma) bs.length = false) :
    exec (.hostMemoryAccess p ma (some bs) n) s = .next (s.homeWrite (s.ctxMemKey p 0) (memKey 1 ma) bs) := by
  show execHostMemoryAccess p ma (some bs) n s = _
  simp only [execHostMemoryAccess, hl, hp, hx, hb]
  rfl

theorem exec_hostMemoryAccess_read (hp : s.isPart p = true) (hx : s.exposed p ma n = true) (hb : s.rangeBad (memKey 1 ma) n = false) :
    exec (.hostMemoryAccess p ma none n) s =
      .next { s with outputs := s.outputs ++ [Output.hostData (s.homeBytes (s.ctxMemKey p 0) (memKey 1 ma) n)] } := by
  show execHostMemoryAccess p ma none n s = _
  simp only [execHostMemoryAccess, hl, hp, hx, hb]
  rfl

/-- A TDISP message moves the partition's interface (R383). -/
theorem exec_spdmRequest_move {req : SpdmReq} (hp : s.isPart p = true) (hr : ∀ k, req ≠ .ideKey k) :
    exec (.spdmRequest p req) s = .next (s.setPart p { s.part p with tdisp := (s.part p).tdisp.move req }) := by
  show execSpdmRequest p req s = _
  simp only [execSpdmRequest, hl, hp]
  cases req with
  | ideKey k => exact absurd rfl (hr k)
  | _ => rfl

/-- A snoop gives the host the line, and one for ownership leaves free bytes there (R230, R383). -/
theorem exec_hostSnoop_of {own : Bool} :
    let key := memKey 2 (ma % 2 ^ 52 - ma % 64)
    let s1 : State := { s with outputs := s.outputs ++ [Output.hostData (s.homeBytes .none key 64)] }
    exec (.hostSnoop ma own) s =
      .next (if own then { s1.homeWrite .none key ((List.range 64).map (Config.freeByte s.tick)) with tick := s.tick + 1 } else s1) := by
  intro key s1
  show execHostSnoop ma own s = _
  simp only [execHostSnoop, hl]
  rfl

/-! ## Function level resets (R379, R390) -/

/-- With no handshake of its quarters a reset erases the partition. -/
theorem exec_functionLevelReset_alone (hp : s.isPart p = true) (h4 : p < 4) (hm : s.merging p = false) :
    exec (.functionLevelReset (p + 1)) s = .next (s.erase p) := by
  show execFunctionLevelReset (p + 1) s = _
  simp only [execFunctionLevelReset, funcOf_part h4, hl, hp, hm]
  rfl

/-- One before the shoot-down of a handshake ends it. -/
theorem exec_functionLevelReset_merging (hp : s.isPart p = true) (h4 : p < 4) (hm : s.merging p = true) (h3 : s.dev.mrgState ≠ 3) :
    exec (.functionLevelReset (p + 1)) s = .next (((s.mergeTo 5 4).erase p).mergeResume (if s.dev.mrgPair then 1 else 0)) := by
  show execFunctionLevelReset (p + 1) s = _
  simp only [execFunctionLevelReset, funcOf_part h4, hl, hp, hm, beq_false_of_ne h3]
  rfl

end

/-! ## Key imports (R387) and images (R399, R400) -/

section
variable {s : State} {p c : Nat} {blob : List Byte} (hg : blobGood blob = true) (hc : c ≠ 0)
include hg hc

/-- A good blob for another slot than 0 is not of a wrong format. -/
theorem not_badFormat : ¬((!blobGood blob) = true ∨ c = 0) := by
  rw [hg]
  exact fun h => h.elim (by decide) hc

theorem importKey_badMeasure (hm : blobPlain blob 96 64 ≠ s.measure p) :
    s.importKey p c blob = s.setCtx p c { s.ctx p c with importing := none, keyState := .badMeasure } := by
  rw [State.importKey, if_neg (not_badFormat hg hc), if_pos hm]

theorem importKey_imported (hm : blobPlain blob 96 64 = s.measure p) :
    s.importKey p c blob = s.setCtx p c { s.ctx p c with
      importing := none, key := .imported (blobPlain blob 0 64), ringKey := .imported (blobPlain blob 64 32), keyState := .imported,
      ring := { (s.ctx p c).ring with expect := 1 } } := by
  rw [State.importKey, if_neg (not_badFormat hg hc), if_neg (not_not.mpr hm)]

end

section
variable {s : State} {v : Word}

/-- The boot ROM runs the stored image where it verifies, and else leaves the device in recovery (R399, R400). -/
theorem exec_bootVerify_of (h : s.dev.fw = 0) :
    exec .bootVerify s = .next (if s.imageGood s.dev.image then s.runImage s.dev.image else { s with dev := { s.dev with fw := 2 } }) := by
  show execBootVerify s = _
  rw [execBootVerify, if_neg (not_not.mpr h)]

/-- A word that is not an image's last is kept (R400). -/
theorem imageWord_more (h : s.dev.fw ≠ 0) :
    s.imageWord v false = { s with dev := { s.dev with recovery := s.dev.recovery ++ natBytes v.toNat 4 } } := by
  rw [State.imageWord, if_neg h]
  rfl

/-- An image that does not verify is discarded with its last word. -/
theorem imageWord_bad (h : s.dev.fw ≠ 0) (hb : s.imageGood (s.dev.recovery ++ natBytes v.toNat 4) = false) :
    s.imageWord v true = { s with dev := { s.dev with recovery := [] } } := by
  simp only [State.imageWord, if_neg h, hb]
  rfl

/-- In recovery one that verifies runs. -/
theorem imageWord_runs (h : s.dev.fw = 2) (hg : s.imageGood (s.dev.recovery ++ natBytes v.toNat 4) = true) :
    s.imageWord v true = s.runImage (s.dev.recovery ++ natBytes v.toNat 4) := by
  simp only [State.imageWord, h, hg]
  rfl

end

/-- Settles O53: a lemma for each request and outcome; a ring's commands are `ringDo` of their act. -/
theorem hostLinkResult : Obligations.HostLinkResult := by
  intro s s1 s2 s3 p c
  refine ⟨fun hl hp => ⟨fun hc ht he tail es => ?doorbell, fun ma bs n => ?memory, ?spdm, fun h4 hm => ?reset, fun h4 hm h3 => ?resetMerging⟩,
    fun hl ma => ?snoop, fun e => ?command, fun hl hp hc trusted blob => ?key, fun n => rfl, fun h => ?boot, fun h v => ?image⟩
  case doorbell =>
    intro x r t1
    have hring : exec (.ringDoorbell p c tail es) s = .next (t1.ringRead p c) := exec_ringDoorbell_of hl hp hc ht he
    have hx : t1.ctx p c = { x with ring := r } := State.ctx_setCtx_same ..
    rw [hring]
    refine ⟨fun hoff => congrArg _ (ringRead_off hx hoff), fun hon hst hcmd hm => ?on⟩
    have hread : t1.ringRead p c = t1.ringScan p c r.unread := ringRead_on hx he hon hst hcmd hm
    rw [hread]
    refine ⟨fun hnone => congrArg (fun n => Host.Outcome.next (t1.ringScan p c n)) hnone, fun n hn => ?entry⟩
    intro e r1
    rw [hn]
    exact ⟨fun code hf => congrArg _ (ringScan_dropped hx hf), fun hf hk => congrArg _ (ringScan_accepted hx hf hk)⟩
  case memory => exact ⟨exec_hostMemoryAccess_write hl hp, exec_hostMemoryAccess_read hl hp⟩
  case spdm =>
    intro t dst
    have hmove (req : SpdmReq) (hr : ∀ k, req ≠ .ideKey k) : exec (.spdmRequest p req) s = .next (dst (t.move req)) := exec_spdmRequest_move hl hp hr
    rw [hmove .lock (by simp), hmove .start (by simp), hmove .stop (by simp), hmove .error (by simp)]
    exact ⟨fun h => by rw [h]; rfl, fun h => by rw [h]; rfl, rfl, rfl⟩
  case reset => exact exec_functionLevelReset_alone hl hp h4 hm
  case resetMerging => exact exec_functionLevelReset_merging hl hp h4 hm h3
  case snoop => exact ⟨exec_hostSnoop_of hl, exec_hostSnoop_of hl⟩
  case command =>
    intro die ends
    refine ⟨exec_ringLaunch_of, fun n bs v slot hc hh hen hg hn hv => ?enq, fun n hc hf hh => ?knotdec, exec_ringSwr_of⟩
    case enq =>
      rintro u u1 rfl hw
      exact exec_ringEnq_of hc hh hen hg hn hv hw
    case knotdec =>
      intro k x h0 _ u
      exact ⟨exec_ringKnotdec_lower hc hf hh h0, exec_ringKnotdec_zero hc hf hh h0⟩
  case key =>
    intro x
    refine ⟨fun ht he => ?go, fun hi hc0 hg => ?ends⟩
    case go =>
      rw [exec_keyImport_trusted hl hp hc ht he]
      exact ⟨fun hi => congrArg _ (startImport_free hi), fun hi => congrArg _ (startImport_busy hi)⟩
    case ends =>
      rw [run_keyImported hi]
      exact ⟨fun hm => congrArg _ (importKey_badMeasure hg hc0 hm), fun hm => congrArg _ (importKey_imported hg hc0 hm)⟩
  case boot =>
    rw [exec_bootVerify_of h]
    exact ⟨fun hg => congrArg _ (if_pos hg), fun hb => congrArg _ (if_neg (ne_true_of_eq_false hb))⟩
  case image =>
    exact ⟨congrArg _ (imageWord_more h), fun hb => congrArg _ (imageWord_bad h hb), fun hg h2 => congrArg _ (imageWord_runs h2 hg)⟩

end Sys2Proof.Machine

/-! # Loops, pleats and requests of other devices (O51) -/

namespace Sys2Proof.Machine

open Sys2Proof

/-! ## Loops -/

/-- MATRIX_STEP of a lane group that may go on, over rows without an error, once its bytes are read (R166, R203). -/
theorem exec_matrixStep_of {s s1 : State} {o g i : Nat} {x : Op} {l : Loop} {t : Team} {lg : LoopGrp} {sw : Swatch} {bs : List Byte}
    (ho : s.op o = some x) (hk : x.kind = .loop l) (hi : x.team = some i) (ht : s.team i = some t) (hg : l.groups.find? (·.g == g) = some lg)
    (hw : swatchOf l.sw = some sw) (hr : s.stepReady o i x t l lg = true) :
    let k := (l.busyGroups[lg.pos / l.steps]?).getD 0
    let rd := l.reads sw k (if l.fn = 0 then l.step0 else lg.pos % l.steps)
    let ws := if l.fn = 0 then lg.frags else bytesWords 1024 (bs.take 4096)
    s.rowsSpoilt i (lg.g, (l.rowsOf k).1, (l.rowsOf k).2) = false → s.loopRead o i x t (rd.1 ++ rd.2.1 ++ rd.2.2) = .ok bs s1 →
      let r := s1.loopCompute i l sw lg k (ws.take 512) (ws.drop 512) (if l.fn = 0 then bs else bs.drop 4096)
      exec (.matrixStep o g) s = .next ({ r.1 with fabIn := r.1.fabIn.filter (·.op != o) }.setOp o
        { x with kind := .loop { l.setGrp r.2.1 with st := l.st ||| r.2.2 } }) := by
  intro k rd ws hclean hread r
  show execMatrixStep o g s = _
  simp only [execMatrixStep, ho, hk, hi, ht, hg, hw, hr, Bool.not_true, Bool.false_eq_true, if_false]
  rw [if_neg (ne_true_of_eq_false hclean), hread]

/-! ## Requests and waves -/

section
variable {s s1 : State}

/-- The first access of a PLEAT that is still to be sent enters its object's inbox where the home has a slot (R299). -/
theorem acceptFirst_enters {o k core reg : Nat} {x : Op} {sent ks : List Nat} {a : Acc} {ob : PleatObj} (ha : x.accs[k]? = some a)
    (hob : pleatOf a.objWords = some ob) (hh : s.pleatHome x.part x.ctx a.va ob = .ok core s1) (hu : s1.inboxUsed core < Config.inboxSlots) :
    s.acceptFirst o x sent reg [] (k :: ks) =
      ((s1.enterInbox { part := x.part, ctx := x.ctx, object := a.va, handle := BitVec.ofNat 32 a.aux, record := a.objWords,
                        args := a.args.take ob.nargs, core := core, pkg := none, op := o, lane := a.lane, stage := .inbox, reply := [] }).setOp o
        { x with kind := .pleat reg (k :: sent) }).unitsOver o := by
  simp only [State.acceptFirst, ha, hob, hh, Nat.not_le.mpr hu, List.contains_nil, Bool.false_eq_true, if_false]

/-- PLEAT_INBOX_ACCEPT of a PLEAT that may send, its release done: it looks at the accesses homed here that are neither done nor sent (R289, R299). -/
theorem exec_pleatInboxAccept_of {o reg : Nat} {x : Op} {sent : List Nat} (ho : s.op o = some x) (hk : x.kind = .pleat reg sent) (hm : x.mig = false)
    (hg : s.unitsGo x = true) (hc : s.coveredAt (x.rel.getD 3) x.team x.dom o = true) :
    exec (.pleatInboxAccept o) s = .next (s.acceptFirst o x sent reg []
      ((List.range x.accs.length).filter fun k => ((x.accs[k]?).map fun a => !a.done && a.remoteDev.isNone && !sent.contains k).getD false)) := by
  show execPleatInboxAccept o s = _
  simp only [execPleatInboxAccept, ho, hk, hm, hg, hc, Bool.not_true, Bool.or_self, Bool.false_eq_true, if_false]
  refine congrArg (fun ks => Host.Outcome.next (s.acceptFirst o x sent reg [] ks)) (List.filter_congr fun k _ => ?_)
  cases x.accs[k]? <;> rfl

/-- WAVE_START of an object whose oldest request is n, where no wave of it runs and its home has a slot and registers (R293, R301). -/
theorem exec_waveStart_of {n core slot : Nat} {r : PleatReq} {ob : PleatObj} (hn : recFind s.pleats n = some r)
    (hw : s.waveRuns r.part r.ctx r.object = false) (hc : (s.ctx r.part r.ctx).runs = true) :
    let rs := (s.inboxOf r.part r.ctx r.object).take 1024
    (rs.head?).map (·.1) = some n → pleatOf r.record = some ob → s.pleatHome r.part r.ctx r.object ob = .ok core s1 → s1.freeSlot core [] = some slot →
    (s1.core core).enabled = true → s1.fusedOn s1.stamp core = false → s1.unitsUsed core + regUnitsOf rs.length ob.vregs ≤ Config.regUnits →
      let s2 : State := { s1 with pleats := s1.pleats.map fun (y : Nat × PleatReq) =>
        if (rs.map (·.1)).contains y.1 then (y.1, { y.2 with stage := .wave, core := core }) else y }
      exec (.waveStart n) s = .next (s2.bump.setTeam s2.stamp (waveTeam s2 core slot r ob rs)) := by
  intro rs hfirst hob hh hslot hen hfused hroom s2
  have hgo : ¬((rs.head?).map (·.1) ≠ some n ∨ s.waveRuns r.part r.ctx r.object = true ∨ (!(s.ctx r.part r.ctx).runs) = true) := by
    simp [hfirst, hw, hc]
  have hfits : ¬((!(s1.core core).enabled) = true ∨ s1.fusedOn s1.stamp core = true ∨
      Config.regUnits < s1.unitsUsed core + regUnitsOf rs.length ob.vregs) := by
    simp [hen, hfused, hroom]
  show execWaveStart n s = _
  simp only [execWaveStart, hn]
  rw [if_neg hgo]
  simp only [hob, hh, hslot]
  exact if_neg hfits

end

/-! ## Replies -/

section
variable {s : State} {n : Nat} {r : PleatReq} (hn : recFind s.pleats n = some r) (hp : r.pkg = none)

section
include hn hp

/-- PLEAT_REPLY of a request of this device that is replied or aborted (R293, R307). -/
theorem exec_pleatReply_here (hs : r.stage = .replied ∨ r.stage = .aborted) : exec (.pleatReply n) s = .next (s.replyHere n r) := by
  show execPleatReply n s = _
  simp only [execPleatReply, hn, hs, if_true, hp]

/-- PLEAT_RESEND of a reply that stayed, once it can be written (R308). -/
theorem exec_pleatResend_here {x : Op} (hs : r.stage = .stayed) (ha : r.aborted = false) (ho : s.op r.op = some x) (hst : s.replyStays x = false) :
    exec (.pleatResend n) s = .next { s with pleats := cellPut s.pleats n { r with stage := .replied } } := by
  show execPleatResend n s = _
  simp only [execPleatResend, hn, hp, ho, hst, hs, ha]
  rfl

end

variable {x : Op}

/-- A reply whose requester cannot take it stays at the home (R308). -/
theorem replyHere_stays (ho : s.op r.op = some x) (hst : s.replyStays x = true) :
    s.replyHere n r = { s with pleats := cellPut s.pleats n { r with stage := .stayed } } := by
  simp only [State.replyHere, ho, hst, if_true]

/-- One that its requester can take lands in its lane, as the words or as the abort (R293, R307). -/
theorem replyHere_lands {reg k : Nat} {sent : List Nat} {a : Acc} (ho : s.op r.op = some x) (hst : s.replyStays x = false)
    (hk : x.kind = .pleat reg sent) (hl : x.laneIdx r.lane = some (k, a)) :
    s.replyHere n r =
      ({ s with pleats := cellDel s.pleats n } : State).pleatLands r.op k x a reg r.reply (if r.aborted then some .pleatAborted else none) := by
  simp only [State.replyHere, ho, hst, hk, hl, Bool.false_eq_true, if_false]

/-- The words of a reply are in the lane's registers, and the team has acquired (R293, R300). -/
theorem pleatLands_team {o k i reg : Nat} {a : Acc} {t : Team} (ws : List Word) (hi : x.team = some i) (ht : s.team i = some t) :
    ∃ n, (s.pleatLands o k x a reg ws none).team i = some { t.setVs a.lane reg (ws.take a.size) with acq := n } := by
  have hd : (s.setOp o (x.markDone k)).deliver x { a with reg := reg } false (ws.take a.size) =
      (s.setOp o (x.markDone k)).setTeam i (t.setVs a.lane reg (ws.take a.size)) := by
    simp only [State.deliver, hi]
    exact State.modTeam_of_team _ i t _ ht
  simp only [State.pleatLands, hd, hi, State.acquire, State.modTeam_setTeam]
  exact ⟨_, State.team_setTeam_same ..⟩

end

/-- PLANE_FAIL of a plane that has not failed (R318). -/
theorem exec_planeFail_of {s : State} {p : Nat} (hp : p < 36) (hn : p ∉ s.dev.planes) :
    exec (.planeFail p) s = .next { s with dev := { s.dev with planes := p :: s.dev.planes } } := by
  show execPlaneFail p s = _
  exact if_neg (by simp [hp, hn])

/-! ## Units of other devices -/

/-- Lanes of one address are one request (R265). -/
theorem byAddress_same (l : Nat × Nat × List Byte) (ls : List (Nat × Nat × List Byte)) (h : ∀ y ∈ ls, y.2.1 = l.2.1) :
    byAddress (l :: ls) = [l :: ls] := by
  have hfold : ∀ ks : List (Nat × Nat × List Byte), (∀ y ∈ ks, y.2.1 = l.2.1) →
      ks.foldl (fun vs a => if vs.contains a.2.1 then vs else vs ++ [a.2.1]) [l.2.1] = [l.2.1] := by
    intro ks
    induction ks with
    | nil => intro _; rfl
    | cons y ks ih =>
      intro hk
      have hy : [l.2.1].contains y.2.1 = true := by simp [hk y (List.mem_cons_self ..)]
      rw [List.foldl_cons, if_pos hy]
      exact ih fun z hz => hk z (List.mem_cons_of_mem _ hz)
  have hall : (l :: ls).filter (fun a => a.2.1 == l.2.1) = l :: ls := by
    rw [List.filter_eq_self]
    simpa using h
  unfold byAddress
  rw [List.foldl_cons]
  exact (congrArg (List.map _) (hfold ls h)).trans (congrArg (fun y => [y]) hall)

/-- A lane that reads before it writes answers with what it saw and leaves its function's result to the lanes after it (R265). -/
theorem FarWrite.run_fn {w : FarWrite} {f : AtomFn} {y : Ty} {data : List Byte} (n : Nat) (m : List Byte) (lane va : Nat)
    (ls : List (Nat × Nat × List Byte)) (h : w.fn data = some (f, y)) :
    let r := w.run n (natBytes (atomApply f y (bytesNat m) data) n) ls
    w.run n m ((lane, va, data) :: ls) = (r.1, (lane, m) :: r.2) := by
  simp only [FarWrite.run, h, Option.isSome_some, if_true]

section
variable {s s1 : State} {u : Sys2Proof.FabUnit}

/-- A unit of no member of the job is refused whole (R401). -/
theorem exec_remoteAccess_refused (hm : s.member u.part u.ctx u.pkg u.spart u.sctx u.dev = false) :
    exec (.remoteAccess u) s = .next (refuseAll s u .fabricPerm (bodyLanes u.body)) := by
  show execRemoteAccess u s = _
  simp only [execRemoteAccess, hm, Bool.not_false, if_true]

/-- A request of a write unit at memory here (R265, R317): the bytes are its lanes' in their order, and each lane is answered. -/
theorem remoteWrite_mem {w : FarWrite} {lane va n key : Nat} {data : List Byte} {ls : List (Nat × Nat × List Byte)} {tr : Tr}
    (hn : ((w.fn data).elim data.length fun g => g.1.size g.2) = n) (h0 : 0 < n) (hal : va % n = 0) (hb : s.behind u va = false)
    (hpl : s.agentPlace u.part u.ctx (s.doorDie u.part u.ctx) va n = .ok tr s1) (htr : tr.place = .mem key)
    (hbad : w.fn data = none ∨ s1.rangeBad key n = false) :
    let mk := s1.ctxMemKey u.part u.ctx
    let r := w.run n (s1.homeBytes mk key n) ((lane, va, data) :: ls)
    let s2 := s1.homeWrite mk key r.1
    s.remoteWrite u w ((lane, va, data) :: ls) =
      { s2 with outputs := s2.outputs ++ r.2.map fun l => Output.reply u.pkg u.uid l.1 l.2 none } := by
  intro mk r s2
  have hgo : ¬(n = 0 ∨ va % n ≠ 0) := by omega
  cases hf : w.fn data with
  | none =>
    simp only [hf, Option.elim_none] at hn
    simp only [State.remoteWrite, hf, hn, if_neg hgo, hb, hpl, htr, Option.isSome_none, Bool.false_and, Bool.false_eq_true, if_false]
    rfl
  | some g =>
    have hclean : s1.rangeBad key n = false := hbad.resolve_left (by simp [hf])
    simp only [hf, Option.elim_some] at hn
    simp only [State.remoteWrite, hf, hn, if_neg hgo, hb, hpl, htr, hclean, Bool.and_false, Bool.false_eq_true, if_false]
    rfl

variable (hm : s.member u.part u.ctx u.pkg u.spart u.sctx u.dev = true) (hc : (s.ctx u.part u.ctx).placed = true)
include hm hc

/-- A load unit of one lane, aligned and behind none: its bytes are read at home and answered (R317). -/
theorem exec_remoteAccess_load {lane va size : Nat} {bs : List Byte} (hu : u.body = .load size [(lane, va)]) (hal : va % size = 0)
    (hb : s.behind u va = false) (hr : s.agentRead u.part u.ctx (s.doorDie u.part u.ctx) va size = .ok bs s1) :
    exec (.remoteAccess u) s = .next { s1 with outputs := s1.outputs ++ [Output.reply u.pkg u.uid lane bs none] } := by
  show execRemoteAccess u s = _
  simp only [execRemoteAccess, hm, hc, hu, Bool.not_true, Bool.false_eq_true, if_false, List.foldl_cons, List.foldl_nil]
  simp only [State.remoteLoad, hal, hb, hr, ne_eq, not_true_eq_false, Bool.false_eq_true, if_false]

/-- A write unit whose lanes all go to one address, a store's to one alone, is one request (R265). -/
theorem exec_remoteAccess_write {w : FarWrite} {l : Nat × Nat × List Byte} {ls : List (Nat × Nat × List Byte)} (hu : u.body = w.body (l :: ls))
    (hl : ∀ y ∈ ls, y.2.1 = l.2.1) (hput : w = .put → ls = []) : exec (.remoteAccess u) s = .next (s.remoteWrite u w (l :: ls)) := by
  show execRemoteAccess u s = _
  simp only [execRemoteAccess, hm, hc, hu, Bool.not_true, Bool.false_eq_true, if_false]
  cases w with
  | put =>
    rw [hput rfl]
    rfl
  | add f => simp only [FarWrite.body, byAddress_same l ls hl, List.foldl_cons, List.foldl_nil]
  | atom fn y => simp only [FarWrite.body, byAddress_same l ls hl, List.foldl_cons, List.foldl_nil]

section
variable {n va key lane : Nat} {tr : Tr} (h0 : 0 < n) (hal : va % n = 0) (hb : s.behind u va = false)
  (hpl : s.agentPlace u.part u.ctx (s.doorDie u.part u.ctx) va n = .ok tr s1) (htr : tr.place = .mem key)
include h0 hal hb hpl htr

/-- A store of one lane: its data stand at home (R317). -/
theorem exec_remoteAccess_store {data : List Byte} (hu : u.body = .store [(lane, va, data)]) (hd : data.length = n) :
    let s2 := s1.homeWrite (s1.ctxMemKey u.part u.ctx) key data
    exec (.remoteAccess u) s = .next { s2 with outputs := s2.outputs ++ [Output.reply u.pkg u.uid lane [] none] } := by
  have hex := exec_remoteAccess_write hm hc (w := .put) hu (by simp) fun _ => rfl
  exact hex.trans (congrArg _ (remoteWrite_mem (w := .put) hd h0 hal hb hpl htr (.inl rfl)))

variable {w : FarWrite} {data : List Byte} {f : AtomFn} {y : Ty} (hbad : s1.rangeBad key n = false) (hf : w.fn data = some (f, y)) (hs : f.size y = n)
include hbad hf hs

/-- Lanes of one address that read before they write, the first by f: one request, whose first lane sees the old bytes (R265). -/
theorem exec_remoteAccess_fn {ls : List (Nat × Nat × List Byte)} (hu : u.body = w.body ((lane, va, data) :: ls)) (hl : ∀ y ∈ ls, y.2.1 = va) :
    let mk := s1.ctxMemKey u.part u.ctx
    let old := s1.homeBytes mk key n
    let r := w.run n (natBytes (atomApply f y (bytesNat old) data) n) ls
    let s2 := s1.homeWrite mk key r.1
    exec (.remoteAccess u) s =
      .next { s2 with outputs := s2.outputs ++ ((lane, old) :: r.2).map fun l => Output.reply u.pkg u.uid l.1 l.2 none } := by
  intro mk old r s2
  have hput : w = .put → ls = [] := by
    rintro rfl
    cases hf
  have hn : ((w.fn data).elim data.length fun g => g.1.size g.2) = n := by
    rw [hf]
    exact hs
  have hrun : w.run n old ((lane, va, data) :: ls) = (r.1, (lane, old) :: r.2) := FarWrite.run_fn n old lane va ls hf
  have hex : exec (.remoteAccess u) s = .next (s.remoteWrite u w ((lane, va, data) :: ls)) := exec_remoteAccess_write hm hc hu hl hput
  rw [hex, remoteWrite_mem hn h0 hal hb hpl htr (.inr hbad), hrun]

/-- One such lane. -/
theorem exec_remoteAccess_fn_one (hu : u.body = w.body [(lane, va, data)]) :
    let mk := s1.ctxMemKey u.part u.ctx
    let old := s1.homeBytes mk key n
    let s2 := s1.homeWrite mk key (natBytes (atomApply f y (bytesNat old) data) n)
    exec (.remoteAccess u) s = .next { s2 with outputs := s2.outputs ++ [Output.reply u.pkg u.uid lane old none] } :=
  exec_remoteAccess_fn hm hc h0 hal hb hpl htr hbad hf hs hu (by simp)

/-- Two: the second sees what the first has left. -/
theorem exec_remoteAccess_fn_two {l2 : Nat} {data2 : List Byte} (hu : u.body = w.body [(lane, va, data), (l2, va, data2)])
    (hf2 : w.fn data2 = some (f, y)) :
    let mk := s1.ctxMemKey u.part u.ctx
    let old := s1.homeBytes mk key n
    let m1 := natBytes (atomApply f y (bytesNat old) data) n
    let s2 := s1.homeWrite mk key (natBytes (atomApply f y (bytesNat m1) data2) n)
    exec (.remoteAccess u) s = .next { s2 with outputs := s2.outputs ++
      [Output.reply u.pkg u.uid lane old none, Output.reply u.pkg u.uid l2 m1 none] } := by
  intro mk old m1 s2
  rw [exec_remoteAccess_fn hm hc h0 hal hb hpl htr hbad hf hs hu (by simp), FarWrite.run_fn n m1 l2 va [] hf2]
  rfl

end

end

/-! ## Requests over the job -/

section
variable {s s1 : State} {r : DrainMsg}

/-- A request of no member of the job is refused (R401). -/
theorem exec_remoteDrainRequest_refused (hm : s.member r.part r.ctx r.pkg r.spart r.sctx r.dev = false) :
    exec (.remoteDrainRequest r) s = .next (s.answer r (some .fabricPerm)) := by
  show execRemoteDrainRequest r s = _
  simp only [execRemoteDrainRequest, hm, Bool.not_false, if_true]

/-- A phase of PATCF that meets nothing (R295, R314). -/
theorem patPhase_ok {a b : Word} {write : Bool} (hc : (s.ctx r.part r.ctx).placed = true)
    (h : s.patCopy r.part r.ctx (s.doorDie r.part r.ctx) a b write = .ok () s1) : s.patPhase r a b write = s1.forget.answer r none := by
  simp only [State.patPhase, hc, h, Bool.not_true, Bool.false_eq_true, if_false]

variable (hm : s.member r.part r.ctx r.pkg r.spart r.sctx r.dev = true)
include hm

/-- What a member's request does that answers at once, by its body (R295, R314, R323). -/
theorem exec_remoteDrainRequest_answers :
    (∀ a b, r.body = .patCheck a b → exec (.remoteDrainRequest r) s = .next (s.patPhase r a b false)) ∧
    (∀ a b, r.body = .patCopy a b → exec (.remoteDrainRequest r) s = .next (s.patPhase r a b true)) ∧
    (∀ a, r.body = .patEnd a → exec (.remoteDrainRequest r) s = .next ((s.endPatDrain r.part r.ctx (hSlot a)).answer r none)) ∧
    (∀ va size, r.body = .fsDrain va size → exec (.remoteDrainRequest r) s = .next ((s.revoke r.part r.ctx va size (some r.dev)).answer r none)) ∧
    (∀ va size, r.body = .fsConf va size →
      exec (.remoteDrainRequest r) s = .next ((s.unrevoke r.part r.ctx va size (some r.dev)).answer r none)) := by
  have hgo : ¬(!s.member r.part r.ctx r.pkg r.spart r.sctx r.dev) = true := by
    rw [hm]
    decide
  have hex : exec (.remoteDrainRequest r) s = execRemoteDrainRequest r s := rfl
  rw [execRemoteDrainRequest, if_neg hgo] at hex
  refine ⟨fun a b hb => ?_, fun a b hb => ?_, fun a hb => ?_, fun va size hb => ?_, fun va size hb => ?_⟩
  all_goals rw [hex, hb]

/-- A member's PATINV marks the entry's slot, and an operation of no team waits to acknowledge it (R295). -/
theorem exec_remoteDrainRequest_patInv {h : Word} (hb : r.body = .patInv h) :
    ∃ u x, exec (.remoteDrainRequest r) s = .next u ∧ u.patDraining.contains (r.part, r.ctx, hSlot h) = true ∧
      u.op s.stamp = some x ∧ x.kind = .jobAck r.pkg r.uid r.k ∧ x.pc = hSlot h ∧ x.part = r.part ∧ x.ctx = r.ctx := by
  have hmark : ∀ (ds : List (Nat × Nat × Nat)) d, (if ds.contains d then ds else d :: ds).contains d = true := by
    intro ds d
    split
    · assumption
    · exact List.contains_iff_mem.mpr (List.mem_cons_self ..)
  have hex : exec (.remoteDrainRequest r) s = execRemoteDrainRequest r s := rfl
  simp only [execRemoteDrainRequest, hm, hb, Bool.not_true, Bool.false_eq_true, if_false] at hex
  exact ⟨_, _, hex, hmark s.patDraining _, recFind_cellPut_same .., rfl, rfl, rfl, rfl⟩

end

/-- Settles O51: a lemma for each step and outcome; a unit's lanes of one address are one `State.remoteWrite`, by what its function is. -/
theorem requestResult : Obligations.RequestResult := by
  intro s s1
  refine ⟨fun o g x l i t lg sw bs ho hk hi ht hg hw hr => exec_matrixStep_of ho hk hi ht hg hw hr, ?inbox,
    fun n r ob core slot hn hw hc => exec_waveStart_of hn hw hc, fun n r x t i reg sent k a hn ho hk hi ht hl hp => ?reply,
    fun p hp hn => exec_planeFail_of hp hn, fun u lane va => ⟨exec_remoteAccess_refused, fun hm hc => ?unit⟩,
    fun r => ⟨exec_remoteDrainRequest_refused, fun hm => ?job⟩⟩
  case inbox =>
    intro o x reg sent k ks a ob core ho hk hm hg hc hks ha hob hh hu
    rw [exec_pleatInboxAccept_of ho hk hm hg hc, hks, acceptFirst_enters ha hob hh hu]
    rfl
  case reply =>
    intro s2
    refine ⟨fun hs hab hst => ⟨?lands, pleatLands_team r.reply hi ht⟩, fun hs hab hst => ?aborts, fun hs hst => ?stays,
      fun hs hab hst => exec_pleatResend_here hn hp hs hab ho hst⟩
    case lands => rw [exec_pleatReply_here hn hp (.inl hs), replyHere_lands ho hst hk hl, if_neg (ne_true_of_eq_false hab)]
    case aborts => rw [exec_pleatReply_here hn hp (.inr hs), replyHere_lands ho hst hk hl, if_pos hab]
    case stays => rw [exec_pleatReply_here hn hp (.inl hs), replyHere_stays ho hst]
  case unit =>
    refine ⟨fun size bs hu hal hb hr => exec_remoteAccess_load hm hc hu hal hb hr, fun n tr key h0 hal hb hpl htr => ?write⟩
    intro mk old fin
    refine ⟨fun data hu hd => exec_remoteAccess_store hm hc h0 hal hb hpl htr hu hd, fun hbad => ⟨fun data hn hu => ?addF32, fun data hn hd hu => ?addI64,
      fun fn ty data f y hu hf hs => exec_remoteAccess_fn_one hm hc h0 hal hb hpl htr hbad hf hs hu,
      fun fn ty data l2 data2 f y hu hf hf2 hs => exec_remoteAccess_fn_two hm hc h0 hal hb hpl htr hbad hf hs hu hf2⟩⟩
    case addF32 =>
      subst hn
      exact exec_remoteAccess_fn_one (w := .add true) hm hc h0 hal hb hpl htr hbad rfl rfl hu
    case addI64 =>
      subst hn
      have hf : (FarWrite.add false).fn data = some (.add, .i64) := by simp only [FarWrite.fn, hd, if_true, Bool.false_eq_true, if_false]
      exact exec_remoteAccess_fn_one hm hc h0 hal hb hpl htr hbad hf rfl hu
  case job =>
    obtain ⟨hcheck, hcopy, hend, hdrain, hconf⟩ := exec_remoteDrainRequest_answers hm
    refine ⟨fun a b hc hb hok => ?check, fun a b hc hb hok => ?copy, hend, hdrain, hconf, fun h hb => exec_remoteDrainRequest_patInv hm hb⟩
    case check => rw [hcheck a b hb, patPhase_ok hc hok]
    case copy => rw [hcopy a b hb, patPhase_ok hc hok]

end Sys2Proof.Machine

/-! # Blocks of quantised elements (O18) -/

namespace Sys2Proof.Machine

open Sys2Proof

/-- The types that QBLK takes (R208): those of float arithmetic. -/
theorem quantType_of_float {y : Ty} (h : y.isFloat = true) : (y == .f32 || y == .f16 || y == .bf16) = true := by
  revert h
  cases y <;> decide

/-- The low byte of a word, which holds the scale code (R173). -/
theorem bits_low_byte (w : Word) : bits w 7 0 = w.toNat % 256 := rfl

/-- A function of each register of a lane's run. -/
theorem vs_map {α : Type} (t : Team) (g : Word → α) (l n r : Nat) : (t.vs l r n).map g = (List.range n).map fun k => g (t.v l (r + k)) := by
  induction n generalizing r with
  | zero => rfl
  | succ n ih =>
    have hshift (k : Nat) : r + 1 + k = r + (k + 1) := by omega
    rw [Team.vs, List.map_cons, ih, List.range_succ_eq_map, List.map_cons, List.map_map]
    simp only [hshift, Function.comp_def, Nat.add_zero, Nat.succ_eq_add_one]

section
variable {s : State} {i : Nat} {t u : Team} {q : Nat → Nat → Word} {d a b : Sel} {r : BitVec 7}

/-- QBLK of every active lane (R208). -/
theorem exec_qblk_of {f : Fmt} (h : Issues s i t) (hl : t.active.isEmpty = false) (hv : t.vOk r 8 = true) (hb : t.vectorSrc b = true)
    (rb : t.readable b) (hf : fmtOf t.ty = some f) (hy : t.ty.isFloat = true) (hd : t.vectorDst d = true) (pd : t.pushCheck d = none)
    (hr : Reads t (popsLanes t.active [(1, b)]) u q) (ht : u.takesAll d t.active.length) :
    exec (.qblk d (.v r) b) s = .next (s.done i (u.putW d fun l =>
      let w := q4Word f t.rnd t.flush ((s.src t b l (q 1 l)).toNat % 256) ((List.range 8).map fun k => (t.v l (r.toNat + k)).toNat % 2 ^ f.width)
      (BitVec.ofNat 32 w.1, w.2))) := by
  show execQblk d (.v r) b s = _
  unfold execQblk
  rw [sweepTo_after s i t u q h _ _ _ _ _ ?checks hl hr ht]
  case checks =>
    simp only [Team.block8, hd, hv, hb, quantType_of_float hy, pd, need, Bool.and_self, if_true, List.cons_append, List.nil_append, firstCause]
    exact firstCause_readable t [(1, b)] (by simp [rb])
  simp only [reads_ty hr, hf, reads_rnd hr, reads_flush hr, src_after, reads_src hr, bits_low_byte, vNum, vs_map, reads_v hr]
  rw [settle_putW _ _ _ (by rwa [reads_active hr])]

/-- DQBLK of every active lane (R209): a lane's registers are its own, and the status bits of all lanes stick. -/
theorem exec_dqblk_of (h : Issues s i t) (hl : t.active.isEmpty = false) (hv : t.vOk r 8 = true) (ha : t.vectorSrc a = true)
    (ra : t.readable a) (hb : t.vectorSrc b = true) (rb : t.readable b) (hr : Reads t (popsLanes t.active [(0, a), (1, b)]) u q) :
    let e (l k : Nat) := dq4Elem t.flush ((s.src t b l (q 1 l)).toNat % 256) (s.src t a l (q 0 l)).toNat k
    let v := u.addStatus (t.active.foldl (fun x l => (List.range 8).foldl (fun x k => x ||| (e l k).2) x) 0)
    exec (.dqblk (.v r) a b) s = .next (s.done i
      (t.active.foldl (fun v l => v.setVs l r.toNat ((List.range 8).map fun k => BitVec.ofNat 32 (e l k).1)) v)) := by
  intro e v
  show execDqblk (.v r) a b s = _
  unfold execDqblk sweep
  rw [sweepOn_after s i t u q h _ _ _ _ _ ?checks hl hr]
  case checks => exact firstCause_operands [(0, a), (1, b)] (by simp [Team.block8, hv, ha, hb]) (by simp [ra, rb])
  simp only [reads_active hr, reads_flush hr, src_after, reads_src hr, bits_low_byte, vNum, List.foldl_map, List.map_map, Function.comp_def]
  exact congrArg _ (settle_setTeam_if s i t _ u _)

end

/-- Settles O18: one lemma for each instruction; QBLK reads its block of registers as a run of `Team.vs`. -/
theorem blockQuantResult : Obligations.BlockQuantResult := by
  intro s i t u q d a b r h hl hv hb rb
  exact ⟨fun f hf hy hd pd hr ht => exec_qblk_of h hl hv hb rb hf hy hd pd hr ht, fun ha ra hr => exec_dqblk_of h hl hv ha ra hb rb hr⟩

end Sys2Proof.Machine

/-! # TRACE and TRSTOP (O35) -/

namespace Sys2Proof.Machine

open Sys2Proof

section
variable {s s1 s2 : State} {i va : Nat} {t u : Team} {q : Nat → Nat → Word} {n : BitVec 4} {a : Sel} {bs : List Byte}

/-- TRACE whose descriptor has been read starts its walk, where no other goes into its queue register and its flag has room (R210, R211). -/
theorem exec_trace_of (h : Issues s i t) (ha : t.scalarSrc a = true) (ra : t.readable a) (pd : t.pushCheck (.q n) = none)
    (hr : Reads t (popsOnce [(0, a)]) u q)
    (hh : (s.after i u (popsOnce [(0, a)])).handle i u (s.scalar t a (q 0 0)) .tracer = .ok (some va) s1)
    (hrec : s1.record i u va 32 32 = .ok bs s2) (hw : s2.walkInto i n.toNat = false) (hf : u.flagFull (t.setFlag true) = false) :
    let w : Word := ((bytesWords 8 bs)[0]?).getD 0
    exec (.trace (.q n) a) s = .next ((s2.setTeam i u).started i u
      { opOf i u s2 (t.setFlag true) (.trace n.toNat (bits w 10 0) (bits w 21 11) (bits w 31 22) [] false) with mask := 0 } []) := by
  intro w
  show execTrace (.q n) a s = _
  unfold execTrace
  rw [once_after s i t u q h _ _ _ ?checks hr, scalar_after, reads_scalar hr, withHandle_of _ s1 i u _ _ _ _ va hh,
    withRecord_of s1 s2 i u _ _ _ _ _ bs hrec]
  case checks => exact firstCause_operandsTo [(0, a)] (by simp [isQ, ha]) pd (by simp [ra])
  simp only [reads_setFlag hr, hw, hf, Bool.false_eq_true, if_false]
  exact congrArg _ (settle_enterOp ..)

/-- TRSTOP of a queue register with no walk left does nothing (R212). -/
theorem exec_trstop_none (h : Issues s i t) (hw : ({ s with cur := none } : State).walkInto i n.toNat = false) :
    exec (.trstop (.q n)) s = .next (s.done i t) := by
  show execTrstop (.q n) s = _
  unfold execTrstop
  rw [once_plain s i t h _ _ rfl]
  simp only [hw, Bool.false_eq_true, if_false]
  rw [settle_setTeam]

/-- TRSTOP of a walk tells it to stop, and holds until its end token is in the queue (R212). -/
theorem exec_trstop_walk (h : Issues s i t) (hw : ({ s with cur := none } : State).walkInto i n.toNat = true) :
    exec (.trstop (.q n)) s =
      .next (((({ s with cur := none } : State).stopWalks i n.toNat).setTeam i t).modTeam i fun t => { t with hold := some (.walkEnd n.toNat) }) := by
  show execTrstop (.q n) s = _
  unfold execTrstop
  rw [once_plain s i t h _ _ rfl]
  simp only [hw, if_true]
  rfl

end

/-- Settles O35: a lemma for TRACE, and for TRSTOP one without a walk and one with a walk. -/
theorem tracerResult : Obligations.TracerResult := by
  intro s i t u q n a h
  exact ⟨fun s1 s2 va bs ha ra pd hr hh hrec hw hf => exec_trace_of h ha ra pd hr hh hrec hw hf, exec_trstop_none h, exec_trstop_walk h⟩

end Sys2Proof.Machine

/-! # The accumulator and swatch instructions (O36) -/

namespace Sys2Proof.Machine

open Sys2Proof

/-- A window is allotted as soon as that many rows are free (R200): where no run of them is, the lowest free rows. -/
theorem allot_of_rows {s : State} {core n : Nat} {skip : Nat × Nat} (hn : n ≤ (s.freeRows core skip).length) :
    ∃ w, s.allot core skip n = some w ∧ w.rows = n := by
  unfold State.allot
  cases s.freeRun core skip n with
  | some b => exact ⟨_, rfl, rfl⟩
  | none =>
    have hlen : ¬((s.freeRows core skip).take n).length < n := by rw [List.length_take]; omega
    exact ⟨_, if_neg hlen, rfl⟩

/-- A window lies at the lowest free run of its rows (R200). -/
theorem allot_of_run {s : State} {core n k : Nat} {skip : Nat × Nat} (h : s.freeRun core skip n = some k) :
    s.allot core skip n = some { base := if n = 0 then 0 else k, rows := n } := by
  simp only [State.allot, h]

section
variable {s : State} {i : Nat} {t u : Team} {q : Nat → Nat → Word} {d a b : Sel} {r : BitVec 7}
  (h : Issues s i t) (hl : t.active.isEmpty = false)

include h hl in
/-- ACWIN of a window that no loop uses, where one is allotted: its rows are zeros (R200). -/
theorem exec_acwin_of (hd : t.scalarSrc d = true) (ha : t.scalarSrc a = true) (ra : t.readable a)
    (rd : t.readable d) (hv : t.wave = none) (hg : t.actGroups.all (· == 0) = true) (hr : Reads t (popsOnce [(0, a), (2, d)]) u q) {w : AccWin} :
    let g := (s.scalar t d (q 2 0)).toNat
    let n := (s.scalar t a (q 0 0)).toNat
    let s0 := s.after i u (popsOnce [(0, a), (2, d)])
    let v := u.setWin g { base := 0, rows := 0 }
    let s1 := (s0.setTeam i v).clearRows i g 0 Config.accRows
    g < t.groups → n + t.otherRows g ≤ Config.accRows → s0.rowsBusy i s0.stamp g 0 Config.accRows = false → s1.allot t.core (i, g) n = some w →
      exec (.acwin d a) s = .next (s1.ends i (v.setWin g w)) := by
  intro g n s0 v s1 hgroup hrows hfree hw
  have hfits : ¬(t.groups ≤ g ∨ Config.accRows < n + t.otherRows g) := by omega
  show execAcwin d a s = _
  unfold execAcwin
  rw [sweepPre_after s i t u q h _ _ _ _ _ ?checks hl hr]
  case checks =>
    simp only [need, hg, hd, ha, hv, Option.isNone_none, Bool.and_self, if_true, List.cons_append, List.nil_append, firstCause]
    exact firstCause_readable t [(0, a), (2, d)] (by simp [ra, rd])
  simp only [scalar_after, reads_scalar hr, reads_groups hr, reads_otherRows hr, reads_core hr]
  rw [if_neg hfits, if_neg (ne_true_of_eq_false hfree), hw, unpopped_ok, settle_ends]

section
variable (ra : t.readable a) (rb : t.readable b) (hr : Reads t (popsOnce [(0, a), (1, b)]) u q)
include h hl ra rb hr

/-- ACZERO clears its rows of the windows of the active groups (R201). -/
theorem exec_aczero_of (ha : t.scalarSrc a = true) (hb : t.scalarSrc b = true) :
    let s0 := s.after i u (popsOnce [(0, a), (1, b)])
    let row := (s.scalar t a (q 0 0)).toNat
    let n := (s.scalar t b (q 1 0)).toNat
    RowsFree s0 i u (t.actGroups.map fun g => (g, row, n)) →
      exec (.aczero a b) s = .next ((t.actGroups.foldl (fun s g => s.clearRows i g row n) (s0.setTeam i u)).issued i) := by
  intro s0 row n hfree
  show execAczero a b s = _
  unfold execAczero
  rw [sweepOn_after s i t u q h _ _ _ _ _ (firstCause_operands [(0, a), (1, b)] (by simp [ha, hb]) (by simp [ra, rb])) hl hr]
  simp only [scalar_after, reads_scalar hr, reads_actGroups hr]
  rw [rowOp_of s0 i u _ _ hfree]
  rfl

/-- ACRDX reads one column of a row of each lane (R206). -/
theorem exec_acrdx_of (ha : t.scalarSrc a = true) (hb : t.scalarSrc b = true) (hv : t.vOk r 1 = true) :
    let s0 := s.after i u (popsOnce [(0, a), (1, b)])
    let row := (s.scalar t a (q 0 0)).toNat
    let n := (s.scalar t b (q 1 0)).toNat
    let runs := t.active.map fun l => (l / 32, row + l % 32, 1)
    RowsFree s0 i u runs → (∀ r ∈ runs, s0.rowsSpoilt i r = false) →
      exec (.acrdx (.v r) a b) s =
        .next (s0.ends i (t.active.foldl (fun v l => v.setV l r.toNat (s.accAt i (l / 32) (row + l % 32) (n % 64))) u)) := by
  intro s0 row n runs hfree hclean
  show execAcrdx (.v r) a b s = _
  unfold execAcrdx
  rw [sweepPre_after s i t u q h _ _ _ _ _ (firstCause_operands [(0, a), (1, b)] (by simp [hv, ha, hb]) (by simp [ra, rb])) hl hr]
  simp only [scalar_after, reads_scalar hr, reads_active hr]
  rw [rowRead_of s0 i u _ _ hfree hclean, unpopped_ok, settle_ends]
  simp only [s0, row, n, accAt_after]

variable (ha : t.vectorSrc a = true) (hb : t.pairSrc b = true)
include ha hb

/-- ACRD reads two columns of a row of each lane, times its factors in F32 (R205). -/
theorem exec_acrd_of (hv : t.vOk r 2 = true) :
    let s0 := s.after i u (popsOnce [(0, a), (1, b)])
    let rowAt (l : Nat) : Nat := rowOf t s a q (l / 32)
    let runs := t.actGroups.map fun g => (g, rowOf t s a q g, 1)
    RowsFree s0 i u runs → (∀ r ∈ runs, s0.rowsSpoilt i r = false) →
      let x (l : Nat) := fmtF32.mul .rne t.flush (s.accAt i (l / 32) (rowAt l) (l % 32)).toNat (pairAt t s b q l).1.toNat
      let y (l : Nat) := fmtF32.mul .rne t.flush (s.accAt i (l / 32) (rowAt l) (32 + l % 32)).toNat (pairAt t s b q l).2.toNat
      exec (.acrd (.v r) a b) s = .next (s0.ends i (t.active.foldl (fun v l =>
        (v.setVs l r.toNat [BitVec.ofNat 32 (x l).1, BitVec.ofNat 32 (y l).1]).addStatus ((x l).2 ||| (y l).2)) u)) := by
  intro s0 rowAt runs hfree hclean x y
  show execAcrd (.v r) a b s = _
  unfold execAcrd
  rw [sweepPre_after s i t u q h _ _ _ _ _ (firstCause_operands [(0, a), (1, b)] (by simp [hv, ha, hb]) (by simp [ra, rb])) hl hr]
  simp only [rowOf_after hr, reads_actGroups hr]
  rw [rowRead_of s0 i u _ _ hfree hclean, unpopped_ok, settle_ends]
  simp only [s0, rowOf_after hr, pairAt_after hr, accAt_after, reads_active hr, reads_flush hr, List.foldl_map, x, y, rowAt]

/-- ACWR and ACADD change two columns of a row of each lane by a function of the column and its source (R207). -/
theorem rowWrite_of {reads : Bool} {f : Bool → Word → Word → Word × Nat} :
    let s0 := s.after i u (popsOnce [(0, a), (1, b)])
    let rowAt (l : Nat) : Nat := rowOf t s a q (l / 32)
    let runs := t.actGroups.map fun g => (g, rowOf t s a q g, 1)
    RowsFree s0 i u runs → (reads = true → ∀ r ∈ runs, s0.rowsSpoilt i r = false) →
      let cols := (t.active.map fun l =>
        [(l / 32, rowAt l, l % 32, (pairAt t s b q l).1), (l / 32, rowAt l, 32 + l % 32, (pairAt t s b q l).2)]).flatten
      let r := (s0.setTeam i u).writeCols i (f t.flush) cols
      rowWrite s a b reads f = .next (r.1.ends i (u.addStatus r.2)) := by
  intro s0 rowAt runs hfree hclean cols r
  have hrows (k : State → Res) : (if reads then rowRead else rowOp) i u s0 runs k = k s0 := by
    cases reads with
    | true => exact rowRead_of s0 i u runs k hfree (hclean rfl)
    | false => exact rowOp_of s0 i u runs k hfree
  unfold rowWrite
  rw [sweepPre_after s i t u q h _ _ _ _ _ (firstCause_operands [(0, a), (1, b)] (by simp [ha, hb]) (by simp [ra, rb])) hl hr]
  simp only [rowOf_after hr, reads_actGroups hr]
  rw [hrows]
  simp only [s0, rowOf_after hr, pairAt_after hr, reads_active hr, reads_flush hr, unpopped_ok, settle_ends, r, cols, rowAt]

end

section
variable (ha : t.scalarSrc a = true) (ra : t.readable a) (hr : Reads t (popsOnce [(0, a)]) u q)
include h ha ra hr

/-- SWSEL of 0 leaves the team with no swatch (R199). -/
theorem exec_swsel_none (hz : s.scalar t a (q 0 0) = 0) : exec (.swsel a) s = .next (s.done i { u with swatch := none }) := by
  show execSwsel a s = _
  unfold execSwsel
  rw [once_after s i t u q h _ _ _ (firstCause_operands [(0, a)] (by simp [ha]) (by simp [ra])) hr, scalar_after, reads_scalar hr]
  simp only [hz, if_true]
  exact congrArg _ (settle_setTeam_if s i t _ u _)

/-- SWSEL of a swatch's handle selects it (R199). -/
theorem exec_swsel_of {va : Nat} {s1 : State} (hz : s.scalar t a (q 0 0) ≠ 0)
    (hh : (s.after i u (popsOnce [(0, a)])).handle i u (s.scalar t a (q 0 0)) .swatch = .ok (some va) s1) :
    exec (.swsel a) s = .next (s1.ends i { u with swatch := some va }) := by
  show execSwsel a s = _
  unfold execSwsel
  rw [once_after s i t u q h _ _ _ (firstCause_operands [(0, a)] (by simp [ha]) (by simp [ra])) hr, scalar_after, reads_scalar hr]
  simp only [hz, if_false]
  rw [withHandle_of _ s1 i u _ _ _ _ va hh, settle_ends]

end

end

/-- Settles O36: a lemma for each instruction; ACWR and ACADD are one shape, and what `State.allot` gives is the window of ACWIN. -/
theorem accumulatorResult : Obligations.AccumulatorResult := by
  intro s i t u q d a b h hl
  refine ⟨fun hd ha ra rd hv hg hr => ?window, fun hr ra rb => ⟨fun ha hb => ?scalars, fun ha hb hc => ?rows⟩,
    fun ha ra hr => ⟨exec_swsel_none h ha ra hr, fun va s1 hz hh => exec_swsel_of h ha ra hr hz hh⟩⟩
  case window =>
    intro g n s0 v s1 hgroup hrows hfree
    have hwindow {w : AccWin} := exec_acwin_of (w := w) h hl hd ha ra rd hv hg hr hgroup hrows hfree
    refine ⟨fun k hk => hwindow (allot_of_run hk), fun hn => ?_⟩
    obtain ⟨w, hw, hwn⟩ := allot_of_rows hn
    exact ⟨w, hw, hwn, hwindow hw⟩
  case scalars => exact ⟨exec_aczero_of h hl ra rb hr ha hb, fun r hv hc => exec_acrdx_of h hl ra rb hr ha hb hv hc.1 hc.2⟩
  case rows =>
    obtain ⟨hfree, hclean⟩ := hc
    exact ⟨fun r hv => exec_acrd_of h hl ra rb hr ha hb hv hfree hclean,
      rowWrite_of (reads := false) (f := fun _ _ w => (w, 0)) h hl ra rb hr ha hb hfree (fun hreads => absurd hreads Bool.false_ne_true),
      rowWrite_of (reads := true) (f := accAdd) h hl ra rb hr ha hb hfree fun _ => hclean⟩

end Sys2Proof.Machine

/-! # The steps of the engines and tracers (O50) -/

namespace Sys2Proof.Machine

open Sys2Proof

/-- A check that is made only in one case, and is passed there. -/
theorem ite_none_of {α : Type} {p : Prop} [Decidable p] {x : Option α} (h : p → x = none) : (if p then x else none) = none := by
  split
  case isTrue hp => exact h hp
  case isFalse => rfl

/-! ## Records enter their queues, and copy records move lines -/

section
variable {s s1 : State} {i o : Nat} {t : Team} {x : Op} {ws : List Word} {pos : Nat} {bs : List Byte} {c : Cluster}

/-- ENGINE_RECORD_ENTRY of a record staged whole, in its turn, whose queue has room (R238, R242). -/
theorem exec_engineRecordEntry_of {q : BitVec 4} {v kind n die : Nat} (ht : s.team i = some t) (hw : (t.qregs[q.toNat]).whole = true)
    (hh : s.writesHome (some i) (t.qregs[q.toNat]).since = true) (hb : (t.qregs[q.toNat]).bind = .engine v kind n)
    (hd : s.physDie t.part t.ctx v = some die) (hroom : s.queued (engineQueue die kind n) < Config.engineDepth)
    (hfirst : t.stagedBefore (t.qregs[q.toNat]) = false) :
    let port := t.qregs[q.toNat]
    let s1 := s.setTeam i { t with qregs := t.qregs.set q.toNat { port with staged := [] } q.isLt }
    let op : Op := { opOf i t s none .done with mask := 0 }
    exec (.engineRecordEntry i q) s =
      .next { s1.bump with ops := cellPut s1.ops s1.stamp { op with kind := .engine (engineQueue die kind n) v t.cluster port.staged 0 false } } := by
  intro port s1 op
  have hqueue : s.portQueue i t (.engine v kind n) = some (engineQueue die kind n) := by simp only [State.portQueue, hd, Option.map_some]
  show execEngineRecordEntry i q s = _
  simp only [execEngineRecordEntry, ht, hw, hh, hfirst, Bool.not_true, Bool.or_self, Bool.false_eq_true, if_false, hb, hqueue, hroom, if_true, port, s1, op]

section
variable (ho : s.op o = some x) (hk : x.kind = .recCopy ws pos) (hi : x.team = some i) (ht : s.team i = some t) (hm : x.mig = false)
  (hf : x.failed = []) (hrel : x.rel = none) (hturn : s.copyTurn i o = true) (hp : pos < recLines ws)
  (hbody : pos = 0 → s.copyBody t.cluster ws = none)
include ho hk hi ht hm hf hrel hturn hp hbody

/-- ENGINE_COPY_IN, once the bytes of the next line have been read: they are written into scratch and their presence bit set (R217, R243). -/
theorem exec_engineCopyIn_of (hin : bits ((ws[0]?).getD 0) 7 0 = 1)
    (hget : s.agentGet x.part x.ctx (coreDie x.core) (piecesOf (recLine ws pos).1 128) = .ok bs s1) (ho1 : s1.op o = some x) :
    let key := scratchKey (recLine ws pos).2
    exec (.engineCopyIn o) s =
      .next (((s1.setOp o { x with kind := .recCopy ws (pos + 1) }).scratchWrite t.cluster key bs).setPresence t.cluster [lineOf key]) := by
  intro key
  show execEngineCopyIn o s = _
  simp only [execEngineCopyIn, copyRecStep, ho, hk, hi, ht, hm, hf, hrel, hturn, hin, List.isEmpty_nil, Option.isSome_none, Bool.not_true, Bool.or_self,
    beq_self_eq_true, bne_self_eq_false, Nat.not_le.mpr hp, decide_false, Bool.false_eq_true, if_false, if_true, ite_none_of hbody, hget, ho1,
    State.landScratch, key]

/-- ENGINE_COPY_OUT of a line that is present in scratch without an error, once its bytes have been written (R217, R243). -/
theorem exec_engineCopyOut_of (hout : bits ((ws[0]?).getD 0) 7 0 = 2) (hc : s.cluster t.cluster = some c)
    (hpr : c.present (scratchKey (recLine ws pos).2) = true)
    (hsp : ∀ j < 4, c.spoiled.contains (scratchKey (recLine ws pos).2 / 32 + j) = false)
    (hput : s.agentPut x.part x.ctx (coreDie x.core) (some x.dom) (recLine ws pos).1 (c.bytes (scratchKey (recLine ws pos).2) 128)
      (piecesOf (recLine ws pos).1 128) = .ok () s1) (ho1 : s1.op o = some x) :
    exec (.engineCopyOut o) s = .next (s1.setOp o { x with kind := .recCopy ws (pos + 1) }) := by
  have hclean : ((List.range 4).any fun j => c.spoiled.contains (scratchKey (recLine ws pos).2 / 32 + j)) = false := by
    rw [List.any_eq_false]
    intro j hj
    exact ne_true_of_eq_false (hsp j (List.mem_range.mp hj))
  show execEngineCopyOut o s = _
  simp only [execEngineCopyOut, copyRecStep, ho, hk, hi, ht, hm, hf, hrel, hturn, hout, List.isEmpty_nil, Option.isSome_none, Bool.not_true, Bool.or_self,
    Nat.reduceBEq, bne_self_eq_false, Nat.not_le.mpr hp, decide_false, Bool.false_eq_true, if_false, ite_none_of hbody, hc, hpr, hclean, hput, ho1]

end

end

/-! ## Units of the engines -/

section
variable {s s1 s2 s3 : State} {p c die pos : Nat} {dom : Option Nat} {ws : List Word}

/-- An output row of a gather: its indices and rows read, combined and written (R244). -/
theorem gatherUnit_of {is : List Byte} {rows : List (List Word)} :
    let pool := bits ((ws[9]?).getD 0) 7 0
    let dst := (recAddr ws 10 + pos * recWord ws 4) % 2 ^ 64
    s.agentGet p c die (piecesOf ((recAddr ws 6 + 4 * (pos * pool)) % 2 ^ 64) (4 * pool)) = .ok is s1 →
    s1.gatherRows p c die ws (bytesWords pool is) = .ok rows s2 →
    s2.agentPut p c die dom dst (wordsBytes (combRows (bits ((ws[9]?).getD 0) 15 8) rows)) (piecesOf dst (recWord ws 4)) = .ok () s3 →
      s.gatherUnit p c die dom ws pos = .ok () s3 := by
  intro pool dst hidx hrows hput
  simp only [State.gatherUnit]
  rw [hidx]
  simp only
  rw [hrows]
  exact hput

/-- An element of a reduction of one or more sources (R245). -/
theorem reduceUnit_of {y : Nat} {ys : List Nat} :
    let w2 : Word := (ws[2]?).getD 0
    let size := if bits w2 20 16 = 9 then 2 else 4
    let dst := (recAddr ws 4 + size * pos) % 2 ^ 64
    let wide (z : Nat) := if bits w2 20 16 = 9 then (floatToFloat fmtBF16 fmtF32 .rne false false z).1 else z
    let r := (ys.map wide).foldl (reduceStep (bits w2 9 8) (bits w2 20 16)) (wide y)
    let out := if bits w2 20 16 = 9 then (floatToFloat fmtF32 fmtBF16 .rne false false r).1 else r
    s.reduceSrcs p c die size pos ((List.range (bits w2 3 0)).map fun j => recAddr ws (6 + 2 * j)) = .ok (y :: ys) s1 →
    s1.agentPut p c die dom dst (natBytes out size) (piecesOf dst size) = .ok () s3 →
      s.reduceUnit p c die dom ws pos = .ok () s3 := by
  intro w2 size dst wide r out hsrcs hput
  have hwide : (if bits w2 20 16 = 9 then (y :: ys).map fun x => (floatToFloat fmtBF16 fmtF32 .rne false false x).1 else y :: ys)
      = wide y :: ys.map wide := by
    simp only [wide]
    split
    case isTrue => rfl
    case isFalse => rw [List.map_id'']; exact fun _ => rfl
  simp only [State.reduceUnit]
  rw [hsrcs]
  simp only
  rw [hwide]
  exact hput

/-- An element of a conversion between types other than Q4X: scaled, rounded and written (R245). -/
theorem convertUnit_of {src dst : Ty} {bs : List Byte} {sc : Option Nat} {f : Fmt} :
    let w2 : Word := (ws[2]?).getD 0
    convType (bits w2 4 0) = some src → convType (bits w2 12 8) = some dst → src ≠ .q4x → fmtOf dst = some f → dst ≠ .q4x →
    let n := convBits src * 1 / 8
    let m := convBits dst * 1 / 8
    let va := (recAddr ws 4 + n * pos) % 2 ^ 64
    let dest := (recAddr ws 6 + m * pos) % 2 ^ 64
    let val := if sc = some 255 then .nan false else convScale dst sc (convIn src (bit w2 25) sc (slice (bytesNat bs) (convBits src) 0) 0)
    s.agentGet p c die (piecesOf va n) = .ok bs s1 → s1.convCodes p c die ws [pos] = .ok [sc] s2 →
    s2.agentPut p c die dom dest (natBytes (convOut f (bit w2 25) (bit w2 24) val) m) (piecesOf dest m) = .ok () s3 →
      s.convertUnit p c die dom ws pos = .ok () s3 := by
  intro w2 hsrc hdst hs hf hd n m va dest val hget hcodes hput
  have hone : (List.range 1).map (fun k => pos * 1 + k) = [pos] := by simp
  simp only [State.convertUnit]
  rw [hsrc, hdst]
  simp only [hs, hd, or_self, if_false]
  rw [hget]
  simp only
  rw [hone, hcodes]
  simp only [hf, List.range_one, List.map_cons, List.map_nil, List.zipIdx_cons, List.zipIdx_nil, List.foldl_cons, List.foldl_nil, Nat.mul_zero, Nat.pow_zero,
    Nat.mul_one, Nat.zero_add, List.getElem?_cons_zero, Option.getD_some]
  simp only [val, m, dest, Nat.mul_one] at hput
  exact hput

end

/-! ## Completion -/

section
variable (s : State) (e cl v : Nat) (x : Op) {ws : List Word}

/-- A record's completion that is to do nothing (R242). -/
theorem complete_plain (h : bits ((ws[0]?).getD 0) 14 13 = 0) : s.complete e x cl v ws = s.endOp e x := by
  simp only [State.complete, h, OfNat.zero_ne_ofNat, Nat.zero_ne_one, if_false]

/-- A record's completion that arrives at a tack (R242). -/
theorem complete_tack (h : bits ((ws[0]?).getD 0) 14 13 = 1) (ht : s.tackReachable cl (some (scratchKey (recWord ws 1))) = true) :
    s.complete e x cl v ws = (s.arrive cl (scratchKey (recWord ws 1))).endOp e x := by
  simp only [State.complete, h, if_true, ht]

/-- A record's completion that decrements a knot from the engine's die (R242). -/
theorem complete_knot {n : Nat} {s1 : State} (h : bits ((ws[0]?).getD 0) 14 13 = 2)
    (hh : s.agentHandle x.part x.ctx ((s.physDie x.part x.ctx v).getD 0) ((ws[1]?).getD 0) .knot = .ok (some n) s1) (hn : s1.knotOk x.part n = true) :
    s.complete e x cl v ws = (s1.endOp e x).agentDec (knotKey x.part n) x.part x.ctx v (recWord ws 1) := by
  simp only [State.complete, h, OfNat.ofNat_ne_one, if_false, if_true, hh, hn]

end

section
variable {s : State} {e k v cl pos : Nat} {x : Op} {ws : List Word}

section
variable (ho : s.op e = some x) (hm : x.mig = false) (hf : x.failed = [])
include ho hm hf

/-- ENGINE_COMPLETION of an engine's record whose units are done, with its release covered (R242, R288). -/
theorem exec_engineCompletion_engine (hk : x.kind = .engine k v cl ws pos false) (ht : s.engineTurn e k = true)
    (hp : engineUnits (queueKind k) ws ≤ pos) (hb : engineUnits (queueKind k) ws = 0 → engineBody (queueKind k) ws = none ∧ s.targetOk cl ws = none)
    (hcv : s.coveredAt (recScope ws) x.team x.dom e = true) : exec (.engineCompletion e) s = .next (s.complete e x cl v ws) := by
  have hbody : s.emptyBody (queueKind k) cl ws = none := by
    refine ite_none_of fun h0 => ?_
    obtain ⟨hbody, htarget⟩ := hb h0
    rw [hbody]
    exact htarget
  show execEngineCompletion e s = _
  simp only [execEngineCompletion, ho, hm, hf, hk, ht, hcv, List.isEmpty_nil, Bool.not_true, Bool.or_self, Bool.false_or, Bool.or_false,
    decide_eq_true_eq, Nat.not_lt.mpr hp, Bool.false_eq_true, if_false, hbody]

/-- ENGINE_COMPLETION of a copy record whose lines have moved, in its turn (R243, R288). -/
theorem exec_engineCompletion_copy {i : Nat} {t : Team} (hk : x.kind = .recCopy ws pos) (hi : x.team = some i) (ht : s.team i = some t)
    (hrel : x.rel = none) (hp : recLines ws ≤ pos) (hb : recLines ws = 0 → s.copyBody t.cluster ws = none) (hl : s.copyLast i e = true)
    (hw : s.writesHome (some i) e = true) (hcv : s.coveredAt (recScope ws) x.team x.dom e = true) :
    exec (.engineCompletion e) s = .next (s.complete e x t.cluster t.vdie ws) := by
  rw [hi] at hcv
  show execEngineCompletion e s = _
  simp only [execEngineCompletion, ho, hm, hf, hk, hi, ht, hrel, hl, hw, hcv, List.isEmpty_nil, Option.isSome_none, Bool.not_true, Bool.or_self,
    Bool.false_or, Bool.or_false, decide_eq_true_eq, Nat.not_lt.mpr hp, Bool.false_eq_true, if_false, ite_none_of hb]

end

/-! ## Faults of records -/

/-- ENGINE_RECORD_FAULT of an engine's record: its queue stops and the fault is reported (R246). -/
theorem exec_engineRecordFault_engine {f : LaneFault} {fs : List LaneFault} (ho : s.op e = some x) (hk : x.kind = .engine k v cl ws pos false)
    (hf : x.failed = f :: fs) :
    exec (.engineRecordFault e) s =
      .next ((s.setOp e { x with failed := [], kind := .engine k v cl ws pos true }).takeTrap
        { contextInfo x.part x.ctx (recFirst x % 2 ^ 32) (16 * (queueKind k + 1) + k / 2 % 16) v f (.engine e) with pc := recFirst x / 2 ^ 32 }) := by
  have hstops : (OpKind.engine k v cl ws pos true == .engine k v cl ws pos false) = false := by simp
  show execEngineRecordFault e s = _
  simp only [execEngineRecordFault, ho, hf, hk, recPort, hstops, Bool.false_eq_true, if_false]

/-- ENGINE_RECORD_FAULT of a copy record: its queue stops and the fault is reported (R246). -/
theorem exec_engineRecordFault_copy {i : Nat} {t : Team} {f : LaneFault} {fs : List LaneFault} (ho : s.op e = some x) (hk : x.kind = .recCopy ws pos)
    (hi : x.team = some i) (ht : s.team i = some t) (hf : x.failed = f :: fs) :
    exec (.engineRecordFault e) s = .next ((s.setOp e { x with failed := [], rel := some 0 }).takeTrap
      { contextInfo x.part x.ctx (recFirst x % 2 ^ 32) 2 t.vdie f (.engine e) with pc := recFirst x / 2 ^ 32 }) := by
  show execEngineRecordFault e s = _
  simp only [execEngineRecordFault, ho, hf, hk, hi, recPort, beq_self_eq_true, if_true, Option.bind_some, ht, Option.map_some, Option.getD_some]

end

/-! ## Tracer walks -/

section
variable {s s1 : State} {o i q n0 n1 n2 : Nat} {x : Op} {t : Team} {pushed : List Nat} {st : Bool}

/-- A word of a walk that enters its queue register (R211). -/
theorem walkPush_of {w : Word} (h : s.push1 i (BitVec.ofNat 4 q) w = .ok s1) (after : State → State) : s.walkPush o i q x w after = after s1 := by
  simp only [State.walkPush, h]

variable (ho : s.op o = some x) (hk : x.kind = .trace q n0 n1 n2 pushed st) (hi : x.team = some i) (ht : s.team i = some t) (hgo : t.going = true)
  (hf : x.failed = []) (hr : x.refail = [])
include ho hk hi ht hgo hf hr

/-- TRACER_PUSH of a walk that is stopped or has no tile left: its end token, behind which it is over (R210, R212). -/
theorem exec_tracerPush_end (hend : st = true ∨ n0 * n1 * n2 ≤ pushed.length) (hp : s.push1 i (BitVec.ofNat 4 q) 0xFFFFFFFF = .ok s1) :
    exec (.tracerPush o) s = .next (s1.endOp o x) := by
  show execTracerPush o s = _
  simp only [execTracerPush, ho, hk, hi, ht, hgo, hf, hr, List.isEmpty_nil, Bool.not_true, Bool.or_self, Bool.false_eq_true, if_false, hend, if_true,
    endToken, walkPush_of hp]

/-- TRACER_PUSH of a walk with tiles left: the next of them (R211). -/
theorem exec_tracerPush_tile {j : Nat} (hst : st = false) (hleft : pushed.length < n0 * n1 * n2)
    (hj : nextTile (n0 * n1 * n2) (s.choose (n0 * n1 * n2)).1 pushed = some j)
    (hp : (s.choose (n0 * n1 * n2)).2.push1 i (BitVec.ofNat 4 q) (tileWord n0 n1 j) = .ok s1) :
    exec (.tracerPush o) s = .next (s1.setOp o { x with kind := .trace q n0 n1 n2 (j :: pushed) st }) := by
  subst hst
  show execTracerPush o s = _
  simp only [execTracerPush, ho, hk, hi, ht, hgo, hf, hr, List.isEmpty_nil, Bool.not_true, Bool.or_self, Bool.false_eq_true, Nat.not_le.mpr hleft, or_self,
    if_false, hj, walkPush_of hp]

end

/-- Settles O50: a lemma for each step; of the engines' steps one for each unit (`engineStep_of` is the step around it), and of a completion one for
each thing that it does. -/
theorem engineResult : Obligations.EngineResult := by
  intro s s1 s2 s3
  refine ⟨fun i t q v kind n die ht hw hh hb hd hroom hfirst => exec_engineRecordEntry_of ht hw hh hb hd hroom hfirst,
    fun o x ws pos i t ho hk hi ht hm hf hrel hturn hp hbody =>
      ⟨fun bs hin hget ho1 => exec_engineCopyIn_of ho hk hi ht hm hf hrel hturn hp hbody hin hget ho1,
        fun c hout hc => exec_engineCopyOut_of ho hk hi ht hm hf hrel hturn hp hbody hout hc⟩,
    fun e x k v cl ws pos ho hk hm hf hturn => ⟨fun hp hb ho3 => ?units, fun hp hb hcv => ?completion⟩,
    fun e x k v cl ws pos f fs ho hk hf => exec_engineRecordFault_engine ho hk hf,
    fun o x ws pos i t ho hk hi ht => ⟨fun f fs hf => exec_engineRecordFault_copy ho hk hi ht hf, fun hm hf hrel hp hb hl hw hcv hd => ?copyCompletion⟩,
    fun o x i t q n0 n1 n2 pushed st ho hk hi ht hgo hf hr =>
      ⟨exec_tracerPush_end ho hk hi ht hgo hf hr, fun j => exec_tracerPush_tile ho hk hi ht hgo hf hr⟩⟩
  case units =>
    have hstep {unit} := engineStep_of s s3 e (queueKind k) x k v cl ws pos unit ho hk hm hf hturn rfl hp hb
    refine ⟨?gather, ?reduce, ?convert⟩
    case gather =>
      intro is rows hq pool dst hidx hrows hput
      rw [hq] at hstep
      exact congrArg _ (hstep (gatherUnit_of hidx hrows hput) ho3)
    case reduce =>
      intro y ys hq w2 size dst wide r out hsrcs hput
      rw [hq] at hstep
      exact congrArg _ (hstep (reduceUnit_of hsrcs hput) ho3)
    case convert =>
      intro src dst bs c f hq w2 hsrc hdst hs hfmt hd n m va dest val hget hcodes hput
      rw [hq] at hstep
      exact congrArg _ (hstep (convertUnit_of hsrc hdst hs hfmt hd hget hcodes hput) ho3)
  case completion =>
    rw [exec_engineCompletion_engine ho hm hf hk hturn hp hb hcv]
    exact ⟨fun hd => congrArg _ (complete_plain s e cl v x hd), fun hd ht => congrArg _ (complete_tack s e cl v x hd ht),
      fun n hd hh hn => congrArg _ (complete_knot s e cl v x hd hh hn)⟩
  case copyCompletion =>
    rw [exec_engineCompletion_copy ho hm hf hk hi ht hrel hp hb hl hw hcv, complete_plain s o t.cluster t.vdie x hd]

end Sys2Proof.Machine

/-! # Scratch loads and stores (O24) -/

namespace Sys2Proof.Machine

open Sys2Proof

/-- Reading operands leaves the operation that an access of the team waits for. -/
theorem orderedBehind_after (s : State) (i : Nat) (v : Team) (pops : List Pop) (j : Nat) (write : Bool) :
    (s.after i v pops).orderedBehind j write = s.orderedBehind j write := by
  unfold State.after
  split <;> rfl

/-- The accesses of a scratch instruction: one for each active lane, at A plus B modulo 2^32 (R215). -/
def State.scratchLanes (s : State) (t : Team) (q : Nat → Nat → Word) (a b : Sel) (size reg : Nat) (data : Nat → List Byte) : List Acc :=
  t.active.map fun l => Acc.new l (s.src t a l (q 0 l) + s.scalar t b (q 1 0)).toNat size size reg (data l)

/-- What a scratch instruction leaves of its accesses that started: they are in flight, and served as far as lines are present (R217). -/
def State.scratchOut (s : State) (i : Nat) (u : Team) (fl : Option Nat) (kind : OpKind) (accs : List Acc) (bad : List (LaneFault × Acc)) : State :=
  (s.enterOp i u { opOf i u s fl kind with accs := accs } bad).serveOp s.stamp i

/-- A scratch load by these names; the test of its D is that of a store from registers. -/
theorem scratchLoad_eq (s : State) (r : BitVec 7) (a b : Sel) (n : Nat) :
    scratchLoad s (.v r) a b n = sweepOn s (fun t _ => [need (t.storable n (.v r) && t.vectorSrc a && t.scalarSrc b) .illegalOperand,
        need (n != 0 || t.ty.loads) .illegalOperand]) [a, b] (fun t => t.active) (fun t => popsVS t a b) fun i t q s1 =>
      scratchAccs i t s1 false (.pload (vecBits t.ty n) (n == 0 && t.ty.signed)) (s1.scratchLanes t q a b (vecSize t.ty n) r.toNat fun _ => []) := rfl

/-- A scratch store by these names; its D and its bytes are those of a vector store. -/
theorem scratchStore_eq (s : State) (d a b : Sel) (n : Nat) :
    scratchStore s d a b n = sweepOn s (fun t _ => [need (t.storable n d && t.vectorSrc a && t.scalarSrc b) .illegalOperand,
        need (n != 0 || t.ty.loads) .illegalOperand]) [a, b] (fun t => t.active) (fun t => popsVS t a b) fun i t q s1 =>
      scratchAccs i t s1 true .pstore (s1.scratchLanes t q a b (vecSize t.ty n) 0 (s1.storeBytes t d n)) := rfl

section
variable {s s2 : State} {i : Nat} {t u : Team} {q : Nat → Nat → Word} {d a b : Sel} {r : BitVec 7} {n : Nat}
  {good : List Acc} {bad : List (LaneFault × Acc)}

/-- Reading operands leaves the accesses as they were. -/
theorem scratchLanes_after {ps pops : List Pop} (hr : Reads t pops u q) (v : Team) (size reg : Nat) (data : Nat → List Byte) :
    (s.after i v ps).scratchLanes u q a b size reg data = s.scratchLanes t q a b size reg data := by
  simp only [State.scratchLanes, reads_active hr, src_after, reads_src hr, scalar_after, reads_scalar hr]

/-- The accesses of a scratch instruction that has read its operands: once they have started, nothing being ahead of them, they are served in the
same step. Their start moves no stamp, so the operation that is served is the one entered. -/
theorem scratchAccs_after {pops : List Pop} {cls : Bool} {kind : OpKind} {accs : List Acc} (hr : Reads t pops u q)
    (hf : u.flagFull (t.setFlag cls) = false) (ho : s.orderedBehind i cls = none) (hk : kind.access = .scratch)
    (hs : Starts (s.after i u pops) i u .scratch accs good bad s2) :
    scratchAccs i u (s.after i u pops) cls kind accs = .ok (s2.scratchOut i u (t.setFlag cls) kind (if cls then lastWriters good else good) bad) := by
  have hstamp : s2.stamp = (s.after i u pops).stamp := by
    rw [startAll_scratch_state i u _ _ _ _ _ hs, State.setTeam_stamp]
  rw [scratchAccs_of _ s2 i u cls kind _ good bad (by rwa [reads_setFlag hr]) hk hs hstamp (by rwa [orderedBehind_after]), reads_setFlag hr]
  rfl

variable (h : Issues s i t) (hl : t.active.isEmpty = false) (ha : t.vectorSrc a = true) (hb : t.scalarSrc b = true) (ra : t.readable a)
  (rb : t.readable b) (hr : Reads t (popsVS t a b) u q)
include h hl ha hb ra rb hr

/-- A scratch load whose accesses have started, with no acquire ahead of them (R215, R248, R281). -/
theorem scratchLoad_goes (hd : t.storable n (.v r) = true) (hy : (n != 0 || t.ty.loads) = true) (hf : u.flagFull (t.setFlag false) = false)
    (ho : s.orderedBehind i false = none)
    (hs : Starts (s.after i u (popsVS t a b)) i u .scratch (s.scratchLanes t q a b (vecSize t.ty n) r.toNat fun _ => []) good bad s2) :
    scratchLoad s (.v r) a b n =
      .next ((s2.scratchOut i u (t.setFlag false) (.pload (vecBits t.ty n) (n == 0 && t.ty.signed)) good bad).issued i) := by
  rw [scratchLoad_eq, sweepOn_after s i t u q h _ _ _ _ _ (vecStore_checks hd hy ha hb ra rb) hl hr]
  simp only [reads_ty hr, scratchLanes_after hr]
  exact congrArg (fun r => Host.Outcome.next (settle i t r)) (scratchAccs_after hr hf ho rfl hs)

/-- A scratch store whose accesses have started, with no acquire and no release FENCE ahead of them (R215, R248, R281, R283). -/
theorem scratchStore_goes (hd : t.storable n d = true) (hy : (n != 0 || t.ty.loads) = true) (hf : u.flagFull (t.setFlag true) = false)
    (ho : s.orderedBehind i true = none)
    (hs : Starts (s.after i u (popsVS t a b)) i u .scratch (s.scratchLanes t q a b (vecSize t.ty n) 0 (s.storeBytes t d n)) good bad s2) :
    scratchStore s d a b n = .next ((s2.scratchOut i u (t.setFlag true) .pstore (lastWriters good) bad).issued i) := by
  have hbytes : (s.after i u (popsVS t a b)).storeBytes u d n = s.storeBytes t d n := funext (storeBytes_after hr u)
  rw [scratchStore_eq, sweepOn_after s i t u q h _ _ _ _ _ (vecStore_checks hd hy ha hb ra rb) hl hr]
  simp only [reads_ty hr, scratchLanes_after hr, hbytes]
  exact congrArg (fun r => Host.Outcome.next (settle i t r)) (scratchAccs_after hr hf ho rfl hs)

end

/-- Settles O24: PLD1 to PLD4 are `scratchLoad` of their registers, PST1 to PST4 `scratchStore`, PST1 also of an S register, a literal or ZERO. -/
theorem scratchResult : Obligations.ScratchResult := by
  intro s s2 i t u q a b good bad h hl ha hb ra rb hr starts
  refine ⟨fun hf ho => ?loads, fun hf ho => ?stores⟩
  case loads =>
    have hgoes {r : BitVec 7} {n : Nat} (hd : t.storable n (.v r) = true) (hy : (n != 0 || t.ty.loads) = true)
        (hs : starts (vecSize t.ty n) r.toNat fun _ => []) := scratchLoad_goes h hl ha hb ra rb hr hd hy hf ho hs
    intro fin
    show (∀ r, _ → _ → _ → execPld1 (.v r) a b s = _) ∧ (∀ r, _ → _ → execPld2 (.v r) a b s = _) ∧ (∀ r, _ → _ → execPld4 (.v r) a b s = _)
    exact ⟨fun r hv hy hs => hgoes hv hy hs, fun r hv hs => hgoes hv rfl hs, fun r hv hs => hgoes hv rfl hs⟩
  case stores =>
    have hgoes {d : Sel} {n : Nat} (hd : t.storable n d = true) (hy : (n != 0 || t.ty.loads) = true)
        (hs : starts (vecSize t.ty n) 0 (s.storeBytes t d n)) := scratchStore_goes h hl ha hb ra rb hr hd hy hf ho hs
    intro fin
    refine ⟨fun hy => ?pst1, ?wide⟩
    case pst1 =>
      show (∀ r, _ → _ → execPst1 (.v r) a b s = _) ∧ (∀ n, _ → execPst1 (.s n) a b s = _) ∧ (∀ k, _ → _ → execPst1 (.k k) a b s = _) ∧
        (_ → execPst1 (.sp .zero) a b s = _)
      exact ⟨fun r hv hs => hgoes hv hy hs, fun n hs => hgoes rfl hy hs, fun k hk hs => hgoes hk hy hs, fun hs => hgoes rfl hy hs⟩
    case wide =>
      show (∀ r, _ → _ → execPst2 (.v r) a b s = _) ∧ (∀ r, _ → _ → execPst4 (.v r) a b s = _)
      exact ⟨fun r hv hs => hgoes hv rfl hs, fun r hv hs => hgoes hv rfl hs⟩

end Sys2Proof.Machine

/-! # Copies and presence bits (O28) -/

namespace Sys2Proof.Machine

open Sys2Proof

/-- A copy command passes its checks (R218): alignment, its scratch range, the translation of every line (`as`, in the state s3), its tack; and the
team's posted entries drain (s4). -/
def CopyChecked (s : State) (i : Nat) (u : Team) (inn : Bool) (dst va len : Nat) (tk : Word) (as : List Acc) (s3 s4 : State) : Prop :=
  dst % 128 = 0 ∧ va % 128 = 0 ∧ len % 128 = 0 ∧ s.rangeFault u dst len = none ∧
    (s.setTeam i u).lineTrs i u (if inn then .read else .write) (copyLines va (scratchKey dst) len) = .ok as s3 ∧
    (∀ z, tackOf tk = some z → (s3.tackCheck u z).1 = none) ∧ s3.drainAll i = .ok s4

/-- The presence bits that a copy command clears at its issue: inwards those of its scratch lines (R217). -/
def State.copyClears (s : State) (u : Team) (inn : Bool) (dst len : Nat) : State :=
  if inn then s.clearPresence u.cluster (linesOf (scratchKey dst) len) else s

/-- A copy command in its queue (R218, R250). -/
def State.copyEntered (s : State) (i : Nat) (u : Team) (fl : Option Nat) (inn tile : Bool) (tk : Word) (as : List Acc) : State :=
  s.enterOp i u { opOf i u s fl (.copy inn tile ((tackOf tk).map scratchKey)) with accs := as, mask := 0 } []

section
variable {s s0 s1 s2 s3 s4 : State} {i : Nat} {t u : Team} {q : Nat → Nat → Word} {n : BitVec 6} {a b : Sel} {x y : Word} {as : List Acc} {inn : Bool}

/-- A copy command that passes its checks enters the copy queue, its presence bits cleared (R218). -/
theorem copyStart_checked {pops : List Pop} {tile : Bool} {dst va len : Nat} {tk : Word} (hr : Reads t pops u q)
    (hf : u.flagFull (t.setFlag true) = false) (hc : CopyChecked s i u inn dst va len tk as s3 s4) :
    copyStart i u s inn tile dst va len tk = .ok ((s4.copyClears u inn dst len).copyEntered i u (t.setFlag true) inn tile tk as) := by
  obtain ⟨hdst, hva, hlen, hrange, htrs, htack, hdrain⟩ := hc
  rw [copyStart_of s s3 s4 i u inn tile dst va len tk as (by rwa [reads_setFlag hr]) hdst hva hlen hrange htrs htack hdrain, reads_setFlag hr]
  rfl

/-- A tile layout whose handle resolves and whose record is valid (R251, R256). -/
theorem withTile_of {single : Bool} {h : Word} {va : Nat} {bs : List Byte} {z : Tile} (hh : s.handle i u h .tile = .ok (some va) s1)
    (hrec : s1.record i u va 16 16 = .ok bs s2) (hz : tileOf (bytesWords 4 bs) = some z) (k : Tile → State → Res) :
    withTile i u s single h k = k z s2 := by
  rw [withTile, withHandle_of s s1 i u _ _ _ _ va hh, withRecord_of s1 s2 i u _ _ _ _ _ bs hrec]
  simp only [show 16 / 4 = 4 from rfl, hz]

variable (h : Issues s i t) (ha : t.scalarSrc a = true) (hb : t.scalarSrc b = true) (ra : t.readable a) (rb : t.readable b)
  (hr : Reads t (popsOnce [(0, a), (1, b)]) u q) (hf : u.flagFull (t.setFlag true) = false) (h0 : s.after i u (popsOnce [(0, a), (1, b)]) = s0)
include h ha hb ra rb hr hf h0

/-- CPYT past its checks: whole tiles of a layout, 4096 bytes each, from the one that S(n+2) names (R251). -/
theorem exec_cpyt_of {va first count : Nat} {bs : List Byte} {z : Tile} (hn : n.toNat ≤ 61) (hh : s0.handle i u (t.s (n + 1)) .tile = .ok (some va) s1)
    (hrec : s1.record i u va 16 16 = .ok bs s2) (hz : tileOf (bytesWords 4 bs) = some z) (hfirst : (t.s (n + 2)).toNat = first)
    (hcount : (s2.scalar u a (q 0 0)).toNat = count) (hin : first + count ≤ z.tiles) (hmost : count ≤ 16)
    (hc : CopyChecked s2 i u true (t.s n).toNat ((t.pair 62 + z.base + first * 4096) % 2 ^ 64) (count * 4096) (s2.scalar u b (q 1 0)) as s3 s4) :
    exec (.cpyt (.s n) a b) s = .next (((s4.copyClears u true (t.s n).toNat (count * 4096)).copyEntered i u (t.setFlag true) true true
      (s2.scalar u b (q 1 0)) as).issued i) := by
  show execCpyt (.s n) a b s = _
  rw [execCpyt, onceAfter_after s i t u q h _ _ _ _ ?operands hr, h0]
  case operands => exact firstCause_operands [(0, a), (1, b)] (by simp [hn, ha, hb]) (by simp [ra, rb])
  simp only [reads_s hr, reads_pair hr, withTile_of hh hrec hz, hfirst, hcount, Nat.not_lt.mpr hin, Nat.not_lt.mpr hmost, if_false,
    copyStart_checked hr hf hc, unpopped_ok]
  rfl

variable (hx : s.scalar t a (q 0 0) = x) (hy : s.scalar t b (q 1 0) = y)
include hx hy

/-- CPY and CPYO past their checks: between the scratch address in S(n) and the memory address S63:S62 plus S(n+1) (R214, R218). -/
theorem copyOp_goes (hn : n.toNat ≤ 62)
    (hc : CopyChecked s0 i u inn (t.s n).toNat ((t.pair 62 + (t.s (n + 1)).toNat) % 2 ^ 64) x.toNat y as s3 s4) :
    copyOp s (.s n) a b inn =
      .next (((s4.copyClears u inn (t.s n).toNat x.toNat).copyEntered i u (t.setFlag true) inn false y as).issued i) := by
  subst h0
  rw [copyOp, once_after s i t u q h _ _ _ ?operands hr]
  case operands => exact firstCause_operands [(0, a), (1, b)] (by simp [hn, ha, hb]) (by simp [ra, rb])
  simp only [scalar_after, reads_scalar hr, hx, hy, reads_s hr, reads_pair hr, copyStart_checked hr hf hc]
  rfl

/-- PINV of a good range, with nothing ahead of it: its lines are absent (R249). -/
theorem exec_pinv_of (hrange : s0.rangeFault u x.toNat y.toNat = none) (ho : s.orderedBehind i true = none)
    (h2 : (s0.setTeam i u).clearPresence u.cluster (linesOf (scratchKey x.toNat) y.toNat) = s2) :
    exec (.pinv a b) s = .next (s2.started i u (opOf i u s2 (t.setFlag true) .done) []) := by
  subst h0
  show execPinv a b s = _
  rw [execPinv, once_after s i t u q h _ _ _ ?operands hr]
  case operands => exact firstCause_operands [(0, a), (1, b)] (by rw [ha, hb]; rfl) (by simp [ra, rb])
  simp only [scalar_after, reads_scalar hr, hx, hy, hrange, orderedBehind_after, ho, doneOp, reads_setFlag hr, hf, h2, Bool.false_eq_true, if_false]
  rfl

/-- PRES of a good range, with the team's posted entries drained: its lines are marked at its completion (R249). -/
theorem exec_pres_of (hrange : s0.rangeFault u x.toNat y.toNat = none) (hd : (s0.setTeam i u).drainAll i = .ok s4) :
    exec (.pres a b) s = .next (s4.started i u (opOf i u s4 (t.setFlag true) (.pres (linesOf (scratchKey x.toNat) y.toNat))) []) := by
  subst h0
  show execPres a b s = _
  rw [execPres, once_after s i t u q h _ _ _ ?operands hr]
  case operands => exact firstCause_operands [(0, a), (1, b)] (by rw [ha, hb]; rfl) (by simp [ra, rb])
  simp only [scalar_after, reads_scalar hr, hx, hy, hrange, reads_setFlag hr, hf, hd, Bool.false_eq_true, if_false]
  rfl

end

/-- Settles O28: CPY and CPYO are `copyOp` of their direction, and with CPYT they come to `copyStart`; PINV and PRES have a lemma each. -/
theorem copyResult : Obligations.CopyResult := by
  intro s s1 s2 s3 s4 i t u q n a b h ha hb ra rb hr hf fl s0 x y runs fin
  refine ⟨fun as hn => ?copies, fun as va bs z hn hh hrec hz => ?tiles, fun hrange => ?presence⟩
  case copies =>
    intro dst va
    show (_ → execCpy (.s n) a b s = _) ∧ (_ → execCpyo (.s n) a b s = _)
    exact ⟨copyOp_goes h ha hb ra rb hr hf rfl rfl rfl hn, copyOp_goes h ha hb ra rb hr hf rfl rfl rfl hn⟩
  case tiles =>
    intro first count hin hmost hc
    exact exec_cpyt_of h ha hb ra rb hr hf rfl hn hh hrec hz rfl rfl hin hmost hc
  case presence =>
    intro ls s5
    exact ⟨fun ho => exec_pinv_of h ha hb ra rb hr hf rfl rfl rfl hrange ho rfl, exec_pres_of h ha hb ra rb hr hf rfl rfl rfl hrange⟩

end Sys2Proof.Machine

/-! # Tacks (O29) -/

namespace Sys2Proof.Machine

open Sys2Proof

/-! ## The word of a tack -/

section
variable {phase expect remain : Nat} (hp : phase < 2) (he : expect < 2 ^ 15) (hm : remain < 2 ^ 16)
include hp he hm

/-- A tack's three fields side by side (R219). -/
theorem toNat_tackWord : (tackWord phase expect remain).toNat = phase * 2 ^ 31 + expect * 2 ^ 16 + remain := by
  rw [tackWord, BitVec.toNat_ofNat, Nat.mod_eq_of_lt hp, Nat.mod_eq_of_lt he, Nat.mod_eq_of_lt hm, Nat.mod_eq_of_lt (by omega)]

/-- Its phase is its top bit. -/
theorem tackPhase_tackWord : tackPhase (tackWord phase expect remain) = phase := by
  have htop : (tackWord phase expect remain).toNat / 2 ^ 31 = phase := by rw [toNat_tackWord hp he hm]; omega
  rw [tackPhase, bit, Nat.testBit_eq_decide_div_mod_eq, htop]
  interval_cases phase <;> rfl

theorem expect_tackWord : bits (tackWord phase expect remain) 30 16 = expect := by
  rw [bits, toNat_tackWord hp he hm, Nat.shiftRight_eq_div_pow]
  omega

theorem remain_tackWord : bits (tackWord phase expect remain) 15 0 = remain := by
  rw [bits, toNat_tackWord hp he hm, Nat.shiftRight_zero]
  omega

end

section
variable {w : Word}

/-- No arrival is awaited: one that comes is refused (R220). -/
theorem tackArrive_refused (h : bits w 15 0 = 0) : tackArrive w = none := by
  simp only [tackArrive, h, if_true]

/-- The last arrival of a phase: the other phase begins, with the expected count (R220). -/
theorem tackArrive_last (h : bits w 15 0 = 1) : tackArrive w = some (tackWord (1 - tackPhase w) (bits w 30 16) (bits w 30 16)) := by
  simp only [tackArrive, h, Nat.one_ne_zero, if_false, if_true]

/-- An arrival before the last counts down (R220). -/
theorem tackArrive_counts (h : 2 ≤ bits w 15 0) : tackArrive w = some (tackWord (tackPhase w) (bits w 30 16) (bits w 15 0 - 1)) := by
  rw [tackArrive, if_neg (by omega), if_neg (by omega)]

end

/-! ## The tack instructions -/

/-- B[0] is the phase that TKWAIT names; the rest of B is ignored (R220). -/
theorem bits_low_bit (w : Word) : bits w 0 0 = w.toNat % 2 := rfl

section
variable {s s0 s1 : State} {i : Nat} {t u : Team} {q : Nat → Nat → Word} {a b : Sel} {key : Nat}

/-- A tack operation past its checks, at a word that is present and with nothing ahead of it: its effect on the word (R252). -/
theorem tackOp_goes (h : Issues s i t) {ok : Team → Bool} {ss : List (Nat × Sel)} (hok : ok t = true) (ra : t.readable a)
    (rs : ∀ f ∈ ss, t.readable f.2) (hr : Reads t (popsOnce ((0, a) :: ss)) u q) (ho : s.orderedBehind i true = none)
    (h0 : s.after i u (popsOnce ((0, a) :: ss)) = s0) (hk : s0.tackCheck u (s.scalar t a (q 0 0)).toNat = (none, true))
    (hkey : scratchKey (s.scalar t a (q 0 0)).toNat = key) (eff : Nat → Team → (Nat → Word) → Nat → State → Res) :
    tackOp s ok ((0, a) :: ss) eff = .next (settle i t (eff i u (fun f => q f 0) key s0)) := by
  subst h0 hkey
  rw [tackOp, once_after s i t u q h _ _ _ ?operands hr]
  case operands =>
    have hpass := firstCause_operands (c := .illegalOperand) ((0, a) :: ss) hok (List.forall_mem_cons.mpr ⟨ra, rs⟩)
    rwa [List.map_map] at hpass
  simp only [List.find?_cons_of_pos, beq_self_eq_true, scalar_after, reads_scalar hr, hk, orderedBehind_after, ho]

/-- An arrival that is counted: the team's posted entries have drained and its earlier writes are visible at CLUSTER scope (R220, R284). -/
theorem tackArrival_counted {v : Word} (hd : (s.setTeam i u).drainAll i = .ok s1) (hv : s1.coveredAt 2 (some i) (s1.dom u) s1.stamp = true)
    (hw : tackArrive (s1.scratchWord u.cluster key) = some v) (k : Nat → State → Res) :
    tackArrival i u key s k = k (tackPhase (s1.scratchWord u.cluster key)) (s1.scratchWrite u.cluster key (natBytes v.toNat 4)) := by
  simp only [tackArrival, hd, hv, hw, Bool.not_true, Bool.false_eq_true, if_false]

section
variable {n : Nat} (h : Issues s i t) (ha : t.scalarSrc a = true) (hb : t.scalarSrc b = true) (ra : t.readable a) (rb : t.readable b)
  (hr : Reads t (popsOnce [(0, a), (1, b)]) u q) (ho : s.orderedBehind i true = none) (h0 : s.after i u (popsOnce [(0, a), (1, b)]) = s0)
  (hk : s0.tackCheck u (s.scalar t a (q 0 0)).toNat = (none, true)) (hkey : scratchKey (s.scalar t a (q 0 0)).toNat = key)
  (hn : (s.scalar t b (q 1 0)).toNat = n)
include h ha hb ra rb hr ho h0 hk hkey

/-- A tack instruction of A and B is its effect on the word that A names. -/
theorem tackOp_two (eff : Nat → Team → (Nat → Word) → Nat → State → Res) :
    tackOp s (fun t => t.scalarSrc a && t.scalarSrc b) [(0, a), (1, b)] eff = .next (settle i t (eff i u (fun f => q f 0) key s0)) :=
  tackOp_goes h (by rw [ha, hb]; rfl) ra (by simp [rb]) hr ho h0 hk hkey eff

include hn

/-- TKINIT of a count in range: phase 0, with the count both expected and awaited (R220). -/
theorem exec_tkinit_of (h1 : 1 ≤ n) (h2 : n ≤ 32767) :
    exec (.tkinit a b) s = .next (((s0.setTeam i u).scratchWrite u.cluster key (natBytes (tackWord 0 n n).toNat 4)).issued i) := by
  show execTkinit a b s = _
  rw [execTkinit, tackOp_two h ha hb ra rb hr ho h0 hk hkey]
  subst h0
  simp only [scalar_after, reads_scalar hr, hn, h1, h2, and_self, if_true]
  rfl

/-- TKEXP whose sum is in range: that many more arrivals are awaited (R220). -/
theorem exec_tkexp_of {w : Word} (hw : s0.scratchWord u.cluster key = w) (h2 : bits w 15 0 + n ≤ 65535) :
    exec (.tkexp a b) s = .next (((s0.setTeam i u).scratchWrite u.cluster key
      (natBytes (tackWord (tackPhase w) (bits w 30 16) (bits w 15 0 + n)).toNat 4)).issued i) := by
  show execTkexp a b s = _
  rw [execTkexp, tackOp_two h ha hb ra rb hr ho h0 hk hkey]
  subst h0
  simp only [scalar_after, reads_scalar hr, hw, hn, h2, if_true]
  rfl

/-- TKWAIT holds while the word is in the phase that B[0] names, and else has acquired (R220). -/
theorem exec_tkwait_of :
    exec (.tkwait a b) s = .next ((if tackPhase (s0.scratchWord u.cluster key) = n % 2 then s0.setTeam i { u with hold := some (.tack key (n % 2)) }
      else (s0.setTeam i u).tackAcquire i).issued i) := by
  show execTkwait a b s = _
  rw [execTkwait, tackOp_two h ha hb ra rb hr ho h0 hk hkey]
  subst h0
  simp only [scalar_after, reads_scalar hr, bits_low_bit, hn]
  split <;> rfl

end

section
variable {v : Word} (h : Issues s i t) (ha : t.scalarSrc a = true) (ra : t.readable a) (hr : Reads t (popsOnce [(0, a)]) u q)
  (ho : s.orderedBehind i true = none) (h0 : s.after i u (popsOnce [(0, a)]) = s0)
  (hk : s0.tackCheck u (s.scalar t a (q 0 0)).toNat = (none, true)) (hkey : scratchKey (s.scalar t a (q 0 0)).toNat = key)
  (hd : (s0.setTeam i u).drainAll i = .ok s1) (hv : s1.coveredAt 2 (some i) (s1.dom u) s1.stamp = true)
  (hw : tackArrive (s1.scratchWord u.cluster key) = some v)
include h ha ra hr ho h0 hk hkey hd hv hw

/-- TKARR whose arrival is counted goes on (R220). -/
theorem exec_tkarr_of : exec (.tkarr a) s = .next ((s1.scratchWrite u.cluster key (natBytes v.toNat 4)).issued i) := by
  show execTkarr a s = _
  rw [execTkarr, tackOp_goes h ha ra (List.forall_mem_nil _) hr ho h0 hk hkey, tackArrival_counted hd hv hw]
  rfl

/-- TKAW whose arrival is counted holds while the word stays in the phase that it arrived at, and else has acquired (R220). -/
theorem exec_tkaw_of {ph : Nat} {s2 : State} (hph : tackPhase (s1.scratchWord u.cluster key) = ph)
    (h2 : s1.scratchWrite u.cluster key (natBytes v.toNat 4) = s2) :
    exec (.tkaw a) s = .next ((if tackPhase (s2.scratchWord u.cluster key) = ph then s2.modTeam i fun t => { t with hold := some (.tack key ph) }
      else s2.tackAcquire i).issued i) := by
  show execTkaw a s = _
  rw [execTkaw, tackOp_goes h ha ra (List.forall_mem_nil _) hr ho h0 hk hkey, tackArrival_counted hd hv hw, hph, h2]
  split <;> rfl

end

end

/-- Settles O29: the three fields of a tack word give the cases of an arrival; each tack instruction is `tackOp` of its effect on the word. -/
theorem tackResult : Obligations.TackResult := by
  refine ⟨fun phase expect remain hp he hm => ?word, fun s i t u q a b h ha ra ho => ⟨fun hb rb hr => ?two, fun hr => ?arrivals⟩⟩
  case word =>
    intro w
    have hphase : tackPhase w = phase := tackPhase_tackWord hp he hm
    have hexpect : bits w 30 16 = expect := expect_tackWord hp he hm
    have hremain : bits w 15 0 = remain := remain_tackWord hp he hm
    refine ⟨⟨hphase, hexpect, hremain⟩, fun h0 => tackArrive_refused (hremain.trans h0), fun h1 => ?last, fun h2 => ?counts⟩
    case last => rw [tackArrive_last (hremain.trans h1), hphase, hexpect]
    case counts => rw [tackArrive_counts (hremain.symm ▸ h2), hphase, hexpect, hremain]
  case two =>
    intro s0 n w put hk
    have htkwait := exec_tkwait_of h ha hb ra rb hr ho rfl hk rfl rfl
    exact ⟨exec_tkinit_of h ha hb ra rb hr ho rfl hk rfl rfl, exec_tkexp_of h ha hb ra rb hr ho rfl hk rfl rfl rfl,
      fun hph => htkwait.trans (by rw [if_pos hph]), fun hph => htkwait.trans (by rw [if_neg hph])⟩
  case arrivals =>
    intro s0 s1 v hk hd hv hw ph s2
    have htkaw := exec_tkaw_of h ha ra hr ho rfl hk rfl hd hv hw rfl rfl
    exact ⟨exec_tkarr_of h ha ra hr ho rfl hk rfl hd hv hw, fun hph => htkaw.trans (by rw [if_pos hph]), fun hph => htkaw.trans (by rw [if_neg hph])⟩

end Sys2Proof.Machine

/-! # Memory at its home, and the state after reset (O58, O59) -/

namespace Sys2Proof.Machine

open Sys2Proof

/-- The keys of a run of bytes, each tagged with the key that it was written under (R384). -/
theorem cellGet_tagged {β : Type} (d : β) (k : β) (a c n : Nat) (tags : List (Nat × β)) :
    cellGet d ((List.range n).foldl (fun m i => cellPut m (a + i) k) tags) c = if a ≤ c ∧ c < a + n then k else cellGet d tags c := by
  induction n with
  | zero => rw [if_neg (by omega)]; rfl
  | succ n ih =>
    rw [List.range_succ, List.foldl_append, List.foldl_cons, List.foldl_nil]
    by_cases hc : c = a + n
    · rw [hc, cellGet_cellPut_same, if_pos (by omega)]
    · rw [cellGet_cellPut_ne _ _ _ _ _ (Ne.symm hc), ih]
      exact if_congr (by omega) rfl rfl

section
variable {s : State} {k : Key} {a c : Nat} {bs : List Byte}

/-- HBM is in clear: it reads the same under every key (R384). -/
theorem homeByte_clear (s : State) (k : Key) (h : keyTier a = 0) : s.homeByte k a = memRead s.mem a := if_pos h

/-- A byte outside a run written at home reads as before, under every key. -/
theorem homeByte_homeWrite_outside (k' : Key) (h : c < a ∨ a + bs.length ≤ c) : (s.homeWrite k a bs).homeByte k' c = s.homeByte k' c := by
  have hmem : memRead (s.homeWrite k a bs).mem c = memRead s.mem c := memRead_memWriteN_outside bs s.mem a c h
  have htag : cellGet Key.none (s.homeWrite k a bs).tags c = cellGet Key.none s.tags c := by
    simp only [State.homeWrite, apply_ite (cellGet Key.none · c), cellGet_tagged, show ¬(a ≤ c ∧ c < a + bs.length) by omega, if_false, ite_self]
  simp only [State.homeByte, hmem, htag]

/-- A byte of a run written at home reads back under the key it was written under (R384), in clear or tagged. -/
theorem homeByte_homeWrite_inside {i : Nat} (hi : i < bs.length) (ht : keyTier (a + i) = keyTier a) :
    (s.homeWrite k a bs).homeByte k (a + i) = bs[i] := by
  have hmem : memRead (s.homeWrite k a bs).mem (a + i) = bs[i] := memRead_memWriteN_inside bs s.mem a i hi
  by_cases h0 : keyTier a = 0
  · rw [homeByte_clear _ _ (ht.trans h0), hmem]
  · have htag : cellGet Key.none (s.homeWrite k a bs).tags (a + i) = k := by
      simp only [State.homeWrite, h0, if_false, cellGet_tagged]
      exact if_pos (by omega)
    simp only [State.homeByte, hmem, htag, or_true, if_true, ite_self]

/-- A run written at home inside one tier reads back whole. -/
theorem homeBytes_homeWrite (ht : ∀ i < bs.length, keyTier (a + i) = keyTier a) : (s.homeWrite k a bs).homeBytes k a bs.length = bs := by
  refine List.ext_getElem (by simp [State.homeBytes]) fun i h1 h2 => ?_
  simp only [State.homeBytes, List.getElem_map, List.getElem_range]
  exact homeByte_homeWrite_inside h2 (ht i h2)

end

/-- Settles O58: a byte inside the run and one outside it have a lemma each; a home write writes memory as `memWriteN` does, which keeps its form. -/
theorem homeMemoryRule : Obligations.HomeMemoryRule := by
  intro s k a bs
  exact ⟨homeBytes_homeWrite, fun c k' => homeByte_homeWrite_outside k', memWf_memWriteN bs s.mem a, fun k' c => homeByte_clear s k'⟩

/-- Settles O59: each table is empty after reset, so each record read is its initial one. -/
theorem resetState : Obligations.ResetState := by
  have hcore k : (State.reset.core k).enabled = false := rfl
  have hctx p c : (State.reset.ctx p c).en = false ∧ (State.reset.ctx p c).fabNvd = 0 ∧ (State.reset.ctx p c).keyState = .random := ⟨rfl, rfl, rfl⟩
  have hqueue k : (State.reset.queue k).en = false := rfl
  exact ⟨rfl, rfl, rfl, rfl, rfl, rfl, rfl, rfl, rfl, hcore, hctx, hqueue⟩

end Sys2Proof.Machine

/-! # A translation changes only what the walkers cache and the choices made (O23)

One rule for each operation of Machine/Translate, in the file's order: what leads from a state by caches and choices alone leads on so. -/

namespace Sys2Proof.Machine

open Sys2Proof

/-- A state that differs from s in the TLB, the walker caches and the choice counter alone. -/
def State.Cached (s u : State) : Prop := ∃ tlb walks tick, u = { s with tlb := tlb, walks := walks, tick := tick }

section
variable {s u : State}

theorem State.Cached.refl (s : State) : s.Cached s := ⟨s.tlb, s.walks, s.tick, rfl⟩

theorem choose_cached (h : s.Cached u) (n : Nat) : s.Cached (u.choose n).2 := by
  obtain ⟨tlb, walks, tick, rfl⟩ := h
  exact ⟨tlb, walks, tick + 1, rfl⟩

theorem setTlb_cached (h : s.Cached u) (tlb : List Xlat) : s.Cached { u with tlb := tlb } := by
  obtain ⟨_, walks, tick, rfl⟩ := h
  exact ⟨tlb, walks, tick, rfl⟩

theorem cacheEntry_cached (h : s.Cached u) (p c die stage key e base size : Nat) : s.Cached (u.cacheEntry p c die stage key e base size) := by
  obtain ⟨tlb, _, tick, rfl⟩ := h
  exact ⟨tlb, _, tick, rfl⟩

/-- An entry is read from memory, or from the walker cache by a free choice (R348). -/
theorem entry_cached (h : s.Cached u) (p c die stage key : Nat) : s.Cached (u.entry p c die stage key).2 := by
  fun_cases State.entry with
  | case1 | case2 => exact h
  | case3 _ _ _ _ _ s1 hchoose =>
    have hs1 : (u.choose 2).2 = s1 := congrArg Prod.snd hchoose
    exact hs1 ▸ choose_cached h 2

theorem walk2_cached (h : s.Cached u) (p c die pa table n : Nat) : s.Cached (u.walk2 p c die pa table n).2 := by
  fun_induction State.walk2 <;> grind -ring -linarith -lia [entry_cached, cacheEntry_cached]

theorem stage2_cached (h : s.Cached u) (p c die : Nat) (team : Option Nat) (pa : Nat) (k : Kind) : s.Cached (u.stage2 p c die team pa k).2 := by
  fun_cases State.stage2 <;> grind -ring -linarith -lia [walk2_cached]

theorem walk1_cached (h : s.Cached u) (p c die : Nat) (team : Option Nat) (va table : Nat) (nodes : List Nat) (n : Nat) :
    s.Cached (u.walk1 p c die team va table nodes n).2 := by
  fun_induction State.walk1 <;> grind -ring -linarith -lia [stage2_cached, entry_cached, cacheEntry_cached]

theorem evictXlat_cached (h : s.Cached u) (core : Nat) : s.Cached (u.evictXlat core) := by
  fun_cases State.evictXlat <;> grind -ring -linarith -lia [choose_cached, setTlb_cached]

theorem cacheXlat_cached (h : s.Cached u) (x : Xlat) (lane : Option (Nat × Nat)) : s.Cached (u.cacheXlat x lane) :=
  setTlb_cached (evictXlat_cached (setTlb_cached h _) _) _

variable (p c : Nat) (core : Option Nat) (die : Nat) (team lane : Option Nat) (va : Nat) (k : Kind)

/-- A walk caches its combination where it neither faulted nor held (R348). -/
theorem walk_cached (h : s.Cached u) : s.Cached (u.walk p c core die team lane va k).2 := by
  fun_cases State.walk <;> grind -ring -linarith -lia [walk1_cached, stage2_cached, cacheXlat_cached]

/-- A cached combination is used by a free choice (R348), and else the walk is made. -/
theorem lookup_cached (h : s.Cached u) : s.Cached (u.lookup p c core die team lane va k).2 := by
  fun_cases State.lookup <;> grind -ring -linarith -lia [walk_cached, choose_cached]

theorem translate_cached (h : s.Cached u) : s.Cached (u.translate p c core die team lane va k).2 := by
  fun_cases State.translate <;> grind -ring -linarith -lia [lookup_cached]

end

/-- Settles O23: a translation from s leads on from s itself by caches and choices alone. -/
theorem translationFrame : Obligations.TranslationFrame := by
  intro s p c die va core team lane k
  exact translate_cached p c core die team lane va k (.refl s)

end Sys2Proof.Machine

/-! # SMPL and TLLD (O26) -/

namespace Sys2Proof.Machine

open Sys2Proof

section
variable {s s1 s2 s3 : State} {i : Nat} {t u : Team} {q : Nat → Nat → Word} {r n : BitVec 7} {b : Sel} {va : Nat} {bs : List Byte}
  {good : List Acc} {bad : List (LaneFault × Acc)}

variable (h : Issues s i t) (hl : t.active.isEmpty = false) (hv : t.vOk r 1 = true) (hn : t.vOk n 2 = true) (hb : t.scalarSrc b = true)
  (rb : t.readable b) (hr : Reads t (popsOnce [(1, b)]) u q) (hf : u.flagFull (t.setFlag false) = false) (hrec : s1.record i u va 16 16 = .ok bs s2)
include h hl hv hn hb rb hr hf hrec

/-- SMPL: one access for each texel with a weight in the image, by the record read at issue (R254, R255). -/
theorem exec_smpl_of {x : Sampler} (hh : (s.after i u (popsOnce [(1, b)])).handle i u (s.scalar t b (q 1 0)) .sampler = .ok (some va) s1)
    (hx : samplerOf (bytesWords 4 bs) = some x) {cs : List (Nat × Word × Word)} (hcs : (t.active.map fun l => (l, t.v l n.toNat, t.v l (n.toNat + 1))) = cs)
    (hs : Starts s2 i u .read ((cs.map fun c => x.accs u c.1 c.2.1 c.2.2 t.flush).flatten) good bad s3) :
    exec (.smpl (.v r) (.v n) b) s =
      .next (s3.started i u { opOf i u s3 (t.setFlag false) (.sample (bytesWords 4 bs) t.flush r.toNat cs) with accs := good } bad) := by
  show execSmpl (.v r) (.v n) b s = _
  rw [execSmpl, sweepHandle_after s i t u q h _ _ _ _ _ _ ?operands hl hr]
  case operands => exact firstCause_operands [(1, b)] (by simp [hv, hn, hb]) (by simp [rb])
  have hstart := startOp_of s2 s3 i u false (.sample (bytesWords 4 bs) t.flush r.toNat cs) _ good bad id (by rwa [reads_setFlag hr]) hs
  simp only [scalar_after, reads_scalar hr, withHandle_of _ s1 i u _ _ _ _ va hh, withRecord_of s1 s2 i u _ _ _ _ _ bs hrec,
    show 16 / 4 = 4 from rfl, hx, ifActive_of _ _ _ _ ((reads_active hr).symm ▸ hl), reads_active hr, reads_v hr, reads_flush hr, hcs, hstart,
    unpopped_ok, id, reads_setFlag hr]
  rfl

/-- TLLD: one access for each lane inside the layout; a lane outside it gets 0 at once (R256). -/
theorem exec_tlld_of {y : Tile} (hh : (s.after i u (popsOnce [(1, b)])).handle i u (s.scalar t b (q 1 0)) .tile = .ok (some va) s1)
    (hy : tileOf (bytesWords 4 bs) = some y) {inside : Nat → Bool}
    (hin : (fun l => decide ((t.v l n.toNat).toNat < y.rows) && decide ((t.v l (n.toNat + 1)).toNat < y.cols)) = inside)
    (hs : Starts s2 i u .read ((t.active.filter inside).map fun l =>
      Acc.new l ((t.pair 62 + y.addr (t.v l n.toNat).toNat (t.v l (n.toNat + 1)).toNat) % 2 ^ 64) 4 4 r.toNat []) good bad s3) :
    exec (.tlld (.v r) (.v n) b) s =
      .next (((s3.enterOp i u { opOf i u s3 (t.setFlag false) (.load .tile false 32 false) with accs := good } bad).modTeam i fun t' =>
        (t'.active.filter (!inside ·)).foldl (fun t' l => t'.setV l r.toNat 0) t').issued i) := by
  subst hin
  show execTlld (.v r) (.v n) b s = _
  rw [execTlld, sweepHandle_after s i t u q h _ _ _ _ _ _ ?operands hl hr]
  case operands => exact firstCause_operands [(1, b)] (by simp [hv, hn, hb]) (by simp [rb])
  have hstart := startOp_of s2 s3 i u false (.load .tile false 32 false) _ good bad id (by rwa [reads_setFlag hr]) hs
  simp only [scalar_after, reads_scalar hr, withTile_of hh hrec hy, ifActive_of _ _ _ _ ((reads_active hr).symm ▸ hl), reads_active hr, reads_v hr,
    reads_pair hr, hstart, id, unpopped_ok, reads_setFlag hr]
  rfl

end

/-- Settles O26: SMPL and TLLD have a lemma each; both resolve a handle, read its record and start one access for each texel or element. -/
theorem sampledLoadResult : Obligations.SampledLoadResult := by
  intro s s1 s2 s3 i t u q r n b va bs good bad h hl hv hn hb rb hr hf hrec h' s0
  exact ⟨fun x hh hx hs => exec_smpl_of h hl hv hn hb rb hr hf hrec hh hx rfl hs,
    fun y hh hy hs => exec_tlld_of h hl hv hn hb rb hr hf hrec hh hy rfl hs⟩

end Sys2Proof.Machine

/-! # PREF, CFLUSH, CINV and PFENCE (O27) -/

namespace Sys2Proof.Machine

open Sys2Proof

/-- An operation that is done at its issue: its effect, and its completion outstanding on its flag. -/
theorem doneOp_of {i : Nat} {u : Team} {s : State} {cls : Bool} (hf : u.flagFull (u.setFlag cls) = false) (eff : State → State) :
    doneOp i u s cls eff = .ok ((eff (s.setTeam i u)).enterOp i u (opOf i u (eff (s.setTeam i u)) (u.setFlag cls) .done) []) := by
  simp only [doneOp, hf, Bool.false_eq_true, if_false]

section
variable {s s2 : State} {i : Nat} {t u : Team} {q : Nat → Nat → Word} {a b : Sel} {good : List Acc} {bad : List (LaneFault × Acc)}

/-- The lines that an instruction of R258 names, one for each active lane. -/
def State.linesNamed (s : State) (t : Team) (q : Nat → Nat → Word) (a b : Sel) : List Acc :=
  t.active.map fun l =>
    let va := (t.pair 62 + (s.src t a l (q 0 l)).toNat + (s.scalar t b (q 1 0)).toNat) % 2 ^ 64
    Acc.new l (va - va % 128) 128 1 0 []

/-- Taking the popped words out leaves the lines that its lanes name. -/
theorem lineAccs_after {pops ps : List Pop} (hr : Reads t pops u q) (v : Team) : lineAccs u (s.after i v ps) a b q = s.linesNamed t q a b := by
  simp only [lineAccs, State.linesNamed, Team.vecAddr, reads_active hr, reads_pair hr, src_after, reads_src hr, scalar_after, reads_scalar hr]

section
variable (h : Issues s i t) (hf : u.flagFull (t.setFlag true) = false) (hl : t.active.isEmpty = false) (ha : t.vectorSrc a = true)
  (hb : t.scalarSrc b = true) (ra : t.readable a) (rb : t.readable b) (hr : Reads t (popsVS t a b) u q)
include h hf hl ha hb ra rb hr

/-- PREF: its lines are brought into the team's L1, and nothing else waits (R258). -/
theorem exec_pref_of (h2 : ((s.after i u (popsVS t a b)).setTeam i u).prefetch i u (s.linesNamed t q a b) = s2) :
    exec (.pref a b) s = .next (s2.started i u (opOf i u s2 (t.setFlag true) .done) []) := by
  show execPref a b s = _
  rw [execPref, sweepOn_after s i t u q h _ _ _ _ _ ?operands hl hr, doneOp_of ((reads_setFlag hr true).symm ▸ hf), lineAccs_after hr, h2,
    reads_setFlag hr, settle_enterOp]
  case operands => exact firstCause_operands [(0, a), (1, b)] (by simp [ha, hb]) (by simp [ra, rb])

/-- CFLUSH and CINV: their lines are looked up, and dropped at their completion (R258). -/
theorem flushOp_goes (icache : Bool) (hs : Starts (s.after i u (popsVS t a b)) i u .look (s.linesNamed t q a b) good bad s2) :
    flushOp s a b icache = .next (s2.started i u { opOf i u s2 (t.setFlag true) (.flush icache) with accs := good } bad) := by
  rw [flushOp, sweepOn_after s i t u q h _ _ _ _ _ ?operands hl hr, lineAccs_after hr,
    startOp_of _ s2 i u true (.flush icache) _ good bad id ((reads_setFlag hr true).symm ▸ hf) hs, reads_setFlag hr, settle_enterOp]
  · rfl
  case operands => exact firstCause_operands [(0, a), (1, b)] (by simp [ha, hb]) (by simp [ra, rb])

end

/-- PFENCE of two or more paths: with the load-store path among them its team's posted entries have drained (R257). -/
theorem exec_pfence_of {d : BitVec 8} (h : Issues s i t) (hf : t.flagFull (t.setFlag true) = false) (hd : d.toNat < 16) (h2 : 2 ≤ popCount d.toNat 4)
    (hdrain : if d.getLsbD 0 then (({ s with cur := none } : State).setTeam i t).drainAll i = .ok s2
      else s2 = ({ s with cur := none } : State).setTeam i t) :
    exec (.pfence d) s = .next (s2.started i t { opOf i t s2 (t.setFlag true) (.pfence d.toNat) with mask := 0 } []) := by
  show execPfence d s = _
  rw [execPfence, once_plain s i t h _ _ (by simp [need, pathSetOk, hd, h2, firstCause])]
  have hbit : d.toNat.testBit 0 = d.getLsbD 0 := rfl
  simp only [hf, Bool.false_eq_true, if_false, hbit]
  split at hdrain
  case isTrue hd0 => simp only [hd0, if_true, hdrain, settle_enterOp]
  case isFalse hd0 => simp only [hd0, Bool.false_eq_true, if_false, hdrain, settle_enterOp]

end

/-- Settles O27: the lane forms act on the lines that their lanes name; PFENCE by whether the load-store path is in its set. -/
theorem cacheOpResult : Obligations.CacheOpResult := by
  intro s s2 i t u q a b h hf
  refine ⟨fun hl ha hb ra rb hr => ?lanes, fun hu d hd h2 => ?pfence⟩
  case lanes =>
    intro va accs s0
    show (_ → _) ∧ ∀ good bad, _ → execCflush a b s = _ ∧ execCinv a b s = _
    exact ⟨fun h2 => exec_pref_of h hf hl ha hb ra rb hr h2.symm,
      fun good bad hs => ⟨flushOp_goes h hf hl ha hb ra rb hr false hs, flushOp_goes h hf hl ha hb ra rb hr true hs⟩⟩
  case pfence =>
    subst hu
    exact exec_pfence_of h hf hd h2

end Sys2Proof.Machine

/-! # FENCE (O30) -/

namespace Sys2Proof.Machine

open Sys2Proof

/-- The team of a fence that has waited for its reads: one that acquires beyond its team leaves its older copies (R283). -/
def Team.afterFence (t : Team) (s : State) : Team := if t.acqScope.isSome ∧ t.scope ≠ 0 then { t with acq := s.acquireAt t t.scope } else t

/-- The state that such a fence leaves: an acquire beyond its team takes a stamp of its own. -/
def State.afterFence (s : State) (i : Nat) (t : Team) : State :=
  (if t.acqScope.isSome ∧ t.scope ≠ 0 then s.bump else s).setTeam i (t.afterFence s)

/-- An acquire changes which copies a team may read, nothing else of it. -/
theorem afterFence_frame (t : Team) (s : State) : ∃ acq, t.afterFence s = { t with acq := acq } := by
  unfold Team.afterFence
  split
  · exact ⟨_, rfl⟩
  · exact ⟨t.acq, rfl⟩

theorem afterFence_setFlag (t : Team) (s : State) (cls : Bool) : (t.afterFence s).setFlag cls = t.setFlag cls := by
  obtain ⟨_, hu⟩ := afterFence_frame t s
  rw [hu]
  rfl
theorem afterFence_flagFull (t : Team) (s : State) (fl : Option Nat) : (t.afterFence s).flagFull fl = t.flagFull fl := by
  obtain ⟨_, hu⟩ := afterFence_frame t s
  rw [hu]
  rfl
theorem afterFence_acqScope (t : Team) (s : State) : (t.afterFence s).acqScope = t.acqScope := by
  obtain ⟨_, hu⟩ := afterFence_frame t s
  rw [hu]
  rfl

/-- A release wider than its team whose posted entries have drained is in flight, for its scope (R283, R284). -/
theorem fenceRelease_of {s s1 : State} {i : Nat} {u : Team} (sc : Nat) (hf : u.flagFull (u.setFlag true) = false)
    (hd : (s.setTeam i u).drainAll i = .ok s1) :
    fenceRelease i u s sc = .ok (s1.enterOp i u { opOf i u s1 (u.setFlag true) .fence with rel := some sc, acq := u.acqScope, mask := 0 } []) := by
  simp only [fenceRelease, hf, Bool.false_eq_true, if_false, hd]

section
variable {s s0 s3 : State} {i : Nat} {t : Team} (h : Issues s i t) (ho : t.order ≠ 0) (h0 : { s with cur := none } = s0)
  (ha : t.acqScope.isSome = true → s0.readsDone i s0.stamp = true)

include ha in
/-- A fence that acquires waits for nothing where its team's reads are done. -/
theorem fence_reads_done : (t.acqScope.isSome && !s0.readsDone i s0.stamp) = false := by
  cases hacq : t.acqScope.isSome with
  | false => rfl
  | true => rw [ha hacq]; rfl

include h ho h0 ha

/-- A fence that acquires alone is done once its team's reads are (R283). -/
theorem exec_fence_acquire (hrel : t.relScope = none) : exec .fence s = .next ((s0.afterFence i t).issued i) := by
  show execFence s = _
  rw [execFence, once_plain s i t h _ _ (by simp [need, ho, firstCause]), h0]
  simp only [fence_reads_done ha, Bool.false_eq_true, if_false, hrel]
  rfl

variable (hf : t.flagFull (t.setFlag true) = false)
include hf

/-- A release at TEAM scope orders nothing more (R283). -/
theorem exec_fence_team (hrel : t.relScope = some 0) :
    exec .fence s = .next ((s0.afterFence i t).started i (t.afterFence s0) (opOf i (t.afterFence s0) (s0.afterFence i t) (t.setFlag true) .done) []) := by
  have hfull : (t.afterFence s0).flagFull ((t.afterFence s0).setFlag true) = false := by rwa [afterFence_flagFull, afterFence_setFlag]
  show execFence s = _
  rw [execFence, once_plain s i t h _ _ (by simp [need, ho, firstCause]), h0]
  simp only [fence_reads_done ha, Bool.false_eq_true, if_false, hrel]
  exact congrArg (fun r => Host.Outcome.next (settle i t r)) ((doneOp_of hfull id).trans (by rw [afterFence_setFlag]))

/-- A wider release is outstanding on its flag, once the posted entries have drained (R283, R284). -/
theorem exec_fence_release {sc : Nat} (hsc : sc ≠ 0) (hrel : t.relScope = some sc) (hd : (s0.afterFence i t).drainAll i = .ok s3) :
    exec .fence s = .next (s3.started i (t.afterFence s0)
      { opOf i (t.afterFence s0) s3 (t.setFlag true) .fence with rel := some sc, acq := t.acqScope, mask := 0 } []) := by
  show execFence s = _
  rw [execFence, once_plain s i t h _ _ (by simp [need, ho, firstCause]), h0]
  simp only [fence_reads_done ha, Bool.false_eq_true, if_false, hrel]
  have hfull : (t.afterFence s0).flagFull ((t.afterFence s0).setFlag true) = false := by rwa [afterFence_flagFull, afterFence_setFlag]
  exact congrArg (fun r => Host.Outcome.next (settle i t r)) ((fenceRelease_of sc hfull hd).trans (by rw [afterFence_setFlag, afterFence_acqScope]))

end

/-- Settles O30: one lemma for each release scope, none, TEAM or a wider one. -/
theorem fenceResult : Obligations.FenceResult := by
  intro s i t h ho hf s0 ha wide u s2
  exact ⟨fun hrel => exec_fence_acquire h ho rfl ha hrel, fun hrel => exec_fence_team h ho rfl ha hf hrel,
    fun sc s3 hsc hrel hd => exec_fence_release h ho rfl ha hf hsc hrel hd⟩

end Sys2Proof.Machine

/-! # QBIND, QTRY and QFENCE (O32) -/

namespace Sys2Proof.Machine

open Sys2Proof

/-- The team with a queue register bound, empty, to a port: an uncorrectable error there ends (R239, R397). -/
def Team.bound (t : Team) (n : BitVec 4) (p : QBind) : Team :=
  { t.mend (qkey n.toNat) with qregs := t.qregs.set n.toNat { bind := p, fifo := [], staged := [] } n.isLt }

/-- No record is staged in a port, in part or whole (R238). -/
def QPort.clean (p : QPort) : Prop := p.partial' = false ∧ p.whole = false

/-- Whether a port number is one of R237's does not depend on the die. -/
theorem portBind_isSome (b v w : Nat) : (portBind b v).isSome = (portBind b w).isSome := by
  unfold portBind
  split_ifs <;> rfl

/-- Ports 0 to 2 name no die (R237). -/
theorem portBind_plain {b : BitVec 8} (h : b.toNat < 3) (v : Nat) :
    portBind b.toNat v = some (if b = 0 then .unbound else if b = 1 then .fifo else .copy) := by
  have hb : b = 0 ∨ b = 1 ∨ b = 2 := by bv_omega
  rcases hb with rfl | rfl | rfl <;> rfl

/-- Ports 0x10 to 0x3F are the engines' (R237). -/
theorem portBind_engine {b : Nat} (h1 : 0x10 ≤ b) (h2 : b < 0x40) (v : Nat) : portBind b v = some (.engine v (b / 16 - 1) (b % 16)) := by
  rw [portBind, if_neg (by omega), if_neg (by omega), if_neg (by omega), if_pos ⟨h1, h2⟩]

/-- An effect on the team's record alone, in the state after the sources are read. -/
theorem settle_setTeam_after (s : State) (i : Nat) (t u v : Team) (pops : List Pop) :
    settle i t (.ok ((s.after i v pops).setTeam i u)) = s.done i u := settle_setTeam_if s i t u v _

section
variable {s : State} {i : Nat} {t u : Team} {q : Nat → Nat → Word} {n : BitVec 4} {a : Sel} {b : BitVec 8} (h : Issues s i t)
include h

/-- QBIND of a register with no record staged and no tracer walk into it: it is bound to the port; A is read for an engine's alone (R239). -/
theorem exec_qbind_goes {eng : Bool} {v : Nat} {p : QBind} (he : (decide (0x10 ≤ b.toNat) && decide (b.toNat < 0x40)) = eng)
    (ha : eng = true → t.scalarSrc a = true ∧ t.readable a) (hr : Reads t (popsOnce (if eng then [(0, a)] else [])) u q)
    (hv : (s.scalar t a (q 0 0)).toNat = v) (hdie : eng = true → ((s.after i u (popsOnce (if eng then [(0, a)] else []))).physDie t.part t.ctx v).isSome = true)
    (hp : portBind b.toNat v = some p) (hc : u.qregs[n.toNat].clean)
    (hw : (s.after i u (popsOnce (if eng then [(0, a)] else []))).walkInto i n.toNat = false) :
    exec (.qbind (.q n) a b) s = .next (s.done i (u.bound n p)) := by
  have hport : (portBind b.toNat 0).isSome = true := by rw [portBind_isSome _ _ v, hp]; rfl
  have hnodie : ¬(eng = true ∧ ((s.after i u (popsOnce (if eng then [(0, a)] else []))).physDie t.part t.ctx v).isNone = true) := by
    rintro ⟨h1, h2⟩
    simpa [Option.isNone_iff_eq_none.mp h2] using hdie h1
  show execQbind (.q n) a b s = _
  rw [execQbind, he, onceAfter_after s i t u q h _ _ _ _ ?operands hr]
  case operands =>
    cases eng with
    | false => simp [need, isQ, hport, firstCause]
    | true =>
      obtain ⟨hsrc, hread⟩ := ha rfl
      exact firstCause_operands [(0, a)] (by simp [isQ, hport, hsrc]) (by simp [hread])
  obtain ⟨hpart, hwhole⟩ := hc
  simp only [scalar_after, reads_scalar hr, hv, reads_part hr, reads_ctx hr, if_neg hnodie, hpart, hwhole, hw, Bool.false_eq_true, or_self, if_false, hp,
    unpopped_ok, settle_setTeam_after]
  rfl

/-- QTRY of an empty FIFO gives 0 and 0 (R240). -/
theorem exec_qtry_empty {r : BitVec 6} (hr : r.toNat % 2 = 0) (rq : t.readable (.q n)) (he : t.qregs[n.toNat].fifo = []) :
    exec (.qtry (.s r) (.q n)) s = .next (s.done i ((t.setS r 0).setS (r + 1) 0)) := by
  have hpop : t.popCheck (.q n) = none := rq
  show execQtry (.s r) (.q n) s = _
  rw [execQtry, once_plain s i t h _ _ (by simp [need, pairOk_even hr, isQ, hpop, firstCause])]
  simp only [he, settle_setTeam]

/-- QTRY of a FIFO with an entry pops it, and gives 1 beside it (R240). -/
theorem exec_qtry_entry {r : BitVec 6} {w : Word} {ws : List Word} (hr : r.toNat % 2 = 0) (rq : t.readable (.q n))
    (he : t.qregs[n.toNat].fifo = w :: ws) :
    exec (.qtry (.s r) (.q n)) s =
      .next (s.done i (({ t with qregs := t.qregs.set n.toNat { (t.qregs[n.toNat]) with fifo := ws } n.isLt }.setS r w).setS (r + 1) 1)) := by
  have hpop : t.popCheck (.q n) = none := rq
  show execQtry (.s r) (.q n) s = _
  rw [execQtry, once_plain s i t h _ _ (by simp [need, pairOk_even hr, isQ, hpop, firstCause])]
  simp only [he, settle_setTeam]

/-- QFENCE over ports bound to queues, with no record staged in them: one join for all their queues (R247). -/
theorem exec_qfence_of {s0 : State} {m : Nat} (ha : t.scalarSrc a = true) (ra : t.readable a) (hr : Reads t (popsOnce [(0, a)]) u q)
    (h0 : s.after i u (popsOnce [(0, a)]) = s0) (hm : (s.scalar t a (q 0 0)).toNat = m) (hlt : m < 2 ^ 16)
    (hc : ∀ p ∈ namedPorts u m, p.clean ∧ p.bind ≠ .fifo ∧ p.bind ≠ .unbound) (hf : u.flagFull (t.setFlag true) = false) :
    exec (.qfence a) s = .next ((s0.setTeam i u).started i u
      { opOf i u s0 (t.setFlag true) (.join ((namedPorts u m).filterMap fun p => s0.portQueue i u p.bind)) with mask := 0 } []) := by
  subst h0
  have hfifo : (namedPorts u m).any (fun p => p.bind == .fifo || p.partial') = false := by
    refine List.any_eq_false.mpr fun p hp => ?_
    obtain ⟨⟨hpart, -⟩, hne, -⟩ := hc p hp
    simp [hpart, hne]
  have hbound : (namedPorts u m).any (fun p => p.bind == .unbound) = false := by
    refine List.any_eq_false.mpr fun p hp => ?_
    simpa using (hc p hp).2.2
  have hwhole : (namedPorts u m).any (·.whole) = false := by
    refine List.any_eq_false.mpr fun p hp => ?_
    simp [(hc p hp).1.2]
  show execQfence a s = _
  rw [execQfence, once_after s i t u q h _ _ _ ?operands hr]
  case operands => exact firstCause_operands [(0, a)] ha (by simp [ra])
  simp only [scalar_after, reads_scalar hr, hm, Nat.not_le.mpr hlt, hfifo, hbound, hwhole, reads_setFlag hr, hf, Bool.false_eq_true, if_false,
    settle_enterOp]

end

/-- Settles O32: QBIND by whether its port is an engine's, QTRY by whether its FIFO is empty, and QFENCE. -/
theorem queueRegisterResult : Obligations.QueueRegisterResult := by
  intro s i t u q n a b h clean bound
  refine ⟨fun hb hc hw => ?plain, fun h1 h2 ha ra hr => ?engine, fun r hr rq => ⟨exec_qtry_empty h hr rq, fun w ws => exec_qtry_entry h hr rq⟩,
    fun ha ra hr => ?fence⟩
  case plain =>
    exact exec_qbind_goes (q := fun _ _ => 0) (eng := false) h (by simp; omega) nofun (reads_none t) rfl nofun (portBind_plain hb _) hc hw
  case engine =>
    intro v s0 hdie hc hw
    exact exec_qbind_goes (eng := true) h (by simp [h1, h2]) (fun _ => ⟨ha, ra⟩) hr rfl (fun _ => hdie) (portBind_engine h1 h2 v) hc hw
  case fence =>
    intro s0 m ps hlt hc hf
    exact exec_qfence_of h ha ra hr rfl rfl hlt hc hf

end Sys2Proof.Machine

/-! # PATLD, PATST and PATADDR (O38) -/

namespace Sys2Proof.Machine

open Sys2Proof

/-- PATADDR's pair for each lane that it names: the device, and the offset from the vector base (R312). -/
def Team.putPlaces (u : Team) (own base r : Nat) (near : List Acc) : Team :=
  near.foldl (fun v x => v.setVs x.lane r [BitVec.ofNat 32 (x.remoteDev.getD own), BitVec.ofNat 32 (x.va + 2 ^ 64 - base)]) u

/-- The registers written meanwhile hold no part of the vector base. -/
theorem putPlaces_eq (own r : Nat) (near : List Acc) : ∀ u : Team,
    near.foldl (fun v x => v.setVs x.lane r [BitVec.ofNat 32 (x.remoteDev.getD own), BitVec.ofNat 32 (x.va + 2 ^ 64 - v.pair 62)]) u =
      u.putPlaces own (u.pair 62) r near := by
  induction near with
  | nil => exact fun u => by rw [List.foldl_nil, Team.putPlaces, List.foldl_nil]
  | cons x xs ih =>
    intro u
    rw [List.foldl_cons, ih, setVs_pair, Team.putPlaces, Team.putPlaces, List.foldl_cons]

section
variable {s s1 s2 s3 s4 s5 : State} {i : Nat} {t u : Team} {q : Nat → Nat → Word} {r n : BitVec 7} {b : Sel} {va : Nat} {bs : List Byte} {pt : Pattern}
  {good good1 : List Acc} {bad bad1 : List (LaneFault × Acc)} {w : Word}

/-- A pattern instruction passes the checks of its fields (R312). -/
theorem pattern_checks (hv : t.vOk r 1 = true) (hn : t.vOk n 1 = true) (hb : t.scalarSrc b = true) (rb : t.readable b) :
    firstCause ([need (patFields t (.v r) (.v n) b) .illegalOperand] ++ [b].map fun a => t.popCheck a) = none :=
  firstCause_operands [(1, b)] (by simp [patFields, isV, hv, hn, hb]) (by simp [rb])

variable (hl : t.active.isEmpty = false) (hr : Reads t (popsOnce [(1, b)]) u q)
  (hh : (s.after i u (popsOnce [(1, b)])).handle i u w .pattern = .ok (some va) s1) (hrec : s1.record i u va 64 64 = .ok bs s2)
  (hp : patternOf (bytesWords 16 bs) = some pt) (hd : s2.patDraining.contains (t.part, t.ctx, hSlot w) = false)
include hl hr hh hrec hp hd

/-- A pattern instruction whose record is read and whose entry does not drain goes on with it (R295, R312). -/
theorem withPattern_after {addr : Bool} (hfit : patFits t (.v r) (.v n) addr pt = true) (k : Nat → Pattern → State → Res) :
    withPattern i u (s.after i u (popsOnce [(1, b)])) w (patFits u (.v r) (.v n) addr) k = k va pt s2 :=
  withPattern_of _ s1 s2 i u w _ k va bs pt hh hrec hp ((reads_patFits hr _ _ _ _).trans hfit) (by rwa [reads_part hr, reads_ctx hr])
    ((reads_active hr).symm ▸ hl)

variable (h : Issues s i t) (hv : t.vOk r 1 = true) (hn : t.vOk n 1 = true) (hb : t.scalarSrc b = true) (rb : t.readable b)
  (hw : s.scalar t b (q 1 0) = w)
include h hv hn hb rb hw

/-- PATLD: the accesses of the lanes that resolve start as a load, the others fault with it (R312, R313). -/
theorem exec_patld_of (hfit : patFits t (.v r) (.v n) false pt = true) (hf : u.flagFull (t.setFlag false) = false)
    (hlanes : s2.patLanes i u va pt r.toNat (patCoords t n.toNat pt fun _ => []) = .ok good bad s3) (hs : Starts s3 i u .read good good1 bad1 s4) :
    exec (.patld (.v r) (.v n) b) s = .next (s4.started i u
      { opOf i u s4 (t.setFlag false) (.load .loadStore false (8 * min 4 pt.esize) false) with
        accs := good1, acq := t.acqScope, pat := some (hSlot w) } (bad ++ bad1)) := by
  show execPatld (.v r) (.v n) b s = _
  unfold execPatld
  rw [sweepHandle_after s i t u q h _ _ _ _ _ _ (pattern_checks hv hn hb rb) hl hr, scalar_after, reads_scalar hr, hw,
    withPattern_after hl hr hh hrec hp hd hfit]
  simp only [reads_setFlag hr, hf, Bool.false_eq_true, if_false, execPatld.vNumOf, reads_patCoords hr, hlanes,
    namedStart_of s3 s4 i u _ (.load .loadStore false (8 * min 4 pt.esize) false) good bad _ good1 bad1 hs, reads_acqScope hr, unpopped_ok, settle_enterOp]

/-- PATST: the lanes that resolve are stored to the devices that they name (R294, R312, R313). -/
theorem exec_patst_of (hfit : patFits t (.v r) (.v n) false pt = true) (hf : u.flagFull (t.setFlag true) = false) (hdrain : DrainedFor s2 i u s5)
    (hlanes : s5.patLanes i u va pt 0 (patCoords t n.toNat pt fun l => (wordsBytes (t.vs l r.toNat (if pt.esize = 8 then 2 else 1))).take pt.esize) =
      .ok good bad s3) (hs : Starts s3 i u .write good good1 bad1 s4) :
    exec (.patst (.v r) (.v n) b) s =
      .next ((s4.namedOut i u (t.setFlag true) (some (hSlot w)) (lastWriters good1) (bad ++ bad1)).issued i) := by
  show execPatst (.v r) (.v n) b s = _
  unfold execPatst
  rw [sweepHandle_after s i t u q h _ _ _ _ _ _ (pattern_checks hv hn hb rb) hl hr, scalar_after, reads_scalar hr, hw,
    withPattern_after hl hr hh hrec hp hd hfit]
  simp only [reads_setFlag hr, hf, Bool.false_eq_true, if_false, withRelease_of s2 s5 i u _ hdrain, reads_patCoords hr, reads_vs hr, hlanes,
    namedStores_of s3 s4 i u _ good bad _ good1 bad1 hs, unpopped_ok]
  rfl

/-- PATADDR: the lanes whose device can be reached get their pair; the others fault, and where there are some an operation keeps them (R312). -/
theorem exec_pataddr_of (hfit : patFits t (.v r) (.v n) true pt = true)
    (hlanes : s2.patLanes i u va pt r.toNat (patCoords t n.toNat pt fun _ => []) = .ok good bad s3)
    {v : Team} (hput : u.putPlaces (s3.ctx t.part t.ctx).fabDev (t.pair 62) r.toNat (s3.reached u good).1 = v)
    {out : List (LaneFault × Acc)} (hout : bad ++ (s3.reached u good).2 = out) :
    exec (.pataddr (.v r) (.v n) b) s = .next (if out.isEmpty then s3.ends i v
      else s3.started i v { opOf i v s3 none .pataddr with pat := some (hSlot w) } out) := by
  show execPataddr (.v r) (.v n) b s = _
  unfold execPataddr
  rw [sweepHandle_after s i t u q h _ _ _ _ _ _ (pattern_checks hv hn hb rb) hl hr, scalar_after, reads_scalar hr, hw,
    withPattern_after hl hr hh hrec hp hd hfit]
  simp only [reads_patCoords hr, hlanes, putPlaces_eq, reads_pair hr, reads_part hr, reads_ctx hr, hput, hout]
  split
  case isTrue => rw [unpopped_ok, settle_ends]
  case isFalse => rw [unpopped_ok, settle_enterOp]

end

/-- Settles O38: the three forms resolve their lanes through one record (`sweepPattern_of`), and each has its effect on the accesses that resolve. -/
theorem patternResult : Obligations.PatternResult := by
  intro s s1 s2 s3 s4 i t u q r n b va bs pt good bad h hl hv hn hb rb hr w slot hh hrec hp hd
  refine ⟨fun hfit hf hlanes good1 bad1 hs => ?load, fun hfit hf s5 hdrain hlanes good1 bad1 hs => ?store, fun hfit hlanes => ?places⟩
  case load => exact exec_patld_of hl hr hh hrec hp hd h hv hn hb rb rfl hfit hf hlanes hs
  case store => exact exec_patst_of hl hr hh hrec hp hd h hv hn hb rb rfl hfit hf hdrain hlanes hs
  case places =>
    intro near out v
    have hexec := exec_pataddr_of hl hr hh hrec hp hd h hv hn hb rb rfl hfit hlanes (v := v) rfl (out := out) rfl
    exact ⟨fun he => hexec.trans (by rw [he]; rfl), fun he => hexec.trans (by rw [if_neg (by simpa using he)])⟩

end Sys2Proof.Machine

/-! # PEERLD, PEERST and PEERADD (O40) -/

namespace Sys2Proof.Machine

open Sys2Proof

section
variable {s s1 s2 s3 : State} {i : Nat} {t u : Team} {q : Nat → Nat → Word} {d a b : Sel} {good : List Acc} {bad : List (LaneFault × Acc)}
  {data : Nat → List Byte} {dev : Nat}

/-- Reading operands leaves the accesses that a peer form's lanes name. -/
theorem peerAccs_after {pops ps : List Pop} (hr : Reads t pops u q) (v : Team) (size reg : Nat) :
    peerAccs u (s.after i v ps) dev a q size reg data = peerAccs t s dev a q size reg data := by
  simp only [peerAccs, reads_active hr, ctx_after, reads_part hr, reads_ctx hr, reads_pair hr, src_after, reads_src hr]

/-- PEERST by its names: it takes the D of a store of one element, `Team.storable 0`. -/
theorem execPeerst_eq (s : State) (d a b : Sel) :
    execPeerst d a b s = sweepOn s (fun t _ => [need (t.storable 0 d && t.vectorSrc a && t.scalarSrc b) .illegalOperand, need t.ty.loads .illegalOperand])
      [a, b] (fun t => t.active) (fun t => popsVS t a b) fun i t q s1 =>
      if t.flagFull (t.setFlag true) then .hold (.flagFull ((t.setFlag true).getD 0)) (s1.setTeam i t)
      else withRelease i t s1 fun s2 => namedStores i t s2 (t.setFlag true) (peerAccs t s1 (s1.scalar t b (q 1 0)).toNat a q (t.ty.width / 8) 0
        fun l => natBytes (s1.src t d l 0).toNat (t.ty.width / 8)) [] none := rfl

variable (h : Issues s i t) (hl : t.active.isEmpty = false) (ha : t.vectorSrc a = true) (hb : t.scalarSrc b = true) (ra : t.readable a)
  (rb : t.readable b) (hdev : (s.scalar t b (q 1 0)).toNat = dev)
include h hl ha hb ra rb hdev

section
variable (hr : Reads t (popsVS t a b) u q) (hy : t.ty.loads = true)
include hr hy

/-- PEERLD: its accesses at the named device start as a load (R315). -/
theorem exec_peerld_of {r : BitVec 7} (hv : t.vOk r 1 = true) (hf : u.flagFull (t.setFlag false) = false)
    (hs : Starts (s.after i u (popsVS t a b)) i u .read (peerAccs t s dev a q (t.ty.width / 8) r.toNat fun _ => []) good bad s2) :
    exec (.peerld (.v r) a b) s = .next (s2.started i u
      { opOf i u s2 (t.setFlag false) (.load .loadStore false t.ty.width t.ty.signed) with accs := good, acq := t.acqScope } bad) := by
  show execPeerld (.v r) a b s = _
  unfold execPeerld
  rw [sweepOn_after s i t u q h _ _ _ _ _ ?operands hl hr]
  case operands =>
    simp only [hv, ha, hb, hy, need, Bool.and_self, if_true, List.cons_append, List.nil_append, firstCause]
    exact firstCause_vs ra rb
  simp only [reads_setFlag hr, hf, Bool.false_eq_true, if_false, peerAccs_after hr, scalar_after, reads_scalar hr, hdev, reads_ty hr,
    namedStart_of _ s2 i u _ (.load .loadStore false t.ty.width t.ty.signed) _ [] _ good bad hs, reads_acqScope hr, settle_enterOp, List.nil_append]

/-- PEERST: its lanes' elements go to the named device (R315). -/
theorem exec_peerst_of (hd : t.storable 0 d = true) (hf : u.flagFull (t.setFlag true) = false) (hdrain : DrainedFor (s.after i u (popsVS t a b)) i u s3)
    (hs : Starts s3 i u .write (peerAccs t s dev a q (t.ty.width / 8) 0 fun l => natBytes (s.src t d l 0).toNat (t.ty.width / 8)) good bad s2) :
    exec (.peerst d a b) s = .next ((s2.namedOut i u (t.setFlag true) none (lastWriters good) bad).issued i) := by
  show execPeerst d a b s = _
  rw [execPeerst_eq, sweepOn_after s i t u q h _ _ _ _ _ ?operands hl hr]
  case operands =>
    simp only [hd, ha, hb, hy, need, Bool.and_self, if_true, List.cons_append, List.nil_append, firstCause]
    exact firstCause_vs ra rb
  simp only [reads_setFlag hr, hf, Bool.false_eq_true, if_false, peerAccs_after hr, scalar_after, reads_scalar hr, hdev, reads_ty hr, src_after,
    reads_src hr, withRelease_of _ s3 i u _ hdrain, namedStores_of s3 s2 i u _ _ [] _ good bad hs, List.nil_append]
  rfl

end

/-- What a peer addition's posted entries must have done (R281, R284): as a release all are out, and else, where its own device is named, those that
its lanes' addresses meet. -/
def PeerDrained (s : State) (i : Nat) (u : Team) (own : Prop) [Decidable own] (as : List Acc) (s1 : State) : Prop :=
  if u.releases.isSome then s.drainAll i = .ok s1 else if own then s.drainOver i (as.map fun x => (x.va, x.size)) = .ok s1 else s1 = s

/-- PEERADD: additions at the homes of the named device (R316). -/
theorem exec_peeradd_of (hd : t.elemSrc t.ty d = true) (rd : t.readable d)
    (hy : t.ty = .i32 ∨ t.ty = .n32 ∨ t.ty = .i64 ∨ t.ty = .n64 ∨ t.ty = .f32) (hf : u.flagFull (t.setFlag true) = false)
    {pops : List Pop} (hpops : popsLanes t.active [(0, a)] ++ popsOnce [(1, b)] ++ popsLanes t.active [(2, d)] = pops) (hr : Reads t pops u q)
    {as : List Acc} (has : (peerAccs t s dev a q (t.ty.width / 8) 0 fun l => natBytes (s.elem t t.ty d l (q 2 l)) (t.ty.width / 8)) = as)
    (hdrain : PeerDrained ((s.after i u pops).setTeam i u) i u (dev = (s.ctx t.part t.ctx).fabDev) as s1) (hs : Starts s1 i u .write as good bad s2) :
    exec (.peeradd d a b) s = .next (s2.started i u { opOf i u s2 (t.setFlag true)
      (.atomic (if t.ty = .f32 then .fadd else .add) t.ty none false false) with accs := good, rel := t.releases } bad) := by
  subst has
  have hstart := namedStart_of s1 s2 i u (t.setFlag true) (.atomic (if t.ty = .f32 then .fadd else .add) t.ty none false false) _ []
    (fun x => { x with rel := t.releases }) good bad hs
  have hok : (t.ty == .i32 || t.ty == .n32 || t.ty == .i64 || t.ty == .n64 || t.ty == .f32) = true := by
    rcases hy with hy | hy | hy | hy | hy <;> rw [hy] <;> rfl
  show execPeeradd d a b s = _
  unfold execPeeradd
  rw [sweepOn_after s i t u q h _ _ _ _ _ ?operands hl (hpops ▸ hr), hpops]
  case operands =>
    simp only [hd, ha, hb, hok, need, Bool.and_self, if_true, List.cons_append, List.nil_append, firstCause]
    exact firstCause_readable t [(0, a), (1, b), (2, d)] (by simp [ra, rb, rd])
  simp only [reads_setFlag hr, hf, Bool.false_eq_true, if_false, peerAccs_after hr, scalar_after, reads_scalar hr, hdev, reads_ty hr, elem_after,
    reads_elem hr, reads_part hr, reads_ctx hr, ctx_after, reads_releases hr]
  unfold PeerDrained at hdrain
  by_cases hhome : t.releases.isSome = false ∧ dev = (s.ctx t.part t.ctx).fabDev
  case pos =>
    obtain ⟨hrel, hown⟩ := hhome
    simp only [reads_releases hr, hrel, Bool.false_eq_true, if_false, if_pos hown] at hdrain
    have hstay : ¬(t.releases.isSome = true ∨ dev ≠ (s.ctx t.part t.ctx).fabDev) := by simp [hrel, hown]
    simp only [if_neg hstay, hdrain, hstart, settle_enterOp, List.nil_append]
  case neg =>
    have hgo : t.releases.isSome = true ∨ dev ≠ (s.ctx t.part t.ctx).fabDev := by
      cases hrel : t.releases.isSome with
      | true => exact .inl rfl
      | false => exact .inr fun hown => hhome ⟨hrel, hown⟩
    have hfor : DrainedFor (s.after i u pops) i u s1 := by
      unfold DrainedFor
      split
      case isTrue hrel => rwa [if_pos hrel] at hdrain
      case isFalse hrel =>
        have hfar : dev ≠ (s.ctx t.part t.ctx).fabDev := hgo.resolve_left (by rwa [← reads_releases hr])
        rwa [if_neg hrel, if_neg hfar] at hdrain
    rw [if_pos hgo, withRelease_of _ s1 i u _ hfor, hstart, settle_enterOp, List.nil_append]

end

/-- Settles O40: the lanes of each form name one device (`peerAccs`); PEERST takes the D of a store of one element, PEERADD by what must drain first. -/
theorem peerResult : Obligations.PeerResult := by
  intro s s1 s2 i t u q d a b good bad h hl ha hb ra rb size dev accs
  refine ⟨fun hr hy => ⟨fun r hv hf hs => ?load, fun hf data s3 hdrain hdata hs => ?store⟩, fun hd rd hy hf hr hdrain hs => ?add⟩
  case load => exact exec_peerld_of h hl ha hb ra rb rfl hr hy hv hf hs
  case store =>
    have hstores : t.storable 0 d = true ∧ data = fun l => s.src t d l 0 := by
      rcases hdata with ⟨r, rfl, hv, rfl⟩ | ⟨n, rfl, rfl⟩ | ⟨k, rfl, hk, rfl⟩ | ⟨rfl, rfl⟩
      · exact ⟨hv, rfl⟩
      · exact ⟨rfl, rfl⟩
      · exact ⟨hk, rfl⟩
      · exact ⟨rfl, rfl⟩
    obtain ⟨hd, rfl⟩ := hstores
    exact exec_peerst_of h hl ha hb ra rb rfl hr hy hd hf hdrain hs
  case add =>
    refine exec_peeradd_of h hl ha hb ra rb rfl hd rd hy hf rfl hr rfl ?_ hs
    rw [PeerDrained, reads_releases hr]
    exact hdrain

end Sys2Proof.Machine

/-! # PATINV, PATCF, FSDRAIN and FSCONF (O39) -/

namespace Sys2Proof.Machine

open Sys2Proof

/-- A job-wide operation in flight: one request to each other device of the job (R314). -/
def State.jobEntered (s : State) (i : Nat) (u : Team) (fl : Option Nat) (fn x y phase va : Nat) (rel : Option Nat) : State :=
  s.enterJob i u { opOf i u s fl (.job fn x y phase) with rel := rel, accs := jobAccs (s.others u.part u.ctx) va }

/-- The page that FSDRAIN and FSCONF name by a size code (R323). -/
theorem pageOf_code {code : Nat} (h : code ≤ 3) (va : Nat) : pageOf va code = some (va % 2 ^ 57, codeSize code) := if_neg (Nat.not_lt.mpr h)

section
variable {s s1 s2 s3 : State} {i : Nat} {t u : Team} {q : Nat → Nat → Word} {a b : Sel} {va vb : Nat} {x y : Word} (h : Issues s i t)
include h

/-- PATINV of an entry that does not drain: it does from now on (R295, R314). -/
theorem exec_patinv_of (hf : u.flagFull (t.setFlag true) = false) (ha : t.scalarSrc a = true) (ra : t.readable a) (hr : Reads t (popsOnce [(0, a)]) u q)
    (hx : s.scalar t a (q 0 0) = x) (hh : (s.after i u (popsOnce [(0, a)])).handle i u x .pattern = .ok (some va) s1)
    (hd : s1.patDraining.contains (t.part, t.ctx, hSlot x) = false) :
    exec (.patinv a) s = .next ((({ s1 with patDraining := (t.part, t.ctx, hSlot x) :: s1.patDraining } : State).jobEntered i u (t.setFlag true)
      0 x.toNat 0 0 0 none).issued i) := by
  show execPatinv a s = _
  rw [execPatinv, once_after s i t u q h _ _ _ ?operands hr, scalar_after, reads_scalar hr, hx, withHandle_of _ s1 i u _ _ _ _ va hh]
  case operands => exact firstCause_operands [(0, a)] ha (by simp [ra])
  simp only [reads_part hr, reads_ctx hr, hd, reads_setFlag hr, hf, Bool.false_eq_true, if_false, State.jobEntered]
  rfl

/-- PATCF of an entry that drains: a release at FABRIC scope, whose first phase goes out (R295, R314). -/
theorem exec_patcf_of (hf : u.flagFull (t.setFlag true) = false) (ha : t.scalarSrc a = true) (hb : t.scalarSrc b = true) (ra : t.readable a)
    (rb : t.readable b) (hr : Reads t (popsOnce [(0, a), (1, b)]) u q) (hx : s.scalar t a (q 0 0) = x) (hy : s.scalar t b (q 1 0) = y)
    (hh : (s.after i u (popsOnce [(0, a), (1, b)])).handle i u x .pattern = .ok (some va) s1) (hk : s1.handle i u y .pattern = .ok (some vb) s2)
    (hd : s2.patDraining.contains (t.part, t.ctx, hSlot x) = true) (hdrain : (s2.setTeam i u).drainAll i = .ok s3) :
    exec (.patcf a b) s = .next ((s3.jobEntered i u (t.setFlag true) 1 x.toNat y.toNat 1 0 (some 5)).issued i) := by
  show execPatcf a b s = _
  rw [execPatcf, onceAfter_after s i t u q h _ _ _ _ ?operands hr, scalar_after, scalar_after, reads_scalar hr, reads_scalar hr, hx, hy,
    withHandle_of _ s1 i u _ _ _ _ va hh, withHandle_of s1 s2 i u _ _ _ _ vb hk]
  case operands => exact firstCause_operands [(0, a), (1, b)] (by rw [ha, hb]; rfl) (by simp [ra, rb])
  simp only [reads_part hr, reads_ctx hr, hd, reads_setFlag hr, hf, Bool.not_true, Bool.false_eq_true, if_false, hdrain, unpopped_ok, State.jobEntered]
  rfl

section
variable {n : BitVec 6} {code : Nat} {tr : Tr} (ho : s.auth t = .owner) (hb : t.scalarSrc b = true) (rb : t.readable b)
  (hr : Reads t (popsOnce [(1, b)]) u q) (hn : n.toNat % 2 = 0) (hcode : (s.scalar t b (q 1 0)).toNat = code) (hc : code ≤ 3)
  (hal : t.pair n % codeSize code = 0)
  (htr : (s.after i u (popsOnce [(1, b)])).translate t.part t.ctx (some t.core) (coreDie t.core) (some i) none (t.pair n) .none = (.ok tr, s1))
include ho hb rb hr hn hcode hc hal htr

/-- A page operation of an owner on a page of its size that translates: its effect on the page (R323). -/
theorem pageOp_of (eff : Nat → Team → Nat → Nat → State → Res) :
    pageOp s (.s n) b eff = .next (settle i t (eff i u (t.pair n % 2 ^ 57) (codeSize code) s1)) := by
  have hauth : ({ s with cur := none } : State).auth t = .owner := ho
  rw [pageOp, once_after s i t u q h _ _ _ ?operands hr]
  case operands =>
    simp only [hauth, pairOk_even hn, hb, need, beq_self_eq_true, Bool.and_self, if_true, List.cons_append, List.nil_append, firstCause]
    exact firstCause_readable t [(1, b)] (by simp [rb])
  simp only [reads_pair hr, scalar_after, reads_scalar hr, hcode, pageOf_code hc, hal, ne_eq, not_true_eq_false, if_false, reads_part hr, reads_ctx hr,
    reads_core hr, htr]

variable (hf : u.flagFull (t.setFlag true) = false) (hva : t.pair n % 2 ^ 57 = va)
include hf hva

/-- FSDRAIN of a page that is not revoking: it is from now on, and the copies of its lines go (R323). -/
theorem exec_fsdrain_of (hrev : s1.revokes t.part t.ctx va = false) :
    exec (.fsdrain (.s n) b) s = .next (((s1.revoke t.part t.ctx va (codeSize code) none).jobEntered i u (t.setFlag true)
      2 va (codeSize code) 0 va none).issued i) := by
  show execFsdrain (.s n) b s = _
  rw [execFsdrain, pageOp_of h ho hb rb hr hn hcode hc hal htr, hva]
  simp only [reads_part hr, reads_ctx hr, hrev, reads_setFlag hr, hf, Bool.false_eq_true, if_false, State.jobEntered]
  rfl

/-- FSCONF of a page whose FSDRAIN every device has acknowledged: the page is not revoking any more (R323). -/
theorem exec_fsconf_of (hrev : s1.revoking.contains (t.part, t.ctx, va, codeSize code, none) = true) (hd : s1.pageDraining t.part t.ctx va = false) :
    exec (.fsconf (.s n) b) s = .next (((s1.unrevoke t.part t.ctx va (codeSize code) none).jobEntered i u (t.setFlag true)
      3 va (codeSize code) 0 va none).issued i) := by
  show execFsconf (.s n) b s = _
  rw [execFsconf, pageOp_of h ho hb rb hr hn hcode hc hal htr, hva]
  simp only [reads_part hr, reads_ctx hr, hrev, hd, reads_setFlag hr, hf, Bool.not_true, Bool.false_eq_true, if_false, State.jobEntered]
  rfl

end

end

/-- Settles O39: PATINV and PATCF have a lemma each; FSDRAIN and FSCONF share the checks of their page (`pageOp_of`). -/
theorem jobResult : Obligations.JobResult := by
  intro s s1 s2 s3 i t u q a b h hf fl p c enters
  have hentered {pops : List Pop} (hr : Reads t pops u q) (s' : State) (fn x y phase va : Nat) (rel : Option Nat) :
      .next ((s'.jobEntered i u fl fn x y phase va rel).issued i) = enters s' fn x y phase va rel := by
    rw [State.jobEntered, reads_part hr, reads_ctx hr]
  refine ⟨fun ha ra hr va hh hd => ?patinv, fun ha hb ra rb hr va vb hh hk hd hdrain => ?patcf, fun ho hb rb hr n tr hn heven => ?page⟩
  case patinv => exact (exec_patinv_of h hf ha ra hr rfl hh hd).trans (hentered hr ..)
  case patcf => exact (exec_patcf_of h hf ha hb ra rb hr rfl rfl hh hk hd hdrain).trans (hentered hr ..)
  case page =>
    subst hn
    intro code va size hc hal htr
    exact ⟨fun hrev => (exec_fsdrain_of h ho hb rb hr heven rfl hc hal htr hf rfl hrev).trans (hentered hr ..),
      fun hrev hd => (exec_fsconf_of h ho hb rb hr heven rfl hc hal htr hf rfl hrev hd).trans (hentered hr ..)⟩

end Sys2Proof.Machine

/-! # PLEAT, PLARG, PLREPLY and PLDONE (O41) -/

namespace Sys2Proof.Machine

open Sys2Proof

/-- A resolved lane of a PLEAT whose object does not take the instruction's registers (R292, R302). -/
def PleatLane.misfits (t : Team) (d a : Sel) : PleatLane → Bool
  | .ok _ ob => !pleatFits t d a ob
  | .fault .. => false

/-- PLEAT with its handle resolved for every lane, or with none where each lane has its own. -/
def pleatGo (d : Sel) (r : BitVec 7) (b : Sel) (i : Nat) (t : Team) (q : Nat → Nat → Word) (obj : Option Nat) (s : State) : Res :=
  ifActive i t s fun s =>
    (s.pleatLanes i t obj (vNum d) (t.active.map fun l => (l, s.src t b l (q 1 l), wordsBytes ((List.range 4).map fun k =>
      if r.toNat + k < t.nregs then t.v l (r.toNat + k) else 0)))).into i t false fun xs s2 =>
    if xs.any (PleatLane.misfits t d (.v r)) then .check .illegalOperand false (s2.setTeam i t)
    else if t.flagFull (t.setFlag false) then .hold (.flagFull ((t.setFlag false).getD 0)) (s2.setTeam i t)
    else
      match (s2.setTeam i t).drainAll i with
      | .fault e f s3 => .trap (postedInfo i t e f) s3
      | .wait h s3 => .hold h s3
      | .ok s3 => .ok ((s3.enterOp i t { opOf i t s3 (t.setFlag false) (.pleat (vNum d) []) with
          accs := (s3.pleatSplit t xs).1, rel := some (pleatScope (s3.pleatSplit t xs).1) } (s3.pleatSplit t xs).2).pleatOut s3.stamp)

/-- PLEAT by its names. -/
theorem execPleat_eq (d b : Sel) (r : BitVec 7) (s : State) :
    execPleat d (.v r) b s = sweepHandle s (fun t _ => [need ((isV d || d == .sp .zero) && t.vOk r 1 && t.vectorSrc b) .illegalOperand])
      (if isVec b then .q 0 else b) [b] (fun t => popsLanes t.active [(1, b)]) fun i t q s1 =>
      if isVec b then pleatGo d r b i t q none s1
      else withHandle i t s1 false (s1.scalar t b 0) .pleat fun obj s2 => pleatGo d r b i t q (some obj) s2 := rfl

section
variable {s s0 s1 s2 s3 : State} {i : Nat} {t u : Team} {q : Nat → Nat → Word} {r : BitVec 7} {d b : Sel} {obj : Option Nat} {xs : List PleatLane}
  {w : WaveSt} {x : PleatObj}

/-- What PLEAT leaves of its resolved lanes: their requests in flight, as releases, the first of them sent (R293, R300). -/
def State.pleatsOut (s : State) (i : Nat) (u : Team) (fl : Option Nat) (reg : Nat) (xs : List PleatLane) : State :=
  (s.enterOp i u { opOf i u s fl (.pleat reg []) with
    accs := (s.pleatSplit u xs).1, rel := some (pleatScope (s.pleatSplit u xs).1) } (s.pleatSplit u xs).2).pleatOut s.stamp

/-- PLEAT whose lanes resolve to objects that fit, with the posted entries drained: its requests go out. -/
theorem pleatGo_of {pops : List Pop} (hl : t.active.isEmpty = false) (hr : Reads t pops u q) (hf : u.flagFull (t.setFlag false) = false)
    (hlanes : s1.pleatLanes i u obj (vNum d) (t.active.map fun l => (l, s1.src u b l (q 1 l), wordsBytes ((List.range 4).map fun k =>
      if r.toNat + k < t.nregs then t.v l (r.toNat + k) else 0))) = .ok xs s2)
    (hfit : ∀ a ob, PleatLane.ok a ob ∈ xs → pleatFits t d (.v r) ob = true) (hdrain : (s2.setTeam i u).drainAll i = .ok s3) :
    pleatGo d r b i u q obj s1 = .ok (s3.pleatsOut i u (t.setFlag false) (vNum d) xs) := by
  have hfits : xs.any (PleatLane.misfits u d (.v r)) = false := by
    refine List.any_eq_false.mpr fun y hy => ?_
    cases y with
    | ok a ob => simp [PleatLane.misfits, reads_pleatFits hr, hfit a ob hy]
    | fault f a => simp [PleatLane.misfits]
  rw [pleatGo, ifActive_of _ _ _ _ ((reads_active hr).symm ▸ hl)]
  simp only [reads_active hr, reads_nregs hr, reads_v hr, hlanes, Got.into, hfits, reads_setFlag hr, hf, Bool.false_eq_true, if_false, hdrain,
    State.pleatsOut]

variable (h : Issues s i t)
include h

/-- PLEAT, by whether its handle is one for every lane (R292, R293). -/
theorem exec_pleat_of (hl : t.active.isEmpty = false) (hd : (isV d || d == .sp .zero) = true) (hv : t.vOk r 1 = true) (hb : t.vectorSrc b = true)
    (rb : t.readable b) (hr : Reads t (popsLanes t.active [(1, b)]) u q) (hf : u.flagFull (t.setFlag false) = false)
    (h0 : s.after i u (popsLanes t.active [(1, b)]) = s0)
    (hobj : if isVec b then obj = none ∧ s1 = s0 else obj.isSome = true ∧ s0.handle i u (s.scalar t b 0) .pleat = .ok obj s1)
    (hlanes : s1.pleatLanes i u obj (vNum d) (t.active.map fun l => (l, s1.src u b l (q 1 l), wordsBytes ((List.range 4).map fun k =>
      if r.toNat + k < t.nregs then t.v l (r.toNat + k) else 0))) = .ok xs s2)
    (hfit : ∀ a ob, PleatLane.ok a ob ∈ xs → pleatFits t d (.v r) ob = true) (hdrain : (s2.setTeam i u).drainAll i = .ok s3) :
    exec (.pleat d (.v r) b) s = .next ((s3.pleatsOut i u (t.setFlag false) (vNum d) xs).issued i) := by
  show execPleat d (.v r) b s = _
  rw [execPleat_eq, sweepHandle_after s i t u q h _ _ _ _ _ _ ?operands hl hr]
  case operands => exact firstCause_operands [(1, b)] (by simp only [hd, hv, hb, Bool.and_self]) (by simp [rb])
  have hgo := pleatGo_of hl hr hf hlanes hfit hdrain
  split at hobj
  case isTrue hvec =>
    obtain ⟨rfl, rfl⟩ := hobj
    rw [if_pos hvec, h0, hgo]
    rfl
  case isFalse hvec =>
    obtain ⟨hsome, hh⟩ := hobj
    obtain ⟨z, rfl⟩ := Option.isSome_iff_exists.mp hsome
    rw [if_neg hvec, scalar_after, reads_scalar hr, h0, withHandle_of _ s1 i u _ _ _ _ z hh, hgo]
    rfl

/-- PLARG: each active lane's first words of its request are written (R304). -/
theorem exec_plarg_of (hw : t.waveObj = some (w, x)) (hl : t.active.isEmpty = false) (hv : t.vOk r (max 1 x.nargs) = true) :
    exec (.plarg (.v r)) s = .next (s.done i (t.active.foldl (fun v l => v.setVs l r.toNat (((w.args[l]?).getD []).take x.nargs)) t)) := by
  show execPlarg (.v r) s = _
  rw [execPlarg, sweep, sweepOn_after s i t t _ h _ _ _ _ _ ?operands hl (reads_nil t)]
  case operands => simp [need, waveBlock, hw, hv, firstCause]
  simp only [hw, settle_setTeam_after]

/-- PLREPLY: each active lane's block of registers is kept as its reply (R304). -/
theorem exec_plreply_of (hw : t.waveObj = some (w, x)) (hl : t.active.isEmpty = false) (hv : t.vOk r (max 1 x.nrep) = true) :
    exec (.plreply (.v r)) s = .next (s.done i { t with wave := some { w with
      replies := w.replies.zipIdx.map fun p => if t.active.contains p.2 then some (t.vs p.2 r.toNat x.nrep) else p.1 } }) := by
  show execPlreply (.v r) s = _
  rw [execPlreply, sweep, sweepOn_after s i t t _ h _ _ _ _ _ ?operands hl (reads_nil t)]
  case operands => simp [need, waveBlock, hw, hv, firstCause]
  simp only [hw, settle_setTeam_after]

/-- PLDONE with the wave's operations over and its release complete: the wave ends (R305). -/
theorem exec_pldone_of (hw : t.wave.isSome = true) (hd : (({ s with cur := none } : State).setTeam i t).drainAll i = .ok s1)
    (hi : s1.teamIdle i = true) (hrel : s1.waveReleases i = true) : exec .pldone s = .next (s1.endTeam i) := by
  show execPldone s = _
  rw [execPldone, once_plain s i t h _ _ (by simp [need, hw, firstCause])]
  simp only [hd, hi, hrel, if_true]
  rfl

end

/-- Settles O41: one lemma for each instruction; PLEAT's two forms of handle come to `pleatGo`. -/
theorem pleatResult : Obligations.PleatResult := by
  intro s s1 s2 s3 i t u q r d b h
  refine ⟨fun hl hd hv hb rb hr hf obj hobj xs hlanes hfit hdrain => ?pleat, fun w x hw hl => ⟨?plarg, ?plreply⟩, exec_pldone_of h⟩
  case pleat => exact exec_pleat_of h hl hd hv hb rb hr hf rfl hobj hlanes hfit hdrain
  case plarg => exact exec_plarg_of h hw hl
  case plreply => exact exec_plreply_of h hw hl

end Sys2Proof.Machine

/-! # VDIE, HOPS, SRD, SWR and AUDRD (O42) -/

namespace Sys2Proof.Machine

open Sys2Proof

section
variable {s : State} {p c x y : Nat}

/-- Two bound dies: their distance in rows and columns of the grid, added (R325). -/
theorem hops_bound {j k : Nat} (hj : s.physDie p c x = some j) (hk : s.physDie p c y = some k) :
    s.hops p c x y = some (((j / 4 : Nat) - (k / 4 : Nat) : Int).natAbs + ((j % 4 : Nat) - (k % 4 : Nat) : Int).natAbs) := by
  have hdist (m n : Nat) : (if m ≤ n then n - m else m - n) = ((m : Int) - (n : Int)).natAbs := by split <;> omega
  simp only [State.hops, hj, hk, hdist]

/-- A die that is not bound has no distance (R325). -/
theorem hops_unbound (h : s.physDie p c x = none ∨ s.physDie p c y = none) : s.hops p c x y = none := by
  unfold State.hops
  rcases h with h | h
  · rw [h]
  · rw [h]
    cases s.physDie p c x <;> rfl

end

section
variable {s : State} {i : Nat} {t u : Team} {q : Nat → Nat → Word} {d a b : Sel} {n : BitVec 16} (h : Issues s i t)
include h

section
variable (pd : t.pushCheck d = none) (hd : t.takes d)
include pd hd

/-- VDIE: the team's virtual die and its context's number of them (R325). -/
theorem exec_vdie_of : exec (.vdie d) s = .next (s.done i (t.put d (BitVec.ofNat 32 (t.vdie % 8 + 2 ^ 16 * (s.ctx t.part t.ctx).fabNvd)))) := by
  show execVdie d s = _
  rw [execVdie, once_after s i t t _ h _ _ _ ?operands (reads_none t), settle_put_after _ _ _ _ _ _ _ _ hd]
  case operands => simp [need, takes_scalarDst t d hd, pd, firstCause]
  rw [ctx_after]

/-- SRD of a register that its authority may read (R336, R365, R367). -/
theorem exec_srd_of {w : Word} (hc : s.readCheck t n.toNat = none) (hw : s.sysRead t n.toNat = .value w) :
    exec (.srd d n) s = .next (s.done i (t.put d w)) := by
  have hcheck : ({ s with cur := none } : State).readCheck t n.toNat = none := hc
  have hread : (s.after i t (popsOnce [])).sysRead t n.toNat = .value w := hw
  show execSrd d n s = _
  rw [execSrd, once_after s i t t _ h _ _ _ ?operands (reads_none t)]
  case operands => simp [need, takes_scalarDst t d hd, pd, hcheck, firstCause]
  simp only [hread, settle_put_after _ _ _ _ _ _ _ _ hd]

end

/-- HOPS: the distance of the dies bound to A and B, or all ones (R325). -/
theorem exec_hops_of (ha : t.scalarSrc a = true) (hb : t.scalarSrc b = true) (ra : t.readable a) (rb : t.readable b)
    (hr : Reads t (popsOnce [(0, a), (1, b)]) u q) (pd : t.pushCheck d = none) (hd : u.takes d) :
    exec (.hops d a b) s = .next (s.done i (u.put d (((s.hops t.part t.ctx (s.scalar t a (q 0 0)).toNat (s.scalar t b (q 1 0)).toNat).map
      (BitVec.ofNat 32)).getD 0xFFFFFFFF))) := by
  show execHops d a b s = _
  rw [execHops, once_after s i t u q h _ _ _ ?operands hr, settle_put_after _ _ _ _ _ _ _ _ hd]
  case operands =>
    simp only [takes_scalarDst u d hd, ha, hb, pd, need, Bool.and_self, if_true, List.cons_append, List.nil_append, firstCause]
    exact firstCause_readable t [(0, a), (1, b)] (by simp [ra, rb])
  simp only [scalar_after, reads_scalar hr, hops_after, reads_part hr, reads_ctx hr]
  cases s.hops t.part t.ctx (s.scalar t a (q 0 0)).toNat (s.scalar t b (q 1 0)).toNat <;> rfl

/-- AUDRD of an auditor: a counter of one context that is there, or of the whole partition (R368). -/
theorem exec_audrd_of {r : BitVec 6} {k e : Nat} (hr2 : r.toNat % 2 = 0) (ho : s.auth t = .auditor) (ha : t.scalarSrc a = true)
    (hb : t.scalarSrc b = true) (ra : t.readable a) (rb : t.readable b) (hr : Reads t (popsOnce [(0, a), (1, b)]) u q)
    (hk : (s.scalar t a (q 0 0)).toNat = k) (he : (s.scalar t b (q 1 0)).toNat = e) (hok : counterOk k = true)
    (hctx : counterByCtx k = false ∨ e = 0xFFFFFFFF ∨ (e < 64 ∧ (s.ctx t.part e).en = true)) :
    exec (.audrd (.s r) a b) s = .next (s.done i ((u.setS r (BitVec.ofNat 32 (s.counter t.part k e))).setS (r + 1)
      (BitVec.ofNat 32 (s.counter t.part k e / 2 ^ 32)))) := by
  have hauth : ({ s with cur := none } : State).auth t = .auditor := ho
  have hcount : (counterOk k && (!counterByCtx k || e == 0xFFFFFFFF || (decide (e < 64) && (s.ctx t.part e).en))) = true := by
    rcases hctx with hc | rfl | ⟨hlt, hen⟩
    · simp [hok, hc]
    · simp [hok]
    · simp [hok, hlt, hen]
  show execAudrd (.s r) a b s = _
  rw [execAudrd, once_after s i t u q h _ _ _ ?operands hr]
  case operands =>
    simp only [hauth, pairOk_even hr2, ha, hb, need, beq_self_eq_true, Bool.and_self, if_true, List.cons_append, List.nil_append, firstCause]
    exact firstCause_readable t [(0, a), (1, b)] (by simp [ra, rb])
  simp only [scalar_after, reads_scalar hr, hk, he, ctx_after, reads_part hr, hcount, if_true, counter_after, settle_setTeam_after]
  rfl

section
variable (hb : t.scalarSrc b = true) (rb : t.readable b) (hc : ({ s with cur := none } : State).writeCheck t n.toNat = none)
  (hr : Reads t (popsOnce [(1, b)]) u q)
include hb rb hc hr

omit h hr in
/-- The checks of SWR (R55, R336). -/
theorem swr_checks :
    firstCause ([({ s with cur := none } : State).writeCheck t n.toNat, need (t.scalarSrc b) .illegalOperand] ++ [(1, b)].map fun f => t.popCheck f.2) =
      none := by
  simp only [hc, hb, need, if_true, List.cons_append, List.nil_append, firstCause]
  exact firstCause_readable t [(1, b)] (by simp [rb])

/-- SWR of a register that its authority may write (R336, R365, R367). -/
theorem exec_swr_done {s1 : State} (hw : ((s.after i u (popsOnce [(1, b)])).setTeam i u).sysWrite i u n.toNat (s.scalar t b (q 1 0)) = .done s1) :
    exec (.swr n b) s = .next (s1.issued i) := by
  show execSwr n b s = _
  rw [execSwr, once_after s i t u q h _ _ _ (swr_checks hb rb hc) hr]
  simp only [scalar_after, reads_scalar hr, hw]
  rfl

/-- SWR of htab.sync holds its team until the dies have dropped their copies (R235, R329). -/
theorem exec_swr_sync {s1 : State} {slot : Nat}
    (hw : ((s.after i u (popsOnce [(1, b)])).setTeam i u).sysWrite i u n.toNat (s.scalar t b (q 1 0)) = .sync slot s1) :
    exec (.swr n b) s = .next ((s1.modTeam i fun t => { t with hold := some (.sync slot) }).issued i) := by
  show execSwr n b s = _
  rw [execSwr, once_after s i t u q h _ _ _ (swr_checks hb rb hc) hr]
  simp only [scalar_after, reads_scalar hr, hw]
  rfl

end

end

/-- Settles O42: one lemma for each instruction, SWR by what its write answers, and the distance of HOPS by whether both dies are bound. -/
theorem systemRegisterResult : Obligations.SystemRegisterResult := by
  intro s i t u q d a b n h
  refine ⟨fun hd pd => ⟨exec_vdie_of h pd hd, fun w hc hw => exec_srd_of h pd hd hc hw⟩, fun ha hb ra rb hr => ?two, fun hb rb hc hr => ?write⟩
  case two =>
    intro x y
    refine ⟨exec_hops_of h ha hb ra rb hr, fun j k hj hk => hops_bound hj hk, hops_unbound, fun r hr2 ho hok hctx => ?audrd⟩
    refine exec_audrd_of h hr2 ho ha hb ra rb hr rfl rfl hok (hctx.imp_right (Or.imp_left fun hy => ?_))
    exact congrArg BitVec.toNat hy
  case write => exact ⟨fun s1 hw => exec_swr_done h hb rb hc hr hw, fun slot s1 hw => exec_swr_sync h hb rb hc hr hw⟩

end Sys2Proof.Machine

/-! # PLACE, PREEMPT and RESUME (O44) -/

namespace Sys2Proof.Machine

open Sys2Proof

section
variable {s : State} {i : Nat} {t u : Team} {q : Nat → Nat → Word} {a b : Sel} {c : Nat} (h : Issues s i t) (ha : t.scalarSrc a = true)
  (ra : t.readable a) (hc : (s.scalar t a (q 0 0)).toNat = c)
include h ha ra hc

/-- PLACE of a context that is not placed, by a good die map (R298, R324, R330). -/
theorem exec_place_of {m : Word} (ho : s.auth t = .operator) (hb : t.scalarSrc b = true) (rb : t.readable b)
    (hr : Reads t (popsOnce [(0, a), (1, b)]) u q) (hm : s.scalar t b (q 1 0) = m) (hctx : s.isCtx t.part c = true)
    (hnvd : (s.ctx t.part c).fabNvd = 0) (hmap : s.mapOk t.part m = true) {s0 : State} (h0 : (s.after i u (popsOnce [(0, a), (1, b)])).setTeam i u = s0) :
    exec (.place a b) s = .next (((((s0.dropHomes t.part c).setCtx t.part c { s.ctx t.part c with vdmap := mapDies m, fabNvd := bits m 27 24 }).moveParts
      t.part c fun d => if 16 ≤ d then ((mapDies m)[d - 16]?).getD 0 else d).fixHomes t.part c).issued i) := by
  have hauth : ({ s with cur := none } : State).auth t = .operator := ho
  show execPlace a b s = _
  rw [execPlace, once_after s i t u q h _ _ _ ?operands hr]
  case operands =>
    simp only [hauth, ha, hb, need, beq_self_eq_true, Bool.and_self, if_true, List.cons_append, List.nil_append, firstCause]
    exact firstCause_readable t [(0, a), (1, b)] (by simp [ra, rb])
  simp only [scalar_after, reads_scalar hr, hc, hm, reads_part hr, ctx_after, isCtx_after, mapOk_after, hctx, hnvd, hmap, h0, Bool.not_true,
    bne_self_eq_false, Bool.or_self, Bool.false_eq_true, if_false]
  rfl

variable (hr : Reads t (popsOnce [(0, a)]) u q)
include hr

/-- PREEMPT of a context, or of every other placed one, with the lining enabled: their teams halt (R330, R361, R371). -/
theorem exec_preempt_of (ho : s.auth t = .operator) (hlin : (s.part t.part).linEn = true)
    (hwho : c = 0xFFFFFFFF ∨ (s.isCtx t.part c = true ∧ c ≠ t.ctx ∧ (s.ctx t.part c).sealed = false)) :
    exec (.preempt a) s = .next (((s.preemptSet t.part t.ctx c).foldl (fun s k => s.halt t.part k true)
      ((s.after i u (popsOnce [(0, a)])).setTeam i u)).issued i) := by
  have hauth : ({ s with cur := none } : State).auth t = .operator := ho
  have hgood : ¬(c ≠ 0xFFFFFFFF ∧ (!s.isCtx t.part c || c == t.ctx || (s.ctx t.part c).sealed) = true) := by
    rcases hwho with rfl | ⟨hctx, hne, hsealed⟩
    · simp
    · simp [hctx, hne, hsealed]
  show execPreempt a s = _
  rw [execPreempt, once_after s i t u q h _ _ _ ?operands hr]
  case operands =>
    simp only [hauth, ha, need, beq_self_eq_true, if_true, List.cons_append, List.nil_append, firstCause]
    exact firstCause_readable t [(0, a)] (by simp [ra])
  simp only [scalar_after, reads_scalar hr, hc, reads_part hr, reads_ctx hr, part_after, ctx_after, isCtx_after, preemptSet_after, hlin, Bool.not_true,
    Bool.false_eq_true, if_false, if_neg hgood]
  rfl

variable (hctx : s.isCtx t.part c = true)
include hctx

omit h hc hr hctx in
/-- The checks of RESUME (R55): of an owner or an operator. -/
theorem resume_checks (ho : s.auth t ≠ .auditor) :
    firstCause ([need (({ s with cur := none } : State).auth t != .auditor) .rights, need (t.scalarSrc a) .illegalOperand] ++
      [(0, a)].map fun f => t.popCheck f.2) = none := by
  have hauth : (({ s with cur := none } : State).auth t != .auditor) = true := bne_iff_ne.mpr ho
  simp only [hauth, ha, need, if_true, List.cons_append, List.nil_append, firstCause]
  exact firstCause_readable t [(0, a)] (by simp [ra])

/-- RESUME of an operator: the context's teams run on (R330). -/
theorem exec_resume_operator (ho : s.auth t = .operator) (hsealed : (s.ctx t.part c).sealed = false) :
    exec (.resume a) s = .next (((((s.after i u (popsOnce [(0, a)])).setTeam i u).resumeTeams t.part c).halt t.part c false).issued i) := by
  show execResume a s = _
  rw [execResume, once_after s i t u q h _ _ _ (resume_checks ha ra (by simp [ho])) hr]
  simp only [scalar_after, reads_scalar hr, hc, reads_part hr, isCtx_after, hctx, auth_after, reads_auth hr, ho, ctx_after, hsealed, Bool.not_true,
    Bool.false_eq_true, if_false, reduceCtorEq]
  rfl

/-- RESUME of an owner: the debug stops of its own context end (R330, R371). -/
theorem exec_resume_owner (ho : s.auth t = .owner) (hown : c = t.ctx) :
    exec (.resume a) s = .next ((((s.after i u (popsOnce [(0, a)])).setTeam i u).undebug t.part c).issued i) := by
  show execResume a s = _
  rw [execResume, once_after s i t u q h _ _ _ (resume_checks ha ra (by simp [ho])) hr]
  simp only [scalar_after, reads_scalar hr, hc, reads_part hr, reads_ctx hr, isCtx_after, hctx, auth_after, reads_auth hr, ho, if_pos hown,
    Bool.not_true, Bool.false_eq_true, if_false, if_true]
  rfl

end

/-- Settles O44: one lemma for PLACE, one for PREEMPT, and RESUME by the authority of its context. -/
theorem managementResult : Obligations.ManagementResult := by
  intro s i t u q a b h ha ra c
  refine ⟨fun ho hb rb hr => ?place, fun hr => ?teams⟩
  case place =>
    intro m s0 hctx hnvd hmap
    exact exec_place_of h ha ra rfl ho hb rb hr rfl hctx hnvd hmap rfl
  case teams =>
    exact ⟨fun ho hlin hwho => exec_preempt_of h ha ra rfl hr ho hlin hwho,
      fun ho hctx hsealed => exec_resume_operator h ha ra rfl hr hctx ho hsealed,
      fun ho hctx hown => exec_resume_owner h ha ra rfl hr hctx ho hown⟩

end Sys2Proof.Machine

/-! # INVPG, INVCF, FLTACK and DISCARD (O46) -/

namespace Sys2Proof.Machine

open Sys2Proof

/-- The drain that an INVPG of code `code` at `addr` begins (R349): of a whole stage for code 4, else of the page there. -/
def invpgDrain (i p c stage addr code : Nat) : Drain :=
  { team := i, part := p, ctx := c, stage := stage, base := if code = 4 then 0 else addr % stageSpace stage,
    size := if code = 4 then stageSpace stage else codeSize code }

theorem invpgDrain_whole (i p c stage addr : Nat) :
    invpgDrain i p c stage addr 4 = { team := i, part := p, ctx := c, stage := stage, base := 0, size := stageSpace stage } := by
  simp only [invpgDrain, if_true]

theorem invpgDrain_page (i p c stage addr : Nat) {code : Nat} (h4 : code < 4) :
    invpgDrain i p c stage addr code = { team := i, part := p, ctx := c, stage := stage, base := addr % stageSpace stage, size := codeSize code } := by
  simp only [invpgDrain, if_neg (show code ≠ 4 by omega)]

/-- What an INVPG names can be drained (R349): a whole stage, or an aligned page that the stage has. -/
structure InvpgNames (oper : Bool) (addr code : Nat) : Prop where
  code_le : code ≤ 4
  aligned : code < 4 → addr % codeSize code = 0
  inside : code < 4 → if oper = true then addr < 2 ^ 52 else canonical addr = true

theorem InvpgNames.whole (oper : Bool) (addr : Nat) : InvpgNames oper addr 4 :=
  ⟨le_rfl, fun h => absurd h (lt_irrefl 4), fun h => absurd h (lt_irrefl 4)⟩

theorem InvpgNames.not_outside {oper : Bool} {addr code : Nat} (hp : InvpgNames oper addr code) :
    ¬(code < 4 ∧ if oper = true then 2 ^ 52 ≤ addr else canonical addr = false) := by
  rintro ⟨h4, hbad⟩
  have hin := hp.inside h4
  cases oper
  case false => simp only [Bool.false_eq_true, if_false] at hin hbad; simp [hin] at hbad
  case true => simp only [if_true] at hin hbad; omega

section
variable {s s1 s2 : State} {i : Nat} {t u : Team} {q : Nat → Nat → Word} {d a b : Sel} (h : Issues s i t)
include h

/-- INVPG: an owner drains in its own stage 1, an operator in stage 2 of context D (R349). -/
theorem exec_invpg_of {n : BitVec 6} {oper : Bool} {ss : List (Nat × Sel)} {c stage code : Nat} (hn : n.toNat % 2 = 0)
    (hf : u.flagFull (t.setFlag true) = false) (ho : s.auth t ≠ .auditor) (hoper : (s.auth t == .operator) = oper)
    (hss : (if oper then [(1, b), (2, d)] else [(1, b)]) = ss) (hsrc : ∀ f ∈ ss, t.scalarSrc f.2 = true) (hread : ∀ f ∈ ss, t.readable f.2)
    (hr : Reads t (popsOnce ss) u q) (hc : (if oper then (s.scalar t d (q 2 0)).toNat else t.ctx) = c)
    (hlive : oper = true → c < 64 ∧ (s.ctx t.part c).en = true) (hst : (if oper then 2 else 1) = stage)
    (hcode : (s.scalar t b (q 1 0)).toNat = code) (hp : InvpgNames oper (t.pair n) code)
    (h2 : ((s.after i u (popsOnce ss)).setTeam i u).beginDrain (invpgDrain i t.part c stage (t.pair n) code) = s2) :
    exec (.invpg d (.s n) b) s = .next (s2.started i u (opOf i u s2 (t.setFlag true) .done) []) := by
  have hoper' : (({ s with cur := none } : State).auth t == .operator) = oper := hoper
  have hright : (({ s with cur := none } : State).auth t != .auditor) = true := bne_iff_ne.mpr ho
  have hchecks : firstCause ([need true .rights, need (pairOk (.s n) && ss.all fun f => t.scalarSrc f.2) .illegalOperand] ++
      ss.map fun f => t.popCheck f.2) = none := by
    simp only [pairOk_even hn, List.all_eq_true.mpr hsrc, need, Bool.and_self, if_true, List.cons_append, List.nil_append, firstCause]
    simpa only [List.map_map, Function.comp_def] using firstCause_readable t ss hread
  have hctx : ¬(4 < code ∨ (oper = true ∧ (!(decide (c < 64) && (s.ctx t.part c).en)) = true)) := by
    rintro (h4 | ⟨hop, hbad⟩)
    · have := hp.code_le; omega
    · obtain ⟨hlt, hen⟩ := hlive hop
      simp [hlt, hen] at hbad
  have halign : ¬(code < 4 ∧ t.pair n % codeSize code ≠ 0) := fun hx => hx.2 (hp.aligned hx.1)
  show execInvpg d (.s n) b s = _
  unfold execInvpg
  rw [issue_of s i t h]
  simp only [hoper', hright, hss, hchecks, withPops_of s i t u q _ _ hr, scalar_after, reads_scalar hr, reads_part hr, reads_ctx hr, reads_pair hr,
    ctx_after, hc, hcode, hst, if_neg hctx, if_neg halign, if_neg hp.not_outside, doneOp_of ((reads_setFlag hr true).symm ▸ hf), reads_setFlag hr]
  rw [settle_enterOp, ← h2]
  rfl

/-- INVCF is outstanding on its flag as a release at DEVICE scope (R350). -/
theorem exec_invcf_of (ho : s.auth t ≠ .auditor) (hf : t.flagFull (t.setFlag true) = false)
    (h1 : (({ s with cur := none } : State).setTeam i t).drainAll i = .ok s1) :
    exec .invcf s = .next (s1.started i t { opOf i t s1 (t.setFlag true) .invcf with rel := some 4, mask := 0 } []) := by
  have hright : (({ s with cur := none } : State).auth t != .auditor) = true := bne_iff_ne.mpr ho
  show execInvcf s = _
  rw [execInvcf, once_plain s i t h _ _ (by simp only [hright, need, if_true, firstCause])]
  simp only [hf, Bool.false_eq_true, if_false, h1, settle_enterOp]

/-- FLTACK by an authority that acts on its fault: recorded once the issuer's writes are visible (R332). -/
theorem exec_fltack_of {k : BitVec 8} {id : Nat} {r : TrapRec} {s0 : State} (ha : t.scalarSrc a = true) (ra : t.readable a)
    (hr : Reads t (popsOnce [(0, a)]) u q) (hk : k.toNat < 2) (hid : (s.scalar t a (q 0 0)).toNat = id) (ho : s.auth t ≠ .auditor)
    (h0 : s.after i u (popsOnce [(0, a)]) = s0) (hrec : s0.unacked t id = some r)
    (hacts : if s.auth t = .operator then r.actOp = true else r.actOwn = true) (hdrain : (s0.setTeam i u).drainAll i = .ok s1)
    (hcov : s1.covered (some i) (s1.dom u) s1.stamp = true) :
    exec (.fltack a k) s = .next ((s1.recordAck id r (s.auth t == .operator) (k == 1)).issued i) := by
  subst h0
  have hright : (({ s with cur := none } : State).auth t != .auditor) = true := bne_iff_ne.mpr ho
  have hacts' : (if (s.auth t == .operator) = true then !r.actOp else !r.actOwn) = false := by
    simp only [beq_iff_eq]
    split at hacts
    case isTrue hop => simp only [if_pos hop, hacts, Bool.not_true]
    case isFalse hop => simp only [if_neg hop, hacts, Bool.not_true]
  show execFltack a k s = _
  rw [execFltack, once_after s i t u q h _ _ _ ?operands hr]
  case operands =>
    simp only [hright, ha, hk, need, decide_true, Bool.and_self, if_true, List.cons_append, List.nil_append, firstCause]
    exact firstCause_readable t [(0, a)] (by simp [ra])
  simp only [scalar_after, reads_scalar hr, hid, auth_after, reads_auth hr, reads_unacked hr, hrec, hacts', hdrain, hcov, Bool.not_true,
    Bool.false_eq_true, if_false]
  rfl

/-- DISCARD goes through its pages from the first (R351, R373). -/
theorem exec_discard_of {n : BitVec 6} {m code : Nat} (hn : n.toNat % 2 = 0) (ho : s.auth t = .owner) (hb : t.scalarSrc b = true) (rb : t.readable b)
    (hd : t.scalarSrc d = true) (rd : t.readable d) (hr : Reads t (popsOnce [(1, b), (2, d)]) u q) (hnew : t.claimed = [])
    (hm : (s.scalar t d (q 2 0)).toNat = m) (hcode : (s.scalar t b (q 1 0)).toNat = code) (h1m : 1 ≤ m) (hm512 : m ≤ 512) (hc3 : code ≤ 3)
    (hal : t.pair n % codeSize code = 0) (hdrain : ((s.after i u (popsOnce [(1, b), (2, d)])).setTeam i u).drainAll i = .ok s1)
    (hcov : s1.covered (some i) (s1.dom u) s1.stamp = true) (h2 : s1.discardFrom i u (t.pair n) (codeSize code) 0 none m = .ok s2) :
    exec (.discard d (.s n) b) s = .next (s2.issued i) := by
  have hauth : ({ s with cur := none } : State).auth t = .owner := ho
  have hcount : ¬(m < 1 ∨ 512 < m ∨ 3 < code) := by omega
  show execDiscard d (.s n) b s = _
  rw [execDiscard, once_after s i t u q h _ _ _ ?operands hr]
  case operands =>
    simp only [hauth, hb, hd, pairOk_even hn, need, beq_self_eq_true, Bool.and_self, if_true, List.cons_append, List.nil_append, firstCause]
    exact firstCause_readable t [(1, b), (2, d)] (by simp [rb, rd])
  simp only [scalar_after, reads_scalar hr, reads_pair hr, reads_claimed hr, hm, hcode, if_neg hcount, hal, ne_eq, not_true_eq_false, hdrain, hcov,
    Bool.not_true, Bool.false_eq_true, if_false, hnew, h2]
  rfl

end

/-- Settles O46: INVPG by its authority and by whether it names a stage or a page, and one lemma for each of INVCF, FLTACK and DISCARD. -/
theorem invalidateResult : Obligations.InvalidateResult := by
  intro s s1 i t u q d a b h
  refine ⟨fun n hn hb rb hf => ⟨fun ho hr => ?owner, fun ho hd rd hr hlt hen => ?operator⟩, fun ho hf h1 => exec_invcf_of h ho hf h1,
    fun ha ra hr k hk r ho hrec hacts hdrain hcov => exec_fltack_of h ha ra hr hk rfl ho rfl hrec hacts hdrain hcov,
    fun n hn ho hb rb hd rd hr hnew h1m hm512 hc3 hal hdrain hcov s2 h2 =>
      exec_discard_of h hn ho hb rb hd rd hr hnew rfl rfl h1m hm512 hc3 hal hdrain hcov h2⟩
  case owner =>
    have goes {code : Nat} {s2 : State} := exec_invpg_of (d := d) (code := code) (s2 := s2) h hn hf (by simp [ho]) (oper := false) (by simp [ho]) rfl (by simp [hb]) (by simp [rb])
      hr rfl (by simp) rfl
    refine ⟨fun h4 => ?_, fun h4 hal hin => ?_⟩
    · exact goes h4 (.whole _ _) (by rw [invpgDrain_whole]; rfl)
    · exact goes rfl ⟨h4.le, fun _ => hal, fun _ => by simpa using hin⟩ (by rw [invpgDrain_page _ _ _ _ _ h4]; rfl)
  case operator =>
    have goes {code : Nat} {s2 : State} := exec_invpg_of (d := d) (code := code) (s2 := s2) h hn hf (by simp [ho]) (oper := true) (by simp [ho]) rfl (by simp [hb, hd])
      (by simp [rb, rd]) hr rfl (fun _ => ⟨hlt, hen⟩) rfl
    refine ⟨fun h4 => ?_, fun h4 hal hin => ?_⟩
    · exact goes h4 (.whole _ _) (by rw [invpgDrain_whole]; rfl)
    · exact goes rfl ⟨h4.le, fun _ => hal, fun _ => by simpa using hin⟩ (by rw [invpgDrain_page _ _ _ _ _ h4]; rfl)

end Sys2Proof.Machine

/-! # SEAL, UNSEAL and ATTEST (O45) -/

namespace Sys2Proof.Machine

open Sys2Proof

section
variable {s s1 s2 s3 s4 : State} {i : Nat} {t u : Team} {q : Nat → Nat → Word} {r : BitVec 6} {a b : Sel} (h : Issues s i t)
  (hn : r.toNat % 2 = 0) (ha : t.scalarSrc a = true) (ra : t.readable a)
include h hn ha ra

section
variable {s0 : State} {n : Nat} {as : List Acc} (hb : t.scalarSrc b = true) (rb : t.readable b) (hr : Reads t (popsOnce [(0, a), (1, b)]) u q)
  (h0 : s.after i u (popsOnce [(0, a), (1, b)]) = s0) (hroom : n ≤ (s.scalar t b (q 1 0)).toNat)
include hb rb hr h0 hroom

/-- SEAL of a placed context, wholly halted and quiet, into room that its blob fits in (R330, R331, R372). -/
theorem exec_seal_of {c : Nat} (hc : (s.scalar t a (q 0 0)).toNat = c) (ho : s.auth t = .operator) (hctx : s.isCtx t.part c = true)
    (hnvd : (s.ctx t.part c).fabNvd ≠ 0) (hhalt : s0.wholeHalt t.part c = true) (hquiet : s0.ctxQuiet t.part c = true)
    (hlen : 64 + sealBody (s.dev.seals + 1) (s0.ctxTeams t.part c).length = n) (h1 : (s0.setTeam i u).clearOver i [(t.pair r, n)] = .ok s1)
    (h2 : s1.placeRun i u (t.pair r) n = .ok as s2)
    (h3 : s2.putRun u (t.pair r)
      (blobBytes (s2.part t.part).sealKey c n (((s.ctx t.part c).seq + 1) % 2 ^ 32) (s.ctx t.part c).fabNvd (s2.dev.seals + 1)) as = .ok () s3) :
    exec (.seal (.s r) a b) s = .next ((s3.sealAway t.part c n).issued i) := by
  subst h0
  have hauth : ({ s with cur := none } : State).auth t = .operator := ho
  show execSeal (.s r) a b s = _
  rw [execSeal, once_after s i t u q h _ _ _ ?operands hr]
  case operands =>
    simp only [hauth, ha, hb, pairOk_even hn, need, beq_self_eq_true, Bool.and_self, if_true, List.cons_append, List.nil_append, firstCause]
    exact firstCause_readable t [(0, a), (1, b)] (by simp [ra, rb])
  simp only [scalar_after, reads_scalar hr, reads_part hr, reads_pair hr, isCtx_after, ctx_after, dev_after, hc, hctx, beq_false_of_ne hnvd, hhalt, hquiet,
    hlen, if_neg (Nat.not_lt.mpr hroom), h1, h2, h3, Bool.not_true, Bool.or_self, Bool.false_eq_true, if_false]
  rfl

/-- ATTEST over an aligned challenge into an aligned run that its report fits in: the device counts it (R374). -/
theorem exec_attest_of {chal : List Byte} (hrep : 4883 = n) (ho : s.auth t ≠ .auditor) (hva : t.pair r % 64 = 0)
    (hca : (t.pair 62 + (s.scalar t a (q 0 0)).toNat) % 2 ^ 64 % 64 = 0) (h1 : (s0.setTeam i u).clearOver i [(t.pair r, 4883)] = .ok s1)
    (h2 : s1.record i u ((t.pair 62 + (s.scalar t a (q 0 0)).toNat) % 2 ^ 64) 64 64 = .ok chal s2)
    (h3 : s2.placeRun i u (t.pair r) 4883 = .ok as s3) (h4 : s3.putRun u (t.pair r) (s3.report t.part t.ctx chal) as = .ok () s4) :
    exec (.attest (.s r) a b) s = .next (State.issued { s4 with dev := { s4.dev with attests := s4.dev.attests + 1 } } i) := by
  subst h0 hrep
  have hright : (({ s with cur := none } : State).auth t != .auditor) = true := bne_iff_ne.mpr ho
  show execAttest (.s r) a b s = _
  rw [execAttest, once_after s i t u q h _ _ _ ?operands hr]
  case operands =>
    simp only [hright, ha, hb, pairOk_even hn, need, Bool.and_self, if_true, List.cons_append, List.nil_append, firstCause]
    exact firstCause_readable t [(0, a), (1, b)] (by simp [ra, rb])
  simp only [scalar_after, reads_scalar hr, reads_part hr, reads_ctx hr, reads_pair hr, if_neg (Nat.not_lt.mpr hroom), hva, hca, ne_eq,
    not_true_eq_false, or_self, if_false, h1, h2, h3, h4]
  rfl

end

/-- UNSEAL of the blob that holds its context, which is placed again (R330, R331, R372). -/
theorem exec_unseal_of {c n len : Nat} {head bs : List Byte} (hr : Reads t (popsOnce [(0, a)]) u q) (hc : (s.scalar t a (q 0 0)).toNat = c)
    (ho : s.auth t = .operator) (hctx : s.isCtx t.part c = true) (hsealed : (s.ctx t.part c).sealed = true) (hnvd : (s.ctx t.part c).fabNvd ≠ 0)
    (hblob : (s.ctx t.part c).blob = some (n, len, (s.ctx t.part c).fabNvd))
    (h1 : ((s.after i u (popsOnce [(0, a)])).setTeam i u).readRun i u (piecesOf (t.pair r) 64) = .ok head s1)
    (hhead : sealedHeader head =
      sealedHeader (blobHeader (s1.part t.part).sealKey c len (s.ctx t.part c).seq (s.ctx t.part c).fabNvd n))
    (h2 : s1.readRun i u (piecesOf (t.pair r) len) = .ok bs s2)
    (hbody : bs.drop 64 = (blobBytes (s2.part t.part).sealKey c len (s.ctx t.part c).seq (s.ctx t.part c).fabNvd n).drop 64)
    (h3 : s2.rehome t.part c (s2.pleats.filter fun r => r.2.part == t.part && r.2.ctx == c && (r.2.stage == .inbox || r.2.stage == .wave)) = .ok () s3)
    (h4 : s3.unsealAll t.part c = some s4) : exec (.unseal (.s r) a) s = .next (s4.issued i) := by
  have hauth : ({ s with cur := none } : State).auth t = .operator := ho
  show execUnseal (.s r) a s = _
  rw [execUnseal, once_after s i t u q h _ _ _ ?operands hr]
  case operands =>
    simp only [hauth, ha, pairOk_even hn, need, beq_self_eq_true, Bool.and_self, if_true, List.cons_append, List.nil_append, firstCause]
    exact firstCause_readable t [(0, a)] (by simp [ra])
  simp only [scalar_after, reads_scalar hr, reads_part hr, reads_pair hr, isCtx_after, ctx_after, hc, h1, hctx, hsealed, beq_false_of_ne hnvd, hblob,
    hhead, h2, hbody, h3, h4, Bool.not_true, Bool.or_self, Bool.false_eq_true, ne_eq, not_true_eq_false, or_self, if_false]
  rfl

end

/-- Settles O45: one lemma for each of SEAL, ATTEST and UNSEAL. -/
theorem sealResult : Obligations.SealResult := by
  intro s s1 s2 i t u q r a b as h hn ha ra p c x
  refine ⟨fun hb rb hr => ⟨fun ho hctx hnvd hhalt hquiet => ?sealed, fun ho => ?attested⟩, fun hr ho hctx hsealed hnvd => ?unsealed⟩
  case sealed =>
    intro len hroom h1 h2 s3 h3
    exact exec_seal_of h hn ha ra hb rb hr rfl hroom rfl ho hctx hnvd hhalt hquiet rfl h1 h2 h3
  case attested =>
    intro va ca chal s3 s4 hroom hva hca h1 h2 h3 h4
    exact exec_attest_of h hn ha ra hb rb hr rfl hroom rfl ho hva hca h1 h2 h3 h4
  case unsealed =>
    intro s0 n len head bs s3 s4 hblob h1 hhead h2 hbody h3 h4
    exact exec_unseal_of h hn ha ra hr rfl ho hctx hsealed hnvd hblob h1 hhead h2 hbody h3 h4

end Sys2Proof.Machine

/-! # The platform (O54) -/

namespace Sys2Proof.Machine

open Sys2Proof

section
variable (s : State) {die : Nat}

/-! ## Cores that come and go (R392, R393) -/

theorem mem_dieCores {n : Nat} : n ∈ dieCores die ↔ die * 48 ≤ n ∧ n < die * 48 + 48 := by
  simp only [dieCores, Config.coresPerDie, List.mem_map, List.mem_range]
  constructor
  · rintro ⟨k, hk, rfl⟩; omega
  · rintro ⟨hlo, hhi⟩; exact ⟨n - die * 48, by omega, by omega⟩

/-- A die's cores are listed in mesh order. -/
theorem dieCores_pairwise (die : Nat) : (dieCores die).Pairwise (· < ·) :=
  List.pairwise_map.mpr (List.pairwise_lt_range.imp fun h => Nat.add_lt_add_left h _)

/-- What a die enables next are the first eight of its cores that are off, or none (R392). -/
theorem nextCores_cases (die : Nat) :
    s.nextCores die = ((dieCores die).filter fun k => !(s.core k).enabled).take 8 ∨ s.nextCores die = [] := by
  unfold State.nextCores
  dsimp only
  split
  · exact .inl rfl
  · exact .inr rfl

theorem nextCores_length_le (die : Nat) : (s.nextCores die).length ≤ 8 := by
  rcases nextCores_cases s die with h | h
  · rw [h]; exact List.length_take_le ..
  · simp [h]

theorem nextCores_sublist (die : Nat) : (s.nextCores die).Sublist ((dieCores die).filter fun k => !(s.core k).enabled) := by
  rcases nextCores_cases s die with h | h
  · rw [h]; exact List.take_sublist ..
  · rw [h]; exact List.nil_sublist _

theorem nextCores_pairwise (die : Nat) : (s.nextCores die).Pairwise (· < ·) :=
  ((dieCores_pairwise die).filter _).sublist (nextCores_sublist s die)

/-- Only cores of the die that are off are enabled next. -/
theorem of_mem_nextCores {n : Nat} (h : n ∈ s.nextCores die) : die * 48 ≤ n ∧ n < die * 48 + 48 ∧ (s.core n).enabled = false := by
  obtain ⟨hmem, hoff⟩ := List.mem_filter.mp ((nextCores_sublist s die).subset h)
  obtain ⟨hlo, hhi⟩ := mem_dieCores.mp hmem
  exact ⟨hlo, hhi, by simpa using hoff⟩

theorem exec_coreEnableBatch_of (hd : die < Config.dies) (hw : s.dieWorks die = true) :
    exec (.coreEnableBatch die) s = .next ((s.nextCores die).foldl
      (fun s k => s.setCore k { s.core k with enabled := true, lastTeam := (s.core k).clk, lastLoop := (s.core k).clk }) s) := by
  show execCoreEnableBatch die s = _
  simp only [execCoreEnableBatch, hd, hw, decide_true, Bool.and_self, if_true]

/-- A die is idle where no core that is on has held a team for long enough (R392). -/
theorem dieIdle_of (hidle : ∀ k, die * 48 ≤ k → k < die * 48 + 48 →
    s.teamsOn k = [] ∧ ((s.core k).enabled = false ∨ (s.core k).lastTeam + Config.idleCycles ≤ (s.core k).clk)) : s.dieIdle die = true := by
  refine List.all_eq_true.mpr fun k hk => ?_
  obtain ⟨hlo, hhi⟩ := mem_dieCores.mp hk
  obtain ⟨hnone, hoff | hlong⟩ := hidle k hlo hhi
  · simp [hnone, hoff]
  · simp [hnone, hlong]

theorem exec_dieIdle_of (hd : die < Config.dies) (hi : s.dieIdle die = true) (hp : s.placementAt die = false) :
    exec (.dieIdle die) s = .next ((dieCores die).foldl (fun s k => s.setCore k { s.core k with enabled := false }) s) := by
  show execDieIdle die s = _
  simp only [execDieIdle, hd, hi, hp, decide_true, Bool.not_false, Bool.and_self, if_true]

/-- A matrix unit without a loop for long enough sleeps (R393). -/
theorem exec_matrixSleep_of {core : Nat} (hon : (s.core core).enabled = true) (hawake : (s.core core).asleep = false) (hloop : s.loopOn core = false)
    (hlong : (s.core core).lastLoop + Config.sleepCycles ≤ (s.core core).clk) :
    exec (.matrixSleep core) s = .next (s.setCore core { s.core core with asleep := true }) := by
  show execMatrixSleep core s = _
  simp only [execMatrixSleep, hon, hawake, hloop, hlong, decide_true, Bool.not_false, Bool.and_self, if_true]

theorem exec_matrixWake_of {o core : Nat} (hnext : s.nextWake (dieCores die) = some (o, core)) :
    exec (.matrixWake die) s = .next (s.setCore core { s.core core with asleep := false, lastLoop := (s.core core).clk }) := by
  show execMatrixWake die s = _
  simp only [execMatrixWake, hnext]

/-! ## Clocks and heat (R394, R395) -/

theorem exec_clockThrottle_of (hd : die < Config.dies) (hw : s.dieWorks die = true) (ht : s.throttle die < 5) :
    exec (.clockThrottle die) s = .next (s.setThrottle die (s.throttle die + 1)) := by
  show execClockThrottle die s = _
  simp only [execClockThrottle, clockSteps, hd, hw, ht, decide_true, Bool.and_self, if_true]

theorem powerLost_core (d : Dev) (k : Nat) : ((s.powerLost d).core k).enabled = false := rfl

/-- The stored image after a cold reset: the one loaded meanwhile, where there is one (R395, R399). -/
theorem coldReset_image : ∃ u, Event.run .coldReset s = .next u ∧ u.dev.trip = false ∧ u.dev.fw = 0 ∧ u.mem = [] ∧ u.teams = [] ∧
    (s.dev.next = [] → u.dev.image = s.dev.image) ∧ (s.dev.next ≠ [] → u.dev.image = s.dev.next) := by
  refine ⟨_, rfl, rfl, rfl, rfl, rfl, fun hnone => ?none, fun hsome => ?some⟩
  case none => exact if_pos (List.isEmpty_iff.mpr hnone)
  case some => exact if_neg (by simpa [Dev.unpowered] using hsome)

/-! ## Errors (R396, R397) -/

theorem exec_patrolScrub_bad {g p : Nat} (hb : s.bad.contains g = true) (hp : s.ownerPart (32 * g) = some p) :
    exec (.patrolScrub g) s = .next (s.count p 0 0x104) := by
  show execPatrolScrub g s = _
  simp only [execPatrolScrub, hb, if_true, hp, State.countSoft]

theorem exec_patrolScrub_good {g : Nat} (hb : s.bad.contains g = false) : exec (.patrolScrub g) s = .next s := by
  show execPatrolScrub g s = _
  simp only [execPatrolScrub, hb, Bool.false_eq_true, if_false]

theorem exec_softError_dram_corrected {g p : Nat} (hp : s.ownerPart (32 * g) = some p) :
    exec (.softError (.dram g) true) s = .next (s.count p 0 (if keyTier (32 * g) = 0 then 0x102 else 0x103)) := by
  show execSoftError (.dram g) true s = _
  simp only [execSoftError, if_true, State.sitePart, hp, State.countSoft]

/-- An error that stays goes to its site (R397). -/
theorem exec_softError_stays (site : ErrSite) : exec (.softError site false) s = .next (s.spoil site) := rfl

theorem exec_softError_dram_stays {g : Nat} (hb : s.bad.contains g = false) :
    exec (.softError (.dram g) false) s = .next { s with bad := g :: s.bad } := by
  simp only [exec_softError_stays, State.spoil, State.spoilHome, hb, Bool.false_eq_true, if_false]

section
variable {s} {i : Nat} {t : Team} (ht : s.team i = some t)
include ht

/-- A corrected error of a team's register is counted for the team's partition (R368, R396). -/
theorem exec_softError_vreg_corrected (lane reg : Nat) : exec (.softError (.vreg i lane reg) true) s = .next (s.count t.part 0 0x101) := by
  show execSoftError (.vreg i lane reg) true s = _
  simp only [execSoftError, if_true, State.sitePart, ht, Option.map_some, State.countSoft]

theorem exec_softError_sreg_corrected (n : Nat) : exec (.softError (.sreg i n) true) s = .next (s.count t.part 0 0x101) := by
  show execSoftError (.sreg i n) true s = _
  simp only [execSoftError, if_true, State.sitePart, ht, Option.map_some, State.countSoft]

theorem spoilReg_of_team (key : Nat) : s.spoilReg i key = s.setTeam i { t with spoilt := key :: t.spoilt } := State.modTeam_of_team s i t _ ht

theorem exec_softError_vreg_stays {lane reg : Nat} (hl : lane < t.nlanes) (hg : reg < t.nregs) :
    exec (.softError (.vreg i lane reg) false) s = .next (s.setTeam i { t with spoilt := vkey lane reg :: t.spoilt }) := by
  simp only [exec_softError_stays, State.spoil, State.modTeam_of_team s i t _ ht, hl, hg, and_self, if_true]

theorem exec_softError_sreg_stays {n : Nat} (hn : n < 64) :
    exec (.softError (.sreg i n) false) s = .next (s.setTeam i { t with spoilt := skey n :: t.spoilt }) := by
  simp only [exec_softError_stays, State.spoil, if_pos hn, spoilReg_of_team ht]

theorem exec_softError_mreg_stays {n : Nat} (hn : n < 8) :
    exec (.softError (.mreg i n) false) s = .next (s.setTeam i { t with spoilt := mkey n :: t.spoilt }) := by
  simp only [exec_softError_stays, State.spoil, if_pos hn, spoilReg_of_team ht]

theorem exec_softError_qreg_stays {n : Nat} (hn : n < 16) :
    exec (.softError (.qreg i n) false) s = .next (s.setTeam i { t with spoilt := qkey n :: t.spoilt }) := by
  simp only [exec_softError_stays, State.spoil, if_pos hn, spoilReg_of_team ht]

end

end

/-- Settles O54: one lemma for each step of the platform, and for a soft error one for each site and kind. -/
theorem platformResult : Obligations.PlatformResult := by
  intro s die hd
  refine ⟨fun hw k ks hk => ?enable, fun hp hidle => exec_dieIdle_of s hd (dieIdle_of s hidle) hp,
    fun core hon hawake hloop hlong => exec_matrixSleep_of s hon hawake hloop hlong, fun o core hnext => ?wake,
    fun hw ht => exec_clockThrottle_of s hd hw ht, rfl, ⟨_, rfl, rfl, rfl, rfl, rfl, rfl, rfl, powerLost_core s _, rfl, rfl, rfl⟩, coldReset_image s,
    fun g p hb hp => exec_patrolScrub_bad s hb hp, fun g hb => exec_patrolScrub_good s hb, fun g p hp => exec_softError_dram_corrected s hp,
    fun g hb => exec_softError_dram_stays s hb,
    fun i t lane reg ht hl hg => ⟨exec_softError_vreg_corrected ht lane reg, exec_softError_vreg_stays ht hl hg⟩,
    fun i t n ht => ⟨exec_softError_sreg_corrected ht n, exec_softError_sreg_stays ht, exec_softError_mreg_stays ht, exec_softError_qreg_stays ht⟩,
    fun core key => rfl⟩
  case enable =>
    rw [← hk]
    exact ⟨exec_coreEnableBatch_of s hd hw, nextCores_length_le s die, nextCores_pairwise s die, fun n hn => of_mem_nextCores s hn⟩
  case wake =>
    obtain ⟨-, hasleep, hask, hfirst⟩ := nextWake_spec s _ o core hnext
    exact ⟨exec_matrixWake_of s hnext, hasleep, hask, hfirst⟩

end Sys2Proof.Machine
